-- ==== Sys2Proof/Word.lean ====
section
/-! DEFINITION. The word types of the Malith: 32-bit registers (rule R8), 72-bit native words (rule R11), 64-bit
instruction rows (rule R54), bytes. -/

namespace Sys2Proof

/-- A host register or record word (rule R8). -/
abbrev Word := BitVec 32
/-- A native word (rule R11). -/
abbrev Native := BitVec 72
/-- A row of an instruction RAM, of the boot ROM or of retention memory (rules R54, R57). -/
abbrev Row := BitVec 64
/-- A byte of flash, of a link or of host memory. -/
abbrev Byte := BitVec 8

end Sys2Proof
end

