-- ==== Sys2Proof/Syntax.lean ====
section
/-! DEFINITION. The commands the block takes, one constructor per row of spec/opcode_table.json, with the row's
operands: register values, record words, instruction fields, and what the pins, links, sensors and signals present
at an event. Span operands `dt` give the time-base ticks (rule R360) that pass before the event. -/

namespace Sys2Proof

/-- A Casak core: 0 to 7 for CASAK0 to CASAK7, 8 for CASAK-M (rule R441). -/
abbrev CoreId := Fin 9

/-- Operand forms of the two- and three-register integer instructions (rules R448, R449). -/
inductive AluForm where
  | r16 (dd ds : BitVec 4)
  | r3 (sz : BitVec 2) (dd ds dt : BitVec 4)
  deriving DecidableEq, Repr

/-- Operand forms of NEG, NEGS and CLZ (rule R451). -/
inductive UnForm where
  | r16 (dd ds : BitVec 4)
  | r3 (sz : BitVec 2) (dd ds : BitVec 4)
  deriving DecidableEq, Repr

/-- The fields of an R3 instruction (rule R449). -/
structure R3 where
  sz : BitVec 2
  dd : BitVec 4
  ds : BitVec 4
  dt : BitVec 4
  deriving DecidableEq, Repr

/-- Operand forms of MOVI and ADDI (rules R448, R449). -/
inductive ImmForm where
  | i16 (dd : BitVec 4) (imm : BitVec 6)
  | i (dd : BitVec 4) (imm : BitVec 16)
  deriving DecidableEq, Repr

/-- Operand forms of the immediate shifts (rules R448, R449). -/
inductive ShiForm where
  | i16 (dd : BitVec 4) (imm : BitVec 6)
  | sh (sz : BitVec 2) (dd ds : BitVec 4) (count : BitVec 7)
  deriving DecidableEq, Repr

/-- Operand forms of LD and ST (rules R448, R449). -/
inductive MemForm where
  | m16 (an : BitVec 3) (dd : BitVec 4) (mod : BitVec 2)
  | m (an : BitVec 3) (dd : BitVec 4) (disp : BitVec 13)
  deriving DecidableEq, Repr

/-- Operand forms of the branches on one register (rules R448, R449). -/
inductive BzForm where
  | b16 (da : BitVec 4) (off : BitVec 6)
  | bz (da : BitVec 4) (off : BitVec 16)
  deriving DecidableEq, Repr

/-- Operand forms of BRA (rules R448, R449). -/
inductive BraForm where
  | b16 (off : BitVec 6)
  | bz (off : BitVec 16)
  deriving DecidableEq, Repr

/-- Operand forms of the multiply-accumulate instructions (rules R448, R449, R475). -/
inductive MacForm where
  | d16 (acc ax ay : BitVec 2) (xm ym : Bool)
  | dr (acc : BitVec 2) (ds dt : BitVec 4)
  deriving DecidableEq, Repr

/-- The words of a command record but its opcode (rule R127): the flag bits and reserved bits of word 0, the
sequence number, the handle word and the argument words 3 to 15. -/
structure CmdFields where
  ver : BitVec 8
  nowait : Bool
  quiet : Bool
  fence : Bool
  rsv : BitVec 5
  seq : Word
  handle : Word
  args : List Word
  deriving DecidableEq, Repr


/-! What the signals show over a heat, as the operand of HEAT_BOUNDARY (log entry 10). -/

/-- What a lane's frame check sees of LnFS (rules R171, R172): a high sample so many clock cycles after the previous
good edge or candidate, whether LnFS was low before it, and whether it is high again within the frame that begins; or LnFS
low where a frame is expected. -/
inductive FsSample where
  | high (cycles : Nat) (wasLow : Bool) (again : Bool := false)
  | missing
  deriving DecidableEq, Repr

/-- What a calibration measures on a band (rule R200): image amplitude and phase, DC offsets, and bandwidth. -/
structure CalMeas where
  band : Fin 8
  amp : BitVec 16
  phase : BitVec 16
  dcI : BitVec 8
  dcQ : BitVec 8
  bw : BitVec 8
  deriving DecidableEq, Repr

/-- What an injection window measures on a lane and band (rule R209): the time from an epoch's emission to its
appearance in ps, and C/N0 in 0.1 dB-Hz. -/
structure InjMeas where
  lane : Fin 8
  band : Fin 8
  delay : Int
  cn0 : BitVec 10
  deriving DecidableEq, Repr

/-- What a heat brings a channel from the firmware's own data (log entry 10): SEC_SYNC of an 1,800-chip overlay, FRAME_SYNC and HALF_RES as its
message decoding reaches them (rule R305), a valid ephemeris, a failed innovation test (rule R309), u0 in mm and sv in mm/s
(rule R301), the vector estimator's prediction for heat N+2 as Doppler in 2^−16 Hz and code rate in 2^−24 chip/s (rule R307), the
transmit time in ms of the last dump's epoch (rule R321), and the standard deviations of PR, CP and DOPP in the units of rule R319. -/
structure ChanIn where
  idx : Nat
  secSync : Bool := false
  frameSync : Bool := false
  halfRes : Bool := false
  eph : Bool := false
  exclFail : Bool := false
  u0 : Nat := 0
  sv : Nat := 0
  pred : Option (Int × Int) := none
  tow : Option Int := none
  std : List Nat := []
  deriving DecidableEq, Repr

/-- The cells of a search job's grid that an overrun of the heat dropped (rule R267), as half-open intervals of bin × N + delay cell. -/
structure JobIn where
  idx : Nat
  dropped : List (Nat × Nat) := []
  deriving DecidableEq, Repr

/-- What the navigation engine finds at a solution (rules R330 to R333): whether it has one, satellites used, position in
mm and velocity in mm/s, standard deviations in cm, TB_OFF in 2^−16 ns, TIME_STD in 0.01 ns, DRIFT in 0.01 ppb, the residual
test, whether every Galileo satellite used was authenticated, inter-system biases, the survey's mean in cm with its largest
axis deviation in mm, the difference of TB_OFF from the disciplining logic's prediction in ns, and the vector estimator's
innovation levels (rule R317), and the UTC offset with leap59 and leap61 where the UTC parameters are decoded (rule R419).
-/
structure NavIn where
  found : Bool
  nsv : Nat := 0
  pos : List Int := [0, 0, 0]
  vel : List Int := [0, 0, 0]
  hStd : Nat := 0
  vStd : Nat := 0
  tbOff : Int := 0
  timeStd : Nat := 0
  drift : Int := 0
  raimFail : Bool := false
  auth : Bool := false
  nbias : Nat := 0
  survPos : List Int := [0, 0, 0]
  survStd : Nat := 0
  clkJump : Nat := 0
  innovCode : Nat := 0
  innovRate : Nat := 0
  utc : Option (Int × Bool × Bool) := none
  deriving DecidableEq, Repr

/-- What a critical-path monitor gives in a heat (rules R41 to R48): island 0 to 15 for the billets, 16 the Crucible, more
for the others; mean and minimum margin in steps, and stretched cycles. -/
structure TemperIn where
  island : Nat
  mean : Nat
  min : Nat
  stretched : Nat := 0
  deriving DecidableEq, Repr

/-- What a heat brings from outside the block's logic, as the operand of HEAT_BOUNDARY: channels, cells that overruns
dropped, a navigation solution, the sentences and messages of text subscriptions by slot and SELECT bit (rules R340,
R341), Anneal's NMEA, the units that overran (rule R113: 0 to 15 billets, 16 the Crucible, 17 + k CASAKk), and by job slot the samples
that injection jobs repeated because their rings were empty (rule R205). -/
structure HeatIn where
  chans : List ChanIn := []
  jobs : List JobIn := []
  nav : Option NavIn := none
  text : List (Nat × Nat × List (BitVec 8)) := []
  nmea : List (BitVec 8) := []
  overruns : List Nat := []
  temper : List TemperIn := []
  repeats : List (Fin 8 × Nat) := []
  deriving DecidableEq, Repr

/-- What every PTP message a port receives carries (rules R411 to R414): ticks since the previous event, the port's own
receive delay in 2^−16 ns (rule R407), the transport it came over, the sender's network address, its port identity, the domain, version, whether it is
well formed, its VLAN tag, sequence number and correctionField in 2^−16 ns, and the frame's bytes. -/
structure PtpHdr where
  dt : Nat
  carrier : Nat := 0
  own : Int := 0
  who : Nat := 0
  src : Nat := 0
  domain : Nat := 0
  ver : Nat := 2
  minor : Nat := 1
  good : Bool := true
  vlan : Option Nat := none
  seq : Nat := 0
  corr : Int := 0
  frame : List (BitVec 8) := []
  deriving DecidableEq, Repr

/-- The fields of an Announce (rule R419), and whether it carries an ALTERNATE_TIME_OFFSET_INDICATOR TLV (rule R416). -/
structure AnnIn where
  gm : Nat
  prio1 : Nat := 128
  cls : Nat := 248
  acc : Nat := 0xFE
  var : Nat := 0xFFFF
  prio2 : Nat := 128
  steps : Nat := 0
  utc : Int := 0
  flags : Nat := 0
  tsrc : Nat := 0xA0
  atoi : Bool := false
  deriving DecidableEq, Repr

/-- A write to the MSI-X table or capability (rules R89, R497): a vector's mask bit, or the function's enable and mask. -/
inductive MsixWrite where
  | vector (v : Fin 32) (mask : Bool)
  | function (enable mask : Bool)
  deriving DecidableEq, Repr

/-- A word of an SPI write frame: its 4 data bytes and the CRC byte that follows (rule R505). -/
structure SpiWord where
  data : BitVec 32
  crc : BitVec 8
  deriving DecidableEq, Repr

/-- A tag of an I/NAV page as verified (rule R342): the satellite it covers, its ADKD, its length in bits, and whether it
verifies under the key. -/
structure TagIn where
  prn : Nat
  adkd : Nat
  bits : Nat
  ok : Bool
  deriving DecidableEq, Repr

/-- What an I/NAV page completes (rules R342 to R345): new navigation data of the satellite; a public key and whether its
Merkle path verifies; a root key, whether its signature verifies and whether it names an unsupported function; a TESLA key
and whether its chain verifies; tags; the number of requests to the crypto engine, whether they were answered, and the
longest answer time in ms. -/
structure InavIn where
  newData : Bool := false
  pkr : Option Bool := none
  root : Option (Bool × Bool) := none
  key : Option Bool := none
  tags : List TagIn := []
  reqs : Nat := 0
  answered : Bool := true
  ms : Nat := 0
  deriving DecidableEq, Repr
/-- The commands of spec/opcode_table.json, in its order. -/
inductive Instr where
  | powerOnReset (core sram ioA : Nat)
  | resetN (lowNs : Nat)
  | perstN
  | handover
  | annealChannels (view : List (Nat × Nat))
  | annealRetry (idx : Fin 8192) (dt : Nat)
  | watchdogReset
  | assayIslandResetEnd
  | clockMonitorWindow (devs : List (Fin 26 × Int))
  | stretch (island : Fin 17)
  | stretchEnd (island : Fin 17)
  | temperWindowEnd (others : List (Nat × Nat))
  | avsAck (vout : Fin 1024) (iout : Fin 256)
  | avsTimeout (dt : Nat)
  | scrubPass (mem : Fin 55) (a : Nat) (flips : BitVec 80)
  | registerWrite (address : BitVec 20) (v : Word) (be : BitVec 4)
  | srst (page : BitVec 8) (v : Word)
  | lock (page : BitVec 8) (v : Word)
  | selected (page : BitVec 8) (major : BitVec 8)
  | arm (page : BitVec 8) (v : Word)
  | discard (page : BitVec 8) (v : Word)
  | groupCommit
  | pgIrqPnd (page : BitVec 8) (v : Word)
  | pgErrCode (page : BitVec 8)
  | clr (address : BitVec 20)
  | irqEoi (vector : Fin 32)
  | heatBoundary (h : HeatIn)
  | heatLo
  | sqTail (stores : List (BitVec 64 × Word)) (v : Word)
  | cqHead (v : Word)
  | run (ring : Fin 7) (v : Word)
  | versionSelect (f : CmdFields)
  | ledgerQuery (f : CmdFields)
  | handleQuery (f : CmdFields)
  | chCreate (f : CmdFields)
  | chModify (f : CmdFields)
  | chDestroy (f : CmdFields)
  | srchSubmit (f : CmdFields)
  | srchCancel (f : CmdFields)
  | injStart (f : CmdFields)
  | injStop (f : CmdFields)
  | toutSchedule (f : CmdFields)
  | toutCancel (f : CmdFields)
  | tinArm (f : CmdFields)
  | tinDisarm (f : CmdFields)
  | subscribe (f : CmdFields)
  | unsubscribe (f : CmdFields)
  | combCreate (f : CmdFields)
  | combDestroy (f : CmdFields)
  | timeStep (f : CmdFields)
  | timeSlew (f : CmdFields)
  | timeReepoch (f : CmdFields)
  | placement
  | agingStep (idx : Fin 8192)
  | frame (lane : Fin 8) (dt sub : Nat) (fs : FsSample) (header : BitVec 8) (codes : List (BitVec 8 × BitVec 8))
      (drops : List (Fin 18))
  | glitch (lane : Fin 8) (dt : Nat)
  | clockStop (lane : Fin 8) (dt : Nat)
  | clockEdge (lane : Fin 8) (dt : Nat)
  | acquireDone (lane : Fin 8) (dt : Nat)
  | fillEnd (lane : Fin 8) (dt : Nat)
  | stampSecLo (lane : Fin 8)
  | gapLo (lane : Fin 8)
  | transaction (link : Fin 8) (dt : Nat) (resp : List (BitVec 8))
  | retry (link : Fin 8) (dt : Nat)
  | keepalive (link : Fin 8)
  | discoverRetry (link : Fin 8) (dt : Nat)
  | scriptWait (link : Fin 8) (dt : Nat)
  | status (link : Fin 8) (dt : Nat)
  | lockFail (link : Fin 8) (dt : Nat)
  | calCtl (link : Fin 8) (v : Word)
  | calibrationStep (link : Fin 8) (osc : BitVec 16) (bands : List CalMeas)
  | rawCtl (link : Fin 8) (v : Word)
  | pendingLock (slot : Fin 8) (dt : Nat)
  | lockTimeout (slot : Fin 8) (dt : Nat)
  | leadIn (dt : Nat)
  | tail (dt : Nat)
  | result (slot : Fin 8) (meas : List InjMeas)
  | feGainLoop (stream : Fin 32)
  | notchRelease (stream : Fin 32) (k : Fin 4)
  | captureStart (idx : Fin 8192)
  | captured (idx : Fin 8192) (dt : Nat)
  | rrHead (v : Word)
  | snapHwm
  | cellsLo
  | pullinTimeout (idx : Fin 8192)
  | toCoast (idx : Fin 8192)
  | coastLimit (idx : Fin 8192)
  | bitSyncTimeout (idx : Fin 8192)
  | fallback (idx : Fin 8192)
  | threatClear (bit : Fin 9)
  | rtcmFrame (src : Fin 4)
  | ciTail (stores : List (BitVec 64 × Word)) (v : Word)
  | subsHead (slot : Fin 64) (v : Word)
  | inavPage (prn : Nat) (x : InavIn)
  | cryptoStall (dt : Nat)
  | aoaEvaluation (los : List (Nat × Int × Int × Int))
  | pllLock (dt : Nat)
  | pllUnlock (dt : Nat)
  | refFaultEnd (dt : Nat)
  | healthChange (dt : Nat)
  | slewDone
  | discUpdate (dt : Nat)
  | tauEvaluation
  | holdover
  | toutEdge (idx : Nat)
  | pulseEnd (pin : Fin 8)
  | pps
  | trigger (idx : Nat)
  | tinEdge (input : Fin 4) (rising : Bool) (dt sub : Nat)
  | pop (v : Word)
  | nowSecLo
  | stepLo
  | schNextSec
  | linkUp (port : Fin 4) (dt : Nat) (an : Bool) (speed : Fin 3)
  | linkDown (port : Fin 4) (dt : Nat)
  | sgmiiLinkWord (port : Fin 4) (dt : Nat) (speed : Fin 3)
  | sync (port : Fin 4) (h : PtpHdr) (twoStep : Bool) (origin : Nat)
  | followUp (port : Fin 4) (h : PtpHdr) (origin : Nat)
  | delayReq (port : Fin 4) (h : PtpHdr)
  | delayResp (port : Fin 4) (h : PtpHdr) (mine : Bool) (recv : Int)
  | pdelayReq (port : Fin 4) (h : PtpHdr) (turn : Nat) (ownTx : Int)
  | pdelayResp (port : Fin 4) (h : PtpHdr) (mine twoStep : Bool) (recv : Int)
  | pdelayRespFollowUp (port : Fin 4) (h : PtpHdr) (mine : Bool) (origin : Int)
  | announce (port : Fin 4) (h : PtpHdr) (a : AnnIn)
  | requestUnicastTransmission (port : Fin 4) (h : PtpHdr) (typ : Nat) (log2 : Int) (dur : Nat)
  | grantUnicastTransmission (port : Fin 4) (h : PtpHdr) (typ : Nat) (log2 : Int) (dur : Nat)
  | cancelUnicastTransmission (port : Fin 4) (h : PtpHdr) (typ : Nat) (byMaster : Bool)
  | acknowledgeCancelUnicastTransmission (port : Fin 4) (h : PtpHdr) (typ : Nat) (byMaster : Bool)
  | esmcPdu (port : Fin 4) (dt : Nat) (ql : Fin 16)
  | arp (port : Fin 4) (dt : Nat) (own : Int) (target fromMac fromIp : Nat) (frame : List Byte)
  | neighbourSolicitation (port : Fin 4) (dt : Nat) (own : Int) (target fromMac fromIp : Nat) (frame : List Byte)
  | hqRx (port : Fin 4) (dt : Nat) (own : Int) (fcs : Bool) (frame : List Byte)
  | syncInterval (port : Fin 4) (dt who : Nat) (own : Int)
  | announceInterval (port : Fin 4) (dt who : Nat)
  | delayReqInterval (port : Fin 4) (dt : Nat) (own : Int)
  | announceTimeout (port : Fin 4) (dt : Nat)
  | grantRenewal (port : Fin 4) (dt who typ : Nat)
  | renewalRetry (port : Fin 4) (dt who typ : Nat)
  | grantLapse (port : Fin 4) (dt who typ : Nat) (asMaster : Bool)
  | esmcInformation (port : Fin 4) (dt : Nat)
  | esmcTimeout (port : Fin 4) (dt : Nat)
  | txqTail (port : Fin 4) (stores : List (BitVec 64 × Word)) (v : Word)
  | rxqHead (port : Fin 4) (v : Word)
  | hqTxDone (port : Fin 4) (dt : Nat) (own : Int)
  | interrupt (k : CoreId)
  | budget (k : CoreId)
  | doorbell (k : CoreId) (v : Word)
  | loadHi (k : CoreId) (v : Word)
  | segSel (k : CoreId) (v : Word)
  | segW2 (k : CoreId) (v : Word)
  | cycHwm (k : CoreId) (v : Word)
  | mov (k : CoreId) (dd ds : BitVec 4)
  | add (k : CoreId) (f : AluForm)
  | sub (k : CoreId) (f : AluForm)
  | and (k : CoreId) (f : AluForm)
  | or (k : CoreId) (f : AluForm)
  | xor (k : CoreId) (f : AluForm)
  | not (k : CoreId) (dd ds : BitVec 4)
  | neg (k : CoreId) (f : UnForm)
  | negs (k : CoreId) (f : UnForm)
  | shl (k : CoreId) (f : AluForm)
  | shr (k : CoreId) (f : AluForm)
  | sar (k : CoreId) (f : AluForm)
  | rol (k : CoreId) (f : AluForm)
  | clz (k : CoreId) (f : UnForm)
  | swaph (k : CoreId) (dd ds : BitVec 4)
  | mova (k : CoreId) (an : BitVec 3) (ds : BitVec 4)
  | movda (k : CoreId) (dd : BitVec 4) (an : BitVec 3)
  | movlc (k : CoreId) (ds : BitVec 4)
  | movdlc (k : CoreId) (dd : BitVec 4)
  | movi (k : CoreId) (f : ImmForm)
  | addi (k : CoreId) (f : ImmForm)
  | andi (k : CoreId) (dd : BitVec 4) (imm : BitVec 16)
  | ori (k : CoreId) (dd : BitVec 4) (imm : BitVec 16)
  | xori (k : CoreId) (dd : BitVec 4) (imm : BitVec 16)
  | shli (k : CoreId) (f : ShiForm)
  | shri (k : CoreId) (f : ShiForm)
  | sari (k : CoreId) (f : ShiForm)
  | roli (k : CoreId) (sz : BitVec 2) (dd ds : BitVec 4) (count : BitVec 7)
  | ld (k : CoreId) (f : MemForm)
  | st (k : CoreId) (f : MemForm)
  | beqz (k : CoreId) (f : BzForm)
  | bnez (k : CoreId) (f : BzForm)
  | bltz (k : CoreId) (f : BzForm)
  | bgez (k : CoreId) (f : BzForm)
  | bgtz (k : CoreId) (f : BzForm)
  | blez (k : CoreId) (f : BzForm)
  | bra (k : CoreId) (f : BraForm)
  | beq (k : CoreId) (da db : BitVec 4) (off : BitVec 12)
  | bne (k : CoreId) (da db : BitVec 4) (off : BitVec 12)
  | blt (k : CoreId) (da db : BitVec 4) (off : BitVec 12)
  | bge (k : CoreId) (da db : BitVec 4) (off : BitVec 12)
  | bltu (k : CoreId) (da db : BitVec 4) (off : BitVec 12)
  | bgeu (k : CoreId) (da db : BitVec 4) (off : BitVec 12)
  | dbnz (k : CoreId) (off : BitVec 16)
  | bbs (k : CoreId) (bit : BitVec 12) (off : BitVec 11)
  | bbc (k : CoreId) (bit : BitVec 12) (off : BitVec 11)
  | bset (k : CoreId) (bit : BitVec 12)
  | bclr (k : CoreId) (bit : BitVec 12)
  | nop (k : CoreId)
  | halt (k : CoreId)
  | wait (k : CoreId)
  | ret (k : CoreId)
  | reti (k : CoreId)
  | trap (k : CoreId) (n : BitVec 8)
  | push (k : CoreId) (dn : BitVec 4)
  | pusha (k : CoreId) (an : BitVec 3)
  | popa (k : CoreId) (an : BitVec 3)
  | jmp (k : CoreId) (tgt : BitVec 15)
  | call (k : CoreId) (tgt : BitVec 15)
  | jmpr (k : CoreId) (ds : BitVec 4)
  | callr (k : CoreId) (ds : BitVec 4)
  | adds (k : CoreId) (f : R3)
  | subs (k : CoreId) (f : R3)
  | andn (k : CoreId) (f : R3)
  | mul (k : CoreId) (f : R3)
  | mulu (k : CoreId) (f : R3)
  | div (k : CoreId) (f : R3)
  | divs (k : CoreId) (f : R3)
  | divu (k : CoreId) (f : R3)
  | maxi (k : CoreId) (f : R3)
  | mini (k : CoreId) (f : R3)
  | addc (k : CoreId) (dd ds : BitVec 4) (bit : BitVec 12)
  | subc (k : CoreId) (dd ds : BitVec 4) (bit : BitVec 12)
  | bfext (k : CoreId) (dd ds : BitVec 4) (pos len : BitVec 7)
  | bfexts (k : CoreId) (dd ds : BitVec 4) (pos len : BitVec 7)
  | bfins (k : CoreId) (dd ds : BitVec 4) (pos len : BitVec 7)
  | bperm (k : CoreId) (dd ds dsel : BitVec 4)
  | movb (k : CoreId) (d : BitVec 4) (bit : BitVec 12) (n : BitVec 7)
  | movbd (k : CoreId) (d : BitVec 4) (bit : BitVec 12) (n : BitVec 7)
  | lea (k : CoreId) (an : BitVec 3) (imm : BitVec 16)
  | seta (k : CoreId) (an seg : BitVec 3) (imm : BitVec 16)
  | addar (k : CoreId) (an : BitVec 3) (ds : BitVec 4)
  | segld (k : CoreId) (seg an : BitVec 3)
  | segst (k : CoreId) (seg an : BitVec 3)
  | movsd (k : CoreId) (dd : BitVec 4) (seg : BitVec 3)
  | movds (k : CoreId) (seg : BitVec 3) (ds : BitVec 4)
  | rep (k : CoreId) (src : Bool) (cnt : BitVec 12)
  | repn (k : CoreId) (src : Bool) (cnt : BitVec 12)
  | mac (k : CoreId) (f : MacForm)
  | msu (k : CoreId) (f : MacForm)
  | mpy (k : CoreId) (f : MacForm)
  | cmac (k : CoreId) (f : MacForm)
  | cmacj (k : CoreId) (f : MacForm)
  | cmpy (k : CoreId) (f : MacForm)
  | clra (k : CoreId) (acc : BitVec 2)
  | mvad (k : CoreId) (dd : BitVec 4) (acc sel : BitVec 2)
  | mvda (k : CoreId) (acc : BitVec 2) (ds : BitVec 4) (sel : BitVec 2)
  | stsc (k : CoreId) (an : BitVec 3) (mod acc : BitVec 2)
  | setsh (k : CoreId) (acc : BitVec 2) (sh : BitVec 7)
  | setam (k : CoreId) (acc : BitVec 2) (cplx wrap : Bool) (psh : BitVec 6)
  | exchangeStageWrite (hi : Bool) (v : Word)
  | exchangeWordWrite (w : BitVec 16) (v : Word)
  | exchangeRead (w : BitVec 16) (dword : Fin 4)
  | busMasterEnable (on : Bool)
  | dmaFault (ring : Fin 16) (slot : Fin 64) (kind : Fin 4) (address : BitVec 64)
  | functionLevelReset
  | d3hot
  | spiRead (xw : Bool) (low : BitVec 6) (address : BitVec 24) (words : Nat)
  | spiWrite (xw : Bool) (low : BitVec 6) (address : BitVec 24) (words : List SpiWord)
  | character (uart : Fin 3) (dt idle : Nat) (ticks : List Bool) (began : Bool)
  | breakOn (uart : Fin 3) (dt : Nat)
  | breakEnd (uart : Fin 3) (dt ticks : Nat)
  | lineDead (uart : Fin 3) (dt low : Nat)
  | rxIdle (uart : Fin 3) (dt : Nat)
  | characterSent (uart : Fin 3) (dt : Nat)
  | cts (uart : Fin 3) (high : Bool)
  | rxdata (uart : Fin 3)
  | txdata (uart : Fin 3) (v : Word)
  | sensorSample (dt : Nat) (temps volts : List Int)
  | supervisionCheck (dt : Nat)
  | logMirror (dt : Nat) (ok : Bool)
  | post (v : Word)
  | data0
  | begin
  | write
  | finish
  | abort
  | revokeKey0
  | updDone (dt : Nat) (ok : Bool)
  | healthy (dt : Nat)
  | trialTimeout (dt : Nat)
  | loopEnable
  | rtcSync
  | retain (row : Fin 96) (data : Row)
  | log (sev : Fin 8) (code : Byte) (arg16 : BitVec 16) (arg32 : Word)
  | cryptoRequest
  | cryptoAnswer
  | reepochArm
  | armedExpiry (dt : Nat)
  | retHi (v : Word)
  | rtcSecLo
  | vbatLost
  | backupSwitchover (toBat vbat : Bool)
  | hello (dt : Nat) (seq : Byte) (crc : Word)
  | recoveryBegin (dt : Nat) (seq : Byte) (crc : Word) (len : Word)
  | data (dt : Nat) (seq : Byte) (crc : Word) (offset : Word) (bytes : List Byte)
  | recoveryFinish (dt : Nat) (seq : Byte) (crc : Word)
  | recoveryAbort (dt : Nat) (seq : Byte) (crc : Word)
  | baud (dt : Nat) (seq : Byte) (crc : Word) (rate : Word)
  | baudApply (dt : Nat)
  | baudTimeout (dt : Nat)
  | resetFrame (dt : Nat) (seq : Byte) (crc : Word)
  | reset (key : Byte)
  | quench (key : Byte)
  | recover
  | recoveryStart
  | recoveryEnd
  | resetRelease (straps : BitVec 4) (rails : List Nat) (vddiob : Nat) (flash : Option Word)
  | perstNRelease
  | pcieLinkChange (up : Bool) (gen : Fin 3) (lanes : Fin 2)
  | d0Entry
  | msixMask (w : MsixWrite)
  | popDn (k : CoreId) (dn : BitVec 4)
  | illegalInstruction (k : CoreId) (long : Bool)
  | spiShort
  | slotRetry (dt : Nat)
  deriving DecidableEq, Repr

end Sys2Proof
end

