-- ==== Sys2Proof/WellFormed.lean ====
section
/-! DEFINITION. Which commands are well formed: the widths and ranges of operands that their types do not hold. -/

namespace Sys2Proof

/-- A record has the 13 argument words of rule R127. -/
def CmdFields.wf (f : CmdFields) : Bool := decide (f.args.length = 13)

/-- A high sample of LnFS lies at least one clock cycle after the previous edge. -/
def FsSample.wf : FsSample → Bool
  | .high cycles _ _ => decide (1 ≤ cycles)
  | .missing => true

/-- Port identities have 80 bits, sequence numbers 16, domains 8 (rules R411 to R414). -/
def PtpHdr.wf (h : PtpHdr) : Bool :=
  decide (h.src < 2 ^ 80) && decide (h.seq < 2 ^ 16) && decide (h.domain < 2 ^ 8) && decide (h.ver < 16) && decide (h.minor < 16)

/-- The widths of an Announce's fields (rule R419). -/
def AnnIn.wf (a : AnnIn) : Bool :=
  decide (a.gm < 2 ^ 64) && decide (a.prio1 < 256) && decide (a.cls < 256) && decide (a.acc < 256) && decide (a.var < 65536)
    && decide (a.prio2 < 256) && decide (a.steps < 65536) && decide (a.flags < 65536) && decide (a.tsrc < 256)

/-- Handle indices, units and islands that exist, and figures that fit their fields. -/
def HeatIn.wf (h : HeatIn) : Bool :=
  (h.chans.all fun c => decide (c.idx < 8192)) && (h.jobs.all fun j => decide (j.idx < 8192))
    && (h.overruns.all fun u => decide (u < 23)) && (h.temper.all fun t => decide (t.island < 64))

/-- WELL-FORMED COMMANDS. -/
def Instr.wf (i : Instr) : Bool :=
  match i with
  | .versionSelect f => f.wf
  | .ledgerQuery f => f.wf
  | .handleQuery f => f.wf
  | .chCreate f => f.wf
  | .chModify f => f.wf
  | .chDestroy f => f.wf
  | .srchSubmit f => f.wf
  | .srchCancel f => f.wf
  | .injStart f => f.wf
  | .injStop f => f.wf
  | .toutSchedule f => f.wf
  | .toutCancel f => f.wf
  | .tinArm f => f.wf
  | .tinDisarm f => f.wf
  | .subscribe f => f.wf
  | .unsubscribe f => f.wf
  | .combCreate f => f.wf
  | .combDestroy f => f.wf
  | .timeStep f => f.wf
  | .timeSlew f => f.wf
  | .timeReepoch f => f.wf
  | .heatBoundary h => h.wf
  | .frame _ _ x fs _ _ _ => decide (x < 80) && fs.wf
  | .inavPage prn x => decide (1 ≤ prn ∧ prn ≤ 36) && x.tags.all fun t => decide (t.adkd = 0 ∨ t.adkd = 4 ∨ t.adkd = 12)
  | .toutEdge idx => decide (idx < 8192)
  | .trigger idx => decide (idx < 8192)
  | .tinEdge _ _ _ x => decide (x < 80)
  | .sync _ h _ _ => h.wf
  | .followUp _ h _ => h.wf
  | .delayReq _ h => h.wf
  | .delayResp _ h _ _ => h.wf
  | .pdelayReq _ h _ _ => h.wf
  | .pdelayResp _ h _ _ _ => h.wf
  | .pdelayRespFollowUp _ h _ _ => h.wf
  | .announce _ h a => h.wf && a.wf
  | .requestUnicastTransmission _ h _ _ _ => h.wf
  | .grantUnicastTransmission _ h _ _ _ => h.wf
  | .cancelUnicastTransmission _ h _ _ => h.wf
  | .acknowledgeCancelUnicastTransmission _ h _ _ => h.wf
  | .spiRead _ _ _ words => decide (1 ≤ words)
  | .sensorSample _ temps volts => decide (temps.length = 8 ∧ volts.length = 24)
  | .data _ _ _ _ bytes => decide (bytes.length ≤ 4096)
  | .powerOnReset _ _ _ | .resetN _ | .perstN | .handover | .annealChannels _ | .annealRetry _ _ | .watchdogReset
  | .assayIslandResetEnd | .clockMonitorWindow _ | .stretch _ | .stretchEnd _ | .temperWindowEnd _ | .avsAck _ _
  | .avsTimeout _ | .scrubPass _ _ _ | .registerWrite _ _ _ | .srst _ _ | .lock _ _ | .selected _ _ | .arm _ _ | .discard _ _
  | .groupCommit | .pgIrqPnd _ _ | .pgErrCode _ | .clr _ | .irqEoi _ | .heatLo | .sqTail _ _ | .cqHead _ | .run _ _
  | .placement | .agingStep _ | .glitch _ _ | .clockStop _ _ | .clockEdge _ _ | .acquireDone _ _ | .fillEnd _ _
  | .stampSecLo _ | .gapLo _ | .transaction _ _ _ | .retry _ _ | .keepalive _ | .discoverRetry _ _ | .scriptWait _ _
  | .status _ _ | .lockFail _ _ | .calCtl _ _ | .calibrationStep _ _ _ | .rawCtl _ _ | .pendingLock _ _ | .lockTimeout _ _
  | .leadIn _ | .tail _ | .result _ _ | .feGainLoop _ | .notchRelease _ _ | .captureStart _ | .captured _ _ | .rrHead _
  | .snapHwm | .cellsLo | .pullinTimeout _ | .toCoast _ | .coastLimit _ | .bitSyncTimeout _ | .fallback _ | .threatClear _
  | .rtcmFrame _ | .ciTail _ _ | .subsHead _ _ | .cryptoStall _ | .aoaEvaluation _ | .pllLock _ | .pllUnlock _
  | .refFaultEnd _ | .healthChange _ | .slewDone | .discUpdate _ | .tauEvaluation | .holdover | .pulseEnd _ | .pps | .pop _
  | .nowSecLo | .stepLo | .schNextSec | .linkUp _ _ _ _ | .linkDown _ _ | .sgmiiLinkWord _ _ _ | .esmcPdu _ _ _
  | .arp _ _ _ _ _ _ _ | .neighbourSolicitation _ _ _ _ _ _ _ | .hqRx _ _ _ _ _ | .syncInterval _ _ _ _
  | .announceInterval _ _ _ | .delayReqInterval _ _ _ | .announceTimeout _ _ | .grantRenewal _ _ _ _ | .renewalRetry _ _ _ _
  | .grantLapse _ _ _ _ _ | .esmcInformation _ _ | .esmcTimeout _ _ | .txqTail _ _ _ | .rxqHead _ _ | .hqTxDone _ _ _
  | .interrupt _ | .budget _ | .doorbell _ _ | .loadHi _ _ | .segSel _ _ | .segW2 _ _ | .cycHwm _ _ | .mov _ _ _ | .add _ _
  | .sub _ _ | .and _ _ | .or _ _ | .xor _ _ | .not _ _ _ | .neg _ _ | .negs _ _ | .shl _ _ | .shr _ _ | .sar _ _ | .rol _ _
  | .clz _ _ | .swaph _ _ _ | .mova _ _ _ | .movda _ _ _ | .movlc _ _ | .movdlc _ _ | .movi _ _ | .addi _ _ | .andi _ _ _
  | .ori _ _ _ | .xori _ _ _ | .shli _ _ | .shri _ _ | .sari _ _ | .roli _ _ _ _ _ | .ld _ _ | .st _ _ | .beqz _ _
  | .bnez _ _ | .bltz _ _ | .bgez _ _ | .bgtz _ _ | .blez _ _ | .bra _ _ | .beq _ _ _ _ | .bne _ _ _ _ | .blt _ _ _ _
  | .bge _ _ _ _ | .bltu _ _ _ _ | .bgeu _ _ _ _ | .dbnz _ _ | .bbs _ _ _ | .bbc _ _ _ | .bset _ _ | .bclr _ _ | .nop _
  | .halt _ | .wait _ | .ret _ | .reti _ | .trap _ _ | .push _ _ | .pusha _ _ | .popa _ _ | .jmp _ _ | .call _ _ | .jmpr _ _
  | .callr _ _ | .adds _ _ | .subs _ _ | .andn _ _ | .mul _ _ | .mulu _ _ | .div _ _ | .divs _ _ | .divu _ _ | .maxi _ _
  | .mini _ _ | .addc _ _ _ _ | .subc _ _ _ _ | .bfext _ _ _ _ _ | .bfexts _ _ _ _ _ | .bfins _ _ _ _ _ | .bperm _ _ _ _
  | .movb _ _ _ _ | .movbd _ _ _ _ | .lea _ _ _ | .seta _ _ _ _ | .addar _ _ _ | .segld _ _ _ | .segst _ _ _ | .movsd _ _ _
  | .movds _ _ _ | .rep _ _ _ | .repn _ _ _ | .mac _ _ | .msu _ _ | .mpy _ _ | .cmac _ _ | .cmacj _ _ | .cmpy _ _ | .clra _ _
  | .mvad _ _ _ _ | .mvda _ _ _ _ | .stsc _ _ _ _ | .setsh _ _ _ | .setam _ _ _ _ _ | .exchangeStageWrite _ _
  | .exchangeWordWrite _ _ | .exchangeRead _ _ | .busMasterEnable _ | .dmaFault _ _ _ _ | .functionLevelReset | .d3hot
  | .spiWrite _ _ _ _ | .character _ _ _ _ _ | .breakOn _ _ | .breakEnd _ _ _ | .lineDead _ _ _ | .rxIdle _ _
  | .characterSent _ _ | .cts _ _ | .rxdata _ | .txdata _ _ | .supervisionCheck _ | .logMirror _ _ | .post _ | .data0
  | .begin | .write | .finish | .abort | .revokeKey0 | .updDone _ _ | .healthy _ | .trialTimeout _ | .loopEnable | .rtcSync
  | .retain _ _ | .log _ _ _ _ | .cryptoRequest | .cryptoAnswer | .reepochArm | .armedExpiry _ | .retHi _ | .rtcSecLo
  | .vbatLost | .backupSwitchover _ _ | .hello _ _ _ | .recoveryBegin _ _ _ _ | .recoveryFinish _ _ _ | .recoveryAbort _ _ _
  | .baud _ _ _ _ | .baudApply _ | .baudTimeout _ | .resetFrame _ _ _ | .reset _ | .quench _ | .recover | .recoveryStart
  | .recoveryEnd | .resetRelease _ _ _ _ | .perstNRelease | .pcieLinkChange _ _ _ | .d0Entry | .msixMask _ | .popDn _ _
  | .illegalInstruction _ _ | .spiShort | .slotRetry _ => true

end Sys2Proof
end

