-- ==== Sys2Proof/Decode.lean ====
section
/-! DEFINITION. The command that a word spells by the bits of spec/opcode_table.json. The block decodes no command words:
no row of the table gives a field, so no word spells a command. -/

namespace Sys2Proof

/-- The command that the bits `w` of a row spell: none, since every row of the table has an empty list of fields. -/
def decodeTableWord (_nbits _w : Nat) : Option Instr := none

end Sys2Proof
end

