-- ==== Sys2Proof/Config.lean ====
section
/-! DEFINITION. The free values: constants with no body that stand for what the spec does not fix (log entry 4).
Nothing can be proved of a value of theirs, so every statement about the model holds for each. -/

namespace Sys2Proof.Config

/-- A fresh free number for each counter value: timing within a bound, an unstated value, a result of signal
physics (log entries 4 and 10). -/
opaque freeNat : Nat → Nat

/-- Rounding of an exact fraction where the spec names none: 0 rounds down, anything else up (log entry 11). -/
opaque roundUp : Int → Nat → Bool

/-- SHA-384 of some bytes, a standard function the model does not unfold (log entry 14). -/
opaque sha384 : List (BitVec 8) → BitVec 384

/-- SHA-256 of some bytes (log entry 14). -/
opaque sha256 : List (BitVec 8) → BitVec 256

/-- HMAC-SHA-256 of a message under a key (log entry 14). -/
opaque hmac256 : List (BitVec 8) → List (BitVec 8) → BitVec 256

/-- Whether an ECDSA signature of a digest verifies under a key, on the curve of OP 4 to 6 of rule R547 (log entry 14). -/
opaque ecdsaVerify : Nat → List (BitVec 8) → List (BitVec 8) → List (BitVec 8) → Bool

/-- Whether a P-384 signature over SHA-384 of a message verifies under a key (log entry 14). -/
opaque p384Verify : List (BitVec 8) → List (BitVec 8) → List (BitVec 8) → Bool

/-- Cosine and sine of a phase in 2^−32 cycle, as the block's own carrier replicas and transforms hold them: the spec states no
precision and no amplitude (log entry 79). -/
opaque carrier : BitVec 32 → Rat × Rat

/-- A chip of a primary code: signal, PRN, component (0 data, 1 pilot) and chip number; the codes stand in the constellations'
interface documents, not in the spec (log entry 79). -/
opaque chip : Nat → Nat → Nat → Nat → Bool

/-- A chip of a secondary or overlay code, with the same arguments (log entry 79). -/
opaque secChip : Nat → Nat → Nat → Nat → Bool

/-- The four-quadrant arctangent of Q over I, in cycles (log entry 79). -/
opaque atan2 : Rat → Rat → Rat

/-- 10 to a power that is not whole (log entry 79). -/
opaque pow10 : Rat → Rat

/-- 10·log10 of a ratio in the given fractions of a dB (log entry 79). -/
opaque decibel : Nat → Rat → Int

/-- π as the cores hold it (log entry 79). -/
opaque pi : Rat

/-- Chips for each unit of the code discriminator, by signal and pair spacing (rule R292; log entry 80). -/
opaque dllScale : Nat → Rat → Rat

/-- Tap k of 16 of the aligner's fractional-delay filter (rule R232; log entry 80). -/
opaque alignTap : Rat → Nat → Rat

/-- Tap k of 16 of the capture path's low-pass and resampling filter for a rate ratio and a fraction (rule R247; log entry 80). -/
opaque capTap : Rat → Rat → Nat → Rat

/-- The scale from a filtered 8+8 sample to a 4+4 one (rule R247; log entry 80). -/
opaque capScale : Rat

/-- α for K segments and PFA_EXP: what a gamma law of shape K and mean 1 exceeds with probability 10^−PFA_EXP (rule R260;
log entry 79). -/
opaque alpha : Nat → Nat → Rat

/-- The level of the aided search's detection for CN0_LOCK in 0.1 dB-Hz and the noise of a tap (rule R303; log entry 80). -/
opaque aidedLevel : Nat → Rat → Rat

/-- The slope of a series taken once per second, where the spec names no method (log entry 11). -/
opaque slopeOf : List Rat → Rat

end Sys2Proof.Config
end

