-- ==== Sys2Proof/Machine/Tab.lean ====
section
/-! DEFINITION. Sparse data by key in one canonical form: keys strictly rising and no entry equal to what an
unlisted key reads as. Every memory, register store and bank of like units of the model is one of these. -/

namespace Sys2Proof.Machine

/-- Key and value pairs. What an unlisted key reads as is a function the reader supplies. -/
abbrev Tab (α : Type) := List (Nat × α)

/-- The value at a key; an unlisted key reads as `d k`. -/
def Tab.get {α : Type} (d : Nat → α) (t : Tab α) (k : Nat) : α :=
  match t with
  | [] => d k
  | (j, v) :: rest => if j = k then v else Tab.get d rest k

/-- Remove the entry of a key, if there is one. -/
def Tab.del {α : Type} (t : Tab α) (k : Nat) : Tab α := t.filter fun e => e.1 != k

/-- Put an entry before the first higher key. -/
def Tab.put {α : Type} (t : Tab α) (k : Nat) (x : α) : Tab α :=
  match t with
  | [] => [(k, x)]
  | (j, v) :: rest => if k < j then (k, x) :: (j, v) :: rest else (j, v) :: Tab.put rest k x

/-- List a value at a key, in key order. -/
def Tab.ins {α : Type} (t : Tab α) (k : Nat) (x : α) : Tab α := Tab.put (Tab.del t k) k x

/-- Write a value at a key: the entry goes when the value is what an unlisted key reads as. -/
def Tab.set {α : Type} [DecidableEq α] (d : Nat → α) (t : Tab α) (k : Nat) (x : α) : Tab α :=
  if x = d k then Tab.del t k else Tab.ins t k x

/-- Every listed key is above `b`, keys rise, and no entry is what an unlisted key reads as. -/
def Tab.wfFrom {α : Type} [DecidableEq α] (d : Nat → α) (b : Nat) (t : Tab α) : Bool :=
  match t with
  | [] => true
  | (j, v) :: rest => decide (b ≤ j) && decide (v ≠ d j) && Tab.wfFrom d (j + 1) rest

/-- The canonical form. -/
def Tab.wf {α : Type} [DecidableEq α] (d : Nat → α) (t : Tab α) : Bool := Tab.wfFrom d 0 t

end Sys2Proof.Machine
end

