-- ==== Sys2Proof/Machine/RegTab.lean ====
section
/-! DEFINITION. The register window as a table: which page holds which block type (rule R61), and for every
block register its offset, its reset value and its writable fields with their access codes (rule R15) and ranges
(rule R18), transcribed from the register and field tables of spec/. A field not listed here is read only or
reserved. Selector-reached instances of one register stand at their own entries beside the window. -/

namespace Sys2Proof.Machine

/-- Access codes of writable fields (rule R15); `cnt` is a counter in the form of PG_ERR_CNT (rules R85, R86). -/
inductive Acc where
  | rw | rws | w1c | wo | cnt
  deriving DecidableEq, Repr

/-- The values a field accepts (rule R18 and the field tables): all of them, a range of the unsigned or of the
signed value, any value but 0, zero or a range, from another field of the register plus a constant up to a bound,
or below another field of the register. -/
inductive Rng where
  | any
  | nat (lo hi : Nat)
  | int (lo hi : Int)
  | nonzero
  | zeroOr (lo hi : Nat)
  | fromFld (lo wd plus hi : Nat)
  | below (lo wd : Nat)
  deriving DecidableEq, Repr

/-- One writable field: lowest bit, width, access code, range. -/
structure Fld where
  lo : Nat
  wd : Nat
  acc : Acc
  rng : Rng
  deriving DecidableEq, Repr

/-- One block register, or `cnt` alike at a stride: offset, count, stride, reset value, writable fields. -/
structure Reg where
  off : Nat
  cnt : Nat
  stride : Nat
  reset : Nat
  flds : List Fld
  deriving DecidableEq, Repr

/-- The block types of rule R61. -/
inductive PageType where
  | dev | heat | htab | cmd | lane | rlane | fec | cond | comb | cruc0 | cruc1 | cruc2 | bill | trk | vec | meas
  | nav | auth | tb | disc | tout | tin | eth | ptpx | casak | host | uart | assay | sens | log | upd | fault | bkup
  deriving DecidableEq, Repr

/-- The block type of a page index (rule R61); `none` for an unmapped page (rule R62). -/
def pageType (p : Nat) : Option PageType :=
  if p = 0x000 then some .dev else if p = 0x001 then some .heat
  else if p = 0x002 then some .htab else if p = 0x003 then some .cmd
  else if p < 0x010 then none else if p ≤ 0x017 then some .lane
  else if p = 0x018 then some .rlane
  else if p < 0x020 then none else if p ≤ 0x027 then some .fec
  else if p < 0x030 then none else if p ≤ 0x03F then some .cond
  else if p = 0x040 then some .comb else if p = 0x041 then some .cruc0
  else if p = 0x042 then some .cruc1 else if p = 0x043 then some .cruc2
  else if p < 0x050 then none else if p ≤ 0x05F then some .bill
  else if p = 0x060 then some .trk else if p = 0x061 then some .vec
  else if p = 0x070 then some .meas else if p = 0x071 then some .nav
  else if p = 0x072 then some .auth else if p = 0x080 then some .tb
  else if p = 0x081 then some .disc else if p = 0x082 then some .tout
  else if p = 0x083 then some .tin
  else if p < 0x090 then none else if p ≤ 0x093 then some .eth
  else if p = 0x094 then some .ptpx
  else if p < 0x0A0 then none else if p ≤ 0x0A8 then some .casak
  else if p < 0x0B0 then none else if p = 0x0B0 then some .host
  else if p ≤ 0x0B3 then some .uart
  else if p < 0x0C0 then none else if p = 0x0C0 then some .assay
  else if p = 0x0C1 then some .sens else if p = 0x0C2 then some .log
  else if p = 0x0C3 then some .upd else if p = 0x0C4 then some .fault
  else if p = 0x0C5 then some .bkup else none

/-- The block type code of rule R61. -/
def PageType.code : PageType → Nat
  | .dev => 0x0001 | .heat => 0x0002 | .htab => 0x0003 | .cmd => 0x0004
  | .lane => 0x0010 | .rlane => 0x0011 | .fec => 0x0012 | .cond => 0x0013
  | .comb => 0x0014 | .cruc0 | .cruc1 | .cruc2 => 0x0015 | .bill => 0x0016 | .trk => 0x0017
  | .vec => 0x0018 | .meas => 0x0020 | .nav => 0x0021 | .auth => 0x0022 | .tb => 0x0030
  | .disc => 0x0031 | .tout => 0x0032 | .tin => 0x0033 | .eth => 0x0034 | .ptpx => 0x0035
  | .casak => 0x0040 | .host => 0x0041 | .uart => 0x0042 | .assay => 0x0050 | .sens => 0x0051
  | .log => 0x0052 | .upd => 0x0053 | .fault => 0x0054 | .bkup => 0x0055

/-- The instance number of a page within its block type (rule R61). -/
def pageInst (p : Nat) : Nat :=
  match pageType p with
  | some .lane => p - 0x010
  | some .fec => p - 0x020
  | some .cond => p - 0x030
  | some .cruc0 | some .cruc1 | some .cruc2 => p - 0x041
  | some .bill => p - 0x050
  | some .eth => p - 0x090
  | some .casak => p - 0x0A0
  | some .uart => p - 0x0B1
  | _ => 0

/-- The block registers of the DEV page (rule R91 and its field table). -/
def regsDev : List Reg :=
  [⟨0x040, 1, 4, 0x55017240, []⟩,  -- IDENT
   ⟨0x044, 1, 4, 0x11, []⟩,  -- STEP
   ⟨0x048, 1, 4, 0x0, []⟩,  -- UID_LO
   ⟨0x04C, 1, 4, 0x0, []⟩,  -- UID_HI
   ⟨0x050, 1, 4, 0x0, []⟩,  -- STRAPS
   ⟨0x054, 1, 4, 0x1, []⟩,  -- STATE
   ⟨0x058, 1, 4, 0x10301, []⟩,  -- CMDSET
   ⟨0x05C, 1, 4, 0x489108, []⟩,  -- CAP_COUNTS
   ⟨0x060, 1, 4, 0x0, [⟨0, 1, .wo, .any⟩]⟩,  -- GROUP_COMMIT
   ⟨0x064, 1, 4, 0x0, [⟨0, 1, .rw, .any⟩, ⟨1, 1, .rw, .any⟩]⟩,  -- INT_CTL
   ⟨0x068, 1, 4, 0x0, [⟨0, 5, .wo, .any⟩]⟩,  -- IRQ_EOI
   ⟨0x06C, 1, 4, 0x0, [⟨0, 32, .rw, .any⟩]⟩,  -- SCRATCH
   ⟨0x080, 8, 4, 0x0, []⟩,  -- IRQ_SUM0..IRQ_SUM7
   ⟨0x400, 256, 4, 0x0, [⟨0, 5, .rw, .any⟩, ⟨8, 1, .rw, .any⟩, ⟨9, 1, .rw, .any⟩, ⟨10, 1, .rw, .any⟩]⟩]  -- ROUTE0..ROUTE255

/-- The block registers of the HEAT page (rule R142 and its field table). -/
def regsHeat : List Reg :=
  [⟨0x040, 1, 4, 0x0, []⟩,  -- HEAT_LO
   ⟨0x044, 1, 4, 0x0, []⟩,  -- HEAT_HI
   ⟨0x048, 1, 4, 0x0, []⟩,  -- ALIGN
   ⟨0x04C, 1, 4, 0x0, []⟩,  -- ALIGN_HEAT
   ⟨0x050, 1, 4, 0x0, []⟩,  -- ALIGN_LEN
   ⟨0x054, 1, 4, 0x927C0, []⟩,  -- CORR_FREE
   ⟨0x058, 1, 4, 0x7530, []⟩,  -- SRCH_FREE
   ⟨0x05C, 1, 4, 0x401640, []⟩,  -- PFW_FREE
   ⟨0x060, 1, 4, 0x155CC0, []⟩,  -- PUSR_FREE
   ⟨0x064, 1, 4, 0x1000, []⟩,  -- OUT_FREE
   ⟨0x068, 1, 4, 0x0, []⟩,  -- CMD_USED
   ⟨0x06C, 1, 4, 0xFA, [⟨0, 12, .rws, .nat 1 4095⟩]⟩,  -- SRCH_CFG
   ⟨0x070, 1, 4, 0x7D01041, [⟨0, 1, .rws, .any⟩, ⟨4, 4, .rws, .nat 1 15⟩, ⟨8, 8, .rws, .nat 1 255⟩, ⟨16, 16, .rws, .any⟩]⟩,  -- PLACE_CFG
   ⟨0x074, 1, 4, 0x0, []⟩,  -- PLACE_STAT
   ⟨0x078, 1, 4, 0x0, [⟨31, 1, .wo, .any⟩]⟩,  -- OVR_CNT
   ⟨0x07C, 1, 4, 0x0, []⟩]  -- OVR_LAST

/-- The block registers of the HTAB page (rule R144 and its field table). -/
def regsHtab : List Reg :=
  [⟨0x040, 1, 4, 0x20000000, []⟩,  -- USAGE
   ⟨0x044, 7, 4, 0x0, []⟩,  -- CLASS1..CLASS7
   ⟨0x060, 1, 4, 0x300000, []⟩,  -- CLASSF
   ⟨0x064, 1, 4, 0x0, []⟩]  -- SWEEP

/-- The block registers of the CMD page (rule R146 and its field table). -/
def regsCmd : List Reg :=
  [⟨0x040, 1, 4, 0x0, [⟨0, 1, .rw, .any⟩, ⟨1, 1, .rw, .any⟩]⟩,  -- RING_CTL
   ⟨0x044, 1, 4, 0x0, [⟨0, 32, .rw, .any⟩]⟩,  -- SQ_BASE_LO
   ⟨0x048, 1, 4, 0x0, [⟨0, 32, .rw, .any⟩]⟩,  -- SQ_BASE_HI
   ⟨0x04C, 1, 4, 0x4, [⟨0, 4, .rw, .nat 4 12⟩]⟩,  -- SQ_SIZE
   ⟨0x050, 1, 4, 0x0, [⟨0, 12, .rw, .any⟩]⟩,  -- SQ_TAIL
   ⟨0x054, 1, 4, 0x0, []⟩,  -- SQ_HEAD
   ⟨0x058, 1, 4, 0x0, [⟨0, 32, .rw, .any⟩]⟩,  -- CQ_BASE_LO
   ⟨0x05C, 1, 4, 0x0, [⟨0, 32, .rw, .any⟩]⟩,  -- CQ_BASE_HI
   ⟨0x060, 1, 4, 0x4, [⟨0, 4, .rw, .nat 4 12⟩]⟩,  -- CQ_SIZE
   ⟨0x064, 1, 4, 0x0, [⟨0, 12, .rw, .any⟩]⟩,  -- CQ_HEAD
   ⟨0x068, 1, 4, 0x0, []⟩,  -- CQ_TAIL
   ⟨0x06C, 1, 4, 0x0, []⟩,  -- INFLIGHT
   ⟨0x070, 1, 4, 0x0, [⟨0, 8, .rw, .any⟩]⟩,  -- JRN_SEL
   ⟨0x074, 1, 4, 0x0, []⟩,  -- JRN_SEQ
   ⟨0x078, 1, 4, 0x0, []⟩,  -- JRN_INFO
   ⟨0x07C, 1, 4, 0x0, []⟩]  -- JRN_HANDLE

/-- The block registers of the LANE page (rule R182 and its field table). -/
def regsLane : List Reg :=
  [⟨0x040, 1, 4, 0xF0, [⟨0, 1, .rws, .any⟩, ⟨1, 2, .rws, .nat 0 2⟩, ⟨3, 1, .rws, .any⟩, ⟨4, 4, .rws, .any⟩]⟩,  -- FRAME
   ⟨0x044, 1, 4, 0x0, [⟨0, 32, .rws, .zeroOr 10000000 400000000⟩]⟩,  -- NOM_FCLK
   ⟨0x048, 1, 4, 0x0, [⟨0, 16, .rws, .any⟩]⟩,  -- SLOT_MASK
   ⟨0x04C, 4, 4, 0x0, [⟨0, 5, .rws, .any⟩, ⟨8, 5, .rws, .any⟩, ⟨16, 5, .rws, .any⟩, ⟨24, 5, .rws, .any⟩, ⟨5, 3, .rws, .any⟩, ⟨13, 3, .rws, .any⟩, ⟨21, 3, .rws, .any⟩, ⟨29, 3, .rws, .any⟩]⟩,  -- SLOT_MAP0..SLOT_MAP3
   ⟨0x05C, 1, 4, 0x4E20, [⟨0, 18, .rws, .nat 100 200000⟩]⟩,  -- RATE_TOL
   ⟨0x060, 1, 4, 0x0, [⟨0, 6, .rws, .any⟩, ⟨8, 6, .rws, .any⟩, ⟨16, 6, .rws, .any⟩]⟩,  -- DESKEW
   ⟨0x064, 1, 4, 0x0, [⟨0, 3, .rws, .any⟩, ⟨3, 1, .rws, .any⟩]⟩,  -- CC_CFG
   ⟨0x068, 8, 4, 0x0, [⟨0, 32, .rws, .int (-1000000) 100000000⟩]⟩,  -- DELAY0..DELAY7
   ⟨0x088, 1, 4, 0x0, []⟩,  -- STATE
   ⟨0x08C, 1, 4, 0x0, []⟩,  -- RATE_MEAS
   ⟨0x090, 1, 4, 0x0, []⟩,  -- RATE_PPB
   ⟨0x094, 1, 4, 0x0, []⟩,  -- BLOCK
   ⟨0x098, 1, 4, 0x0, []⟩,  -- STAMP_SEC_LO
   ⟨0x09C, 1, 4, 0x0, []⟩,  -- STAMP_SEC_HI
   ⟨0x0A0, 1, 4, 0x0, []⟩,  -- STAMP_NS
   ⟨0x0A4, 1, 4, 0x0, []⟩,  -- STAMP_FRAC
   ⟨0x0A8, 1, 4, 0x0, []⟩,  -- SLOT_APPLIED
   ⟨0x0AC, 1, 4, 0x0, []⟩,  -- SLOT_APPLIED_BLK
   ⟨0x0B0, 1, 4, 0x0, []⟩,  -- GAP_LO
   ⟨0x0B4, 1, 4, 0x0, []⟩,  -- GAP_HI
   ⟨0x0B8, 1, 4, 0x0, [⟨0, 32, .cnt, .any⟩]⟩,  -- GLITCH_CNT
   ⟨0x0BC, 1, 4, 0x0, [⟨0, 32, .cnt, .any⟩]⟩,  -- FRAMING_CNT
   ⟨0x0C0, 1, 4, 0x0, [⟨0, 32, .cnt, .any⟩]⟩,  -- HDR_CNT
   ⟨0x0C4, 1, 4, 0x0, [⟨0, 32, .cnt, .any⟩]⟩,  -- FILL_CNT
   ⟨0x0C8, 1, 4, 0x0, []⟩,  -- CC_SKEW
   ⟨0x0CC, 1, 4, 0x0, []⟩]  -- CC_SKEW0

/-- The block registers of the RLANE page (rule R214 and its field table). -/
def regsRlane : List Reg :=
  [⟨0x040, 1, 4, 0x208, [⟨0, 7, .rws, .nat 4 125⟩, ⟨8, 2, .rws, .nat 1 2⟩, ⟨10, 4, .rws, .any⟩, ⟨16, 3, .rws, .any⟩]⟩,  -- CFG
   ⟨0x044, 1, 4, 0x0, []⟩,  -- STATE
   ⟨0x048, 1, 4, 0x0, [⟨0, 32, .cnt, .any⟩]⟩,  -- UNDERRUN_CNT
   ⟨0x04C, 1, 4, 0x0, [⟨0, 32, .cnt, .any⟩]⟩,  -- CLIP_CNT
   ⟨0x050, 1, 4, 0x0, [⟨0, 3, .rw, .any⟩, ⟨3, 3, .rw, .any⟩, ⟨6, 3, .rw, .any⟩]⟩,  -- RES_SEL
   ⟨0x054, 1, 4, 0x0, []⟩,  -- RES_DELAY
   ⟨0x058, 1, 4, 0x0, []⟩,  -- RES_INFO
   ⟨0x05C, 1, 4, 0x0, []⟩]  -- RES_HEAT

/-- The block registers of the FEC page (rule R212 and its field table). -/
def regsFec : List Reg :=
  [⟨0x040, 1, 4, 0x261A8, [⟨0, 16, .rws, .nat 100 25000⟩, ⟨16, 2, .rws, .nat 1 2⟩]⟩,  -- LINK_CFG
   ⟨0x044, 1, 4, 0x0, [⟨0, 16, .rws, .any⟩]⟩,  -- FEDT_PTR
   ⟨0x048, 1, 4, 0x100, [⟨0, 6, .rws, .any⟩, ⟨8, 1, .rws, .any⟩]⟩,  -- TUNE_SEL
   ⟨0x04C, 1, 4, 0x3201F4, [⟨0, 14, .rws, .nat 1 10000⟩, ⟨16, 10, .rws, .nat 0 1000⟩]⟩,  -- INJ_TIMING
   ⟨0x050, 1, 4, 0xF00, [⟨0, 1, .wo, .any⟩, ⟨8, 8, .rw, .nat 1 100⟩]⟩,  -- CAL_CTL
   ⟨0x054, 1, 4, 0x0, []⟩,  -- STATE
   ⟨0x058, 1, 4, 0x0, []⟩,  -- ID
   ⟨0x05C, 1, 4, 0x0, []⟩,  -- CAPS
   ⟨0x060, 1, 4, 0x0, []⟩,  -- SCK_ACT
   ⟨0x064, 1, 4, 0x0, [⟨31, 1, .wo, .any⟩]⟩,  -- MAX_GAP
   ⟨0x068, 1, 4, 0x0, []⟩,  -- TEMP
   ⟨0x06C, 1, 4, 0x0, [⟨0, 32, .cnt, .any⟩]⟩,  -- RETRY_CNT
   ⟨0x070, 1, 4, 0x0, [⟨0, 16, .rw, .any⟩, ⟨16, 3, .rw, .nat 1 4⟩, ⟨19, 1, .rw, .any⟩, ⟨20, 1, .wo, .any⟩]⟩,  -- RAW_CTL
   ⟨0x074, 1, 4, 0x0, [⟨0, 32, .rw, .any⟩]⟩]  -- RAW_DATA

/-- The block registers of the COND page (rule R241 and its field table). -/
def regsCond : List Reg :=
  [⟨0x040, 1, 4, 0x31F, [⟨0, 1, .rws, .any⟩, ⟨1, 1, .rws, .any⟩, ⟨2, 1, .rws, .any⟩, ⟨3, 1, .rws, .any⟩, ⟨4, 1, .rws, .any⟩, ⟨8, 4, .rws, .nat 0 12⟩]⟩,  -- CTL
   ⟨0x0C0, 1, 4, 0x31F, [⟨0, 1, .rws, .any⟩, ⟨1, 1, .rws, .any⟩, ⟨2, 1, .rws, .any⟩, ⟨3, 1, .rws, .any⟩, ⟨4, 1, .rws, .any⟩, ⟨8, 4, .rws, .nat 0 12⟩]⟩,  -- CTL
   ⟨0x044, 1, 4, 0x4A200CE4, [⟨0, 16, .rws, .nat 1 10000⟩, ⟨16, 8, .rws, .nat 8 64⟩, ⟨24, 4, .rws, .nat 1 15⟩, ⟨28, 4, .rws, .nat 0 10⟩]⟩,  -- AGC_CFG
   ⟨0x0C4, 1, 4, 0x4A200CE4, [⟨0, 16, .rws, .nat 1 10000⟩, ⟨16, 8, .rws, .nat 8 64⟩, ⟨24, 4, .rws, .nat 1 15⟩, ⟨28, 4, .rws, .nat 0 10⟩]⟩,  -- AGC_CFG
   ⟨0x048, 1, 4, 0x640840, [⟨0, 8, .rws, .nat 32 255⟩, ⟨8, 8, .rws, .any⟩, ⟨16, 8, .rws, .nat 1 255⟩]⟩,  -- BLK_CFG
   ⟨0x0C8, 1, 4, 0x640840, [⟨0, 8, .rws, .nat 32 255⟩, ⟨8, 8, .rws, .any⟩, ⟨16, 8, .rws, .nat 1 255⟩]⟩,  -- BLK_CFG
   ⟨0x04C, 1, 4, 0x740C6418, [⟨0, 8, .rws, .nat 12 80⟩, ⟨8, 4, .rws, .nat 1 15⟩, ⟨12, 4, .rws, .nat 0 12⟩, ⟨16, 8, .rws, .below 0 8⟩, ⟨24, 4, .rws, .nat 0 10⟩, ⟨28, 4, .rws, .nat 0 12⟩]⟩,  -- NOTCH_CFG
   ⟨0x0CC, 1, 4, 0x740C6418, [⟨0, 8, .rws, .nat 12 80⟩, ⟨8, 4, .rws, .nat 1 15⟩, ⟨12, 4, .rws, .nat 0 12⟩, ⟨16, 8, .rws, .below 0 8⟩, ⟨24, 4, .rws, .nat 0 10⟩, ⟨28, 4, .rws, .nat 0 12⟩]⟩,  -- NOTCH_CFG
   ⟨0x050, 1, 4, 0x0, []⟩,  -- DC
   ⟨0x0D0, 1, 4, 0x0, []⟩,  -- DC
   ⟨0x054, 1, 4, 0x4000000, []⟩,  -- AGC_STAT
   ⟨0x0D4, 1, 4, 0x4000000, []⟩,  -- AGC_STAT
   ⟨0x058, 1, 4, 0x0, []⟩,  -- LEVEL
   ⟨0x0D8, 1, 4, 0x0, []⟩,  -- LEVEL
   ⟨0x05C, 1, 4, 0x0, []⟩,  -- BLK_STAT
   ⟨0x0DC, 1, 4, 0x0, []⟩,  -- BLK_STAT
   ⟨0x060, 4, 4, 0x0, []⟩,  -- NOTCH0..NOTCH3
   ⟨0x0E0, 4, 4, 0x0, []⟩,  -- NOTCH0..NOTCH3
   ⟨0x070, 1, 4, 0x0, [⟨0, 4, .rw, .any⟩, ⟨4, 1, .rw, .any⟩]⟩,  -- HIST_SEL
   ⟨0x0F0, 1, 4, 0x0, [⟨0, 4, .rw, .any⟩, ⟨4, 1, .rw, .any⟩]⟩,  -- HIST_SEL
   ⟨0x074, 1, 4, 0x0, []⟩,  -- HIST_DATA
   ⟨0x0F4, 1, 4, 0x0, []⟩,  -- HIST_DATA
   ⟨0x078, 1, 4, 0x0, []⟩,  -- SPEC
   ⟨0x0F8, 1, 4, 0x0, []⟩,  -- SPEC
   ⟨0x07C, 1, 4, 0x0, []⟩,  -- CSTAT
   ⟨0x0FC, 1, 4, 0x0, []⟩,  -- CSTAT
   ⟨0x080, 1, 4, 0x0, [⟨0, 32, .cnt, .any⟩]⟩,  -- BLK_CNT
   ⟨0x100, 1, 4, 0x0, [⟨0, 32, .cnt, .any⟩]⟩]  -- BLK_CNT

/-- The block registers of the COMB page (rule R243 and its field table). -/
def regsComb : List Reg :=
  [⟨0x040, 8, 64, 0x2002, [⟨0, 1, .rws, .any⟩, ⟨1, 1, .rws, .any⟩, ⟨8, 8, .rws, .nat 8 64⟩, ⟨16, 8, .rws, .any⟩]⟩,  -- GRP_CTL
   ⟨0x044, 8, 64, 0x0, []⟩,  -- GRP_STAT
   ⟨0x048, 8, 64, 0x0, []⟩,  -- GRP_HANDLE
   ⟨0x04C, 8, 64, 0x0, []⟩,  -- GD_REF
   ⟨0x050, 8, 64, 0x0, [⟨0, 3, .rw, .any⟩]⟩,  -- ELEM_SEL
   ⟨0x054, 8, 64, 0x0, []⟩,  -- W_DATA
   ⟨0x058, 8, 64, 0x0, []⟩,  -- ELEM_DELAY
   ⟨0x05C, 8, 64, 0x0, []⟩,  -- ELEM_INFO
   ⟨0x060, 8, 64, 0x0, [⟨0, 32, .cnt, .any⟩]⟩,  -- SPLIT_CNT
   ⟨0x064, 8, 64, 0x0, []⟩,  -- SPLIT_HEAT
   ⟨0x240, 1, 4, 0x0, []⟩]  -- LOAD

/-- The block registers of the CRUC0 page (rule R269 and its field table). -/
def regsCruc0 : List Reg :=
  [⟨0x040, 1, 4, 0x3C63, [⟨0, 4, .rws, .any⟩, ⟨4, 4, .rws, .nat 0 12⟩, ⟨8, 8, .rws, .nat 10 255⟩]⟩,  -- CFG
   ⟨0x044, 1, 4, 0x0, []⟩,  -- STAT
   ⟨0x048, 1, 4, 0x0, []⟩,  -- BOOKED
   ⟨0x04C, 1, 4, 0x0, []⟩,  -- SNAP_USED
   ⟨0x050, 1, 4, 0x0, [⟨31, 1, .wo, .any⟩]⟩,  -- SNAP_HWM
   ⟨0x054, 1, 4, 0x0, []⟩,  -- FLOOR_JOB
   ⟨0x058, 1, 4, 0x0, [⟨0, 13, .rw, .any⟩]⟩,  -- JOB_SEL
   ⟨0x05C, 1, 4, 0x0, []⟩,  -- JOB_STAT
   ⟨0x060, 1, 4, 0x0, [⟨26, 1, .w1c, .any⟩, ⟨27, 1, .w1c, .any⟩]⟩,  -- TEMPER
   ⟨0x064, 1, 4, 0x0, [⟨0, 32, .cnt, .any⟩]⟩,  -- RESTART_CNT
   ⟨0x068, 1, 4, 0x0, []⟩,  -- CELLS_LO
   ⟨0x06C, 1, 4, 0x0, []⟩]  -- CELLS_HI

/-- The block registers of the CRUC1 page (rule R271 and its field table). -/
def regsCruc1 : List Reg :=
  [⟨0x040, 40, 4, 0x0, []⟩]  -- NF0..NF39

/-- The block registers of the CRUC2 page (rule R272 and its field table). -/
def regsCruc2 : List Reg :=
  [⟨0x040, 1, 4, 0x0, [⟨0, 1, .rw, .any⟩, ⟨1, 1, .rw, .any⟩]⟩,  -- RR_CTL
   ⟨0x044, 1, 4, 0x0, [⟨0, 32, .rw, .any⟩]⟩,  -- RR_BASE_LO
   ⟨0x048, 1, 4, 0x0, [⟨0, 32, .rw, .any⟩]⟩,  -- RR_BASE_HI
   ⟨0x04C, 1, 4, 0x4, [⟨0, 4, .rw, .nat 4 12⟩]⟩,  -- RR_SIZE
   ⟨0x050, 1, 4, 0x0, [⟨0, 12, .rw, .any⟩]⟩,  -- RR_HEAD
   ⟨0x054, 1, 4, 0x0, []⟩,  -- RR_TAIL
   ⟨0x058, 1, 4, 0x0, []⟩]  -- HELD

/-- The block registers of the BILL page (rule R312 and its field table). -/
def regsBill : List Reg :=
  [⟨0x040, 1, 4, 0x0, []⟩,  -- BOOKED
   ⟨0x044, 1, 4, 0x927C, []⟩,  -- FREE
   ⟨0x048, 1, 4, 0x0, []⟩,  -- SLOTS
   ⟨0x04C, 1, 4, 0x0, [⟨26, 1, .w1c, .any⟩, ⟨27, 1, .w1c, .any⟩]⟩,  -- TEMPER
   ⟨0x050, 1, 4, 0x0, []⟩,  -- WORK
   ⟨0x054, 1, 4, 0x0, [⟨0, 32, .cnt, .any⟩]⟩]  -- MIG_CNT

/-- The block registers of the TRK page (rule R314 and its field table). -/
def regsTrk : List Reg :=
  [⟨0x040, 1, 4, 0x2808640C, [⟨0, 8, .rws, .nat 4 160⟩, ⟨8, 8, .rws, .fromFld 0 8 0 160⟩, ⟨16, 8, .rws, .nat 4 80⟩, ⟨24, 8, .rws, .fromFld 16 8 0 80⟩]⟩,  -- LOOP_DEF
   ⟨0x044, 1, 4, 0xC8000A, [⟨0, 16, .rws, .nat 1 500⟩, ⟨16, 16, .rws, .fromFld 0 16 0 500⟩]⟩,  -- DLL_DEF
   ⟨0x048, 1, 4, 0xCCC800F0, [⟨0, 10, .rws, .nat 100 650⟩, ⟨16, 10, .rws, .below 0 10⟩, ⟨26, 6, .rws, .nat 32 63⟩]⟩,  -- LOCK_CFG
   ⟨0x04C, 1, 4, 0x2320C8, [⟨0, 12, .rws, .nat 1 4095⟩, ⟨12, 8, .rws, .nat 1 255⟩, ⟨20, 5, .rws, .nat 1 30⟩]⟩,  -- TIME_CFG
   ⟨0x050, 1, 4, 0x14204004, [⟨0, 8, .rws, .nat 1 255⟩, ⟨8, 8, .rws, .nat 16 128⟩, ⟨16, 8, .rws, .nat 8 64⟩, ⟨24, 8, .rws, .nat 1 255⟩]⟩,  -- DYN_CFG
   ⟨0x054, 1, 4, 0x0, [⟨0, 13, .rw, .any⟩]⟩,  -- CH_SEL
   ⟨0x058, 1, 4, 0x0, []⟩,  -- CH_STAT
   ⟨0x05C, 1, 4, 0x0, []⟩,  -- CH_CN0
   ⟨0x060, 1, 4, 0x0, []⟩,  -- CH_BW
   ⟨0x064, 1, 4, 0x0, []⟩,  -- CH_LOCKT
   ⟨0x068, 1, 4, 0x0, []⟩,  -- CH_DOPP
   ⟨0x06C, 1, 4, 0x0, []⟩,  -- CH_COAST
   ⟨0x070, 1, 4, 0x0, []⟩,  -- CNT_A
   ⟨0x074, 1, 4, 0x0, []⟩,  -- CNT_B
   ⟨0x078, 1, 4, 0x0, [⟨0, 32, .cnt, .any⟩]⟩]  -- SLIP_CNT

/-- The block registers of the VEC page (rule R316 and its field table). -/
def regsVec : List Reg :=
  [⟨0x040, 1, 4, 0xA146451, [⟨0, 1, .rws, .any⟩, ⟨4, 4, .rws, .nat 3 15⟩, ⟨8, 8, .rws, .nat 1 255⟩, ⟨16, 8, .rws, .nat 1 255⟩, ⟨24, 8, .rws, .nat 1 255⟩]⟩,  -- CFG
   ⟨0x044, 1, 4, 0x0, []⟩,  -- STAT
   ⟨0x048, 1, 4, 0x0, []⟩,  -- INNOV
   ⟨0x04C, 1, 4, 0x0, []⟩,  -- STATES
   ⟨0x050, 1, 4, 0x0, [⟨0, 32, .cnt, .any⟩]⟩]  -- FALLBACK_CNT

/-- The block registers of the MEAS page (rule R352 and its field table). -/
def regsMeas : List Reg :=
  [⟨0x040, 1, 4, 0x0, [⟨0, 6, .rw, .any⟩]⟩,  -- SUB_SEL
   ⟨0x044, 1, 4, 0x0, []⟩,  -- SUB_INFO
   ⟨0x048, 1, 4, 0x0, []⟩,  -- SUB_HANDLE
   ⟨0x04C, 1, 4, 0x0, []⟩,  -- SUB_SEQ
   ⟨0x050, 1, 4, 0x0, []⟩,  -- SUB_WRAP
   ⟨0x054, 1, 4, 0x0, [⟨0, 32, .cnt, .any⟩]⟩,  -- SUB_DROP
   ⟨0x058, 1, 4, 0x0, [⟨0, 32, .cnt, .any⟩]⟩,  -- SUB_TRUNC
   ⟨0x400, 64, 8, 0x0, [⟨0, 20, .rw, .any⟩]⟩,  -- SUBs_HEAD
   ⟨0x404, 64, 8, 0x0, []⟩]  -- SUBs_TAIL

/-- The block registers of the NAV page (rule R354 and its field table). -/
def regsNav : List Reg :=
  [⟨0x040, 1, 4, 0x7B3940, [⟨0, 2, .rws, .any⟩, ⟨2, 3, .rws, .nat 0 4⟩, ⟨5, 6, .rws, .nat 0 60⟩, ⟨11, 1, .rws, .any⟩, ⟨12, 1, .rws, .any⟩, ⟨13, 1, .rws, .any⟩, ⟨14, 2, .rws, .nat 0 2⟩, ⟨16, 1, .rws, .any⟩, ⟨17, 1, .rws, .any⟩, ⟨18, 7, .rws, .nat 1 120⟩, ⟨25, 1, .rws, .any⟩]⟩,  -- CFG
   ⟨0x044, 1, 4, 0x3E80258, [⟨0, 16, .rws, .nat 60 65535⟩, ⟨16, 16, .rws, .nat 10 65535⟩]⟩,  -- SURVEY
   ⟨0x048, 1, 4, 0x0, [⟨0, 32, .rws, .int (-700000000) 700000000⟩]⟩,  -- FIXED_X
   ⟨0x04C, 1, 4, 0x0, [⟨0, 32, .rws, .int (-700000000) 700000000⟩]⟩,  -- FIXED_Y
   ⟨0x050, 1, 4, 0x0, [⟨0, 32, .rws, .int (-700000000) 700000000⟩]⟩,  -- FIXED_Z
   ⟨0x054, 1, 4, 0x226F3CD, [⟨0, 8, .rws, .nat 64 255⟩, ⟨8, 8, .rws, .nat 128 255⟩, ⟨16, 10, .rws, .nat 400 650⟩]⟩,  -- THR_CFG
   ⟨0x058, 1, 4, 0x283C0032, [⟨0, 16, .rws, .nat 5 65535⟩, ⟨16, 8, .rws, .nat 1 255⟩, ⟨24, 8, .rws, .nat 6 120⟩]⟩,  -- THR_CFG2
   ⟨0x05C, 1, 4, 0x0, []⟩,  -- SOLN
   ⟨0x060, 1, 4, 0x0, []⟩,  -- POS_STD
   ⟨0x064, 1, 4, 0x0, []⟩,  -- TIME_STD
   ⟨0x068, 1, 4, 0x0, []⟩,  -- SURV_STAT
   ⟨0x06C, 1, 4, 0x0, []⟩,  -- THREAT
   ⟨0x070, 1, 4, 0x0, [⟨0, 9, .w1c, .any⟩]⟩,  -- THREAT_LATCH
   ⟨0x074, 1, 4, 0x0, []⟩,  -- CORR_STAT
   ⟨0x078, 1, 4, 0x0, [⟨0, 32, .cnt, .any⟩]⟩,  -- RTCM_CNT
   ⟨0x07C, 1, 4, 0x0, [⟨0, 32, .cnt, .any⟩]⟩,  -- RTCM_ERR
   ⟨0x080, 1, 4, 0x30, [⟨0, 1, .rw, .any⟩, ⟨1, 1, .rw, .any⟩, ⟨2, 5, .rw, .nat 8 20⟩]⟩,  -- CI_CTL
   ⟨0x084, 1, 4, 0x0, [⟨0, 32, .rw, .any⟩]⟩,  -- CI_BASE_LO
   ⟨0x088, 1, 4, 0x0, [⟨0, 32, .rw, .any⟩]⟩,  -- CI_BASE_HI
   ⟨0x08C, 1, 4, 0x0, []⟩,  -- CI_HEAD
   ⟨0x090, 1, 4, 0x0, [⟨0, 20, .rw, .any⟩]⟩,  -- CI_TAIL
   ⟨0x094, 1, 4, 0x0, [⟨0, 3, .rw, .any⟩, ⟨4, 3, .rw, .any⟩]⟩,  -- ARR_SEL
   ⟨0x098, 1, 4, 0x0, [⟨0, 32, .rws, .int (-10000) 10000⟩]⟩,  -- ARR_E
   ⟨0x09C, 1, 4, 0x0, [⟨0, 32, .rws, .int (-10000) 10000⟩]⟩,  -- ARR_N
   ⟨0x0A0, 1, 4, 0x0, [⟨0, 32, .rws, .int (-10000) 10000⟩]⟩,  -- ARR_U
   ⟨0x0A4, 1, 4, 0x0, []⟩]  -- ARR_STAT

/-- The block registers of the AUTH page (rule R356 and its field table). -/
def regsAuth : List Reg :=
  [⟨0x040, 1, 4, 0x321E01, [⟨0, 1, .rws, .any⟩, ⟨8, 8, .rws, .nat 1 180⟩, ⟨16, 8, .rws, .nat 1 255⟩]⟩,  -- CFG
   ⟨0x044, 1, 4, 0x0, []⟩,  -- STAT
   ⟨0x048, 8, 4, 0x0, [⟨0, 32, .rws, .any⟩]⟩,  -- MERKLE0..MERKLE7
   ⟨0x068, 1, 4, 0x0, [⟨0, 16, .rws, .any⟩]⟩,  -- PKR_PTR
   ⟨0x06C, 1, 4, 0x0, [⟨0, 6, .rw, .nat 1 36⟩]⟩,  -- SAT_SEL
   ⟨0x070, 1, 4, 0x0, []⟩,  -- SAT_STAT
   ⟨0x074, 1, 4, 0x0, [⟨0, 32, .cnt, .any⟩]⟩,  -- TAG_OK
   ⟨0x078, 1, 4, 0x0, [⟨0, 32, .cnt, .any⟩]⟩,  -- TAG_FAIL
   ⟨0x07C, 1, 4, 0x0, [⟨0, 32, .cnt, .any⟩]⟩,  -- KEY_FAIL
   ⟨0x080, 1, 4, 0x0, []⟩]  -- REQ_STAT

/-- The block registers of the TB page (rule R395 and its field table). -/
def regsTb : List Reg :=
  [⟨0x040, 1, 4, 0x0, []⟩,  -- NOW_SEC_LO
   ⟨0x044, 1, 4, 0x0, []⟩,  -- NOW_SEC_HI
   ⟨0x048, 1, 4, 0x0, []⟩,  -- NOW_NS
   ⟨0x04C, 1, 4, 0x0, []⟩,  -- NOW_FRAC
   ⟨0x050, 1, 4, 0x0, []⟩,  -- STAT
   ⟨0x054, 1, 4, 0x0, []⟩,  -- RATE_LO
   ⟨0x058, 1, 4, 0x0, []⟩,  -- RATE_HI
   ⟨0x05C, 1, 4, 0x30D40, [⟨0, 18, .rws, .nat 1000 200000⟩]⟩,  -- RATE_BOUND
   ⟨0x060, 1, 4, 0x0, []⟩,  -- SLEW_REM
   ⟨0x064, 1, 4, 0x0, []⟩,  -- STEP_LO
   ⟨0x068, 1, 4, 0x0, []⟩,  -- STEP_HI
   ⟨0x06C, 1, 4, 0x0, []⟩,  -- STEP_HEAT
   ⟨0x070, 1, 4, 0x0, []⟩]  -- EPOCH

/-- The block registers of the DISC page (rule R397 and its field table). -/
def regsDisc : List Reg :=
  [⟨0x040, 1, 4, 0x0, [⟨0, 2, .rws, .nat 0 2⟩, ⟨2, 2, .rws, .any⟩, ⟨4, 2, .rws, .any⟩, ⟨6, 2, .rws, .nat 0 2⟩, ⟨8, 1, .rws, .any⟩]⟩,  -- CFG
   ⟨0x044, 1, 4, 0xC04, [⟨0, 5, .rws, .nat 0 16⟩, ⟨8, 5, .rws, .nat 0 16⟩, ⟨16, 5, .rws, .nat 0 16⟩, ⟨21, 1, .rws, .any⟩]⟩,  -- TAU_CFG
   ⟨0x048, 1, 4, 0x641403E8, [⟨0, 16, .rws, .nat 1 50000⟩, ⟨16, 8, .rws, .nat 1 254⟩, ⟨24, 8, .rws, .nat 2 255⟩]⟩,  -- LIMITS
   ⟨0x04C, 1, 4, 0x3E80A05, [⟨0, 8, .rws, .nat 1 255⟩, ⟨8, 8, .rws, .nat 1 255⟩, ⟨16, 16, .rws, .nat 1 65535⟩]⟩,  -- HOLD_CFG
   ⟨0x050, 1, 4, 0x3E80032, [⟨0, 16, .rws, .nat 1 65535⟩, ⟨16, 16, .rws, .nat 1 65535⟩]⟩,  -- REF_CFG
   ⟨0x054, 1, 4, 0x3F001814, [⟨0, 5, .rws, .nat 16 24⟩, ⟨8, 6, .rws, .nat 16 32⟩, ⟨16, 2, .rws, .any⟩, ⟨20, 4, .rws, .any⟩, ⟨24, 8, .rws, .nat 25 250⟩]⟩,  -- DAC_CFG
   ⟨0x058, 1, 4, 0x0, [⟨0, 16, .rws, .any⟩]⟩,  -- DAC_PREFIX
   ⟨0x05C, 1, 4, 0x80000, [⟨0, 24, .rws, .any⟩]⟩,  -- DAC_INIT
   ⟨0x060, 1, 4, 0xEE7, [⟨0, 32, .rws, .nonzero⟩]⟩,  -- DAC_GAIN
   ⟨0x064, 1, 4, 0x10, [⟨0, 8, .rws, .nat 2 255⟩]⟩,  -- PWM_CFG
   ⟨0x068, 1, 4, 0x0, []⟩,  -- STATE
   ⟨0x06C, 1, 4, 0x0, []⟩,  -- PHASE
   ⟨0x070, 1, 4, 0x0, []⟩,  -- FREQ
   ⟨0x074, 1, 4, 0x0, []⟩,  -- DAC_CODE
   ⟨0x078, 1, 4, 0x0, []⟩,  -- HOLD_T
   ⟨0x07C, 1, 4, 0x0, []⟩,  -- HOLD_UNC
   ⟨0x080, 1, 4, 0x0, [⟨0, 5, .rw, .nat 0 16⟩]⟩,  -- ADEV_SEL
   ⟨0x084, 1, 4, 0x0, []⟩,  -- ADEV
   ⟨0x088, 1, 4, 0x0, []⟩]  -- AGING

/-- The block registers of the TOUT page (rule R399 and its field table). -/
def regsTout : List Reg :=
  [⟨0x040, 1, 4, 0x6403, [⟨0, 1, .rws, .any⟩, ⟨1, 2, .rws, .nat 0 2⟩, ⟨8, 10, .rws, .nat 1 999⟩]⟩,  -- PPS_CFG
   ⟨0x044, 8, 4, 0x0, [⟨0, 1, .rws, .any⟩, ⟨1, 1, .rws, .any⟩]⟩,  -- PIN_CFG0..PIN_CFG7
   ⟨0x064, 8, 4, 0x0, [⟨0, 32, .rws, .int (-10000) 1000000⟩]⟩,  -- DELAY0..DELAY7
   ⟨0x084, 1, 4, 0x0, [⟨0, 13, .rw, .any⟩]⟩,  -- SEL
   ⟨0x088, 1, 4, 0x0, []⟩,  -- SCH_STAT
   ⟨0x08C, 1, 4, 0x0, []⟩,  -- SCH_NEXT_SEC
   ⟨0x090, 1, 4, 0x0, []⟩,  -- SCH_NEXT_NS
   ⟨0x094, 1, 4, 0x0, []⟩,  -- SCH_EMIT
   ⟨0x098, 1, 4, 0x0, []⟩,  -- SCH_LEFT
   ⟨0x09C, 1, 4, 0x0, []⟩,  -- SCH_SUPP
   ⟨0x0A0, 1, 4, 0x0, []⟩,  -- PIN_STAT
   ⟨0x0A4, 1, 4, 0x0, []⟩]  -- CORE_STAT

/-- The block registers of the TIN page (rule R401 and its field table). -/
def regsTin : List Reg :=
  [⟨0x040, 4, 4, 0x0, [⟨0, 32, .rws, .int (-10000) 1000000⟩]⟩,  -- DELAY0..DELAY3
   ⟨0x050, 1, 4, 0x0, [⟨0, 4, .wo, .any⟩]⟩,  -- POP
   ⟨0x054, 1, 4, 0x0, []⟩,  -- LEVEL
   ⟨0x058, 4, 4, 0x0, [⟨0, 32, .cnt, .any⟩]⟩,  -- OVF_CNT0..OVF_CNT3
   ⟨0x068, 4, 4, 0x0, [⟨0, 32, .cnt, .any⟩]⟩,  -- DEAD_CNT0..DEAD_CNT3
   ⟨0x080, 4, 32, 0x0, []⟩,  -- V_SEC_LO
   ⟨0x084, 4, 32, 0x0, []⟩,  -- V_SEC_HI
   ⟨0x088, 4, 32, 0x0, []⟩,  -- V_NS
   ⟨0x08C, 4, 32, 0x0, []⟩,  -- V_FRAC
   ⟨0x090, 4, 32, 0x0, []⟩]  -- V_INFO

/-- The block registers of the ETH page (rule R434 and its field table). -/
def regsEth : List Reg :=
  [⟨0x040, 1, 4, 0x8, [⟨0, 3, .rws, .nat 0 4⟩, ⟨3, 1, .rws, .any⟩, ⟨4, 1, .rws, .any⟩, ⟨5, 3, .rws, .any⟩, ⟨8, 12, .rws, .any⟩]⟩,  -- MODE
   ⟨0x044, 1, 4, 0x408, [⟨0, 4, .rws, .any⟩, ⟨4, 4, .rws, .nat 0 10⟩, ⟨8, 5, .rws, .nat 0 24⟩, ⟨16, 1, .rws, .any⟩, ⟨20, 4, .rws, .any⟩]⟩,  -- SERDES
   ⟨0x048, 1, 4, 0x0, [⟨0, 32, .rws, .any⟩]⟩,  -- MAC_LO
   ⟨0x04C, 1, 4, 0x0, [⟨0, 16, .rws, .any⟩]⟩,  -- MAC_HI
   ⟨0x050, 1, 4, 0x0, [⟨0, 32, .rws, .any⟩]⟩,  -- IP4
   ⟨0x054, 4, 4, 0x0, [⟨0, 32, .rws, .any⟩]⟩,  -- IP6_0..IP6_3
   ⟨0x064, 1, 4, 0x0, [⟨0, 32, .rws, .int (-100000) 1000000⟩]⟩,  -- EGR_LAT
   ⟨0x068, 1, 4, 0x0, [⟨0, 32, .rws, .int (-100000) 1000000⟩]⟩,  -- ING_LAT
   ⟨0x06C, 1, 4, 0x0, [⟨0, 32, .rws, .int (-100000000) 100000000⟩]⟩,  -- ASYM
   ⟨0x070, 3, 4, 0x0, [⟨0, 16, .rws, .any⟩, ⟨16, 16, .rws, .any⟩]⟩,  -- PHY_LAT0..PHY_LAT2
   ⟨0x07C, 1, 4, 0x80301000, [⟨0, 2, .rws, .any⟩, ⟨2, 1, .rws, .any⟩, ⟨3, 1, .rws, .any⟩, ⟨4, 2, .rws, .nat 0 2⟩, ⟨6, 1, .rws, .any⟩, ⟨7, 1, .rws, .any⟩, ⟨8, 4, .rws, .int (-7) 4⟩, ⟨12, 4, .rws, .int (-3) 4⟩, ⟨16, 4, .rws, .int (-7) 5⟩, ⟨20, 4, .rws, .nat 2 10⟩, ⟨24, 8, .rws, .nat 1 255⟩]⟩,  -- PTP_CFG
   ⟨0x080, 1, 4, 0x0, [⟨0, 16, .rws, .any⟩]⟩,  -- UMT_PTR
   ⟨0x084, 1, 4, 0xFB20, [⟨0, 1, .rws, .any⟩, ⟨1, 1, .rws, .any⟩, ⟨4, 4, .rws, .any⟩, ⟨8, 4, .rws, .any⟩, ⟨12, 4, .rws, .any⟩]⟩,  -- ESMC_CFG
   ⟨0x088, 1, 4, 0x30, []⟩,  -- STAT
   ⟨0x08C, 1, 4, 0x0, []⟩,  -- PATH
   ⟨0x090, 1, 4, 0x0, []⟩,  -- OFFSET
   ⟨0x094, 1, 4, 0x0, []⟩,  -- PARENT_LO
   ⟨0x098, 1, 4, 0x0, []⟩,  -- PARENT_HI
   ⟨0x09C, 1, 4, 0x0, []⟩,  -- ESMC_STAT
   ⟨0x0A0, 1, 4, 0x440, [⟨0, 1, .rw, .any⟩, ⟨1, 1, .rw, .any⟩, ⟨4, 4, .rw, .nat 4 10⟩, ⟨8, 4, .rw, .nat 4 10⟩]⟩,  -- HQ_CTL
   ⟨0x0A4, 1, 4, 0x0, [⟨0, 32, .rw, .any⟩]⟩,  -- RXQ_BASE_LO
   ⟨0x0A8, 1, 4, 0x0, [⟨0, 32, .rw, .any⟩]⟩,  -- RXQ_BASE_HI
   ⟨0x0AC, 1, 4, 0x0, [⟨0, 32, .rw, .any⟩]⟩,  -- TXQ_BASE_LO
   ⟨0x0B0, 1, 4, 0x0, [⟨0, 32, .rw, .any⟩]⟩,  -- TXQ_BASE_HI
   ⟨0x0B4, 1, 4, 0x0, [⟨0, 10, .rw, .any⟩]⟩,  -- RXQ_HEAD
   ⟨0x0B8, 1, 4, 0x0, []⟩,  -- RXQ_TAIL
   ⟨0x0BC, 1, 4, 0x0, [⟨0, 10, .rw, .any⟩]⟩,  -- TXQ_TAIL
   ⟨0x0C0, 1, 4, 0x0, []⟩,  -- TXQ_HEAD
   ⟨0x0C4, 1, 4, 0x0, [⟨0, 32, .cnt, .any⟩]⟩,  -- RX_DROP
   ⟨0x0C8, 1, 4, 0x0, [⟨0, 32, .cnt, .any⟩]⟩,  -- PTP_ERR
   ⟨0x0CC, 1, 4, 0x0, [⟨0, 32, .cnt, .any⟩]⟩]  -- GRANT_DENY

/-- The block registers of the PTPX page (rule R436 and its field table). -/
def regsPtpx : List Reg :=
  [⟨0x040, 1, 4, 0x80800000, [⟨0, 3, .rws, .nat 0 3⟩, ⟨8, 8, .rws, .any⟩, ⟨16, 8, .rws, .any⟩, ⟨24, 8, .rws, .any⟩]⟩,  -- CFG
   ⟨0x044, 1, 4, 0xF88C0706, [⟨0, 8, .rws, .nat 6 255⟩, ⟨8, 8, .rws, .nat 6 255⟩, ⟨16, 8, .rws, .nat 6 255⟩, ⟨24, 8, .rws, .nat 6 255⟩]⟩,  -- CLASS
   ⟨0x048, 1, 4, 0x3E8, [⟨0, 32, .rws, .nat 1 1000000⟩]⟩,  -- HOLD_SPEC
   ⟨0x04C, 1, 4, 0x3, [⟨0, 8, .rws, .nat 3 254⟩]⟩,  -- C37_GMID
   ⟨0x050, 1, 4, 0x0, []⟩,  -- CLOCK_ID_LO
   ⟨0x054, 1, 4, 0x0, []⟩,  -- CLOCK_ID_HI
   ⟨0x058, 1, 4, 0xFEFEF8, []⟩,  -- DS
   ⟨0x05C, 1, 4, 0x0, []⟩,  -- UTC
   ⟨0x060, 1, 4, 0x0, []⟩,  -- GM_ID_LO
   ⟨0x064, 1, 4, 0x0, []⟩,  -- GM_ID_HI
   ⟨0x068, 1, 4, 0x0, []⟩]  -- SLAVE

/-- The block registers of the CASAK page (rule R473 and its field table). -/
def regsCasak : List Reg :=
  [⟨0x040, 1, 4, 0x0, []⟩,  -- CORE_STAT
   ⟨0x044, 1, 4, 0x0, []⟩,  -- PC_SNAP
   ⟨0x048, 1, 4, 0x0, []⟩,  -- HALT_INFO
   ⟨0x04C, 1, 4, 0x0, [⟨0, 20, .rws, .nat 0 700000⟩]⟩,  -- BOOK
   ⟨0x050, 1, 4, 0x0, []⟩,  -- CYC_LAST
   ⟨0x054, 1, 4, 0x0, [⟨31, 1, .wo, .any⟩]⟩,  -- CYC_HWM
   ⟨0x058, 1, 4, 0x0, [⟨0, 32, .cnt, .any⟩]⟩,  -- EXC_CNT
   ⟨0x05C, 1, 4, 0x0, [⟨0, 1, .wo, .any⟩]⟩,  -- DOORBELL
   ⟨0x060, 1, 4, 0x0, [⟨0, 13, .rw, .any⟩]⟩,  -- LOAD_ADDR
   ⟨0x064, 1, 4, 0x0, [⟨0, 32, .rw, .any⟩]⟩,  -- LOAD_LO
   ⟨0x068, 1, 4, 0x0, [⟨0, 32, .rw, .any⟩]⟩,  -- LOAD_HI
   ⟨0x06C, 1, 4, 0x0, [⟨0, 3, .rw, .any⟩]⟩,  -- SEG_SEL
   ⟨0x070, 1, 4, 0x0, [⟨0, 32, .rw, .any⟩]⟩,  -- SEG_W0
   ⟨0x074, 1, 4, 0x0, [⟨0, 32, .rw, .any⟩]⟩,  -- SEG_W1
   ⟨0x078, 1, 4, 0x0, [⟨0, 8, .rw, .any⟩]⟩,  -- SEG_W2
   ⟨0x07C, 4, 4, 0x0, []⟩]  -- TRIG0..TRIG3

/-- The block registers of the HOST page (rule R518 and its field table). -/
def regsHost : List Reg :=
  [⟨0x040, 1, 4, 0x0, []⟩,  -- LINK
   ⟨0x044, 1, 4, 0x0, []⟩,  -- PCI_ID
   ⟨0x048, 1, 4, 0x0, [⟨31, 1, .w1c, .any⟩]⟩,  -- DMA_ERR
   ⟨0x04C, 1, 4, 0x0, []⟩,  -- DMA_ADDR_LO
   ⟨0x050, 1, 4, 0x0, []⟩,  -- DMA_ADDR_HI
   ⟨0x054, 1, 4, 0x0, [⟨0, 32, .cnt, .any⟩]⟩,  -- SPI_CRC_CNT
   ⟨0x058, 1, 4, 0x0, [⟨0, 32, .cnt, .any⟩]⟩]  -- SPI_SHORT_CNT

/-- The block registers of the UART page (rule R520 and its field table). -/
def regsUart : List Reg :=
  [⟨0x040, 1, 4, 0x0, [⟨0, 1, .rws, .any⟩, ⟨1, 2, .rws, .nat 0 2⟩, ⟨3, 1, .rws, .any⟩, ⟨4, 1, .rws, .any⟩, ⟨5, 1, .rws, .any⟩, ⟨6, 1, .rws, .any⟩]⟩,  -- CFG
   ⟨0x044, 1, 4, 0x1C200, [⟨0, 23, .rws, .nat 300 6000000⟩]⟩,  -- BAUD
   ⟨0x048, 1, 4, 0x64, [⟨0, 14, .rws, .nat 10 10000⟩]⟩,  -- LINE_DEAD_TO
   ⟨0x04C, 1, 4, 0x1, [⟨0, 8, .rw, .nat 1 255⟩, ⟨8, 8, .rw, .any⟩]⟩,  -- FIFO_CFG
   ⟨0x050, 1, 4, 0x0, []⟩,  -- STAT
   ⟨0x054, 1, 4, 0x0, []⟩,  -- RXDATA
   ⟨0x058, 1, 4, 0x0, [⟨0, 8, .wo, .any⟩]⟩,  -- TXDATA
   ⟨0x05C, 1, 4, 0x1E32F0F, []⟩,  -- INC
   ⟨0x060, 1, 4, 0x0, [⟨0, 32, .cnt, .any⟩]⟩,  -- PAR_CNT
   ⟨0x064, 1, 4, 0x0, [⟨0, 32, .cnt, .any⟩]⟩,  -- FRM_CNT
   ⟨0x068, 1, 4, 0x0, [⟨0, 32, .cnt, .any⟩]⟩,  -- OVR_CNT
   ⟨0x06C, 1, 4, 0x0, [⟨0, 32, .cnt, .any⟩]⟩]  -- BRK_CNT

/-- The block registers of the ASSAY page (rule R553 and its field table). -/
def regsAssay : List Reg :=
  [⟨0x040, 1, 4, 0x0, []⟩,  -- VCORE
   ⟨0x044, 1, 4, 0x0, []⟩,  -- AVS_STAT
   ⟨0x048, 1, 4, 0x0, []⟩,  -- ARB
   ⟨0x04C, 1, 4, 0x0, []⟩,  -- FUSE_CFG
   ⟨0x050, 1, 4, 0x0, [⟨0, 5, .rw, .nat 0 23⟩]⟩,  -- KH_SEL
   ⟨0x054, 1, 4, 0x0, []⟩,  -- KH_DATA
   ⟨0x058, 1, 4, 0x1, []⟩,  -- HW_IFL
   ⟨0x05C, 1, 4, 0x10003, []⟩,  -- ROM_VER
   ⟨0x060, 1, 4, 0x0, [⟨0, 32, .cnt, .any⟩]⟩,  -- WDOG
   ⟨0x064, 1, 4, 0x0, [⟨0, 16, .w1c, .any⟩, ⟨16, 1, .w1c, .any⟩, ⟨17, 1, .w1c, .any⟩, ⟨18, 1, .w1c, .any⟩, ⟨19, 4, .w1c, .any⟩, ⟨23, 1, .w1c, .any⟩, ⟨24, 1, .w1c, .any⟩, ⟨25, 1, .w1c, .any⟩]⟩,  -- CLK_FAULT
   ⟨0x068, 1, 4, 0x0, [⟨0, 1, .wo, .any⟩]⟩,  -- REEPOCH
   ⟨0x06C, 1, 4, 0x0, [⟨0, 16, .rw, .any⟩]⟩,  -- TOKEN_PTR
   ⟨0x070, 1, 4, 0x0, []⟩,  -- NONCE_LO
   ⟨0x074, 1, 4, 0x0, []⟩,  -- NONCE_HI
   ⟨0x078, 1, 4, 0x0, []⟩]  -- CRYPTO

/-- The block registers of the SENS page (rule R554 and its field table). -/
def regsSens : List Reg :=
  [⟨0x040, 8, 4, 0x0, []⟩,  -- TEMP0..TEMP7
   ⟨0x060, 24, 4, 0x0, []⟩,  -- VMON0..VMON23
   ⟨0x0C0, 1, 4, 0x37D73, [⟨0, 8, .rws, .nat 60 125⟩, ⟨8, 8, .rws, .fromFld 0 8 1 135⟩, ⟨16, 8, .rws, .nat 1 10⟩]⟩,  -- T_CFG
   ⟨0x0C4, 1, 4, 0x30A19, [⟨0, 8, .rws, .nat 5 200⟩, ⟨8, 8, .rws, .nat 1 50⟩, ⟨16, 8, .rws, .nat 1 100⟩]⟩,  -- V_CFG
   ⟨0x0C8, 1, 4, 0x0, [⟨0, 5, .rw, .nat 0 23⟩]⟩,  -- VLIM_SEL
   ⟨0x0CC, 1, 4, 0x0, [⟨0, 12, .rws, .any⟩, ⟨16, 12, .rws, .any⟩]⟩,  -- VLIM
   ⟨0x0D0, 1, 4, 0x0, [⟨31, 1, .wo, .any⟩]⟩]  -- TMAX

/-- The block registers of the LOG page (rule R555 and its field table). -/
def regsLog : List Reg :=
  [⟨0x040, 1, 4, 0x0, []⟩,  -- HEAD
   ⟨0x044, 1, 4, 0x2, [⟨0, 3, .rw, .nat 0 4⟩]⟩,  -- CFG
   ⟨0x048, 1, 4, 0x0, [⟨0, 12, .rw, .any⟩]⟩,  -- SEL
   ⟨0x04C, 4, 4, 0x0, []⟩,  -- DATA0..DATA3
   ⟨0x05C, 1, 4, 0x0, [⟨0, 32, .rw, .any⟩]⟩,  -- POST_ARG
   ⟨0x060, 1, 4, 0x0, [⟨0, 8, .wo, .nat 0x80 0xFF⟩, ⟨8, 3, .wo, .nat 0 4⟩, ⟨16, 16, .wo, .any⟩]⟩,  -- POST
   ⟨0x064, 1, 4, 0x0, []⟩,  -- MIRROR
   ⟨0x068, 1, 4, 0x0, [⟨0, 32, .cnt, .any⟩]⟩]  -- LOST

/-- The block registers of the UPD page (rule R556 and its field table). -/
def regsUpd : List Reg :=
  [⟨0x040, 1, 4, 0x0, [⟨0, 3, .wo, .nat 1 5⟩]⟩,  -- CMD
   ⟨0x044, 1, 4, 0x0, [⟨0, 23, .rw, .any⟩]⟩,  -- IMG_LEN
   ⟨0x048, 1, 4, 0x0, [⟨0, 16, .rw, .any⟩]⟩,  -- BUF_PTR
   ⟨0x04C, 1, 4, 0x0, [⟨0, 13, .rw, .any⟩]⟩,  -- BUF_LEN
   ⟨0x050, 1, 4, 0x0, [⟨0, 23, .rw, .any⟩]⟩,  -- OFFSET
   ⟨0x054, 1, 4, 0x0, []⟩,  -- STAT
   ⟨0x058, 1, 4, 0x0, []⟩,  -- SLOT
   ⟨0x05C, 1, 4, 0x0, []⟩,  -- VER_A
   ⟨0x060, 1, 4, 0x0, []⟩,  -- VER_B
   ⟨0x064, 1, 4, 0x0, []⟩,  -- FLASH_ID
   ⟨0x068, 1, 4, 0x0, []⟩]  -- BSEQ

/-- The block registers of the FAULT page (rule R583 and its field table). -/
def regsFault : List Reg :=
  [⟨0x040, 1, 4, 0x0, []⟩,  -- CAUSE
   ⟨0x044, 1, 4, 0x0, []⟩,  -- Q_HEAT
   ⟨0x048, 1, 4, 0x0, []⟩,  -- Q_SEC
   ⟨0x04C, 1, 4, 0x0, []⟩,  -- Q_NS
   ⟨0x050, 1, 4, 0x0, []⟩,  -- STATE
   ⟨0x054, 1, 4, 0x31, [⟨0, 1, .rw, .any⟩, ⟨4, 4, .rw, .nat 1 15⟩]⟩,  -- CFG
   ⟨0x058, 1, 4, 0x0, [⟨0, 1, .wo, .any⟩, ⟨1, 1, .wo, .any⟩, ⟨2, 1, .wo, .any⟩, ⟨8, 8, .wo, .any⟩]⟩,  -- CTL
   ⟨0x05C, 1, 4, 0x0, []⟩,  -- DISP
   ⟨0x060, 1, 4, 0x0, [⟨0, 8, .rw, .any⟩]⟩,  -- SWEEP_SEL
   ⟨0x064, 1, 4, 0x0, []⟩,  -- SWEEP_AMT
   ⟨0x068, 1, 4, 0x0, []⟩,  -- SWEEP_SEQ
   ⟨0x06C, 1, 4, 0x0, []⟩]  -- RESET_INFO

/-- The block registers of the BKUP page (rule R557 and its field table). -/
def regsBkup : List Reg :=
  [⟨0x040, 1, 4, 0x0, []⟩,  -- RTC_SEC_LO
   ⟨0x044, 1, 4, 0x0, []⟩,  -- RTC_SEC_HI
   ⟨0x048, 1, 4, 0x0, []⟩,  -- RTC_TICK
   ⟨0x04C, 1, 4, 0x0, []⟩,  -- RTC_UNC
   ⟨0x050, 1, 4, 0x0, [⟨1, 1, .w1c, .any⟩]⟩,  -- STAT
   ⟨0x054, 1, 4, 0x0, [⟨0, 7, .rw, .any⟩]⟩,  -- RET_SEL
   ⟨0x058, 1, 4, 0x0, [⟨0, 32, .rw, .any⟩]⟩,  -- RET_LO
   ⟨0x05C, 1, 4, 0x0, [⟨0, 32, .rw, .any⟩]⟩,  -- RET_HI
   ⟨0x060, 1, 4, 0x0, []⟩]  -- LAST_SYNC

/-- The block registers of a block type. -/
def regTab : PageType → List Reg
  | .dev => regsDev | .heat => regsHeat | .htab => regsHtab | .cmd => regsCmd | .lane => regsLane
  | .rlane => regsRlane | .fec => regsFec | .cond => regsCond | .comb => regsComb | .cruc0 => regsCruc0
  | .cruc1 => regsCruc1 | .cruc2 => regsCruc2 | .bill => regsBill | .trk => regsTrk | .vec => regsVec
  | .meas => regsMeas | .nav => regsNav | .auth => regsAuth | .tb => regsTb | .disc => regsDisc
  | .tout => regsTout | .tin => regsTin | .eth => regsEth | .ptpx => regsPtpx | .casak => regsCasak
  | .host => regsHost | .uart => regsUart | .assay => regsAssay | .sens => regsSens | .log => regsLog
  | .upd => regsUpd | .fault => regsFault | .bkup => regsBkup

/-- Whether a register descriptor covers an offset. -/
def Reg.covers (r : Reg) (off : Nat) : Bool :=
  r.off ≤ off && off < r.off + r.cnt * r.stride && (off - r.off) % r.stride == 0

/-- The descriptor of the block register at an offset of a page, if its table lists one. ROUTEp of an unmapped page is reserved
(rule R92). -/
def regAt (p off : Nat) : Option Reg :=
  match pageType p with
  | none => none
  | some t =>
    if t = .dev ∧ 0x400 ≤ off ∧ pageType ((off - 0x400) / 4) = none then none
    else if t = .casak ∧ p ≠ 0x0A6 ∧ p ≠ 0x0A7 ∧ (off = 0x04C ∨ (0x05C ≤ off ∧ off ≤ 0x078)) then none
    else (regTab t).find? (fun r => r.covers off)

/-- The pages whose PG_CTL.EN resets to 0 (rule R64): FEC, DISC, CASAK6 and CASAK7. -/
def enResetsTo0 (p : Nat) : Bool :=
  match pageType p with
  | some .fec | some .disc => true
  | some .casak => p == 0x0A6 || p == 0x0A7
  | _ => false

/-- Limits of the voltage monitors at reset (rule R527 gives them; see `vlimReset`). -/
def vlimAddr (mon : Nat) : Nat := 0x100000 + mon

/-- Where the three position registers of combiner group g, element e are kept (NAV.ARR_SEL reaches them). -/
def arrAddr (g e axis : Nat) : Nat := 0x100100 + (8 * g + e) * 4 + axis

end Sys2Proof.Machine
end

