-- ==== Sys2Proof/Machine/State.lean ====
section
/-! DEFINITION. The state of the Malith: everything spec/ gives it, as plain data, and the state right after reset.
A table (`Tab`) reads its reset values where it lists nothing, so the reset state lists nothing. Fields that are the
model's own and not the spec's: `pending`, `freeCtr`, `outbox`, `hostRead`, `hostMem` (log entries 1, 4, 7, 8). -/

namespace Sys2Proof.Machine

/-! ## Casak cores (chapters 12 and 13) -/

/-- CORE_STAT.ST (rule R474). -/
inductive CoreRun where
  | stopped | run | wait | held | halted
  deriving DecidableEq, Repr

/-- One accumulator with its control fields (rules R477, R478). -/
structure AccReg where
  bits : BitVec 80 := 0
  cplx : Bool := false
  wrap : Bool := false
  psh : BitVec 6 := 0
  sh : BitVec 7 := 0
  deriving DecidableEq, Repr

/-- The delay slot pending after a branch (rule R453): none; a slot whose branch was not taken; a slot whose branch
goes to a target. -/
inductive Slot where
  | no
  | fall
  | to (target : BitVec 16)
  deriving DecidableEq, Repr

/-- One Casak core (rules R438 to R442, R455 to R472, R478). The tables d, a, acc and seg read their reset values
where they list nothing. `bits` holds the RW and W0C bit variables; the read-only ones are computed from the other
fields. `clk` counts core cycles, `rdy` the cycle at which each outstanding result becomes available (rule R489). -/
structure Core where
  st : CoreRun := .stopped
  d : Tab Native := []
  a : Tab (BitVec 27) := []
  acc : Tab AccReg := []
  seg : Tab Native := []
  lc : BitVec 16 := 0
  pc : BitVec 16 := 0
  bits : BitVec 4096 := 0
  user : Bool := false
  repAct : Bool := false
  repN : Bool := false
  repFirst : Bool := false
  skip : Bool := false
  slot : Slot := .no
  heatNo : Word := 0
  trigK : Tab Word := []
  trigH : Tab Word := []
  cyc : Nat := 0
  clk : Nat := 0
  rdy : Tab Nat := []
  iram : Tab Row := []
  x : Tab Native := []
  y : Tab Native := []
  stopReq : Bool := false
  deriving DecidableEq, Repr

/-! ## Faults, quench, log, backup domain (chapters 15 and 16) -/

/-- The phase of FAULT.STATE (rule R584). -/
inductive QPhase where
  | run | quenched | recovering
  deriving DecidableEq, Repr

/-- Fault handling (rules R571 to R581). `raised` lists the classes raised and not yet clear, with their units;
`reload` the cores whose code must be reloaded; `endHeat` the heat that boundary E starts; `autoAt` the instants of
automatic recoveries; `qBoundary` that the boundary ending the torn heat is still to come. -/
structure FaultSt where
  phase : QPhase := .run
  raised : List (Nat × Nat) := []
  qBoundary : Bool := false
  tornHeat : Nat := 0
  svcBefore : Nat := 0
  recReq : Bool := false
  autoHeld : Bool := false
  byHost : Bool := false
  reload : Bool := false
  reloadNeed : Bool := false
  haltedCores : List Nat := []
  endHeat : Nat := 0
  autoAt : List Nat := []
  final : Nat := 0
  partials : Nat := 0
  sweep : List (Nat × Nat × Word) := []
  swept : Nat := 0
  overruns : List (Nat × Nat) := []
  deriving DecidableEq, Repr

/-- The event log (rules R530 to R533): the ring by record index, the number of the next record, the number up to
which records are mirrored in flash, the elapsed times at which those that wait arrived, whether the flash log region is in use, and
what a read of DATA0 latched. -/
structure LogSt where
  ring : Tab (BitVec 128) := []
  next : Nat := 0
  mirrored : Nat := 0
  times : List Nat := []
  flashOk : Bool := false
  latch : BitVec 128 := 0
  deriving DecidableEq, Repr

/-- The backup domain (rules R550, R551): the real-time clock's value at an elapsed time, its uncertainty then, its flags,
whether it runs from VBAT, and the retention memory by row. `need` says that RET_VALID waits for a full write, whose rows
so far are `got` (rule R552). -/
structure Backup where
  rtcSec : Nat := 0
  rtcTick : Nat := 0
  rtcEl : Nat := 0
  uncUs : Nat := 0
  rtcValid : Bool := false
  retValid : Bool := false
  vbatLost : Bool := false
  vbatLow : Bool := false
  vbatAbsent : Bool := false
  onBat : Bool := false
  lostLog : Bool := false
  lastSync : Word := 0
  syncEl : Option Nat := none
  ret : Tab Row := []
  need : Bool := false
  got : BitVec 96 := 0
  deriving DecidableEq, Repr

/-! ## Heats, ledger, handles, rings (chapter 3) -/

/-- Owner of a booking (rule R112): a handle-table entry, the Malith (with the system booking's own number), or the
command with a sequence number that made it and has not allocated. -/
inductive Owner where
  | entry (idx : Nat)
  | sys (tag : Nat)
  | cmd (seq : Word)
  deriving DecidableEq, Repr

/-- One booking: pool code, amount, owner, and the sequence number of the command behind it (rule R580). -/
structure Booking where
  pool : Nat
  amt : Nat
  own : Owner
  seq : Word
  deriving DecidableEq, Repr

/-- State of a handle-table entry (rule R121). -/
inductive EntSt where
  | free | live | dying
  deriving DecidableEq, Repr

/-- One handle-table entry (rules R118 to R123); `host` says that it counts as created by the host (rule R94). -/
structure Entry where
  st : EntSt := .free
  gen : Nat := 0
  cls : Nat := 0
  torn : Bool := false
  sys : Bool := false
  host : Bool := false
  deriving DecidableEq, Repr

/-- Disposition of a journal entry (rule R135). -/
inductive Disp where
  | inFlight | notStarted | torn | done
  deriving DecidableEq, Repr

/-- A journal entry (rule R135), which while IN_FLIGHT is the command in flight: its 16 record words, its last
completed step, its disposition and status, the handle created or acted on, whether it waits for an earlier command on
its handle (rule R129), the heat whose starting boundary completes its next step, a number its family keeps, its
completion words once it has one, the QUIET flags of the duplicates waiting on it (rule R136), and whether a quench or
reset gave its disposition (rule R580). -/
structure JEntry where
  words : List Word := []
  step : Nat := 0
  disp : Disp := .inFlight
  status : Nat := 0
  handle : Word := 0
  wait : Bool := false
  due : Nat := 0
  arg : Nat := 0
  compl : List Word := []
  dups : List Bool := []
  atQuench : Bool := false
  deriving DecidableEq, Repr

/-- The ledger, the handle table, the journal and the command rings (chapter 3). `taken` counts the commands taken in
the current heat; free entries are the fresh indices from `fresh` on and then `freed`; `defer` lists entries that
become FREE, with the heat of their destroy; `jrn` is newest first; `held` are completions waiting for ring space;
`phase` the PHASE of the next completion. -/
structure CmdSt where
  taken : Nat := 0
  books : List Booking := []
  ents : Tab Entry := []
  fresh : Nat := 0
  freed : List Nat := []
  defer : List (Nat × Nat) := []
  jrn : List JEntry := []
  held : List (List Word × Bool) := []
  owed : List JEntry := []
  phase : Bool := true
  stalled : Bool := false
  deriving DecidableEq, Repr

/-! ## Time base, disciplining, time outputs and inputs (chapter 10) -/

/-- A step or re-epoch in flight (rules R366, R369): offset in time units (`unitsPerNs`), whether FROM_NAV, whether
a re-epoch, whether the engine asked, the command's sequence number, and whether step 2 has applied. -/
structure Correction where
  off : Int
  fromNav : Bool
  reepoch : Bool
  engine : Bool
  seq : Word
  applied : Bool
  deriving DecidableEq, Repr

/-- A running slew (rule R368): the addend A_slew and the extra time still to gain, in time units. -/
structure Slew where
  a : Int
  left : Int
  deriving DecidableEq, Repr

/-- The time base (rules R358 to R368). `now` is the corrected time in units of 1/(5·2^58) ns, in which a tick of
rule R360 is a whole number; `State.el` is the elapsed time in the same units, measured against it, which no step moves; `lockEl` is its value at the last PLL lock. `hStart` and `hEnd` are the instants between which the
heat in progress runs, `align` says that it is an alignment heat (rule R98), `refBad` that Assay reports a REFIN clock
fault (rule R375). -/
structure TimeBase where
  now : Nat := 0
  epoch : Nat := 0
  aDisc : Int := 0
  slew : Option Slew := none
  corr : Option Correction := none
  pllLock : Bool := false
  everLocked : Bool := false
  lockEl : Nat := 0
  healthy : Bool := false
  stepped : Bool := false
  seeded : Bool := false
  stepSrc : Bool := false
  refBad : Bool := false
  stepNs : Int := 0
  hStart : Nat := 0
  hEnd : Nat := 0
  align : Bool := false
  deriving DecidableEq, Repr

/-- DISC.STATE.ST (rule R375). -/
inductive DiscSt where
  | off | freerun | freqAcq | locking | locked | holdover | refFault
  deriving DecidableEq, Repr

/-- The disciplining logic (rules R370 to R377). Fractional frequencies and phases (in seconds) are exact rationals;
`var` is σ_x² of the last valid update. `meas` holds the valid measurements of the current second (phase and
variance); the lists `yiHist` (LOCKING and LOCKED), `yiLocked` (LOCKED) and `phHist` (the rebuilt free-running phase)
are newest first. `sinceValid` counts updates without a valid one. -/
structure Disc where
  st : DiscSt := .off
  yi : Rat := 0
  yp : Rat := 0
  x : Rat := 0
  var : Rat := 0
  haveX : Bool := false
  tauLog2 : Nat := 0
  tauTgt : Nat := 0
  code : Nat := 0
  dacLim : Bool := false
  lastCode : Nat := 0
  oscNext : Bool := false
  goodRun : Nat := 0
  badRun : Nat := 0
  reacq : Nat := 0
  sinceValid : Nat := 0
  updates : Nat := 0
  refJumped : Bool := false
  holdT : Nat := 0
  stdEntry : Nat := 0
  holdUnc : Nat := 0
  lastEl : Nat := 0
  meas : List (Rat × Rat) := []
  yiHist : List Rat := []
  yiLocked : List Rat := []
  corrSum : Rat := 0
  phHist : List Rat := []
  deriving DecidableEq, Repr

/-- A time-output schedule (rules R380 to R388). START and WIDTH are in 10 ps steps; `nextK` is the next edge, `left`
the edges a finite schedule still has, `done` that no edge follows, `ended` the heat in which it ended. -/
structure Sched where
  target : Nat := 0
  gate : Nat := 0
  start : Nat := 0
  periodNs : Nat := 0
  div : Nat := 1
  width : Nat := 0
  finite : Bool := false
  left : Nat := 0
  loaded : Bool := false
  nextK : Nat := 0
  emit : Nat := 0
  skip : Nat := 0
  supp : Nat := 0
  trigSlot : Nat := 0
  done : Bool := false
  ended : Option Nat := none
  deriving DecidableEq, Repr

/-- A pulse in progress on a time-output pin: the time-base instant of its end, and its schedule's entry index (none
for the system PPS and after a cancel). -/
structure Pulse where
  pin : Nat
  endAt : Nat
  own : Option Nat
  deriving DecidableEq, Repr

/-- A time-input handle (rule R390); OPEN and CLOSE in 10 ps steps, `used` the edges it has accepted. -/
structure TinArm where
  input : Nat := 0
  edge : Nat := 0
  window : Bool := false
  openPs10 : Nat := 0
  closePs10 : Nat := 0
  count : Nat := 0
  used : Nat := 0
  slot : Nat := 0
  armed : Bool := false
  armHeat : Nat := 0
  deriving DecidableEq, Repr

/-- A captured edge (rules R391, R402); the stamp in 10 ps steps. -/
structure TinEntry where
  stamp : Int
  epoch : Nat
  rising : Bool
  hmask : Nat
  retimed : Bool
  ovfBefore : Bool
  deriving DecidableEq, Repr

/-- One time input: its FIFO, oldest first, whether a drop is to be marked, the elapsed time of the last detected
edge, and the entry its view registers show. -/
structure TinIn where
  fifo : List TinEntry := []
  ovfPend : Bool := false
  lastEdge : Option Nat := none
  view : Option TinEntry := none
  deriving DecidableEq, Repr


/-- The latest time solution (rules R324, R332, R336), as handed to the time base and the disciplining logic: TB_OFF in
2^−16 ns, TIME_STD in 0.01 ns, DRIFT in 0.01 ppb, positions in mm, and the elapsed time of the solution. -/
structure NavSol where
  have_ : Bool := false
  fix : Nat := 0
  nsv : Nat := 0
  pos : List Int := [0, 0, 0]
  vel : List Int := [0, 0, 0]
  hStd : Nat := 0
  vStd : Nat := 0
  tbOff : Int := 0
  timeStd : Nat := 0
  drift : Int := 0
  tref : Nat := 0
  raim : Bool := false
  sbas : Bool := false
  dgnss : Bool := false
  auth : Bool := false
  torn : Bool := false
  ok : Bool := false
  el : Nat := 0
  deriving DecidableEq, Repr


/-! ## Sample lanes, conditioning, combining, front-ends (chapters 4 to 6) -/

/-- LANEn.STATE.ST (rule R169). -/
inductive LaneSt where
  | off | acquire | framing | qualified | stopped | absent | notQualified
  deriving DecidableEq, Repr

/-- A complex number. -/
structure Cx where
  re : Rat := 0
  im : Rat := 0
  deriving DecidableEq, Repr

/-- One conditioned sample as the chain hands it on (rule R219): I and Q of 8 bits each, with its fill and blank flags. -/
structure Smp where
  i : Int := 0
  q : Int := 0
  fill : Bool := false
  blank : Bool := false
  deriving DecidableEq, Repr

/-- A block of a lane with its descriptor (rules R165, R168): the raw stamp in 10 ps steps, the frame period in
2^−16 ns, the gap in ns; `delays` are DELAY0 to DELAY7 as in force at its first frame (rules R167, R168), `at_` the raw stamp's instant in ps on the time base as it
stands, which a step moves. -/
structure Block where
  num : Nat
  frames : Nat
  stamp : Nat
  epoch : Nat
  period : Nat
  fill : Bool := false
  mask : Bool := false
  disc : Bool := false
  rateBad : Bool := false
  gap : Nat := 0
  delays : List Int := []
  at_ : Rat := 0
  deriving DecidableEq, Repr

/-- One sample lane (rules R157 to R180). `cfg` holds FRAME, SLOT_MASK, SLOT_MAP0 to SLOT_MAP3 and DESKEW in force,
`pend` such a commit not yet at its applying frame; `cand` a candidate LnFS edge; `everReal` that real frames came
since OFF or ABSENT was left, `ended` that fill has ended; `lastEl` and `lastStamp` of the last real frame; `fillEl`
the elapsed time up to which fill is paced; `edge` the stamp of the latest LnFS edge, `edgeIn` that it lies in the heat in progress, and `p10` the latest measured
frame period, in 10 ps steps; `first`, `cyc` and `dur` the heat's first LnFS stamp, clock cycles and span; `win` the rate
window, newest first; `lastNom` the last NOM_FCLK other
than 0 and `bookCfg` the configuration committed with it, `winHeat` the first heat that the rate window takes. The cc fields belong to rules R179 and R180. -/
structure Lane where
  st : LaneSt := .off
  cfg : List Word := [0xF0, 0, 0, 0, 0, 0, 0]
  pend : Option (List Word) := none
  cand : Bool := false
  everReal : Bool := false
  fillRun : Bool := false
  ended : Bool := false
  lastEl : Nat := 0
  lastStamp : Nat := 0
  gapPend : Bool := false
  blk : Option Block := none
  nextBlk : Nat := 0
  fillEl : Nat := 0
  edge : Option Nat := none
  edgeIn : Bool := false
  p10 : Nat := 0
  cyc : Nat := 0
  dur : Nat := 0
  gap : Nat := 0
  badHeats : Nat := 0
  goodHeats : Nat := 0
  win : List (Nat × Nat) := []
  tolHeats : Nat := 0
  rcFired : Bool := false
  lastNom : Nat := 0
  bookCfg : List Word := [0xF0, 0, 0, 0, 0, 0, 0]
  winHeat : Nat := 0
  ccOk : Bool := false
  ccRun : List (Int × Int) := []
  ccLost : Bool := false
  unq : Bool := true
  deriving DecidableEq, Repr

/-- A notch (rules R226 to R228): its frequency `w` in sample rate / 2^32, depth in 0.5 dB, the pole's RADIUS as taken from
the acting reference where SLAVED, the section's last input and output, and its input and output power over the heat. -/
structure Notch where
  active : Bool := false
  w : BitVec 32 := 0
  depth : Nat := 0
  slaved : Bool := false
  radius : Nat := 0
  low : Nat := 0
  order : Nat := 0
  x1 : Int × Int := (0, 0)
  y1 : Int × Int := (0, 0)
  inPow : Rat := 0
  outPow : Rat := 0
  deriving DecidableEq, Repr

/-- The conditioning chain of a physical stream (rules R216 to R229). The sums are over the heat in progress: real
samples, blanked ones, DC sums, squares of |I| + |Q|, output squares, counts of the histogram bins (I at b, Q at
16 + b) and outer samples; `hist` is the last complete heat's. `raise_` counts factors of 2^(1/4) on
THR; `thr` is the fourth power of THR, none before the first heat that sets it. `pos` counts the heat's samples, `win` gathers
the samples of a monitor window (newest first), `wins` counts the windows done and `spec` sums their power by bin (rule R225);
`stat` is the conditioning status of the block in progress and `hstat` the OR over the heat's blocks (rule R229). -/
structure Chain where
  last : Int × Int := (0, 0)
  meanI : Rat := 0
  meanQ : Rat := 0
  ext : Nat := 0
  inRun : Bool := false
  thr : Option Rat := none
  raise_ : Nat := 0
  dgain : Rat := 1
  real : Nat := 0
  blanked : Nat := 0
  filled : Bool := false
  sumI : Rat := 0
  sumQ : Rat := 0
  sumSq : Rat := 0
  outSq : Rat := 0
  outer : Nat := 0
  bins : Tab Nat := []
  hist : Tab Nat := []
  notches : Tab Notch := []
  notchSeq : Nat := 0
  runs : Tab Nat := []
  feGain : Nat := 0
  fePer : Nat := 0
  feClamp : Nat := 0
  feLimit : Bool := false
  blankHi : Bool := false
  pos : Nat := 0
  win : List (Int × Int) := []
  wins : Nat := 0
  spec : Tab Rat := []
  stat : Nat := 0
  hstat : Nat := 0
  deriving DecidableEq, Repr

/-- COMB group state (rule R237). -/
inductive GrpSt where
  | free | forming | active | single | absent
  deriving DecidableEq, Repr

/-- A combiner group (rules R230 to R239). Weights are complex, by element; `lost` lists members that have left,
`splitDue` the members whose lane cleared CC_OK since the last boundary. For the aligner (rule R232) `bufs` holds each
element's recent samples with their instants, newest first, and `grid` the instants of the reference's grid still to come
out with the sample period, oldest first, and `gridLast` the last that came out, all in ps. `cov` sums x·x* by 8·row + column over `covN` usable samples, `refPow` and `outPow` the powers of the
acting reference and of the output (rule R233); `dgain`, `outSq` and `outN` belong to the output's gain (rule R234). -/
structure Group where
  st : GrpSt := .free
  entry : Nat := 0
  out : Nat := 0
  n : Nat := 0
  ref : Nat := 0
  act : Nat := 0
  rejoin : Bool := false
  streams : List Nat := []
  delays : List Int := []
  loadDb : Nat := 0
  members : List Nat := []
  splitDue : List Nat := []
  weights : Tab Cx := []
  gdRef : Int := 0
  suppr : Nat := 0
  jump : Bool := false
  bufs : Tab (List (Rat × Smp)) := []
  grid : List (Rat × Rat) := []
  gridLast : Rat := 0
  cov : Tab Cx := []
  covN : Nat := 0
  refPow : Rat := 0
  outPow : Rat := 0
  dgain : Rat := 1
  outSq : Rat := 0
  outN : Nat := 0
  deriving DecidableEq, Repr

/-- FECn.STATE.ST (rule R198). -/
inductive FecSt where
  | off | discover | powerup | lockwait | calibrate | ready | fault
  deriving DecidableEq, Repr

/-- What a UFL transaction is for. -/
inductive UflTag where
  | discover | script (i : Nat) | tune | entry (off : Nat) | status | keepalive | gain (band : Nat) | tone (on : Bool)
  | calBand | calWrite | inj (on : Bool) | raw
  deriving DecidableEq, Repr

/-- A UFL request: operation, address, bytes to write, bytes to read (rules R187, R188). -/
structure UflReq where
  tag : UflTag
  op : Nat
  adr : Nat
  data : List Byte := []
  rd : Nat := 0
  deriving DecidableEq, Repr

/-- One front-end with its link (rules R184 to R202). `q` holds the requests waiting, the first being in progress;
`wait` that it waits 1 µs for its retry; `table` the copied description table, `tune` the bytes of the applied tuning
entry as last read; `el` the elapsed time of the state's present wait, `lockEl` that of the first LOCK after the last
TUNE, `calEl` that of the last calibration's end, `goodEl` that of the last good transaction,
`pollEl` that of the last STATUS, `kaHeat` the heat of the last KEEPALIVE; `calGo` that the calibration in progress began in READY. -/
structure Fec where
  st : FecSt := .off
  q : List UflReq := []
  tries : Nat := 0
  wait : Bool := false
  waitEl : Nat := 0
  table : List Byte := []
  ver : Nat := 0
  entry : Nat := 0
  lock : Bool := false
  injOn : Bool := false
  temp : Option (BitVec 8) := none
  tune : List Byte := []
  haveTune : Bool := false
  scriptPos : Nat := 0
  el : Nat := 0
  lockEl : Option Nat := none
  calEl : Nat := 0
  goodEl : Option Nat := none
  maxGap : Nat := 0
  calStep : Nat := 0
  calHeat : Nat := 0
  calBad : Bool := false
  calReps : Nat := 0
  calBands : List (Nat × List Byte) := []
  calOsc : BitVec 16 := 0
  calStale : Bool := false
  calQueued : Bool := false
  calGo : Bool := false
  sck : Nat := 0
  rawDone : Bool := false
  rawFail : Bool := false
  pollEl : Nat := 0
  kaHeat : Option Nat := none
  deriving DecidableEq, Repr

/-- The state of an injection job (rules R204, R206 to R211): `joining` starts with the next frame of a running lane, `tailWait` with a
lead-in after the tail. -/
inductive InjSt where
  | pendingLock | leadIn | joining | tailWait | active | suspended | ending
  deriving DecidableEq, Repr

/-- Results of one lane and band of a job slot (rules R209, R215). -/
structure InjRes where
  delay : Int := 0
  cn0 : Nat := 0
  valid : Bool := false
  filled : Bool := false
  windows : Nat := 0
  heat : Nat := 0
  deriving DecidableEq, Repr

/-- An injection job: its entry, its arguments, when step 2 began, the heat its window began, and whether the window
is spoilt, for every lane or for some; `cut` that a suspension discarded its window and FILLED is still to be set; `behind` that a
calibration was queued when it was submitted; `afterTail` that it waited when the last job ended; `sec` the whole second its code epochs
are measured from. -/
structure InjJob where
  st : InjSt := .pendingLock
  entry : Nat := 0
  seq : Word := 0
  words : List Word := []
  startEl : Nat := 0
  winHeat : Nat := 0
  spoilt : Bool := false
  badLanes : BitVec 8 := 0
  cut : Bool := false
  behind : Bool := false
  afterTail : Bool := false
  sec : Nat := 0
  deriving DecidableEq, Repr

/-- RLANE.STATE.ST (rule R215). -/
inductive RlSt where
  | idle | leadIn | active | tail | suspended
  deriving DecidableEq, Repr

/-- The return lane (rules R203 to R211): the elapsed time of the lead-in's or tail's start and of the next frame, jobs by slot, results by
64·slot + 8·lane + band, and the heat in which a suspension set SUSPEND. -/
structure Rlane where
  st : RlSt := .idle
  el : Nat := 0
  next : Nat := 0
  jobs : Tab InjJob := []
  res : Tab InjRes := []
  susp : Option Nat := none
  deriving DecidableEq, Repr

/-! ## The Crucible and the tracking channels (chapters 7 and 8) -/

/-- CRUC0.JOB_STAT.PHASE (rule R258). -/
inductive JobPhase where
  | waitMem | armed | capturing | captured | processing | done
  deriving DecidableEq, Repr

/-- A search job (rules R248 to R266): its SRCH_SUBMIT's record words and sequence number, phase, effective priority
and heats since it last rose, booked grains per heat and grains left, snapshot number and words, absolute start instant
or `none` with the heat whose starting boundary is the start, elapsed time and stamp (10 ps steps) of the capture's start, whether its capture waits for the boundary after
an alignment heat, whether it waits for real samples, its restarts and those that
impairments caused, and how it ended, with its place among finished jobs. `left` counts the grains still to process, `seen` the
cells of a STREAM job that CELLS counts already. `capAt` is STAMP in ps, once the first sample is stored, `shift` what steps have added to the time base since, `spoilt` that a stored sample was filled or
lies in a block with DISCONTINUITY or MASK_CHANGE (rule R256). A STREAM job's accumulators (rule R252) are `coh`, the coherent
sums, and `stat`, the statistics, by N·bin + delay cell, `inp` the stored samples of the period in progress, and `pow` the power of all stored ones. -/
structure Job where
  words : List Word := []
  seq : Word := 0
  phase : JobPhase := .waitMem
  prio : Nat := 0
  ageHeats : Nat := 0
  order : Nat := 0
  booked : Nat := 0
  left : Nat := 0
  seen : Nat := 0
  heats : Nat := 0
  snap : Nat := 0
  snapWords : Nat := 0
  start : Option Nat := none
  startHeat : Nat := 0
  holdAlign : Bool := false
  waitReal : Bool := false
  capEl : Nat := 0
  capAt : Option Rat := none
  capEpoch : Nat := 0
  shift : Rat := 0
  spoilt : Bool := false
  coh : Tab Cx := []
  stat : Tab Rat := []
  inp : List (Int × Int) := []
  pow : Rat := 0
  dropped : List (Nat × Nat) := []
  restarts : Nat := 0
  impRestarts : Nat := 0
  retimed : Bool := false
  belowReq : Bool := false
  overrun : Bool := false
  cond : Nat := 0
  cancelled : Bool := false
  torn : Bool := false
  nq : Bool := false
  doneSeq : Nat := 0
  result : Option (List Native) := none
  written : Option Nat := none
  deriving DecidableEq, Repr

/-- A snapshot (rules R247, R252): the runs of words that it holds in the snapshot memory (first word, number), the capture
path's recent input with its instants, newest first, in ps, and how many samples are stored. -/
structure Snap where
  runs : List (Nat × Nat) := []
  hist : List (Rat × Smp) := []
  count : Nat := 0
  deriving DecidableEq, Repr

/-- One dump of a channel (rule R286): its stamp in ps, its period number, and its native words: the taps, the second result
of the prompt tap, and the element prompt taps. -/
structure Dump where
  stamp : Rat
  per : Nat
  taps : List Native
  data : Native
  els : List Native := []
  deriving DecidableEq, Repr

/-- The parameters of a channel with its defaults resolved (rule R277); `codeUnc` in chips and `doppUnc` in 0.1 Hz are exact, as an
absence gives them U and UD (rule R299). -/
structure ChanPrm where
  signal : Nat := 0
  prn : Nat := 0
  stream : Nat := 0
  taps : Nat := 0
  spc : Nat := 0
  vec : Bool := false
  eprompt : Bool := false
  aided : Bool := false
  dllPair : Nat := 0
  tcData : Nat := 0
  tcPilot : Nat := 0
  coastS : Nat := 0
  doppler : Int := 0
  code : Nat := 0
  refSec : Nat := 0
  refNs : Nat := 0
  codeUnc : Rat := 0
  doppUnc : Rat := 0
  pllMax : Nat := 0
  fllMax : Nat := 0
  dllMax : Nat := 0
  aMax : Nat := 0
  deriving DecidableEq, Repr

/-- The states of a channel (rule R299). -/
inductive ChanSt where
  | created | pullin | locked | coast | lost
  deriving DecidableEq, Repr

/-- A tracking channel (rules R277 to R311). `mem` counts its element prompt taps; `stage` is 0 SEARCH, 1 FLL, 2 PLL;
`mig` holds destination billet, slot and the heat that starts at the switching boundary. Counters are in heats unless
they count updates: `run` good updates, `low` and `high` heats under CN0_LOSS and over CN0_LOCK. `usedEl` is the
elapsed time of the last heat whose dumps the loops used, `u0` and `sv` the figures of rule R301 in mm and mm/s;
`flags` gathers word 7's flags of rule R319 since the channel's start. `bw` is the PLL's grid step, `fll` the FLL's bandwidth in Hz; `exclHeat` the heat of the last exclusion.
THE SLOT (rules R283 to R290): `run_` says that the NCOs have started; `cph` carrier phase in 2^−32 cycle, `cfreq` carrier
frequency in 2^−16 Hz, `kph` code phase in 2^−32 chip, `krate` code rate in 2^−24 chip/s; `off` the taps' centre against the
code NCO in 2^−32 chip and `base` that of an aided search's window; `per` the primary periods since the start; `acc` and `part` the sums of the period in progress after and
before the last heat boundary (taps, second result, element taps); `dumps` those of the heat in progress; `nextAt` the instant of
the next sample in ps; `cp` the accumulated carrier phase in cycles, `endPh` and `endCp` the code phase since period 0 in ms and that phase at the last heat's
end (rules R321, R323), `aoaSum` the sums of the angle-of-arrival test by element (rule R346), `filled` that a sample of the heat was filled, `lastS` the last sample; `els` the elements of its element taps; `l6` the
prompt samples of the symbol with their code phases and `shift` the code shift of the last symbol decided (rule R288).
THE LOOPS (rules R292 to R298, R303 to R305): `nco` the NCO values that take effect at the next boundary; `vel` Doppler in Hz,
`accl` its rate, `jerk` the filtered jerk, `ccor` the code correction in chip/s, `resid` the last code discriminator in chips;
`isum` and `icnt` the integration in progress, `prev` the prompt of the one before; `prom` the last prompts and `fdis` the last FLL
discriminators, newest first; `m2` and `m4` the moments of the prompt; `hist` and `histN` the histogram of sign changes, `signs` the
last prompts' signs of the data and pilot components; `symOff` and `secOff` the alignments found, `clBest` the best CL power and
its period among the `clN` tested; `dop` the loops' Doppler in Hz; `dw` sums a dwell of `dwN` periods at step `dwAt`, `dwDone` the dwells ended; `txMs` the transmit time at which
period 0 started, in ms, once the firmware has read it; `rel` and `relC` what a switch still has to ramp out (rule R310). -/
structure Chan where
  prm : ChanPrm := {}
  mem : Nat := 0
  st : ChanSt := .created
  stage : Nat := 0
  startHeat : Nat := 0
  billet : Nat := 0
  slot : Nat := 0
  mig : Option (Nat × Nat × Nat) := none
  pull : Nat := 0
  run : Nat := 0
  low : Nat := 0
  high : Nat := 0
  coast : Nat := 0
  lockT : Nat := 0
  impaired : Bool := false
  impRun : Nat := 0
  wasAbsent : Bool := false
  plock : Bool := false
  plockLost : Bool := false
  flock : Bool := false
  cn0 : Nat := 0
  cn0Heats : Nat := 0
  bitSync : Bool := false
  secSync : Bool := false
  frameSync : Bool := false
  halfRes : Bool := false
  syncHeats : Nat := 0
  coupled : Bool := false
  excl : Bool := false
  exclRun : Nat := 0
  exclHeat : Option Nat := none
  ramp : Nat := 0
  bw : Nat := 0
  fll : Rat := 0
  fllUpd : Nat := 0
  dll : Rat := 0
  dopp : Int := 0
  run_ : Bool := false
  cph : BitVec 32 := 0
  cfreq : Int := 0
  kph : Nat := 0
  krate : Int := 0
  off : Int := 0
  base : Int := 0
  per : Nat := 0
  acc : List Cx := []
  part : List Cx := []
  epoch : Bool := false
  dumps : List Dump := []
  nextAt : Rat := 0
  cp : Rat := 0
  endPh : Rat := 0
  endCp : Rat := 0
  aoaSum : Tab Cx := []
  els : List Nat := []
  l6 : List (Cx × Nat) := []
  shift : Nat := 0
  nco : Option (Int × Int) := none
  vel : Rat := 0
  accl : Rat := 0
  jerk : Rat := 0
  ccor : Rat := 0
  resid : Rat := 0
  isum : List Cx := []
  icnt : Nat := 0
  prev : Option Cx := none
  prom : List Cx := []
  fdis : List Rat := []
  m2 : Rat := 0
  m4 : Rat := 0
  hist : Tab Nat := []
  histN : Nat := 0
  signs : List (Bool × Bool) := []
  symOff : Nat := 0
  secOff : Nat := 0
  clBest : Rat × Nat := (0, 0)
  clN : Nat := 0
  dop : Rat := 0
  filled : Bool := false
  lastS : Smp := {}
  dw : List Rat := []
  dwN : Nat := 0
  dwAt : Nat := 0
  dwDone : List (Nat × List Rat) := []
  sym : Cx := {}
  symNow : Cx := {}
  txMs : Int := 0
  rel : Rat := 0
  relC : Rat := 0
  std : List Nat := []
  usedEl : Nat := 0
  u0 : Nat := 0
  sv : Nat := 0
  eph : Bool := false
  slip : Bool := false
  torn : Bool := false
  overrun : Bool := false
  split : Bool := false
  lockedOnce : Bool := false
  tryEl : Nat := 0
  flags : Nat := 0
  aoaEl : Nat := 0
  aoaValid : Bool := false
  aoaBad : Bool := false
  aoaRun : Nat := 0
  rho : Nat := 0
  deriving DecidableEq, Repr

/-! ## Measurements, navigation and authentication (chapter 9) -/

/-- A subscription (rules R325 to R329): its SUBSCRIBE's record words, MEAS slot, next SEQ, wraps, whether it is
attached, whether its next instant carries RETIMED, per channel the OR of the flags since its last record, the records
formed and not yet written with the heat whose starting boundary writes them, and whether a DMA fault stopped it. -/
structure Sub where
  words : List Word := []
  slot : Nat := 0
  seq : Nat := 0
  wraps : Nat := 0
  attached : Bool := false
  retimed : Bool := false
  acc : Tab Nat := []
  owed : List (Nat × List Native) := []
  faulted : Bool := false
  deriving DecidableEq, Repr

/-- Survey and threat state of the navigation engine (rules R333, R347 to R350): survey state, seconds and largest
standard deviation; the indicators, the heats for which each condition has held, and since which heat it is absent; and
the correction state. `calOk` and `calSec` are by combiner group, `bias` in cycles by 8·group + element; `vecOk` says that the estimator
could couple at the last boundary, `survEnd` is the mean of a survey that ends at this boundary. -/
structure Nav where
  survSt : Nat := 0
  survS : Nat := 0
  survEl : Nat := 0
  survStd : Nat := 0
  ind : BitVec 9 := 0
  held : Tab Nat := []
  gone : Tab Nat := []
  level : Nat := 0
  calOk : BitVec 8 := 0
  calSec : Tab Nat := []
  bias : Tab Rat := []
  baseOk : Bool := false
  baseEl : Option Nat := none
  ignored : Nat := 0
  innovCode : Nat := 0
  innovRate : Nat := 0
  nbias : Nat := 0
  solnOk : Bool := false
  ciBuf : List Byte := []
  common : Bool := false
  authBad : Bool := false
  vecOk : Bool := false
  survEnd : Option (List Int) := none
  deriving DecidableEq, Repr

/-- State of the data of one Galileo satellite (rules R342, R345, R357): ADKD 0, 4 and 12, coded 0 none, 1 pending,
2 OK, 3 fail; verified tag bits; the AUTH state of the data in use. -/
structure SatAuth where
  adkd0 : Nat := 0
  adkd4 : Nat := 0
  adkd12 : Nat := 0
  bits : Nat := 0
  deriving DecidableEq, Repr

/-- OSNMA (rules R342 to R345): public key and root states, whether an unsupported root is in force, the stall of the
crypto requests, satellites by PRN, tags kept until time is known. -/
structure Auth where
  pk : Nat := 0
  root : Nat := 0
  unsupported : Bool := false
  stall : Bool := false
  sats : Tab SatAuth := []
  kept : List (Nat × Nat × Nat × Bool × Nat) := []
  reqEl : Option Nat := none
  done : Nat := 0
  worst : Nat := 0
  deriving DecidableEq, Repr

/-! ## Network time ports (chapter 11) -/

/-- What an Announce told of a foreign master (rules R415 to R419): its port identity and network address, the
grandmaster's identity and quality, steps, local priority, flags, UTC offset, and the elapsed time it arrived. -/
structure Foreign where
  src : Nat
  who : Nat := 0
  ann : AnnIn
  lprio : Nat := 128
  el : Nat := 0
  deriving DecidableEq, Repr

/-- A Sync as received, times in ns: its source, sequence number, stamp t2, origin time with the corrections known so
far, whether a Follow_Up is awaited, and the steps applied before it. -/
structure SyncRx where
  src : Nat
  seq : Nat
  t2 : Rat
  t1 : Rat := 0
  wait : Bool := false
  steps : Nat := 0
  deriving DecidableEq, Repr

/-- A request this port sent and awaits, times in ns: its sequence number, egress stamp and the steps applied before it;
for Pdelay the responder, its receipt time t2, and the response's ingress stamp and correction. -/
structure ReqTx where
  seq : Nat
  t3 : Rat
  steps : Nat
  src : Nat := 0
  t2p : Rat := 0
  t4 : Option Rat := none
  corr : Rat := 0
  deriving DecidableEq, Repr

/-- A unicast grant: the partner's address, the message type (0xB Announce, 0x0 Sync, 0x9 Delay_Resp), the interval, the
elapsed time of its end, its duration in seconds (0 while none was granted), the renewals repeated and when the last
request was. -/
structure Grant where
  who : Nat
  typ : Nat
  log2 : Int
  endEl : Nat := 0
  dur : Nat := 0
  tries : Nat := 0
  askEl : Option Nat := none
  lastEl : Nat := 0
  deriving DecidableEq, Repr

/-- One Ethernet port (rules R403 to R433). `ps` is STAT.PSTATE; `parent` the parent's port identity; `annEl` the elapsed
time of the last Announce of the parent, or of entry to LISTENING; `qualEl` that of entry to PRE_MASTER; `paths` the last
16 path delays in ns, newest first; `second` the valid exchanges of the current second (t2 − t1, x and variance); `uni` the
grants to slaves, `mine` its own as a slave; `umt` the copied unicast master table (local priority, address). -/
structure EthPort where
  link : Bool := false
  speed : Nat := 0
  anDone : Bool := false
  ps : Nat := 3
  parent : Nat := 0
  foreign : List Foreign := []
  annEl : Nat := 0
  qualEl : Nat := 0
  sync : Option SyncRx := none
  dreq : Option ReqTx := none
  pdreq : Option ReqTx := none
  paths : List Rat := []
  offset : Rat := 0
  second : List (Rat × Rat × Rat) := []
  seqSync : Nat := 0
  seqAnn : Nat := 0
  seqReq : Nat := 0
  syncEl : Nat := 0
  annTxEl : Nat := 0
  reqEl : Nat := 0
  uni : List Grant := []
  mine : List Grant := []
  umt : List (Nat × Nat) := []
  umtDur : Nat := 0
  qlRx : Nat := 0
  qlTx : Nat := 0
  rxValid : Bool := false
  qlEl : Nat := 0
  esmcEl : Nat := 0
  deriving DecidableEq, Repr

/-- The PTP of the whole clock (rules R418 to R420, R437): what DS, UTC, GM_ID and SLAVE show. -/
structure PtpInst where
  cls : Nat := 0xF8
  acc : Nat := 0xFE
  tsrc : Nat := 0xFE
  var : Nat := 0xFFFF
  steps : Nat := 0
  utc : Int := 0
  utcValid : Bool := false
  leap59 : Bool := false
  leap61 : Bool := false
  trace : Bool := false
  gm : Nat := 0
  slave : Option Nat := none
  deriving DecidableEq, Repr

/-! ## UARTs (chapter 14) -/

/-- One UART (rules R506 to R516): its FIFOs with PE and FE flags, the byte in transmission and CFG as that began, CFG
before the last commit, the line's state, and the RTCM parser's bytes. -/
structure Uart where
  rx : List (Byte × Bool × Bool) := []
  tx : List Byte := []
  sending : Option Byte := none
  inForce : Word := 0
  rxOld : Word := 0
  lineDead : Bool := false
  inBreak : Bool := false
  ctsHigh : Bool := false
  lastEl : Nat := 0
  idleDone : Bool := true
  feWait : Bool := false
  parse : List Byte := []
  deriving DecidableEq, Repr

/-! ## Assay, update, boot (chapters 15, 16, 1) -/

/-- A sensor or monitor (rules R527, R528): reading, whether it lies in WARN and in FAULT, whether the excursion is below
the limit, and the consecutive samples that speak for a change of each. -/
structure Sensor where
  val : Int := 0
  warn : Bool := false
  fault : Bool := false
  low : Bool := false
  warnRun : Nat := 0
  faultRun : Nat := 0
  deriving DecidableEq, Repr

/-- UPD.STAT.ST (rule R541). -/
inductive UpdSt where
  | idle | erasing | ready | writing | verifying | staged | failed
  deriving DecidableEq, Repr

/-- An image in a slot (rules R534, R538): whether it is valid, its VERSION, ROLLBACK, FLAGS and key slot. -/
structure SlotInfo where
  ok : Bool := false
  version : Nat := 0
  rollback : Nat := 0
  flags : Nat := 0
  key : Nat := 0
  deriving DecidableEq, Repr

/-- The update path and the boot control block (rules R536 to R544). `op` is the update command whose flash operation runs
(0 none), with the bytes and offset it took; `stop` that ABORT ends it; `slots` the two images; the ses fields serve rule
R544: the frame awaiting its answer (TYPE and SEQ), the last SEQ answered with its bytes, the rate and the rate to come. -/
structure Upd where
  st : UpdSt := .idle
  result : Nat := 0
  op : Nat := 0
  viaUart : Bool := false
  stop : Bool := false
  bytes : List Byte := []
  imgLen : Nat := 0
  offset : Nat := 0
  running : Nat := 0
  active : Nat := 0
  trial : Option Nat := none
  tried : Bool := false
  bseq : Nat := 0
  slots : Tab SlotInfo := []
  trialEl : Option Nat := none
  session : Bool := false
  sesWait : Option (Nat × Nat) := none
  sesSeq : Option Nat := none
  sesAns : List Byte := []
  sesRate : Nat := 115200
  sesNext : Option (Nat × Nat) := none
  sesGood : Nat := 0
  sesBaud : Bool := false
  flashId : Nat := 0
  deriving DecidableEq, Repr

/-- The boot and Anneal (rules R563 to R570): whether the ROM waits for the time-base lock, the candidate slot that
verified, since when no slot is valid, whether Anneal has created its channels, the PRNs tried (signal, PRN), the boot count,
whether the system NMEA output runs, and the elapsed time of reset release. -/
structure Boot where
  rom : Bool := false
  slot : Option Nat := none
  noSlot : Option Nat := none
  made : Bool := false
  tried : List (Nat × Nat) := []
  count : Nat := 0
  nmea : Bool := false
  relEl : Nat := 0
  deriving DecidableEq, Repr

/-- A crypto request as sealed (rules R547, R548), with the STATUS that its form gives. -/
structure Sealed where
  op : Nat
  tag : Nat
  key : List Byte
  inp : List Byte
  sig : List Byte
  out : Nat
  bad : Nat
  deriving DecidableEq, Repr

/-- What Assay gathers of an island's critical-path monitor (rules R42 to R44): whether its clock is stretched now, whether
it was in the window or LIMIT was set, and the window's minimum margin. -/
structure Temper where
  now : Bool := false
  any : Bool := false
  min : Option Nat := none
  deriving DecidableEq, Repr

/-- Assay's loops (rules R37, R41 to R48, R523, R527 to R529, R548): sensors (0 to 7 temperatures, 8 + k monitor k), the
supervision counts, clock windows beyond and within limits by bit of CLK_FAULT, the islands' monitors, windows for a fall,
the VDD_CORE setpoint with the last acknowledged one and the command that waits, whether the loop runs, the reset of the
island in progress, the sealed crypto requests with the ring indices, and when each retention row was last written from a
message (rule R551). -/
structure AssaySt where
  sens : Tab Sensor := []
  badV : Nat := 0
  badI : Nat := 0
  clkBad : Tab Nat := []
  clkGood : Tab Nat := []
  clkOut : Tab Bool := []
  temper : Tab Temper := []
  winHeat : Nat := 0
  down : Nat := 0
  setMv : Nat := 750
  ackMv : Nat := 750
  avsReq : Option Nat := none
  avsTries : Nat := 0
  avsEl : Nat := 0
  loopEn : Bool := false
  supEl : Nat := 0
  inWdog : Bool := false
  queue : List Sealed := []
  reqIdx : Nat := 0
  ansIdx : Nat := 0
  done : Nat := 0
  retEl : Tab (Option Nat) := []
  deriving DecidableEq, Repr

/-! ## The host port (chapter 14) -/

/-- The host port (rules R495 to R505): Bus Master Enable and whether the memory requests it permits are in force
(rule R499), whether the function is in
D3hot and PERST_N low, and the exchange window's staging register and read latch (rule R498). -/
structure HostSt where
  bme : Bool := false
  dma : Bool := false
  d3hot : Bool := false
  perst : Bool := false
  stage : BitVec 64 := 0
  latch : Option (Nat × BitVec 40) := none
  deriving DecidableEq, Repr

/-- A frame that came on the tick of a heat boundary still to be worked (rule R181): its lane, stamp, elapsed time and what
the frame brought. -/
structure FrameEv where
  lane : Nat
  stamp : Nat
  el : Nat
  fs : FsSample
  header : BitVec 8
  codes : List (BitVec 8 × BitVec 8)
  drops : List Nat
  deriving DecidableEq, Repr

/-! ## The whole state -/

/-- How a PTP message leaves (rules R411 to R413): the transport, its Ethernet address on transport 0, its UDP port on the
others, the VLAN tag (VLAN_ID, VLAN_PCP), the version and domain of its header, a UDP checksum sent as 0, and the bytes
at the end of the UDP payload that keep the checksum correct. -/
structure PtpVia where
  transport : Nat := 0
  mac : Nat := 0
  udp : Nat := 0
  tag : Option (Nat × Nat) := none
  version : Nat := 2
  minor : Nat := 1
  domain : Nat := 0
  sum0 : Bool := false
  tail : Nat := 0
  deriving DecidableEq, Repr

/-- What the block puts on its pins and links at an event (log entry 8). -/
inductive Output where
  | msix (vector : Nat)
  | trigger (core slot : Nat) (k : Word)
  | oscSpi (div mode bits : Nat) (frame : Nat)
  | oscPwm (div code : Nat)
  | toutRise (pin : Nat) (k : Nat)
  | toutFall (pin : Nat)
  | ufl (link : Nat) (bytes : List Byte)
  | rlClock (on : Bool)
  | rlFrame (at_ : Nat) (header : Byte) (slots : List (Int × Int))
  | uartChar (uart : Nat) (char : Byte) (bits : List Bool)
  | ptp (port msg seq : Nat) (fields : List Int) (via : PtpVia)
  | eth (port : Nat) (frame : List Byte)
  | esmc (port ql : Nat) (event : Bool)
  | resolve (port : Nat) (v6 : Bool) (mac ip toMac toIp : Nat)
  | avs (mv : Nat)
  | spi (bytes : List Byte)
  | alive (level : Bool)
  deriving DecidableEq, Repr

/-- The state of the block. `io33` says that the VDDIO_B bank's input thresholds are those for 3.3 V (rule R587), and `por`
which rails hold the power-on monitor (rule R590). The fuses hold
PCI_ID (rules R519, R525); none of the others is blown (log entry 5). -/
structure State where
  pending : List Instr := []
  inReset : Bool := true
  io33 : Bool := false
  regs : Tab Word := []
  shadow : Tab Word := []
  grp : List (Nat × Nat) := []
  goCnt : Nat := 0
  hostMem : Tab Word := []
  hostRead : Word := 0
  outbox : List Output := []
  freeCtr : Nat := 0
  msixReq : BitVec 32 := 0
  msixMask : BitVec 32 := 0xFFFFFFFF
  msixPba : BitVec 32 := 0
  msixFuncMask : Bool := false
  msixOn : Bool := false
  cores : Tab Core := []
  measRam : Tab Native := []
  exch : Tab Native := []
  bad : Tab Bool := []
  tb : TimeBase := {}
  disc : Disc := {}
  touts : Tab Sched := []
  pulses : List Pulse := []
  ppsLast : Nat := 0
  tinArms : Tab TinArm := []
  tins : Tab TinIn := []
  sol : NavSol := {}
  lanes : Tab Lane := []
  chains : Tab Chain := []
  groups : Tab Group := []
  fecs : Tab Fec := []
  rl : Rlane := {}
  jobs : Tab Job := []
  jobSeq : Nat := 0
  nextSnap : Nat := 1
  snaps : Tab Snap := []
  snapMem : Tab Native := []
  work : Tab Nat := []
  lateFrames : List FrameEv := []
  lateUnits : List Nat := []
  floorJob : Option Nat := none
  rrPhase : Bool := true
  cells : Nat := 0
  chans : Tab Chan := []
  placeHeat : Nat := 0
  subs : Tab Sub := []
  nav : Nav := {}
  auth : Auth := {}
  eth : Tab EthPort := []
  ptp : PtpInst := {}
  steps : Nat := 0
  uarts : Tab Uart := []
  assay : AssaySt := {}
  upd : Upd := {}
  boot : Boot := {}
  flash : Tab Byte := []
  por : BitVec 3 := 0
  alive : Bool := false
  fuses : BitVec 4096 := BitVec.ofNat 4096 (0x72401F5C * 2 ^ 896)
  armAt : Option Nat := none
  el : Nat := 0
  heat : Nat := 0
  cmd : CmdSt := {}
  host : HostSt := {}
  fault : FaultSt := {}
  log : LogSt := {}
  bk : Backup := {}
  deriving DecidableEq, Repr

/-- Reasons a command stops with a fault. No meaning of this model raises one: every command of the table runs. -/
inductive Fault where
  /-- Raised by nobody: the block keeps running on every command; safe. -/
  | none
  deriving DecidableEq, Repr

/-- Reasons a command is refused. -/
inductive Refusal where
  /-- Raised by an arm of exec whose command has no meaning yet; safe. -/
  | notModelled (mnemonic : String)
  deriving DecidableEq, Repr

/-- The state right after reset (rule R16): the reset line still low, every register at its reset value. -/
def State.reset : State := {}

end Sys2Proof.Machine
end

