-- ==== Sys2Proof/Machine/Ops.lean ====
section
/-! DEFINITION. The named operations over registers, memories, interrupts and errors that every meaning uses. -/

namespace Sys2Proof.Machine

/-- What a meaning answers. -/
abbrev Out := Host.Outcome State Fault Refusal

/-! ## Bits and numbers -/

/-- Bits hi to lo of a word, as a number. -/
def fld (v : Word) (hi lo : Nat) : Nat := (v.toNat >>> lo) % 2 ^ (hi + 1 - lo)

/-- A word with bits hi to lo replaced (a value too wide is cut). -/
def setFld (v : Word) (hi lo : Nat) (x : Nat) : Word :=
  let m := (2 ^ (hi + 1 - lo) - 1) <<< lo
  (v &&& ~~~(BitVec.ofNat 32 m)) ||| BitVec.ofNat 32 ((x % 2 ^ (hi + 1 - lo)) <<< lo)

/-- The two's complement reading of a w-bit number (rule R7). -/
def signed (w x : Nat) : Int := if x < 2 ^ (w - 1) then (x : Int) else (x : Int) - 2 ^ w

/-- The signed field hi to lo of a word. -/
def sfld (v : Word) (hi lo : Nat) : Int := signed (hi + 1 - lo) (fld v hi lo)

/-- A signed number as a 32-bit word, limited to the extremes. -/
def satWord (x : Int) : Word := BitVec.ofInt 32 (max (-2147483648) (min 2147483647 x))

/-- A Bool as a bit. -/
def b2n (b : Bool) : Nat := if b then 1 else 0

/-- Clamp an integer between two bounds. -/
def clampInt (lo hi x : Int) : Int := max lo (min hi x)

/-- The ceiling of a quotient of naturals. -/
def ceilDiv (a b : Nat) : Nat := (a + b - 1) / b

/-- Insert a number into a rising list. -/
def insNat (x : Nat) : List Nat → List Nat
  | [] => [x]
  | y :: l => if x ≤ y then x :: y :: l else y :: insNat x l

/-- A list of numbers in rising order. -/
def sortNat (l : List Nat) : List Nat := l.foldr insNat []

/-- Round up or down freely where the spec names no rounding (log entry 11). -/
def roundFree (x : Rat) : Int :=
  if x.den = 1 then x.num
  else if Config.roundUp x.num x.den then ⌊x⌋ + 1 else ⌊x⌋

/-- The square root of a rational times a scale, in whole numbers; rounded freely where it is not exact. -/
def sqrtScaled (x : Rat) (scale : Nat) : Nat :=
  let n := ⌊x * scale * scale⌋.toNat
  let r := Nat.sqrt n
  if (r * r : Rat) = x * scale * scale then r else if Config.roundUp n 2 then r + 1 else r

/-- The sum of some rationals. -/
def sumRat (l : List Rat) : Rat := l.foldl (· + ·) 0

/-- The mean of some rationals; 0 of none. -/
def meanRat (l : List Rat) : Rat := if l.isEmpty then 0 else sumRat l / l.length

/-- The absolute value of a rational. -/
def absRat (x : Rat) : Rat := if x < 0 then -x else x

/-- Clamp a rational. -/
def clampRat (lo hi x : Rat) : Rat := if x < lo then lo else if hi < x then hi else x

/-! ## The register store -/

/-- Address in the window of an offset of a page (rule R60). -/
def addr (p off : Nat) : Nat := p * 0x1000 + off

/-- PG_ID (rule R65). -/
def pgId (p : Nat) : Word :=
  match pageType p with
  | none => 0
  | some t => BitVec.ofNat 32 (t.code + pageInst p * 0x10000 + 0x01000000)

/-- A VLIM word from its low and high limits (rule R554). -/
def vlimWord (lo hi : Nat) : Word := BitVec.ofNat 32 (lo + hi * 65536)

/-- The limits of voltage monitor `mon` at reset (rule R527); for monitors 0 to 7 offsets from the setpoint. -/
def vlimReset (mon : Nat) : Word :=
  if mon ≤ 7 then vlimWord 40 40
  else if mon ≤ 9 then vlimWord 760 840
  else if mon ≤ 11 then vlimWord 808 892
  else if mon ≤ 13 then vlimWord 1140 1260
  else if mon ≤ 17 then vlimWord 1710 1890
  else if mon ≤ 19 then vlimWord 1620 3630
  else if mon = 20 then vlimWord 1700 3600
  else if mon = 22 then vlimWord 950 1050
  else vlimWord 760 840

/-- The reset value of every register of the store (rules R16, R64 and the register tables). -/
def regReset (a : Nat) : Word :=
  let p := a / 0x1000
  let off := a % 0x1000
  if a ≥ 0x100000 then (if a < 0x100018 then vlimReset (a - 0x100000) else 0)
  else if pageType p = none then 0
  else if off = 0x000 then pgId p
  else if off = 0x004 then 0x01010001
  else if off = 0x00C then (if enResetsTo0 p then 0 else 1)
  else if off < 0x040 then 0
  else match regAt p off with
    | none => 0
    | some r => BitVec.ofNat 32 r.reset

/-- The stored (applied) value of a register. -/
def State.reg (s : State) (p off : Nat) : Word := Tab.get regReset s.regs (addr p off)

/-- Store a register. -/
def State.setReg (s : State) (p off : Nat) (v : Word) : State :=
  { s with regs := Tab.set regReset s.regs (addr p off) v }

/-- The shadow copy of a register (rule R15). -/
def State.shad (s : State) (p off : Nat) : Word := Tab.get regReset s.shadow (addr p off)

/-- Write a shadow copy. -/
def State.setShad (s : State) (p off : Nat) (v : Word) : State :=
  { s with shadow := Tab.set regReset s.shadow (addr p off) v }

/-- A field of a stored register. -/
def State.rf (s : State) (p off hi lo : Nat) : Nat := fld (s.reg p off) hi lo

/-- Store a field of a register. -/
def State.setRf (s : State) (p off hi lo x : Nat) : State :=
  s.setReg p off (setFld (s.reg p off) hi lo x)

/-- The window does not answer its port: reset, and on the PCIe strap D3hot (rule R501) or PERST_N low. -/
def State.winOff (s : State) : Bool :=
  s.inReset || (s.rf 0x000 0x050 0 0 == 0 && (s.host.d3hot || s.host.perst))

/-- A host read that also acts: its answer, and what it latches; a window that does not answer reads all ones. -/
def State.readRow (s : State) (v : Word) (f : State → State) : State :=
  if s.winOff then { s with hostRead := 0xFFFFFFFF } else { f s with hostRead := v }

/-- Apply a function where a condition holds, else leave the state. -/
def State.when (s : State) (c : Bool) (f : State → State) : State := if c then f s else s

/-! ## Free values (log entry 4) -/

/-- The free number at the counter, cut to at most `bound`. -/
def State.free (s : State) (bound : Nat) : Nat := Config.freeNat s.freeCtr % (bound + 1)

/-- Go on to the next free number. -/
def State.bump (s : State) : State := { s with freeCtr := s.freeCtr + 1 }

/-- Put something on a pin or link (log entry 8). -/
def State.emit (s : State) (o : Output) : State := { s with outbox := o :: s.outbox }

/-! ## Counters, interrupts and errors (rules R82 to R89) -/

/-- One more in a counter word of the form of PG_ERR_CNT: stops at 0xFFFF and marks SAT there (rules R85, R86). -/
def cntUp (v : Word) : Word :=
  if fld v 15 0 ≥ 0xFFFE then setFld (setFld v 15 0 0xFFFF) 16 16 1 else setFld v 15 0 (fld v 15 0 + 1)

/-- Count `n` more in a counter word. -/
def cntAdd (v : Word) (n : Nat) : Word :=
  if fld v 15 0 + n ≥ 0xFFFF then setFld (setFld v 15 0 0xFFFF) 16 16 1 else setFld v 15 0 (fld v 15 0 + n)

/-- Count an event in a register of that form. -/
def State.count (s : State) (p off : Nat) : State := s.setReg p off (cntUp (s.reg p off))

/-- PG_IRQ_PND: RAW and EN (rule R87). -/
def State.pnd (s : State) (p : Nat) : Word := s.reg p 0x014 &&& s.reg p 0x018

/-- A page is pending (rule R88). -/
def State.pagePending (s : State) (p : Nat) : Bool := (pageType p).isSome && s.pnd p != 0

/-- ROUTEp (rule R89). -/
def State.route (s : State) (p : Nat) : Word := s.reg 0x000 (0x400 + 4 * p)

/-- The pending pages among those with an interrupt enabled: PG_IRQ_EN resets to 0, so only a listed one can be. -/
def State.pendingPages (s : State) : List Nat :=
  (s.regs.filter fun e => e.1 % 0x1000 == 0x018 && s.pagePending (e.1 / 0x1000)).map fun e => e.1 / 0x1000

/-- An MSI-X vector is in request while any page routed to it is pending (rule R89). -/
def State.vecReq (s : State) (v : Nat) : Bool :=
  s.pendingPages.any fun p => fld (s.route p) 10 10 == 1 && fld (s.route p) 4 0 == v

/-- Send a vector's message, or keep it pending in the pending-bit array while it is masked (rules R89, R498). -/
def State.msixSend (s : State) (v : Nat) : State :=
  if s.msixOn then
    (if s.msixFuncMask || s.msixMask.getLsbD v then { s with msixPba := s.msixPba ||| BitVec.ofNat 32 (2 ^ v) }
     else s.emit (.msix v))
  else s

/-- Bring the request of one vector up to date; its message goes out when the request rises (rule R89). When it falls, a message
that waits in the pending-bit array is taken back, as PCI Express 3.0 has it. -/
def State.syncVec (s : State) (v : Nat) : State :=
  let bit := BitVec.ofNat 32 (2 ^ v)
  if s.vecReq v then
    (if s.msixReq.getLsbD v then s else ({ s with msixReq := s.msixReq ||| bit }).msixSend v)
  else { s with msixReq := s.msixReq &&& ~~~bit, msixPba := s.msixPba &&& ~~~bit }

/-- Bring every vector up to date, after a change of enables, routes or pending bits. -/
def State.syncIrq (s : State) : State := (List.range 32).foldl State.syncVec s

/-- An event sets its bit in PG_IRQ_RAW, whatever PG_IRQ_EN holds, and a page that becomes pending puts its vector
in request (rules R87 to R89). -/
def State.raise (s : State) (p bit : Nat) : State :=
  let s1 := s.setReg p 0x014 (s.reg p 0x014 ||| BitVec.ofNat 32 (2 ^ bit))
  if s1.pagePending p && fld (s1.route p) 10 10 == 1 then s1.syncVec (fld (s1.route p) 4 0) else s1

/-- One more error on a page (rules R84 to R86): PG_ERR_CNT counts it; the step to 0xFFFF raises ERR_SAT. -/
def State.countErr (s : State) (p : Nat) : State :=
  let s1 := s.count p 0x024
  if fld (s.reg p 0x024) 15 0 = 0xFFFE then s1.raise p 3 else s1

/-- Count an error with a code and capture it in PG_ERR_CODE when nothing is captured there (rules R82, R84). -/
def State.capErr (s : State) (p code off : Nat) : State :=
  let s1 := s.countErr p
  if fld (s1.reg p 0x020) 31 31 = 1 then s1
  else (s1.setReg p 0x020 (BitVec.ofNat 32 (code % 256 + (off / 4 % 1024) * 256 + 0x80000000))).raise p 2

/-! ## Memories (rule R57) -/

/-- Numbers of the memories for the uncorrectable-word marks: 0 to 8 instruction RAM of core k, 9 to 17 its X, 18 to
26 its Y, 27 measurement RAM, 28 exchange memory, 29 snapshot memory, 30 to 45 channel state of billet n, 46 handle
table, 47 to 50 Ethernet buffers, 51 boot ROM, 52 event log, 53 fuses, 54 retention memory. -/
def badKey (mem a : Nat) : Nat := mem * 0x1000000 + a

/-- Whether a word holds an uncorrectable error (rule R53). -/
def State.isBad (s : State) (mem a : Nat) : Bool := Tab.get (fun _ => false) s.bad (badKey mem a)

/-- Mark or unmark a word as uncorrectable; a write makes a word good again. -/
def State.setBad (s : State) (mem a : Nat) (b : Bool) : State :=
  { s with bad := Tab.set (fun _ => false) s.bad (badKey mem a) b }

/-- An access or a crossing meets a word (rules R52, R53, R56): an uncorrectable one is counted and captured on the page that owns
its memory. -/
def State.meet (s : State) (page mem a : Nat) : State := if s.isBad mem a then s.capErr page 0x20 0 else s

/-- The same for n words of exchange memory from an address, which is read whole (rules R52, R56). -/
def State.meetEx (s : State) (base n : Nat) : State :=
  (List.range n).foldl (fun s i => s.meet 0x003 28 ((base + i) % 0x10000)) s

/-! ### The code (rules R51, R54; the places of the bits are log entry 90) -/

/-- The places of a code word that hold data: those that are no power of two. -/
def eccPlaces : List Nat := ((List.range 80).drop 1).filter fun i => !([1, 2, 4, 8, 16, 32, 64].contains i)

/-- The place of stored bit i of a word of n data bits: its data, then the seven check bits. -/
def eccPlace (n i : Nat) : Nat := if i < n then eccPlaces.getD i 0 else 2 ^ (i - n)

/-- The syndrome of n data bits and seven check bits: the exclusive or of the places of the bits that are 1. -/
def eccSyndrome (n v : Nat) : Nat := (List.range (n + 7)).foldl (fun a i => if v.testBit i then Nat.xor a (eccPlace n i) else a) 0

/-- Parity of the first m bits. -/
def eccParity (m v : Nat) : Nat := (List.range m).foldl (fun a i => (a + b2n (v.testBit i)) % 2) 0

/-- A word as stored: n data bits, seven check bits of a Hamming code, and the parity of all the others. -/
def eccStored (n v : Nat) : Nat :=
  let w := v % 2 ^ n + eccSyndrome n (v % 2 ^ n) * 2 ^ n
  w + eccParity (n + 7) w * 2 ^ (n + 7)

/-- What reading a stored word finds. -/
inductive EccRead where
  | clean
  | corrected (v : Nat)
  | uncorrectable
  deriving DecidableEq, Repr

/-- Read a stored word of n data bits: an odd parity is one flipped bit, at the place of the syndrome; an even parity with a
syndrome is two. -/
def eccRead (n w : Nat) : EccRead :=
  let y := eccSyndrome n w
  if eccParity (n + 8) w = 0 then (if y = 0 then .clean else .uncorrectable)
  else if y = 0 then .corrected (w % 2 ^ n)
  else match (List.range (n + 7)).find? fun i => eccPlace n i == y with
    | some i => .corrected (Nat.xor w (2 ^ i) % 2 ^ n)
    | none => .uncorrectable

/-- A word of exchange memory. -/
def State.ex (s : State) (a : Nat) : Native := Tab.get (fun _ => 0) s.exch (a % 0x10000)

/-- Write a word of exchange memory. -/
def State.setEx (s : State) (a : Nat) (v : Native) : State :=
  { s with exch := Tab.set (fun _ => 0) s.exch (a % 0x10000) v, bad := Tab.set (fun _ => false) s.bad (badKey 28 (a % 0x10000)) false }

/-- A word of measurement RAM. -/
def State.mr (s : State) (a : Nat) : Native := Tab.get (fun _ => 0) s.measRam (a % 0x80000)

/-- Write a word of measurement RAM. -/
def State.setMr (s : State) (a : Nat) (v : Native) : State :=
  { s with measRam := Tab.set (fun _ => 0) s.measRam (a % 0x80000) v, bad := Tab.set (fun _ => false) s.bad (badKey 27 (a % 0x80000)) false }

/-- Byte i of the packed bytes of exchange memory from a native-word address: 8 bytes to a word, in its low 64 bits
(rules R195, R325). -/
def State.exByte (s : State) (base i : Nat) : Byte :=
  BitVec.ofNat 8 ((s.ex (base + i / 8)).toNat >>> (8 * (i % 8)))

/-- Write a packed byte of exchange memory. -/
def State.setExByte (s : State) (base i : Nat) (b : Byte) : State :=
  let w := s.ex (base + i / 8)
  let sh := 8 * (i % 8)
  s.setEx (base + i / 8) ((w &&& ~~~(BitVec.ofNat 72 (0xFF <<< sh))) ||| BitVec.ofNat 72 (b.toNat <<< sh))

/-- A 32-bit word of host memory, by byte address (log entry 7). -/
def State.hm (s : State) (byteAddr : Nat) : Word := Tab.get (fun _ => 0) s.hostMem (byteAddr / 4)

/-- Write a 32-bit word of host memory. -/
def State.setHm (s : State) (byteAddr : Nat) (v : Word) : State :=
  { s with hostMem := Tab.set (fun _ => 0) s.hostMem (byteAddr / 4) v }

/-- Word w of a ring record (rule R124): in host memory at base + 4w, or with LOC 1 in exchange memory, word 2k in
bits [31:0] and word 2k+1 in bits [63:32] of native word k. -/
def State.recWord (s : State) (loc : Bool) (base w : Nat) : Word :=
  if loc then BitVec.ofNat 32 ((s.ex (base + w / 2)).toNat >>> (32 * (w % 2))) else s.hm (base + 4 * w)

/-- Write a record of 2n words to host or exchange memory (rule R124). -/
def State.putRec (s : State) (loc : Bool) (base : Nat) (ws : List Word) : State :=
  match ws with
  | [] => s
  | [a] => if loc then s.setEx base (BitVec.ofNat 72 a.toNat) else s.setHm base a
  | a :: b :: rest =>
    if loc then (s.setEx base (BitVec.ofNat 72 (a.toNat + b.toNat * 2 ^ 32))).putRec loc (base + 1) rest
    else ((s.setHm base a).setHm (base + 4) b).putRec loc (base + 8) rest

end Sys2Proof.Machine
end

