-- ==== Sys2Proof/Machine/Events.lean ====
section
/-! DEFINITION. Events that every family may raise: records of the event log (rules R530 to R532), and the fault
classes with the assertion of the quench line (rules R571 to R573). -/

namespace Sys2Proof.Machine

/-- Time units to a nanosecond: the time base counts in 1/(5·2^58) ns, in which a tick of rule R360 is whole. -/
def unitsPerNs : Nat := 5 * 2 ^ 58

/-- Whole nanoseconds of a time in units. -/
def toNs (t : Nat) : Nat := t / unitsPerNs

/-- A number of nanoseconds in units. -/
def ofNs (n : Nat) : Nat := n * unitsPerNs

/-- SEC, NS and FRAC of the time base (rule R358). -/
def secOf (t : Nat) : Nat := toNs t / 1000000000
def nsOf (t : Nat) : Nat := toNs t % 1000000000
def fracOf (t : Nat) : Nat := (t % unitsPerNs) * 65536 / unitsPerNs

/-- The real-time clock now, in ticks of 1/32,768 s (rule R550): its last setting plus the elapsed time since. -/
def State.rtcTicks (s : State) : Nat :=
  s.bk.rtcSec * 32768 + s.bk.rtcTick + (s.el - s.bk.rtcEl) * 32768 / ofNs 1000000000

/-- RTC_UNC in µs: its value at the last RTC_SYNC, growing by 50 µs per elapsed second (rule R550). -/
def State.rtcUnc (s : State) : Nat := s.bk.uncUs + 50 * ((s.el - s.bk.rtcEl) / ofNs 1000000000)

/-- DEV.STATE.SVC (rule R92). -/
def State.svc (s : State) : Nat := s.rf 0x000 0x054 2 0

/-- Set DEV.STATE.SVC. -/
def State.setSvc (s : State) (v : Nat) : State := s.setRf 0x000 0x054 2 0 v

/-- A 16-byte log record (rule R530), byte 0 in the low bits. -/
def State.logRecord (s : State) (src sev code arg16 : Nat) (arg32 : Word) : BitVec 128 :=
  BitVec.ofNat 128 (s.rtcTicks / 32768 % 2 ^ 32 + (s.rtcTicks % 32768 + b2n s.bk.rtcValid * 2 ^ 15) * 2 ^ 32
    + s.log.next % 65536 * 2 ^ 48 + (src % 16 + sev % 8 * 16) * 2 ^ 64 + code % 256 * 2 ^ 72
    + arg16 % 65536 * 2 ^ 80 + arg32.toNat * 2 ^ 96)

/-- Write one record at the head of the ring: NEW from the severity of LOG.CFG on, LOST where it overwrites a record
not yet mirrored (rules R532, R555). -/
def State.logPut (s : State) (src sev code arg16 : Nat) (arg32 : Word) : State :=
  let n := s.log.next
  let lost := decide (n ≥ s.log.mirrored + 4096)
  let s1 := { s with log := { s.log with
    ring := Tab.set (fun _ => 0) s.log.ring (n % 4096) (s.logRecord src sev code arg16 arg32),
    next := n + 1, mirrored := if lost then s.log.mirrored + 1 else s.log.mirrored,
    times := (if lost then s.log.times.drop 1 else s.log.times) ++ [s.el] } }
  let s2 := if sev ≥ s1.rf 0x0C2 0x044 2 0 then s1.raise 0x0C2 16 else s1
  if lost then (s2.count 0x0C2 0x068).raise 0x0C2 17 else s2

/-- Write a record, and a LOG_GAP record after it where one was lost (rule R532). -/
def State.logAdd (s : State) (src sev code arg16 : Nat) (arg32 : Word) : State :=
  let s1 := s.logPut src sev code arg16 arg32
  if s.log.next ≥ s.log.mirrored + 4096 then s1.logPut 1 2 0x30 0 1 else s1

/-- A record of the Malith's own (rule R531), whose source (boot ROM, Assay or hardware) and severity the spec does
not state: both are free (log entry 12). -/
def State.logOwn (s : State) (code arg16 : Nat) (arg32 : Word) : State :=
  (s.logAdd (s.free 2) ((s.bump).free 4) code arg16 arg32).bump.bump

/-- Fault classes (rule R571). -/
def clsCLOCK : Nat := 1
def clsSUPPLY : Nat := 2
def clsTHERMAL : Nat := 3
def clsOVERRUN : Nat := 4
def clsCORE : Nat := 5
def clsASSAY : Nat := 6
def clsHOST : Nat := 7

/-- FAULT.STATE as a word (rule R584): CAUSE_CLEAR while quenched or recovering with no raised class left. -/
def State.faultState (s : State) : Word :=
  let ph : Nat := match s.fault.phase with | .run => 0 | .quenched => 1 | .recovering => 2
  BitVec.ofNat 32 (ph + b2n (decide (¬ s.fault.phase = QPhase.run) && s.fault.raised.isEmpty) * 4 + b2n s.fault.autoHeld * 8
    + b2n s.fault.reload * 16)

/-- ASSERT THE QUENCH LINE at instant Q (rule R573): FAULT captures the cause and the instant and raises QUENCH, the
service becomes quenched, a QUENCH record is written, the heat in progress is torn. -/
def State.assertQuench (s : State) (cls unit : Nat) : State :=
  let cnt := min 0xFFFF (s.rf 0x0C4 0x040 31 16 + 1)
  let s1 := s.setReg 0x0C4 0x040 (BitVec.ofNat 32 (cls + unit % 256 * 16 + cnt * 65536))
  let s2 := ((s1.setReg 0x0C4 0x044 (BitVec.ofNat 32 s.heat)).setReg 0x0C4 0x048
    (BitVec.ofNat 32 (secOf s.tb.now))).setReg 0x0C4 0x04C (BitVec.ofNat 32 (nsOf s.tb.now))
  let s3 := ({ s2 with fault := { s2.fault with
    phase := .quenched, qBoundary := true, tornHeat := s.heat, recReq := false,
    svcBefore := if s.fault.phase = QPhase.run then s.svc else s.fault.svcBefore } }).raise 0x0C4 16
  let s4 := (s3.setSvc 4).logOwn 0x20 cls 0
  if s4.fault.raised.isEmpty then s4.raise 0x0C4 17 else s4

/-- RAISE A FAULT CLASS (rules R571, R572, R579): the classes with an action Quench assert the quench line unless the
Malith is quenched already; one raised during recovery ends it. Classes that clear at once are not kept as raised. -/
def State.raiseClass (s : State) (cls unit : Nat) : State :=
  let s1 :=
    if cls = clsCLOCK ∨ cls = clsSUPPLY ∨ cls = clsTHERMAL then
      (if s.fault.raised.contains (cls, unit) then s
       else { s with fault := { s.fault with raised := s.fault.raised ++ [(cls, unit)] } })
    else s
  if cls = clsASSAY then s1
  else match s1.fault.phase with
    | .quenched => s1
    | _ => s1.assertQuench cls unit

/-- A class unit becomes clear; CAUSE_CLEAR is raised when none is left during a quench (rules R572, R583). -/
def State.clearClass (s : State) (cls unit : Nat) : State :=
  if s.fault.raised.contains (cls, unit) then
    let s1 := { s with fault := { s.fault with raised := s.fault.raised.filter (· ≠ (cls, unit)) } }
    if s1.fault.raised.isEmpty && decide (¬ s1.fault.phase = QPhase.run) then s1.raise 0x0C4 17 else s1
  else s

end Sys2Proof.Machine
end

