-- ==== Sys2Proof/Machine/CasakOps.lean ====
section
/-! DEFINITION. The Casak cores' shared operations (chapters 12 and 13): registers, bit variables, segments and data
access, the stack, exception entry, and the one frame in which every instruction issues. -/

namespace Sys2Proof.Machine

/-! ## Registers (rules R438, R439) -/

/-- Words of a core's X or Y data memory (rule R442). -/
def xyWords (k : Nat) : Nat := if k = 8 then 4096 else 8192

/-- A segment descriptor from its fields (rule R444). -/
def segDesc (base limit mlenM1 space mode : Nat) (wr : Bool) : Native :=
  BitVec.ofNat 72 (base + limit * 2 ^ 24 + mlenM1 * 2 ^ 48 + space * 2 ^ 64 + mode * 2 ^ 66 + b2n wr * 2 ^ 68)

/-- The descriptors at reset (rule R439). -/
def segReset (k i : Nat) : Native :=
  if i = 0 then segDesc 0 (xyWords k - 256) 0 0 0 true
  else if i = 1 then segDesc 0 (xyWords k) 0 1 0 true
  else if i = 7 then segDesc (xyWords k - 256) 256 0 0 0 true
  else segDesc 0 0 0 0 0 false

/-- The address registers at reset: 0, and A7 at segment 7, offset 256 (rule R439). -/
def aReset (i : Nat) : BitVec 27 := if i = 7 then 0x7000100#27 else 0

/-- Core k. -/
def State.core (s : State) (k : Nat) : Core := Tab.get (fun _ => {}) s.cores k

/-- Replace core k. -/
def State.setCore (s : State) (k : Nat) (c : Core) : State :=
  { s with cores := Tab.set (fun _ => {}) s.cores k c }

/-- Change core k. -/
def State.modCore (s : State) (k : Nat) (f : Core → Core) : State := s.setCore k (f (s.core k))

/-- Data register n. -/
def Core.dr (c : Core) (n : BitVec 4) : Native := Tab.get (fun _ => 0) c.d n.toNat

/-- Write data register n. -/
def Core.setD (c : Core) (n : BitVec 4) (v : Native) : Core :=
  { c with d := Tab.set (fun _ => 0) c.d n.toNat v }

/-- Address register n; bits [26:24] of A7 always read 7 (rule R438). -/
def Core.ar (c : Core) (n : Nat) : BitVec 27 := Tab.get aReset c.a n

/-- Write address register n; writes to bits [26:24] of A7 are ignored (rule R438). -/
def Core.setA (c : Core) (n : Nat) (v : BitVec 27) : Core :=
  { c with a := Tab.set aReset c.a n (if n = 7 then (v &&& 0x0FFFFFF#27) ||| 0x7000000#27 else v) }

/-- The segment an address register names. -/
def segOf (a : BitVec 27) : Nat := a.toNat / 2 ^ 24

/-- The offset an address register holds. -/
def offOf (a : BitVec 27) : Nat := a.toNat % 2 ^ 24

/-- Replace the offset of an address register's value. -/
def withOff (a : BitVec 27) (o : Nat) : BitVec 27 := BitVec.ofNat 27 (segOf a * 2 ^ 24 + o % 2 ^ 24)

/-- Segment descriptor i of core k. -/
def Core.sg (c : Core) (k i : Nat) : Native := Tab.get (segReset k) c.seg i

/-- Load segment descriptor i. -/
def Core.setSg (c : Core) (k i : Nat) (v : Native) : Core := { c with seg := Tab.set (segReset k) c.seg i v }

/-- Accumulator n. -/
def Core.ac (c : Core) (n : Nat) : AccReg := Tab.get (fun _ => {}) c.acc n

/-- Write accumulator n. -/
def Core.setAc (c : Core) (n : Nat) (a : AccReg) : Core := { c with acc := Tab.set (fun _ => {}) c.acc n a }

/-! ## Bit variables (rule R441) -/

/-- The RW bit variables: sticky bits, enables and the bits free for software. -/
def bitRW (b : Nat) : Bool := b ≤ 0x007 || b = 0x010 || b = 0x011 || (0x020 ≤ b && b ≤ 0x022) || 0x400 ≤ b

/-- The W0C bit variables: B.HEAT, B.TRIGt, B.DOOR, B.TRIGOVF. -/
def bitW0C (b : Nat) : Bool := 0x200 ≤ b && b ≤ 0x206

/-- A number placed at a bit of the bit space. -/
def at4096 (b x : Nat) : BitVec 4096 := BitVec.ofNat 4096 (x <<< b)

/-- The whole bit space of core k as a program reads it: the stored bits, and the read-only ones from the core. -/
def Core.space (c : Core) (k : Nat) : BitVec 4096 :=
  c.bits ||| at4096 0x012 (b2n c.user) ||| at4096 0x013 (b2n c.repAct) ||| at4096 0x220 c.heatNo.toNat |||
  at4096 0x240 (Tab.get (fun _ => 0) c.trigK 0 : Word).toNat ||| at4096 0x260 (Tab.get (fun _ => 0) c.trigK 1 : Word).toNat |||
  at4096 0x280 (Tab.get (fun _ => 0) c.trigK 2 : Word).toNat ||| at4096 0x2A0 (Tab.get (fun _ => 0) c.trigK 3 : Word).toNat |||
  at4096 0x2C0 (c.cyc % 2 ^ 20) ||| at4096 0x2E0 k

/-- Read a bit variable. -/
def Core.bit (c : Core) (k b : Nat) : Bool := (c.space k).getLsbD b

/-- Set or clear a stored bit (by hardware). -/
def Core.hwBit (c : Core) (b : Nat) (v : Bool) : Core :=
  { c with bits := if v then c.bits ||| at4096 b 1 else c.bits &&& ~~~(at4096 b 1) }

/-- A bit instruction writes a bit: RW bits take the value, W0C bits only clear, others ignore it. -/
def Core.writeBit (c : Core) (b : Nat) (v : Bool) : Core :=
  if bitRW b then c.hwBit b v else if bitW0C b && !v then c.hwBit b false else c

/-- A bit instruction writes n bits from bit b with the low bits of x. -/
def Core.writeBits (c : Core) (b n x : Nat) : Core :=
  (List.range n).foldl (fun c i => c.writeBit (b + i) (x.testBit i)) c

/-! ## Segments and data access (rules R442 to R447) -/

def descBase (v : Native) : Nat := v.toNat % 2 ^ 24
def descLimit (v : Native) : Nat := v.toNat / 2 ^ 24 % 2 ^ 24
def descM (v : Native) : Nat := v.toNat / 2 ^ 48 % 2 ^ 16 + 1
def descSpace (v : Native) : Nat := v.toNat / 2 ^ 64 % 4
def descMode (v : Native) : Nat := v.toNat / 2 ^ 66 % 4
def descWr (v : Native) : Bool := v.getLsbD 68

/-- Words of a data space on core k (rule R442). -/
def spaceWords (k space : Nat) : Nat :=
  if space = 0 ∨ space = 1 then xyWords k else if space = 2 then (if k = 8 then 0 else 524288) else 65536

/-- Whether a number is a power of two. -/
def isPow2 (n : Nat) : Bool := n != 0 && (n &&& (n - 1)) == 0

/-- The descriptors core k refuses for segment i (rule R445). -/
def descBad (k i : Nat) (v : Native) : Bool :=
  v.toNat / 2 ^ 69 != 0 || descMode v == 3
  || decide (descBase v + descLimit v > spaceWords k (descSpace v))
  || (descSpace v == 2 && k == 8)
  || (descMode v == 1 && decide (descM v > descLimit v))
  || (descMode v == 2 && (!isPow2 (descM v) || decide (descM v > descLimit v)))
  || (i == 7 && (descMode v != 0 || (!descWr v && descLimit v != 0)))
  || ((k == 6 || k == 7) && descSpace v == 2 && descWr v && decide (descBase v < 458752))

/-- Bit reversal of the m low bits. -/
def revBits (m x : Nat) : Nat := (List.range m).foldl (fun acc i => acc * 2 + b2n (x.testBit i)) 0

/-- The offset e of an access with a displacement (rule R446). -/
def segOffset (v : Native) (off : Nat) (disp : Int) : Nat :=
  if descMode v = 0 then (((off : Int) + disp) % 2 ^ 24).toNat
  else (((off % descM v : Nat) + disp) % (descM v : Int)).toNat

/-- The offset after a post-modify by +1 or −1 (rule R446). -/
def postMod (v : Native) (off : Nat) (step : Int) : Nat :=
  if descMode v = 0 then (((off : Int) + step) % 2 ^ 24).toNat
  else if descMode v = 1 then (((off % descM v : Nat) + step) % (descM v : Int)).toNat
  else
    let m := Nat.log2 (descM v)
    revBits m (((revBits m (off % descM v) : Int) + step) % (descM v : Int)).toNat

/-- Whether address generation folds the offset, setting B.MFOLD (rule R446). -/
def folds (v : Native) (off : Nat) : Bool := descMode v != 0 && decide (off ≥ descM v)

/-- The number of a space's memory for the uncorrectable-word marks. -/
def spaceMem (k space : Nat) : Nat := if space = 0 then 9 + k else if space = 1 then 18 + k else if space = 2 then 27 else 28

/-- Read a data word of core k. -/
def State.dataRd (s : State) (k space a : Nat) : Native :=
  if space = 0 then Tab.get (fun _ => 0) (s.core k).x a
  else if space = 1 then Tab.get (fun _ => 0) (s.core k).y a
  else if space = 2 then s.mr a else s.ex a

/-- Write a data word of core k. -/
def State.dataWr (s : State) (k space a : Nat) (v : Native) : State :=
  if space = 0 then (s.modCore k fun c => { c with x := Tab.set (fun _ => 0) c.x a v }).setBad (9 + k) a false
  else if space = 1 then (s.modCore k fun c => { c with y := Tab.set (fun _ => 0) c.y a v }).setBad (18 + k) a false
  else if space = 2 then s.setMr a v else s.setEx a v

/-- Cycles of one access to a space, and the most it can wait for arbitration (rule R442). -/
def accessCyc (space : Nat) : Nat := if space = 2 then 4 else if space = 3 then 6 else 1
def arbMax (space : Nat) : Nat := if space = 2 then 14 else if space = 3 then 40 else 0

/-- An address generation through core k's register An: the space and word, or `none` for SEGMENT (rule R446). -/
def Core.locate (c : Core) (k an : Nat) (disp : Int) (store : Bool) : Option (Nat × Nat) :=
  let v := c.sg k (segOf (c.ar an))
  let e := segOffset v (offOf (c.ar an)) disp
  if e ≥ descLimit v ∨ (store = true ∧ descWr v = false) then none else some (descSpace v, descBase v + e)

/-- Whether that address generation sets B.MFOLD. -/
def Core.foldsAt (c : Core) (k an : Nat) : Bool := folds (c.sg k (segOf (c.ar an))) (offOf (c.ar an))

/-- The extra issue cycles of an access to M or E: the access cycles beyond the first, and the arbitration wait, which
is a free number up to its bound (rule R442). -/
def State.accessExtra (s : State) (space : Nat) : Nat := accessCyc space - 1 + s.free (arbMax space)

/-! ## What an instruction does when it issues -/

/-- The outcome of an instruction's own effect: it completes and goes on; it is a branch (with a delay slot) taken to
a target or not; it sets where the core goes on itself; it faults with a vector and code, leaving no effect; or it
completes and then traps. -/
inductive Eff where
  | seq (s : State)
  | branch (s : State) (target : Option (BitVec 16))
  | own (s : State)
  | fault (v code : Nat)
  | trap (s : State) (v code : Nat)

/-- The vectors (rule R465). -/
def vILLEGAL : Nat := 1
def vSEGMENT : Nat := 2
def vSTACK : Nat := 3
def vPRIV : Nat := 4
def vDZ : Nat := 5
def vDATAERR : Nat := 6
def vTRAP : Nat := 7
def vBUDGET : Nat := 8
def vTRIG : Nat := 9
def vHEAT : Nat := 10
def vDOOR : Nat := 11

/-- Resources of rule R489: data registers 0 to 15, address generation with An at 16 + n, accumulator n for MVAD and
the like (and its SOV bit) at 24 + n, accumulator n for the MAC family at 28 + n. -/
def rD (n : BitVec 4) : Nat := n.toNat
def rA (n : Nat) : Nat := 16 + n
def rAcc (n : Nat) : Nat := 24 + n
def rMac (n : Nat) : Nat := 28 + n

/-- How an instruction issues: its length in bytes, its issue cycles, the resources it uses, the latencies of those it
produces, and the rules on delay slots and repeats that concern it. -/
structure Issue where
  len : Nat
  cyc : Nat := 1
  uses : List Nat := []
  outs : List (Nat × Nat) := []
  ctl : Bool := false
  noRep : Bool := false
  bad : Bool := false

/-- The page of core k. -/
def corePage (k : Nat) : Nat := 0x0A0 + k

/-- Length of the instruction at a byte address, from the format bits of its first halfword (rule R448). -/
def Core.lenAt (c : Core) (pc : BitVec 16) : Nat :=
  let row := Tab.get (fun _ => 0) c.iram (pc.toNat / 8)
  if (row.toNat >>> (16 * (pc.toNat / 2 % 4))) / 2 ^ 13 % 8 = 7 then 4 else 2

/-- Where the core goes on after a delay-slot instruction of a length (rule R453). -/
def Core.contAfter (c : Core) (len : Nat) : BitVec 16 :=
  match c.slot with
  | .to t => t
  | _ => c.pc + BitVec.ofNat 16 len

/-- The exception frame (rule R465). -/
def Core.frame (c : Core) (k : Nat) (resume cont : BitVec 16) (slot : Bool) (v code : Nat) : Native :=
  BitVec.ofNat 72 (resume.toNat + (if slot then cont.toNat * 2 ^ 16 else 0) + c.lc.toNat * 2 ^ 32
    + b2n c.repAct * 2 ^ 48 + b2n c.repN * 2 ^ 49 + b2n (c.bit k 0x010) * 2 ^ 50 + b2n slot * 2 ^ 51
    + code % 256 * 2 ^ 52 + v % 16 * 2 ^ 60)

/-- Halt core k (rule R468): HALT_INFO records the cause and the address, HALT is raised, and a halt of CASAK0 to
CASAK5 raises the CORE class and one of CASAK-M the ASSAY class (rule R571). -/
def State.haltCore (s : State) (k cause : Nat) (pc : BitVec 16) : State :=
  let s1 := s.modCore k fun c => { c with st := .halted, repAct := false, repN := false, repFirst := false, slot := .no }
  let s2 := (s1.setReg (corePage k) 0x048 (BitVec.ofNat 32 (cause + pc.toNat * 2 ^ 16))).raise (corePage k) 16
  if k < 6 then
    ({ s2 with fault := { s2.fault with reloadNeed := true, haltedCores := s2.fault.haltedCores ++ [k] } }).raiseClass clsCORE k
  else if k = 8 then s2.raiseClass clsASSAY 0 else s2

/-- Push one native word on core k's stack (rule R447): the new offset is one lower; STACK at offset 0, SEGMENT where
SEG7 forbids the store. The answer is the state, or the vector and code of the fault. -/
def State.pushWord (s : State) (k : Nat) (v : Native) : Except (Nat × Nat) State :=
  let c := s.core k
  let o := offOf (c.ar 7)
  if o = 0 then .error (vSTACK, 0)
  else match c.locate k 7 (-1) true with
    | none => .error (vSEGMENT, 7)
    | some (sp, a) =>
      .ok (((s.modCore k fun c => { c.setA 7 (withOff (c.ar 7) (o - 1)) with
          cyc := c.cyc + s.accessExtra sp, clk := c.clk + s.accessExtra sp }).bump).dataWr k sp a v)

/-- Pop one native word (rule R447): STACK where the offset is at or above LIMIT, DATA_ERR on an uncorrectable word. -/
def State.popWord (s : State) (k : Nat) : Except (Nat × Nat) (State × Native) :=
  let c := s.core k
  let o := offOf (c.ar 7)
  if o ≥ descLimit (c.sg k 7) then .error (vSTACK, 1)
  else match c.locate k 7 0 false with
    | none => .error (vSEGMENT, 7)
    | some (sp, a) =>
      if s.isBad (spaceMem k sp) a then .error (vDATAERR, sp)
      else .ok (((s.modCore k fun c => { c.setA 7 (withOff (c.ar 7) (o + 1)) with
          cyc := c.cyc + s.accessExtra sp, clk := c.clk + s.accessExtra sp }).bump), s.dataRd k sp a)

/-- TAKING AN EXCEPTION OR INTERRUPT (rule R465): push the frame, clear B.IE, go to vector v at byte address 8v, in 4
cycles; at the exceptions, vectors 1 to 8, EXC_CNT counts and EXC is raised (rules R473, R474, log entry 96). A fault of the push is a double
fault and halts the core (rule R468). -/
def State.enterExc (s : State) (k v code : Nat) (resume cont : BitVec 16) (slot : Bool) : State :=
  match s.pushWord k ((s.core k).frame k resume cont slot v code) with
  | .error _ => (s.capErr (corePage k) 0x41 0).haltCore k 3 (s.core k).pc
  | .ok s1 =>
    let s2 := s1.modCore k fun c => { c.hwBit 0x010 false with
      pc := BitVec.ofNat 16 (8 * v), repAct := false, repN := false, repFirst := false, slot := .no,
      cyc := c.cyc + 4, clk := c.clk + 4 }
    if v ≤ 8 then (s2.count (corePage k) 0x058).raise (corePage k) 18 else s2

/-- Stop a user core whose EN was applied at 0, at an instruction boundary outside a REPN (rule R470). -/
def State.stopIfDue (s : State) (k : Nat) : State :=
  let c := s.core k
  if c.stopReq && c.st = .run && !c.repN then
    (s.modCore k fun c => { c with st := .stopped, stopReq := false }).setReg (corePage k) 0x048
      (BitVec.ofNat 32 (4 + c.pc.toNat * 2 ^ 16))
  else s

/-- Whether core k can issue an instruction now: it runs, and a user core has not used up its booking (rule R471). -/
def State.canIssue (s : State) (k : Nat) : Bool :=
  let c := s.core k
  c.st = .run && !(c.user && decide (c.cyc ≥ s.rf (corePage k) 0x04C 19 0))

/-- The stall before an instruction that uses these resources issues (rules R488, R489). -/
def Core.stall (c : Core) (uses : List Nat) : Nat :=
  uses.foldl (fun m r => max m (Tab.get (fun _ => 0) c.rdy r - c.clk)) 0

/-- Record when results become available: latency counted from the issue cycle `t`. -/
def Core.produce (c : Core) (t : Nat) (outs : List (Nat × Nat)) : Core :=
  { c with rdy := outs.foldl (fun m o => Tab.set (fun _ => 0) m o.1 (t + o.2)) c.rdy }

/-- The program counter after an instruction of a length that neither branches nor faults: the continuation after a
delay slot; the same instruction while a repeat has iterations left; the next instruction otherwise. -/
def Core.goOn (c : Core) (len : Nat) : Core :=
  match c.slot with
  | .to t => { c with pc := t, slot := .no }
  | .fall => { c with pc := c.pc + BitVec.ofNat 16 len, slot := .no }
  | .no =>
    if c.repAct then
      (if c.lc - 1 = 0 then
        { c with lc := 0, repAct := false, repN := false, repFirst := false, pc := c.pc + BitVec.ofNat 16 len }
       else { c with lc := c.lc - 1, repFirst := false })
    else { c with pc := c.pc + BitVec.ofNat 16 len }

/-- The page that owns a data space of core k (rule R57). -/
def spacePage (k space : Nat) : Nat := if space < 2 then corePage k else if space = 2 then 0x070 else 0x003

/-- Where a fault of the instruction in issue resumes: the instruction itself, with CONT and SLOT where it stands in a
delay slot (rule R465). The uncorrectable word behind a DATA_ERR is captured on the page that owns it (rule R53). -/
def State.takeFault (s : State) (k v code len : Nat) : State :=
  let c := s.core k
  (if v = vDATAERR then s.capErr (spacePage k code) 0x20 0 else s).enterExc k v code c.pc (c.contAfter len) (c.slot ≠ .no)

/-- ONE INSTRUCTION ISSUES on core k. It does nothing on a core that cannot issue; an uncorrectable row among those that hold it halts
the core with IPARITY (rules R54, R468); a core about to skip a repeat of no
iterations passes it over; an illegal form, a control instruction in a delay slot or a forbidden repeat raises ILLEGAL
before any effect (rules R450, R453, R456); otherwise stalls and issue cycles are counted, the body runs, and the
program counter goes on (rules R453 to R457, R465, R488, R489). -/
def State.issue (s : State) (k : Nat) (q : Issue) (body : State → Eff) : State :=
  let c := s.core k
  if s.canIssue k = false then s
  else if s.isBad k (c.pc.toNat / 8) || s.isBad k ((c.pc + BitVec.ofNat 16 (q.len - 1)).toNat / 8) then (s.capErr (corePage k) 0x40 0).haltCore k 2 c.pc
  else if c.skip then
    s.setCore k { c with skip := false, pc := c.pc + BitVec.ofNat 16 q.len }
  else if q.bad || (q.ctl && (c.slot ≠ .no || c.repAct)) || (q.noRep && c.repAct) then
    (s.takeFault k vILLEGAL 0 q.len).stopIfDue k
  else
    let w := c.stall q.uses
    let s1 := s.modCore k fun c => { c with cyc := c.cyc + w, clk := c.clk + w }
    let t := (s1.core k).clk
    let fin := fun (c : Core) => { c.produce t q.outs with cyc := c.cyc + q.cyc, clk := c.clk + q.cyc }
    match body s1 with
    | .seq s2 => (s2.modCore k fun c => (fin c).goOn q.len).stopIfDue k
    | .own s2 => (s2.modCore k fin).stopIfDue k
    | .branch s2 tgt =>
      (s2.modCore k fun c =>
        let c1 := fin c
        { c1 with pc := c1.pc + BitVec.ofNat 16 q.len, slot := match tgt with | some a => .to a | none => .fall })
    | .fault v code => (s1.takeFault k v code q.len).stopIfDue k
    | .trap s2 v code =>
      let s3 := s2.modCore k fun c => (fin c).goOn q.len
      (s3.enterExc k v code (s3.core k).pc 0 false).stopIfDue k

/-- An instruction that only computes on its core: it completes with the core its body gives. -/
def State.issueC (s : State) (k : Nat) (q : Issue) (f : Core → Core) : State :=
  s.issue k q fun s => .seq (s.modCore k f)

/-- The target of a relative branch: the address of its first halfword plus twice the offset (rule R453). -/
def relTarget (pc : BitVec 16) {w : Nat} (off : BitVec w) : BitVec 16 := pc + (off.signExtend 16) * 2

end Sys2Proof.Machine
end

