-- ==== Sys2Proof/Machine/Operands.lean ====
section
/-! DEFINITION. Operand forms of the Casak instructions (rules R448, R449, R451): which part of a register a form
reads and writes, which registers it names, and how it issues. -/

namespace Sys2Proof
namespace Machine

/-- The high half of a native word (rule R11). -/
def hiHalf (v : Native) : BitVec 36 := v.extractLsb' 36 36
/-- The low half of a native word (rule R11). -/
def loHalf (v : Native) : BitVec 36 := v.extractLsb' 0 36
/-- A native word from its halves. -/
def ofHalves (h l : BitVec 36) : Native := h ++ l

/-- Operand width of SZ: 72 for a full word, 36 for a half (rule R449). -/
def szWidth (sz : BitVec 2) : Nat := if sz = 0 then 72 else 36

/-- The operand an SZ reads from a register, as an unsigned number of that width (rule R451). -/
def szRead (sz : BitVec 2) (v : Native) : Nat :=
  if sz = 0 then v.toNat else if sz = 1 then (hiHalf v).toNat else (loHalf v).toNat

/-- The register after a result of that width is written: the other half unchanged (rule R451). -/
def szWrite (sz : BitVec 2) (old : Native) (x : Nat) : Native :=
  if sz = 0 then BitVec.ofNat 72 x
  else if sz = 1 then ofHalves (BitVec.ofNat 36 x) (loHalf old) else ofHalves (hiHalf old) (BitVec.ofNat 36 x)

/-- A form of up to two sources and one destination at a width, as every integer instruction has it. -/
structure Alu where
  len : Nat
  sz : BitVec 2
  dd : BitVec 4
  ds : BitVec 4
  dt : BitVec 4
  deriving DecidableEq, Repr

end Machine
open Machine

/-- The R16 form acts as the full-width three-register form with Dd as first source (rule R451). -/
def AluForm.alu : AluForm → Alu
  | .r16 dd ds => ⟨2, 0, dd, dd, ds⟩
  | .r3 sz dd ds dt => ⟨4, sz, dd, ds, dt⟩

/-- The R3-only instructions. -/
def R3.alu (f : R3) : Alu := ⟨4, f.sz, f.dd, f.ds, f.dt⟩

/-- NEG, NEGS and CLZ have one source. -/
def UnForm.alu : UnForm → Alu
  | .r16 dd ds => ⟨2, 0, dd, ds, ds⟩
  | .r3 sz dd ds => ⟨4, sz, dd, ds, ds⟩

namespace Machine

/-- How an integer form issues: 1 cycle, all its registers used, Dd ready in 1 cycle; SZ 0b11 is illegal (R450). -/
def Alu.issue (a : Alu) : Issue :=
  { len := a.len, uses := [rD a.dd, rD a.ds, rD a.dt], outs := [(rD a.dd, 1)], bad := a.sz == 3 }

/-- The same for an instruction that permits only full width (rule R450). -/
def Alu.issueFull (a : Alu) : Issue := { a.issue with bad := a.sz != 0 }

/-- The second register of a pair written with Dd. -/
def nextD (n : BitVec 4) : BitVec 4 := n + 1

/-- How a full-width form that writes Dd and Dd+1 issues: Dd must be even (rules R451, R460). -/
def Alu.issuePair (a : Alu) (cyc lat : Nat) : Issue :=
  { len := a.len, cyc := cyc, uses := [rD a.dd, rD (nextD a.dd), rD a.ds, rD a.dt],
    outs := [(rD a.dd, lat), (rD (nextD a.dd), lat)], bad := a.sz != 0 || a.dd.getLsbD 0 }

end Machine
open Machine

/-- The immediate of a MOVI or ADDI, sign-extended to 72 bits. -/
def ImmForm.imm : ImmForm → Native
  | .i16 _ v => v.signExtend 72
  | .i _ v => v.signExtend 72
def ImmForm.dd : ImmForm → BitVec 4
  | .i16 d _ => d
  | .i d _ => d
def ImmForm.len : ImmForm → Nat
  | .i16 _ _ => 2
  | .i _ _ => 4

/-- An immediate shift as a form and its count (rule R461). -/
def ShiForm.alu : ShiForm → Alu
  | .i16 dd _ => ⟨2, 0, dd, dd, dd⟩
  | .sh sz dd ds _ => ⟨4, sz, dd, ds, ds⟩
def ShiForm.count : ShiForm → Nat
  | .i16 _ v => v.toNat
  | .sh _ _ _ n => n.toNat

/-- The register a load or store names, its address register, displacement and post-modify step, and its length. -/
def MemForm.dd : MemForm → BitVec 4
  | .m16 _ d _ => d
  | .m _ d _ => d
def MemForm.an : MemForm → Nat
  | .m16 a _ _ => a.toNat
  | .m a _ _ => a.toNat
def MemForm.disp : MemForm → Int
  | .m16 _ _ _ => 0
  | .m _ _ d => d.toInt
def MemForm.mod : MemForm → BitVec 2
  | .m16 _ _ v => v
  | .m _ _ _ => 0
def MemForm.len : MemForm → Nat
  | .m16 _ _ _ => 2
  | .m _ _ _ => 4

namespace Machine

/-- The post-modify step of a MOD field (rule R448): none, +1, −1. -/
def modStep (m : BitVec 2) : Int := if m = 1 then 1 else if m = 2 then -1 else 0

/-- Apply the post-modify of An, if its MOD has one (rule R446). -/
def Core.postModify (c : Core) (k an : Nat) (m : BitVec 2) : Core :=
  if modStep m = 0 then c
  else c.setA an (withOff (c.ar an) (postMod (c.sg k (segOf (c.ar an))) (offOf (c.ar an)) (modStep m)))

/-- Set B.MFOLD where the address generation through An folds (rule R446). -/
def Core.noteFold (c : Core) (k an : Nat) : Core := if c.foldsAt k an then c.hwBit 0x003 true else c

end Machine
open Machine

/-- The branch forms on one register: register, length and target. -/
def BzForm.da : BzForm → BitVec 4
  | .b16 d _ => d
  | .bz d _ => d
def BzForm.len : BzForm → Nat
  | .b16 _ _ => 2
  | .bz _ _ => 4
def BzForm.target (pc : BitVec 16) : BzForm → BitVec 16
  | .b16 _ o => relTarget pc o
  | .bz _ o => relTarget pc o

/-- BRA: length and target. -/
def BraForm.len : BraForm → Nat
  | .b16 _ => 2
  | .bz _ => 4
def BraForm.target (pc : BitVec 16) : BraForm → BitVec 16
  | .b16 o => relTarget pc o
  | .bz o => relTarget pc o

namespace Machine

end Machine
end Sys2Proof
end

