-- ==== Sys2Proof/Machine/Flags.lean ====
section
/-! DEFINITION. The arithmetic of the integer instructions and the sticky bits it sets (rules R459 to R464). Operands
are converted to integers, the result is computed exactly and then narrowed. -/

namespace Sys2Proof.Machine

/-- The signed reading of a w-bit operand. -/
def sgn (w x : Nat) : Int := signed w x

/-- A signed result fits w bits. -/
def fitsS (w : Nat) (r : Int) : Bool := decide (-(2 ^ (w - 1) : Int) ≤ r) && decide (r < (2 ^ (w - 1) : Int))

/-- A result wrapped to w bits. -/
def wrapS (w : Nat) (r : Int) : Nat := (r % (2 ^ w : Int)).toNat

/-- A result saturated to the signed extremes of w bits, as a w-bit pattern. -/
def satS (w : Nat) (r : Int) : Nat :=
  wrapS w (clampInt (-(2 ^ (w - 1) : Int)) ((2 ^ (w - 1) : Int) - 1) r)

/-- Set sticky B.OVF when an exact result does not fit (rules R459, R463): it is never cleared by an instruction. -/
def Core.noteOvf (c : Core) (w : Nat) (r : Int) : Core := if fitsS w r then c else c.hwBit 0x000 true

/-- Write a full-width or half-width result to Dd. -/
def Core.putSz (c : Core) (sz : BitVec 2) (dd : BitVec 4) (x : Nat) : Core := c.setD dd (szWrite sz (c.dr dd) x)

/-- A wrapping or saturating sum or difference with OVF (rule R459). -/
def Core.arith (c : Core) (a : Alu) (sat : Bool) (op : Int → Int → Int) : Core :=
  let w := szWidth a.sz
  let r := op (sgn w (szRead a.sz (c.dr a.ds))) (sgn w (szRead a.sz (c.dr a.dt)))
  (c.noteOvf w r).putSz a.sz a.dd (if sat then satS w r else wrapS w r)

/-- A bitwise operation at a width. -/
def Core.logic (c : Core) (a : Alu) (op : Nat → Nat → Nat) : Core :=
  c.putSz a.sz a.dd (op (szRead a.sz (c.dr a.ds)) (szRead a.sz (c.dr a.dt)))

/-- The shifts and rotations of a w-bit operand by a count (rules R461, R463). -/
def shlN (w x n : Nat) : Nat := if n ≥ w then 0 else (x <<< n) % 2 ^ w
def shrN (w x n : Nat) : Nat := if n ≥ w then 0 else x >>> n
def sarN (w x n : Nat) : Nat := wrapS w (sgn w x >>> (if n ≥ w then w else n))
def rolN (w x n : Nat) : Nat :=
  let m := n % w
  ((x <<< m) % 2 ^ w) ||| (x >>> (w - m))

/-- A shift with a given count. -/
def Core.shift (c : Core) (a : Alu) (n : Nat) (op : Nat → Nat → Nat → Nat) : Core :=
  c.putSz a.sz a.dd (op (szWidth a.sz) (szRead a.sz (c.dr a.ds)) n)

/-- The count of a register-count shift: bits [7:0] of the count register (rule R461). In a half form the count
comes from the named half, as that half is what the form reads (rule R451). -/
def Core.regCount (c : Core) (a : Alu) : Nat := szRead a.sz (c.dr a.dt) % 256

/-- Leading zeros of a w-bit operand; w for 0 (rule R463). -/
def clzN (w x : Nat) : Nat := if x = 0 then w else w - 1 - Nat.log2 x

/-- Quotient and remainder of DIV and DIVS (rules R460, R463), with the sticky bits OVF and DZ they set. -/
def divSigned (sat : Bool) (x y : Int) : Int × Int × Bool × Bool :=
  if y = 0 then ((if x ≥ 0 then 2 ^ 71 - 1 else -(2 ^ 71)), x, false, true)
  else if x = -(2 ^ 71) ∧ y = -1 then ((if sat then 2 ^ 71 - 1 else -(2 ^ 71)), 0, true, false)
  else (Int.tdiv x y, Int.tmod x y, false, false)

/-- Quotient and remainder of DIVU (rules R460, R463), with DZ. -/
def divUnsigned (x y : Nat) : Nat × Nat × Bool :=
  if y = 0 then (2 ^ 72 - 1, x, true) else (x / y, x % y, false)

/-- The field a bit-field instruction names: its length after truncation at bit 71 (rule R464). -/
def bfLen (pos len : Nat) : Nat := min len (72 - pos)

/-- POS above 71, LEN 0 and LEN above 72 are illegal (rule R464). -/
def bfBad (pos len : Nat) : Bool := decide (pos > 71) || len == 0 || decide (len > 72)

/-- Byte permutation (rule R464): byte i of the result is byte s of Ds, s from Dsel[4i+3:4i]; 9 to 15 give zero. -/
def permBytes (ds sel : Nat) : Nat :=
  (List.range 9).foldl
    (fun r i =>
      let j := sel / 16 ^ i % 16
      r + (if j < 9 then ds / 256 ^ j % 256 else 0) * 256 ^ i) 0

/-! ## The accumulators (rules R477 to R485) -/

/-- Product rounding and shift r(p) of rule R480: to nearest with halves towards +∞. -/
def roundShift (p : Int) (n : Nat) : Int := if n = 0 then p else (p + 2 ^ (n - 1)) >>> n

/-- A real accumulator's value, and the lanes of a complex one (rule R477). -/
def AccReg.val (a : AccReg) : Int := a.bits.toInt
def AccReg.re (a : AccReg) : Int := (a.bits.extractLsb' 40 40).toInt
def AccReg.im (a : AccReg) : Int := (a.bits.extractLsb' 0 40).toInt

/-- A w-bit part after a result: kept modulo 2^w with WRAP, else saturated (rule R482). -/
def accPart (wrap : Bool) (w : Nat) (r : Int) : Nat := if wrap then wrapS w r else satS w r

/-- Store a real result in accumulator n, setting ACCn.SOV when it does not fit (rule R482). -/
def Core.putReal (c : Core) (n : Nat) (r : Int) : Core :=
  let a := c.ac n
  let c1 := c.setAc n { a with bits := BitVec.ofNat 80 (accPart a.wrap 80 r) }
  if fitsS 80 r then c1 else c1.hwBit (0x004 + n) true

/-- Store complex lane results in accumulator n, setting ACCn.SOV when either does not fit (rule R482). -/
def Core.putCplx (c : Core) (n : Nat) (re im : Int) : Core :=
  let a := c.ac n
  let c1 := c.setAc n { a with bits := BitVec.ofNat 80 (accPart a.wrap 40 re * 2 ^ 40 + accPart a.wrap 40 im) }
  if fitsS 40 re && fitsS 40 im then c1 else c1.hwBit (0x004 + n) true

/-- The scaled value of an accumulator and whether it was limited, setting B.MOVSAT (rule R483). -/
def AccReg.scaled (a : AccReg) : Native × Bool :=
  if a.cplx then
    let n := min a.sh.toNat 39
    let re := roundShift a.re n
    let im := roundShift a.im n
    (ofHalves (BitVec.ofNat 36 (satS 36 re)) (BitVec.ofNat 36 (satS 36 im)), !(fitsS 36 re && fitsS 36 im))
  else
    let v := roundShift a.val a.sh.toNat
    (BitVec.ofNat 72 (satS 72 v), !fitsS 72 v)

/-- The control word of selector 2 (rule R485). -/
def AccReg.ctlWord (a : AccReg) : Native :=
  BitVec.ofNat 72 (a.bits.toNat / 2 ^ 72 + b2n a.cplx * 2 ^ 8 + b2n a.wrap * 2 ^ 9 + a.psh.toNat * 2 ^ 10 + a.sh.toNat * 2 ^ 16)

/-- A control word that MVDA refuses: bits [71:23] not 0, or SH above 79 (rule R485). -/
def ctlBad (v : Native) : Bool := v.toNat / 2 ^ 23 != 0 || decide (v.toNat / 2 ^ 16 % 128 > 79)

/-- Load GUARD and the control fields from a control word (rule R485). -/
def AccReg.putCtl (a : AccReg) (v : Native) : AccReg :=
  { bits := BitVec.ofNat 80 (a.bits.toNat % 2 ^ 72 + v.toNat % 256 * 2 ^ 72),
    cplx := v.getLsbD 8, wrap := v.getLsbD 9,
    psh := BitVec.ofNat 6 (v.toNat / 2 ^ 10), sh := BitVec.ofNat 7 (v.toNat / 2 ^ 16) }

/-- Load an accumulator from a data register with selector 0 (rule R484). -/
def AccReg.load (a : AccReg) (v : Native) : AccReg :=
  if a.cplx then { a with bits := ((hiHalf v).signExtend 40) ++ ((loHalf v).signExtend 40) }
  else { a with bits := v.signExtend 80 }

/-- The real product sum x.H·y.H + x.L·y.L (rule R479). -/
def dotReal (x y : Native) : Int := (hiHalf x).toInt * (hiHalf y).toInt + (loHalf x).toInt * (loHalf y).toInt

end Sys2Proof.Machine
end

