-- ==== Sys2Proof/Machine/CasakInt.lean ====
section
/-! DEFINITION. The integer instructions of the Casak cores: moves, arithmetic, logic, shifts, division, bit fields
(rules R451, R459 to R464, R487). Each completes in the frame of `State.issue`. -/

namespace Sys2Proof.Machine


/-- A register-to-register form of one source and one destination. -/
def mov2 (dd ds : BitVec 4) : Issue := { len := 2, uses := [rD dd, rD ds], outs := [(rD dd, 1)] }

/-- MOV Dd,Ds: Dd ← Ds (R451). -/
def execMov (k : CoreId) (dd ds : BitVec 4) (s : State) : Out :=
  .next (s.issueC k (mov2 dd ds) fun c => c.setD dd (c.dr ds))

/-- ADD: wrapping sum, OVF on signed overflow (R459). -/
def execAdd (k : CoreId) (f : AluForm) (s : State) : Out :=
  .next (s.issueC k f.alu.issue fun c => c.arith f.alu false (· + ·))

/-- SUB: wrapping difference, OVF on signed overflow (R459). -/
def execSub (k : CoreId) (f : AluForm) (s : State) : Out :=
  .next (s.issueC k f.alu.issue fun c => c.arith f.alu false (· - ·))

/-- AND: bitwise (R451). -/
def execAnd (k : CoreId) (f : AluForm) (s : State) : Out :=
  .next (s.issueC k f.alu.issue fun c => c.logic f.alu (· &&& ·))

/-- OR: bitwise (R451). -/
def execOr (k : CoreId) (f : AluForm) (s : State) : Out :=
  .next (s.issueC k f.alu.issue fun c => c.logic f.alu (· ||| ·))

/-- XOR: bitwise (R451). -/
def execXor (k : CoreId) (f : AluForm) (s : State) : Out :=
  .next (s.issueC k f.alu.issue fun c => c.logic f.alu (· ^^^ ·))

/-- NOT Dd,Ds: Dd ← ~Ds (R451). -/
def execNot (k : CoreId) (dd ds : BitVec 4) (s : State) : Out :=
  .next (s.issueC k (mov2 dd ds) fun c => c.setD dd (~~~(c.dr ds)))

/-- NEG: wrapping negation, OVF for the most negative operand (R463). -/
def execNeg (k : CoreId) (f : UnForm) (s : State) : Out :=
  .next (s.issueC k f.alu.issue fun c => c.arith f.alu false (fun x _ => -x))

/-- NEGS: saturating negation, OVF for the most negative operand (R463). -/
def execNegs (k : CoreId) (f : UnForm) (s : State) : Out :=
  .next (s.issueC k f.alu.issue fun c => c.arith f.alu true (fun x _ => -x))

/-- SHL: left shift by a register count (R461, R463). -/
def execShl (k : CoreId) (f : AluForm) (s : State) : Out :=
  .next (s.issueC k f.alu.issue fun c => c.shift f.alu (c.regCount f.alu) shlN)

/-- SHR: logical right shift by a register count (R461, R463). -/
def execShr (k : CoreId) (f : AluForm) (s : State) : Out :=
  .next (s.issueC k f.alu.issue fun c => c.shift f.alu (c.regCount f.alu) shrN)

/-- SAR: arithmetic right shift by a register count (R461, R463). -/
def execSar (k : CoreId) (f : AluForm) (s : State) : Out :=
  .next (s.issueC k f.alu.issue fun c => c.shift f.alu (c.regCount f.alu) sarN)

/-- ROL: rotation by a register count, modulo the width (R463). -/
def execRol (k : CoreId) (f : AluForm) (s : State) : Out :=
  .next (s.issueC k f.alu.issue fun c => c.shift f.alu (c.regCount f.alu) rolN)

/-- CLZ: leading zeros, the width for 0 (R463). -/
def execClz (k : CoreId) (f : UnForm) (s : State) : Out :=
  .next (s.issueC k f.alu.issue fun c =>
    c.putSz f.alu.sz f.alu.dd (clzN (szWidth f.alu.sz) (szRead f.alu.sz (c.dr f.alu.ds))))

/-- SWAPH: Dd.H ← Ds.L, Dd.L ← Ds.H (R451). -/
def execSwaph (k : CoreId) (dd ds : BitVec 4) (s : State) : Out :=
  .next (s.issueC k (mov2 dd ds) fun c => c.setD dd (ofHalves (loHalf (c.dr ds)) (hiHalf (c.dr ds))))

/-- MOVA An,Ds: An ← Ds[26:0]; address generation with An waits 2 cycles (R451, R489). -/
def execMova (k : CoreId) (an : BitVec 3) (ds : BitVec 4) (s : State) : Out :=
  .next (s.issueC k { len := 2, uses := [rD ds], outs := [(rA an.toNat, 2)] }
    fun c => c.setA an.toNat ((c.dr ds).truncate 27))

/-- MOVDA Dd,An: Dd ← An, zero-extended (R451). -/
def execMovda (k : CoreId) (dd : BitVec 4) (an : BitVec 3) (s : State) : Out :=
  .next (s.issueC k { len := 2, uses := [rD dd], outs := [(rD dd, 1)] }
    fun c => c.setD dd ((c.ar an.toNat).zeroExtend 72))

/-- MOVLC Ds: LC ← Ds[15:0] (R451, R458). -/
def execMovlc (k : CoreId) (ds : BitVec 4) (s : State) : Out :=
  .next (s.issueC k { len := 2, uses := [rD ds] } fun c => { c with lc := (c.dr ds).truncate 16 })

/-- MOVDLC Dd: Dd ← LC (R451). -/
def execMovdlc (k : CoreId) (dd : BitVec 4) (s : State) : Out :=
  .next (s.issueC k { len := 2, uses := [rD dd], outs := [(rD dd, 1)] } fun c => c.setD dd (c.lc.zeroExtend 72))

/-- An immediate form on one register. -/
def immIssue (len : Nat) (dd : BitVec 4) : Issue := { len := len, uses := [rD dd], outs := [(rD dd, 1)] }

/-- MOVI: Dd ← sign-extended immediate (R451). -/
def execMovi (k : CoreId) (f : ImmForm) (s : State) : Out :=
  .next (s.issueC k (immIssue f.len f.dd) fun c => c.setD f.dd f.imm)

/-- ADDI: Dd ← Dd + sign-extended immediate, with OVF (R451, R459). -/
def execAddi (k : CoreId) (f : ImmForm) (s : State) : Out :=
  .next (s.issueC k (immIssue f.len f.dd) fun c =>
    let r := (c.dr f.dd).toInt + f.imm.toInt
    (c.noteOvf 72 r).setD f.dd (BitVec.ofNat 72 (wrapS 72 r)))

/-- ANDI: with the sign-extended immediate (R451). -/
def execAndi (k : CoreId) (dd : BitVec 4) (imm : BitVec 16) (s : State) : Out :=
  .next (s.issueC k (immIssue 4 dd) fun c => c.setD dd (c.dr dd &&& imm.signExtend 72))

/-- ORI: with the zero-extended immediate (R451). -/
def execOri (k : CoreId) (dd : BitVec 4) (imm : BitVec 16) (s : State) : Out :=
  .next (s.issueC k (immIssue 4 dd) fun c => c.setD dd (c.dr dd ||| imm.zeroExtend 72))

/-- XORI: with the zero-extended immediate (R451). -/
def execXori (k : CoreId) (dd : BitVec 4) (imm : BitVec 16) (s : State) : Out :=
  .next (s.issueC k (immIssue 4 dd) fun c => c.setD dd (c.dr dd ^^^ imm.zeroExtend 72))

/-- SHLI: left shift by an immediate count (R461, R463). -/
def execShli (k : CoreId) (f : ShiForm) (s : State) : Out :=
  .next (s.issueC k f.alu.issue fun c => c.shift f.alu f.count shlN)

/-- SHRI: logical right shift by an immediate count (R461, R463). -/
def execShri (k : CoreId) (f : ShiForm) (s : State) : Out :=
  .next (s.issueC k f.alu.issue fun c => c.shift f.alu f.count shrN)

/-- SARI: arithmetic right shift by an immediate count (R461, R463). -/
def execSari (k : CoreId) (f : ShiForm) (s : State) : Out :=
  .next (s.issueC k f.alu.issue fun c => c.shift f.alu f.count sarN)

/-- ROLI: rotation by an immediate count (R463). -/
def execRoli (k : CoreId) (sz : BitVec 2) (dd ds : BitVec 4) (count : BitVec 7) (s : State) : Out :=
  .next (s.issueC k (Alu.issue ⟨4, sz, dd, ds, ds⟩) fun c => c.shift ⟨4, sz, dd, ds, ds⟩ count.toNat rolN)

/-- ADDS: saturating sum, OVF when it saturates (R459). -/
def execAdds (k : CoreId) (f : R3) (s : State) : Out :=
  .next (s.issueC k f.alu.issue fun c => c.arith f.alu true (· + ·))

/-- SUBS: saturating difference, OVF when it saturates (R459). -/
def execSubs (k : CoreId) (f : R3) (s : State) : Out :=
  .next (s.issueC k f.alu.issue fun c => c.arith f.alu true (· - ·))

/-- ANDN: Ds & ~Dt (R451). -/
def execAndn (k : CoreId) (f : R3) (s : State) : Out :=
  .next (s.issueC k f.alu.issue fun c =>
    c.logic f.alu fun x y => x &&& (2 ^ szWidth f.sz - 1 - y))

/-- A multiplication issues in 2 cycles and gives Dd after 2 (R451, R489). -/
def mulIssue (f : R3) : Issue := { f.alu.issueFull with cyc := 2, outs := [(rD f.dd, 2)] }

/-- MUL: Dd ← Ds.L × Dt.L, signed, exact in 72 bits (R451). -/
def execMul (k : CoreId) (f : R3) (s : State) : Out :=
  .next (s.issueC k (mulIssue f) fun c =>
    c.setD f.dd (BitVec.ofNat 72 (wrapS 72 ((loHalf (c.dr f.ds)).toInt * (loHalf (c.dr f.dt)).toInt))))

/-- MULU: Dd ← Ds.L × Dt.L, unsigned, exact in 72 bits (R451). -/
def execMulu (k : CoreId) (f : R3) (s : State) : Out :=
  .next (s.issueC k (mulIssue f) fun c =>
    c.setD f.dd (BitVec.ofNat 72 ((loHalf (c.dr f.ds)).toNat * (loHalf (c.dr f.dt)).toNat)))

/-- A division issues in 40 cycles, on an even Dd, and may not be repeated (R451, R456, R460). -/
def divIssue (f : R3) : Issue := { f.alu.issuePair 40 40 with noRep := true }

/-- The end of a division: write the pair and the sticky bits, then the DZ trap where it is enabled (R463). -/
def divEnd (k : CoreId) (f : R3) (s : State) (q r : Nat) (ovf dz : Bool) : Eff :=
  let s1 := s.modCore k fun c =>
    let c1 := (c.setD f.dd (BitVec.ofNat 72 q)).setD (nextD f.dd) (BitVec.ofNat 72 r)
    let c2 := if ovf then c1.hwBit 0x000 true else c1
    if dz then c2.hwBit 0x001 true else c2
  if dz && (s.core k).bit k 0x011 then .trap s1 vDZ 0 else .seq s1

/-- DIV: signed, towards zero, wrapping (R460, R463). -/
def execDiv (k : CoreId) (f : R3) (s : State) : Out :=
  .next (s.issue k (divIssue f) fun s =>
    let c := s.core k
    let d := divSigned false (c.dr f.ds).toInt (c.dr f.dt).toInt
    divEnd k f s (wrapS 72 d.1) (wrapS 72 d.2.1) d.2.2.1 d.2.2.2)

/-- DIVS: signed, towards zero, saturating (R460, R463). -/
def execDivs (k : CoreId) (f : R3) (s : State) : Out :=
  .next (s.issue k (divIssue f) fun s =>
    let c := s.core k
    let d := divSigned true (c.dr f.ds).toInt (c.dr f.dt).toInt
    divEnd k f s (wrapS 72 d.1) (wrapS 72 d.2.1) d.2.2.1 d.2.2.2)

/-- DIVU: unsigned (R460, R463). -/
def execDivu (k : CoreId) (f : R3) (s : State) : Out :=
  .next (s.issue k (divIssue f) fun s =>
    let c := s.core k
    let d := divUnsigned (c.dr f.ds).toNat (c.dr f.dt).toNat
    divEnd k f s d.1 d.2.1 false d.2.2)

/-- Keep Ds and Dt in the pair Dd, Dd+1 when the comparison of Ds with Dd holds; all operands are read first (R487). -/
def Core.extreme (c : Core) (f : R3) (better : Int → Int → Bool) : Core :=
  if better (c.dr f.ds).toInt (c.dr f.dd).toInt then (c.setD f.dd (c.dr f.ds)).setD (nextD f.dd) (c.dr f.dt) else c

/-- MAXI: keep the larger signed value and its index (R487). -/
def execMaxi (k : CoreId) (f : R3) (s : State) : Out :=
  .next (s.issueC k (f.alu.issuePair 1 1) fun c => c.extreme f fun x y => decide (x > y))

/-- MINI: keep the smaller signed value and its index (R487). -/
def execMini (k : CoreId) (f : R3) (s : State) : Out :=
  .next (s.issueC k (f.alu.issuePair 1 1) fun c => c.extreme f fun x y => decide (x < y))

/-- ADDC and SUBC are illegal when the carry operand is not an RW bit (R452); an accumulator's SOV bit is waited for. -/
def carryIssue (dd ds : BitVec 4) (b : BitVec 12) : Issue :=
  { len := 4, uses := [rD dd, rD ds] ++ (if 4 ≤ b.toNat ∧ b.toNat ≤ 7 then [rAcc (b.toNat - 4)] else []),
    outs := [(rD dd, 1)], bad := !bitRW b.toNat }

/-- ADDC: unsigned, {B[b], Dd} ← Dd + Ds + B[b] (R451, R459). -/
def execAddc (k : CoreId) (dd ds : BitVec 4) (bit : BitVec 12) (s : State) : Out :=
  .next (s.issueC k (carryIssue dd ds bit) fun c =>
    let r := (c.dr dd).toNat + (c.dr ds).toNat + b2n (c.bit k bit.toNat)
    (c.setD dd (BitVec.ofNat 72 r)).writeBit bit.toNat (decide (r ≥ 2 ^ 72)))

/-- SUBC: unsigned, Dd ← Dd − Ds − B[b], B[b] ← borrow (R451, R459). -/
def execSubc (k : CoreId) (dd ds : BitVec 4) (bit : BitVec 12) (s : State) : Out :=
  .next (s.issueC k (carryIssue dd ds bit) fun c =>
    let r : Int := (c.dr dd).toNat - (c.dr ds).toNat - b2n (c.bit k bit.toNat)
    (c.setD dd (BitVec.ofNat 72 (wrapS 72 r))).writeBit bit.toNat (decide (r < 0)))

/-- A bit-field form: illegal for a POS or LEN outside rule R464. -/
def bfIssue (dd ds : BitVec 4) (pos len : BitVec 7) : Issue :=
  { len := 4, uses := [rD dd, rD ds], outs := [(rD dd, 1)], bad := bfBad pos.toNat len.toNat }

/-- BFEXT: the field in the low bits of Dd, zero-extended (R464). -/
def execBfext (k : CoreId) (dd ds : BitVec 4) (pos len : BitVec 7) (s : State) : Out :=
  .next (s.issueC k (bfIssue dd ds pos len) fun c =>
    c.setD dd (BitVec.ofNat 72 ((c.dr ds).toNat >>> pos.toNat % 2 ^ bfLen pos.toNat len.toNat)))

/-- BFEXTS: the field in the low bits of Dd, sign-extended from its top bit (R464). -/
def execBfexts (k : CoreId) (dd ds : BitVec 4) (pos len : BitVec 7) (s : State) : Out :=
  .next (s.issueC k (bfIssue dd ds pos len) fun c =>
    let l := bfLen pos.toNat len.toNat
    c.setD dd (BitVec.ofNat 72 (wrapS 72 (sgn l ((c.dr ds).toNat >>> pos.toNat % 2 ^ l)))))

/-- BFINS: Ds[L−1:0] into Dd[POS+L−1:POS], the rest of Dd unchanged (R464). -/
def execBfins (k : CoreId) (dd ds : BitVec 4) (pos len : BitVec 7) (s : State) : Out :=
  .next (s.issueC k (bfIssue dd ds pos len) fun c =>
    let l := bfLen pos.toNat len.toNat
    let m := (2 ^ l - 1) <<< pos.toNat
    c.setD dd ((c.dr dd &&& ~~~(BitVec.ofNat 72 m)) ||| BitVec.ofNat 72 (((c.dr ds).toNat % 2 ^ l) <<< pos.toNat)))

/-- BPERM: byte permutation by the selectors in Dsel (R464). -/
def execBperm (k : CoreId) (dd ds dsel : BitVec 4) (s : State) : Out :=
  .next (s.issueC k { len := 4, uses := [rD dd, rD ds, rD dsel], outs := [(rD dd, 1)] } fun c =>
    c.setD dd (BitVec.ofNat 72 (permBytes (c.dr ds).toNat (c.dr dsel).toNat)))

/-- The accumulators whose SOV bit lies among n bits from bit b: reading or writing it waits for them (R489). -/
def sovUses (b n : Nat) : List Nat := ((List.range 4).filter fun i => b ≤ 4 + i && 4 + i < b + n).map rAcc

/-- MOVB and MOVBD: illegal when N is 0 or above 72, or BIT + N exceeds 4,096 (R452). -/
def bvBad (b n : Nat) : Bool := n == 0 || decide (n > 72) || decide (b + n > 4096)

/-- MOVB Dd,b,n: Dd ← B[b+n−1:b], zero-extended (R451). -/
def execMovb (k : CoreId) (d : BitVec 4) (bit : BitVec 12) (n : BitVec 7) (s : State) : Out :=
  .next (s.issueC k { len := 4, uses := rD d :: sovUses bit.toNat n.toNat, outs := [(rD d, 1)], bad := bvBad bit.toNat n.toNat }
    fun c => c.setD d (BitVec.ofNat 72 ((c.space k).toNat >>> bit.toNat % 2 ^ n.toNat)))

/-- MOVBD b,Ds,n: B[b+n−1:b] ← Ds[n−1:0] to RW bits, RO bits unchanged (R451, R441). -/
def execMovbd (k : CoreId) (d : BitVec 4) (bit : BitVec 12) (n : BitVec 7) (s : State) : Out :=
  .next (s.issueC k { len := 4, uses := rD d :: sovUses bit.toNat n.toNat, bad := bvBad bit.toNat n.toNat }
    fun c => c.writeBits bit.toNat n.toNat (c.dr d).toNat)

/-- BSET b: B[b] ← 1 under the bit's access rule (R441, R451). -/
def execBset (k : CoreId) (bit : BitVec 12) (s : State) : Out :=
  .next (s.issueC k { len := 2, uses := sovUses bit.toNat 1 } fun c => c.writeBit bit.toNat true)

/-- BCLR b: B[b] ← 0 under the bit's access rule (R441, R451). -/
def execBclr (k : CoreId) (bit : BitVec 12) (s : State) : Out :=
  .next (s.issueC k { len := 2, uses := sovUses bit.toNat 1 } fun c => c.writeBit bit.toNat false)

/-- NOP (R451). -/
def execNop (k : CoreId) (s : State) : Out := .next (s.issueC k { len := 2 } fun c => c)

/-- LEA An,#imm16: An[23:0] ← An[23:0] + sign-extended immediate, modulo 2^24 (R451). -/
def execLea (k : CoreId) (an : BitVec 3) (imm : BitVec 16) (s : State) : Out :=
  .next (s.issueC k { len := 4, outs := [(rA an.toNat, 2)] } fun c =>
    c.setA an.toNat (withOff (c.ar an.toNat) (((offOf (c.ar an.toNat) : Int) + imm.toInt) % 2 ^ 24).toNat))

/-- SETA An,seg,#imm16: An ← segment and zero-extended immediate (R451). -/
def execSeta (k : CoreId) (an seg : BitVec 3) (imm : BitVec 16) (s : State) : Out :=
  .next (s.issueC k { len := 4, outs := [(rA an.toNat, 2)] } fun c =>
    c.setA an.toNat (BitVec.ofNat 27 (seg.toNat * 2 ^ 24 + imm.toNat)))

/-- ADDAR An,Ds: An[23:0] ← An[23:0] + Ds[23:0], modulo 2^24 (R451). -/
def execAddar (k : CoreId) (an : BitVec 3) (ds : BitVec 4) (s : State) : Out :=
  .next (s.issueC k { len := 4, uses := [rD ds], outs := [(rA an.toNat, 2)] } fun c =>
    c.setA an.toNat (withOff (c.ar an.toNat) (offOf (c.ar an.toNat) + (c.dr ds).toNat % 2 ^ 24)))

end Sys2Proof.Machine
end

