-- ==== Sys2Proof/Machine/CasakMem.lean ====
section
/-! DEFINITION. Loads, stores, the stack and the segment instructions of the Casak cores (rules R442 to R447, R451). -/

namespace Sys2Proof.Machine

/-- Count the cycles of an access beyond the first, and use up the free number of its arbitration wait (R442). -/
def State.chargeAccess (s : State) (k space : Nat) : State :=
  (s.modCore k fun c => { c with cyc := c.cyc + s.accessExtra space, clk := c.clk + s.accessExtra space }).bump

/-- A load through An at a displacement: SEGMENT, DATA_ERR, or the word with the state after address generation,
post-modify and the access (rules R446, R451, R465). -/
def State.loadVia (s : State) (k an : Nat) (disp : Int) (m : BitVec 2) : Except (Nat × Nat) (State × Native × Nat) :=
  let c := s.core k
  match c.locate k an disp false with
  | none => .error (vSEGMENT, an)
  | some (sp, a) =>
    if s.isBad (spaceMem k sp) a then .error (vDATAERR, sp)
    else .ok ((s.modCore k fun c => (c.noteFold k an).postModify k an m).chargeAccess k sp, s.dataRd k sp a, s.accessExtra sp)

/-- A store through An at a displacement (rules R446, R451). -/
def State.storeVia (s : State) (k an : Nat) (disp : Int) (m : BitVec 2) (v : Native) : Except (Nat × Nat) State :=
  let c := s.core k
  match c.locate k an disp true with
  | none => .error (vSEGMENT, an)
  | some (sp, a) =>
    .ok (((s.modCore k fun c => (c.noteFold k an).postModify k an m).chargeAccess k sp).dataWr k sp a v)

/-- The effect of an operation that may fault. -/
def effOf (r : Except (Nat × Nat) State) : Eff :=
  match r with
  | .ok s => .seq s
  | .error e => .fault e.1 e.2

/-- LD: Dd ← the word; the loaded register is ready the access cycles plus 1 after issue (R451, R489). -/
def execLd (k : CoreId) (f : MemForm) (s : State) : Out :=
  .next (s.issue k { len := f.len, uses := [rA f.an, rD f.dd], bad := f.mod == 3 } fun s =>
    let t := (s.core k).clk
    match s.loadVia k f.an f.disp f.mod with
    | .error e => .fault e.1 e.2
    | .ok (s1, v, extra) => .seq (s1.modCore k fun c => (c.setD f.dd v).produce t [(rD f.dd, 2 + extra)]))

/-- ST: store Dd (R451). -/
def execSt (k : CoreId) (f : MemForm) (s : State) : Out :=
  .next (s.issue k { len := f.len, uses := [rA f.an, rD f.dd], bad := f.mod == 3 } fun s =>
    effOf (s.storeVia k f.an f.disp f.mod ((s.core k).dr f.dd)))

/-- PUSH Dn (R447, R451). -/
def execPush (k : CoreId) (dn : BitVec 4) (s : State) : Out :=
  .next (s.issue k { len := 2, uses := [rA 7, rD dn] } fun s => effOf (s.pushWord k ((s.core k).dr dn)))

/-- POP Dn (R447, R451): a load, so Dn is ready as after LD. -/
def execPopDn (k : CoreId) (dn : BitVec 4) (s : State) : Out :=
  .next (s.issue k { len := 2, uses := [rA 7, rD dn] } fun s =>
    let t := (s.core k).clk
    match s.popWord k with
    | .error e => .fault e.1 e.2
    | .ok (s1, v) => .seq (s1.modCore k fun c => (c.setD dn v).produce t [(rD dn, 2 + (c.clk - t))]))

/-- PUSHA An: push An, zero-extended (R447, R451). -/
def execPusha (k : CoreId) (an : BitVec 3) (s : State) : Out :=
  .next (s.issue k { len := 2, uses := [rA 7] } fun s =>
    effOf (s.pushWord k (((s.core k).ar an.toNat).zeroExtend 72)))

/-- POPA An: pop An; address generation with it waits 2 cycles (R447, R451, R489). -/
def execPopa (k : CoreId) (an : BitVec 3) (s : State) : Out :=
  .next (s.issue k { len := 2, uses := [rA 7], outs := [(rA an.toNat, 2)] } fun s =>
    match s.popWord k with
    | .error e => .fault e.1 e.2
    | .ok (s1, v) => .seq (s1.modCore k fun c => c.setA an.toNat (v.truncate 27)))

/-- Load a descriptor under rule R445: a refusal raises SEGMENT with code 8. -/
def loadSeg (k : CoreId) (seg : Nat) (v : Native) (s : State) : Eff :=
  if descBad k seg v then .fault vSEGMENT 8 else .seq (s.modCore k fun c => c.setSg k seg v)

/-- SEGLD SEGs,(An): PRIV in user mode; else the word at (An), checked (R445, R451, R469). -/
def execSegld (k : CoreId) (seg an : BitVec 3) (s : State) : Out :=
  .next (s.issue k { len := 4, cyc := 2, uses := [rA an.toNat], noRep := true } fun s =>
    if (s.core k).user then .fault vPRIV 0
    else match s.loadVia k an.toNat 0 0 with
      | .error e => .fault e.1 e.2
      | .ok (s1, v, _) => loadSeg k seg.toNat v s1)

/-- SEGST (An),SEGs: store the descriptor (R451). -/
def execSegst (k : CoreId) (seg an : BitVec 3) (s : State) : Out :=
  .next (s.issue k { len := 4, uses := [rA an.toNat] } fun s =>
    effOf (s.storeVia k an.toNat 0 0 ((s.core k).sg k seg.toNat)))

/-- MOVSD Dd,SEGs: Dd ← the descriptor (R451). -/
def execMovsd (k : CoreId) (dd : BitVec 4) (seg : BitVec 3) (s : State) : Out :=
  .next (s.issueC k { len := 4, uses := [rD dd], outs := [(rD dd, 1)] } fun c => c.setD dd (c.sg k seg.toNat))

/-- MOVDS SEGs,Ds: PRIV in user mode; else the descriptor from Ds, checked (R445, R451, R469). -/
def execMovds (k : CoreId) (seg : BitVec 3) (ds : BitVec 4) (s : State) : Out :=
  .next (s.issue k { len := 4, uses := [rD ds], noRep := true } fun s =>
    if (s.core k).user then .fault vPRIV 0 else loadSeg k seg.toNat ((s.core k).dr ds) s)

end Sys2Proof.Machine
end

