-- ==== Sys2Proof/Machine/CasakSig.lean ====
section
/-! DEFINITION. The signal datapath of the Casak cores (chapter 13): multiply-accumulate and the accumulator moves. -/

namespace Sys2Proof

/-- The accumulator a multiply-accumulate names. -/
def MacForm.acc : MacForm → Nat
  | .d16 a _ _ _ _ => a.toNat
  | .dr a _ _ => a.toNat

/-- Its length. -/
def MacForm.len : MacForm → Nat
  | .d16 _ _ _ _ _ => 2
  | .dr _ _ _ => 4

/-- The registers it uses for operands. -/
def MacForm.uses : MacForm → List Nat
  | .d16 _ ax ay _ _ => Machine.rA ax.toNat :: (if ay = 3 then [] else [Machine.rA (4 + ay.toNat)])
  | .dr _ ds dt => [Machine.rD ds, Machine.rD dt]

/-- With AY 0b11, YM must be 0 (rule R476). -/
def MacForm.formBad : MacForm → Bool
  | .d16 _ _ ay _ ym => ay == 3 && ym
  | .dr _ _ _ => false

namespace Machine

/-- The operand fetches of a multiply-accumulate (rules R475, R476): the X word through AX, in space X, and the Y word
through AY, in space Y, or X again with AY 0b11; the DR form reads registers. A fault leaves everything unchanged
(rule R493). -/
def State.macFetch (s : State) (k : Nat) (f : MacForm) : Except (Nat × Nat) (State × Native × Native) :=
  match f with
  | .dr _ ds dt => .ok (s, (s.core k).dr ds, (s.core k).dr dt)
  | .d16 _ ax ay xm ym =>
    let c := s.core k
    let xa := ax.toNat
    let ya := 4 + ay.toNat
    match c.locate k xa 0 false with
    | none => .error (vSEGMENT, xa)
    | some (sx, ax') =>
      if sx ≠ 0 then .error (vSEGMENT, xa)
      else if ay = 3 then
        if s.isBad (9 + k) ax' then .error (vDATAERR, 0)
        else
          let x := s.dataRd k 0 ax'
          .ok (s.modCore k fun c => (c.noteFold k xa).postModify k xa (if xm then 1 else 0), x, x)
      else match c.locate k ya 0 false with
        | none => .error (vSEGMENT, ya)
        | some (sy, ay') =>
          if sy ≠ 1 then .error (vSEGMENT, ya)
          else if s.isBad (9 + k) ax' then .error (vDATAERR, 0)
          else if s.isBad (18 + k) ay' then .error (vDATAERR, 1)
          else
            .ok (s.modCore k fun c =>
                (((c.noteFold k xa).noteFold k ya).postModify k xa (if xm then 1 else 0)).postModify k ya
                  (if ym then 1 else 0),
              s.dataRd k 0 ax', s.dataRd k 1 ay')

/-- A multiply-accumulate issues in 1 cycle; it is illegal in the other mode of its accumulator, read at decode
(rule R481). The next one on the accumulator waits 1 cycle, the moves and SOV 3 (rule R489). -/
def macIssue (k : Nat) (f : MacForm) (cplx : Bool) (s : State) : Issue :=
  { len := f.len, uses := rMac f.acc :: f.uses, outs := [(rMac f.acc, 1), (rAcc f.acc, 3)],
    bad := f.formBad || ((s.core k).ac f.acc).cplx != cplx }

/-- A real multiply-accumulate: the new value from the old one and the product sum (rule R479). -/
def macReal (k : CoreId) (f : MacForm) (op : Int → Int → Int) (s : State) : State :=
  s.issue k (macIssue k f false s) fun s =>
    match s.macFetch k f with
    | .error e => .fault e.1 e.2
    | .ok (s1, x, y) => .seq (s1.modCore k fun c => c.putReal f.acc (op (c.ac f.acc).val (dotReal x y)))

/-- A complex multiply-accumulate: the lane products rounded by PSH, added to the lanes or written (rules R479, R480). -/
def macCplx (k : CoreId) (f : MacForm) (add conj : Bool) (s : State) : State :=
  s.issue k (macIssue k f true s) fun s =>
    match s.macFetch k f with
    | .error e => .fault e.1 e.2
    | .ok (s1, x, y) =>
      let xh := (hiHalf x).toInt
      let xl := (loHalf x).toInt
      let yh := (hiHalf y).toInt
      let yl := (loHalf y).toInt
      let re := if conj then xh * yh + xl * yl else xh * yh - xl * yl
      let im := if conj then xl * yh - xh * yl else xh * yl + xl * yh
      .seq (s1.modCore k fun c =>
        let a := c.ac f.acc
        let n := a.psh.toNat
        c.putCplx f.acc ((if add then a.re else 0) + roundShift re n) ((if add then a.im else 0) + roundShift im n))

/-- MAC: ACC ← ACC + (x.H·y.H + x.L·y.L) (R479). -/
def execMac (k : CoreId) (f : MacForm) (s : State) : Out := .next (macReal k f (fun a p => a + p) s)

/-- MSU: ACC ← ACC − (x.H·y.H + x.L·y.L) (R479). -/
def execMsu (k : CoreId) (f : MacForm) (s : State) : Out := .next (macReal k f (fun a p => a - p) s)

/-- MPY: ACC ← x.H·y.H + x.L·y.L (R479). -/
def execMpy (k : CoreId) (f : MacForm) (s : State) : Out := .next (macReal k f (fun _ p => p) s)

/-- CMAC: complex multiply-accumulate (R479). -/
def execCmac (k : CoreId) (f : MacForm) (s : State) : Out := .next (macCplx k f true false s)

/-- CMACJ: x times the conjugate of y, accumulated (R479). -/
def execCmacj (k : CoreId) (f : MacForm) (s : State) : Out := .next (macCplx k f true true s)

/-- CMPY: complex product into the accumulator (R479). -/
def execCmpy (k : CoreId) (f : MacForm) (s : State) : Out := .next (macCplx k f false false s)

/-- CLRA ACCn: ACC ← 0, control fields and SOV unchanged (R486). -/
def execClra (k : CoreId) (acc : BitVec 2) (s : State) : Out :=
  .next (s.issueC k { len := 4, uses := [rAcc acc.toNat], outs := [(rAcc acc.toNat, 1)] } fun c =>
    c.setAc acc.toNat { c.ac acc.toNat with bits := 0 })

/-- MVAD Dd,ACCn,#sel: the scaled value, the raw bits or the control word; selector 3 is illegal (R483 to R485). -/
def execMvad (k : CoreId) (dd : BitVec 4) (acc sel : BitVec 2) (s : State) : Out :=
  .next (s.issueC k { len := 4, uses := [rAcc acc.toNat, rD dd], outs := [(rD dd, 1)], bad := sel == 3 } fun c =>
    let a := c.ac acc.toNat
    if sel = 0 then
      let v := a.scaled
      (if v.2 then c.hwBit 0x002 true else c).setD dd v.1
    else if sel = 1 then c.setD dd (a.bits.truncate 72)
    else c.setD dd a.ctlWord)

/-- MVDA ACCn,Ds,#sel: load the value, the raw bits or the control fields; selector 3 and a bad control word are
illegal (R484, R485). -/
def execMvda (k : CoreId) (acc : BitVec 2) (ds : BitVec 4) (sel : BitVec 2) (s : State) : Out :=
  let q : Issue :=
    { len := 4, uses := [rAcc acc.toNat, rD ds], outs := [(rAcc acc.toNat, 1)],
      bad := sel == 3 || (sel == 2 && ctlBad ((s.core k).dr ds)) }
  .next (s.issueC k q fun c =>
    let a := c.ac acc.toNat
    let v := c.dr ds
    c.setAc acc.toNat
      (if sel = 0 then a.load v
       else if sel = 1 then { a with bits := (a.bits.extractLsb' 72 8) ++ v }
       else a.putCtl v))

/-- STSC (An)mod,ACCn: store the scaled value, faulting like ST, with B.MOVSAT only when a value is delivered
(R483, R494). -/
def execStsc (k : CoreId) (an : BitVec 3) (mod acc : BitVec 2) (s : State) : Out :=
  .next (s.issue k { len := 4, uses := [rA an.toNat, rAcc acc.toNat], bad := mod == 3 } fun s =>
    let v := ((s.core k).ac acc.toNat).scaled
    match s.storeVia k an.toNat 0 mod v.1 with
    | .error e => .fault e.1 e.2
    | .ok s1 => .seq (if v.2 then (s1.modCore k fun c => c.hwBit 0x002 true) else s1))

/-- SETSH ACCn,#sh: SH from 0 to 79 (R478, R486). -/
def execSetsh (k : CoreId) (acc : BitVec 2) (sh : BitVec 7) (s : State) : Out :=
  .next (s.issueC k { len := 4, uses := [rAcc acc.toNat], outs := [(rAcc acc.toNat, 1)], bad := decide (79 < sh.toNat) }
    fun c => c.setAc acc.toNat { c.ac acc.toNat with sh := sh })

/-- SETAM ACCn,#m: mode, wrap and product shift (R478, R486). -/
def execSetam (k : CoreId) (acc : BitVec 2) (cplx wrap : Bool) (psh : BitVec 6) (s : State) : Out :=
  .next (s.issueC k { len := 4, uses := [rAcc acc.toNat], outs := [(rAcc acc.toNat, 1)] }
    fun c => c.setAc acc.toNat { c.ac acc.toNat with cplx := cplx, wrap := wrap, psh := psh })

end Machine
end Sys2Proof
end

