-- ==== Sys2Proof/Machine/CasakFlow.lean ====
section
/-! DEFINITION. Control flow of the Casak cores: branches with their delay slots, calls, repeats, exceptions and the
events that reach a core (rules R453 to R458, R465 to R472). -/

namespace Sys2Proof.Machine

/-- A branch on a condition of the core (rule R453). -/
def branchIf (k : CoreId) (len : Nat) (uses : List Nat) (cond : Core → Bool) (target : BitVec 16 → BitVec 16)
    (s : State) : State :=
  s.issue k { len := len, uses := uses, ctl := true, noRep := true } fun s =>
    .branch s (if cond (s.core k) then some (target (s.core k).pc) else none)

/-- A branch on one register against 0. -/
def branchZ (k : CoreId) (f : BzForm) (cond : Int → Bool) (s : State) : State :=
  branchIf k f.len [rD f.da] (fun c => cond (c.dr f.da).toInt) (fun pc => f.target pc) s

/-- BEQZ (R451). -/
def execBeqz (k : CoreId) (f : BzForm) (s : State) : Out := .next (branchZ k f (fun x => x == 0) s)
/-- BNEZ (R451). -/
def execBnez (k : CoreId) (f : BzForm) (s : State) : Out := .next (branchZ k f (fun x => x != 0) s)
/-- BLTZ (R451). -/
def execBltz (k : CoreId) (f : BzForm) (s : State) : Out := .next (branchZ k f (fun x => decide (x < 0)) s)
/-- BGEZ (R451). -/
def execBgez (k : CoreId) (f : BzForm) (s : State) : Out := .next (branchZ k f (fun x => decide (x ≥ 0)) s)
/-- BGTZ (R451). -/
def execBgtz (k : CoreId) (f : BzForm) (s : State) : Out := .next (branchZ k f (fun x => decide (x > 0)) s)
/-- BLEZ (R451). -/
def execBlez (k : CoreId) (f : BzForm) (s : State) : Out := .next (branchZ k f (fun x => decide (x ≤ 0)) s)

/-- BRA (R451). -/
def execBra (k : CoreId) (f : BraForm) (s : State) : Out :=
  .next (branchIf k f.len [] (fun _ => true) (fun pc => f.target pc) s)

/-- A branch on a comparison of two registers. -/
def branch2 (k : CoreId) (da db : BitVec 4) (off : BitVec 12) (cond : Native → Native → Bool) (s : State) : State :=
  branchIf k 4 [rD da, rD db] (fun c => cond (c.dr da) (c.dr db)) (fun pc => relTarget pc off) s

/-- BEQ (R451). -/
def execBeq (k : CoreId) (da db : BitVec 4) (off : BitVec 12) (s : State) : Out :=
  .next (branch2 k da db off (fun x y => x == y) s)
/-- BNE (R451). -/
def execBne (k : CoreId) (da db : BitVec 4) (off : BitVec 12) (s : State) : Out :=
  .next (branch2 k da db off (fun x y => x != y) s)
/-- BLT: signed (R451). -/
def execBlt (k : CoreId) (da db : BitVec 4) (off : BitVec 12) (s : State) : Out :=
  .next (branch2 k da db off (fun x y => decide (x.toInt < y.toInt)) s)
/-- BGE: signed (R451). -/
def execBge (k : CoreId) (da db : BitVec 4) (off : BitVec 12) (s : State) : Out :=
  .next (branch2 k da db off (fun x y => decide (x.toInt ≥ y.toInt)) s)
/-- BLTU: unsigned (R451). -/
def execBltu (k : CoreId) (da db : BitVec 4) (off : BitVec 12) (s : State) : Out :=
  .next (branch2 k da db off (fun x y => decide (x.toNat < y.toNat)) s)
/-- BGEU: unsigned (R451). -/
def execBgeu (k : CoreId) (da db : BitVec 4) (off : BitVec 12) (s : State) : Out :=
  .next (branch2 k da db off (fun x y => decide (x.toNat ≥ y.toNat)) s)

/-- DBNZ: LC ← LC − 1 modulo 65,536, branch while LC ≠ 0 (R451, R458). -/
def execDbnz (k : CoreId) (off : BitVec 16) (s : State) : Out :=
  .next (s.issue k { len := 4, ctl := true, noRep := true } fun s =>
    let c := s.core k
    let n := c.lc - 1
    .branch (s.setCore k { c with lc := n }) (if n = 0 then none else some (relTarget c.pc off)))

/-- BBS: branch if the bit is 1 (R451). -/
def execBbs (k : CoreId) (bit : BitVec 12) (off : BitVec 11) (s : State) : Out :=
  .next (branchIf k 4 (sovUses bit.toNat 1) (fun c => c.bit k bit.toNat) (fun pc => relTarget pc off) s)
/-- BBC: branch if the bit is 0 (R451). -/
def execBbc (k : CoreId) (bit : BitVec 12) (off : BitVec 11) (s : State) : Out :=
  .next (branchIf k 4 (sovUses bit.toNat 1) (fun c => !c.bit k bit.toNat) (fun pc => relTarget pc off) s)

/-- The byte address of a halfword address. -/
def hwAddr (x : Nat) : BitVec 16 := BitVec.ofNat 16 (2 * x)

/-- JMP: absolute (R451). -/
def execJmp (k : CoreId) (tgt : BitVec 15) (s : State) : Out :=
  .next (branchIf k 4 [] (fun _ => true) (fun _ => hwAddr tgt.toNat) s)
/-- JMPR: halfword address Ds[14:0] (R451). -/
def execJmpr (k : CoreId) (ds : BitVec 4) (s : State) : Out :=
  .next (s.issue k { len := 4, uses := [rD ds], ctl := true, noRep := true } fun s =>
    .branch s (some (hwAddr (((s.core k).dr ds).toNat % 2 ^ 15))))

/-- A call: push the address that follows the delay slot, then branch; a STACK fault does neither (rule R454). The
slot's length is read from the instruction RAM. -/
def callTo (k : CoreId) (uses : List Nat) (target : Core → BitVec 16) (s : State) : State :=
  s.issue k { len := 4, cyc := 2, uses := rA 7 :: uses, ctl := true, noRep := true } fun s =>
    let c := s.core k
    let ret := c.pc + 4 + BitVec.ofNat 16 (c.lenAt (c.pc + 4))
    match s.pushWord k (ret.zeroExtend 72) with
    | .error e => .fault e.1 e.2
    | .ok s1 => .branch s1 (some (target c))

/-- CALL (R451, R454). -/
def execCall (k : CoreId) (tgt : BitVec 15) (s : State) : Out := .next (callTo k [] (fun _ => hwAddr tgt.toNat) s)
/-- CALLR (R451, R454). -/
def execCallr (k : CoreId) (ds : BitVec 4) (s : State) : Out :=
  .next (callTo k [rD ds] (fun c => hwAddr ((c.dr ds).toNat % 2 ^ 15)) s)

/-- An address as the program counter holds it: bit 0 is always 0 (rule R438). -/
def evenPc (a : BitVec 16) : BitVec 16 := a &&& 0xFFFE#16

/-- RET: pop the return address and branch, with one delay slot (R451, R453, R454). -/
def execRet (k : CoreId) (s : State) : Out :=
  .next (s.issue k { len := 2, cyc := 2, uses := [rA 7], ctl := true, noRep := true } fun s =>
    match s.popWord k with
    | .error e => .fault e.1 e.2
    | .ok (s1, v) => .branch s1 (some (evenPc (v.truncate 16))))

/-- RETI: pop the frame, restore B.IE, LC, REPACT and REPN, resume at RESUME, and where SLOT is 1 go on at CONT after
it (R451, R466). -/
def execReti (k : CoreId) (s : State) : Out :=
  .next (s.issue k { len := 2, cyc := 3, uses := [rA 7], ctl := true, noRep := true } fun s =>
    match s.popWord k with
    | .error e => .fault e.1 e.2
    | .ok (s1, v) =>
      .own (s1.modCore k fun c => { c.hwBit 0x010 (v.getLsbD 50) with
        lc := v.extractLsb' 32 16, repAct := v.getLsbD 48, repN := v.getLsbD 48 && v.getLsbD 49, repFirst := false,
        pc := evenPc (v.extractLsb' 0 16),
        slot := if v.getLsbD 51 then .to (evenPc (v.extractLsb' 16 16)) else .no }))

/-- TRAP #n: the TRAP exception with code n, resuming at the next instruction (R451, R465). -/
def execTrap (k : CoreId) (n : BitVec 8) (s : State) : Out :=
  .next (s.issue k { len := 2, ctl := true, noRep := true } fun s => .trap s vTRAP n.toNat)

/-- HALT: stop the core and record the halt (R468). -/
def execHalt (k : CoreId) (s : State) : Out :=
  .next (s.issue k { len := 2, ctl := true, noRep := true } fun s => .own (s.haltCore k 1 (s.core k).pc))

/-- Some bit among B.TRIGt, B.HEAT and B.DOOR is 1 with its enable at 1 (rules R465, R467): the vector it enters and
its code, in the order TRIG, HEAT, DOOR (rule R466). -/
def Core.wakeBit (c : Core) : Option (Nat × Nat) :=
  let b := fun i => c.bits.getLsbD i
  if b 0x021 && (b 0x201 || b 0x202 || b 0x203 || b 0x204) then
    some (vTRIG, if b 0x201 then 0 else if b 0x202 then 1 else if b 0x203 then 2 else 3)
  else if b 0x020 && b 0x200 then some (vHEAT, 0)
  else if b 0x022 && b 0x205 then some (vDOOR, 0)
  else none

/-- WAIT: suspend until such a bit is 1; 1 cycle when one already is (R467). -/
def execWait (k : CoreId) (s : State) : Out :=
  .next (s.issue k { len := 2, ctl := true, noRep := true } fun s =>
    .seq (if (s.core k).wakeBit.isSome then s else s.modCore k fun c => { c with st := .wait }))

/-- A waiting core goes on when an enabled bit is 1 (rule R467). -/
def State.wake (s : State) (k : Nat) : State :=
  let c := s.core k
  if c.st = .wait && c.wakeBit.isSome then s.setCore k { c with st := .run } else s

/-- The hardware sets an event bit of a core, waking it if enabled (rules R441, R467). -/
def State.coreEvent (s : State) (k b : Nat) : State := (s.modCore k fun c => c.hwBit b true).wake k

/-- INTERRUPT: at an instruction boundary of a running core with B.IE at 1, outside a delay slot, a REPN and the span
between a prefix and its first iteration, the enabled pending bit first in order enters its vector (R457, R465, R466). -/
def execInterrupt (k : CoreId) (s : State) : Out :=
  let c := s.core k
  .next <|
    if s.canIssue k && c.bit k 0x010 && c.slot == .no && !(c.repAct && (c.repN || c.repFirst)) && !c.skip then
      match c.wakeBit with
      | none => s
      | some (v, code) => s.enterExc k v code c.pc 0 false
    else s

/-- A repeat prefix: LC takes the count; a count of 0 from LC skips the repeated instruction (rules R455, R456). -/
def repeatOf (k : CoreId) (n src : Bool) (cnt : BitVec 12) (s : State) : State :=
  let lc := (s.core k).lc
  s.issue k { len := 4, ctl := true, noRep := true, bad := n && src && decide (lc.toNat > 4096) } fun s =>
    .own (s.modCore k fun c =>
      let num : BitVec 16 := if src then c.lc else cnt.zeroExtend 16 + 1
      if num = 0 then { c with lc := 0, skip := true, pc := c.pc + 4 }
      else { c with lc := num, repAct := true, repN := n, repFirst := true, pc := c.pc + 4 })

/-- REP: repeat the next instruction, interruptibly (R455, R457). -/
def execRep (k : CoreId) (src : Bool) (cnt : BitVec 12) (s : State) : Out := .next (repeatOf k false src cnt s)

/-- REPN: repeat the next instruction, not interruptibly (R455, R457). -/
def execRepn (k : CoreId) (src : Bool) (cnt : BitVec 12) (s : State) : Out := .next (repeatOf k true src cnt s)

/-- ILLEGAL_INSTRUCTION: the core meets an encoding that rule R450 calls illegal and raises ILLEGAL before any effect. -/
def execIllegalInstruction (k : CoreId) (long : Bool) (s : State) : Out :=
  .next (s.issueC k { len := if long then 4 else 2, bad := true } fun c => c)

/-- Record an overrun of a unit in a heat (rule R113): HEAT.OVR_CNT, HEAT.OVR_LAST, OVERRUN. -/
def State.recordOverrun (s : State) (unit heat : Nat) : State :=
  ((s.count 0x001 0x078).setReg 0x001 0x07C (BitVec.ofNat 32 (unit % 256 + heat % 2 ^ 24 * 256))).raise 0x001 16

/-- BUDGET: a user core whose count has reached BOOK is held for the rest of the heat; BUDGET is raised on its page and
the held heat counts as its overrun (R471, R114): the heat on whose samples its work was due in it, as R113 counts. -/
def execBudget (k : CoreId) (s : State) : Out :=
  let c := s.core k
  .next <|
    if c.st = .run && c.user && decide (c.cyc ≥ s.rf (corePage k) 0x04C 19 0) then
      ((s.setCore k { c with st := .held }).raise (corePage k) 17).recordOverrun (0x20 + k) (s.heat - 1)
    else s

end Sys2Proof.Machine
end

