-- ==== Sys2Proof/Machine/Pages.lean ====
section
/-! DEFINITION. Register pages (chapter 2): the header common to every page, how a write is checked and taken or
refused whole (rules R15 to R18), soft reset and lock (rules R72, R73), and shadow copies with their commits (rules
R74 to R79). What a page adds of its own comes in as `PageHooks` (Machine/Window.lean fills them in). -/

namespace Sys2Proof.Machine

/-! ## What a page supports (rule R67) -/

/-- PG_CAP.SHADOW, by block type. -/
def capShadow (p : Nat) : Bool :=
  match pageType p with
  | some .heat | some .lane | some .rlane | some .fec | some .cond | some .comb | some .cruc0 | some .trk
  | some .vec | some .nav | some .auth | some .tb | some .disc | some .tout | some .tin | some .eth | some .ptpx
  | some .uart | some .sens => true
  | some .casak => p == 0x0A6 || p == 0x0A7
  | _ => false

/-- PG_CAP.SRST and PG_CAP.ENCTL: the pages that have one have both. -/
def capSrst (p : Nat) : Bool :=
  match pageType p with
  | some .lane | some .rlane | some .fec | some .cond | some .disc | some .eth | some .uart => true
  | some .casak => p == 0x0A6 || p == 0x0A7
  | _ => false

/-- PG_CAP (rule R67), with the block capabilities of rules R182, R269 and R434. -/
def pgCap (p : Nat) : Word :=
  let blk := match pageType p with
    | some .lane | some .eth => 3
    | some .cruc0 => 1
    | _ => 0
  BitVec.ofNat 32 (b2n (capShadow p) + b2n (capSrst p) * 2 + b2n (capSrst p) * 4 + blk * 65536)

/-! ## Storage of a register -/

/-- Where the applied value of a register is kept: a register reached through a selector has one value for each
instance (rules R354, R554). -/
def State.slotOf (s : State) (p off : Nat) : Nat :=
  if p = 0x0C1 ∧ off = 0x0CC then vlimAddr (s.rf 0x0C1 0x0C8 4 0)
  else if p = 0x071 ∧ 0x098 ≤ off ∧ off ≤ 0x0A0 then
    arrAddr (s.rf 0x071 0x094 2 0) (s.rf 0x071 0x094 6 4) ((off - 0x098) / 4)
  else addr p off

/-- The applied value kept at a place. -/
def State.regAtSlot (s : State) (a : Nat) : Word := Tab.get regReset s.regs a

/-- The shadow copy kept at a place. -/
def State.shadAtSlot (s : State) (a : Nat) : Word := Tab.get regReset s.shadow a

/-- Write an applied value at a place. -/
def State.setRegAtSlot (s : State) (a : Nat) (v : Word) : State := { s with regs := Tab.set regReset s.regs a v }

/-- Write a shadow copy at a place. -/
def State.setShadAtSlot (s : State) (a : Nat) (v : Word) : State := { s with shadow := Tab.set regReset s.shadow a v }

/-- The bits of a register whose fields have an access code. -/
def Reg.mask (r : Reg) (a : Acc) : Word :=
  r.flds.foldl (fun m f => if f.acc = a then m ||| BitVec.ofNat 32 ((2 ^ f.wd - 1) <<< f.lo) else m) 0

/-- The bits of a word under a mask from one word and the others from another. -/
def mix (m a b : Word) : Word := (a &&& m) ||| (b &&& ~~~m)

/-- A register as stored and read (rule R15): the shadow copy in RWS fields, the applied value elsewhere, 0 in WO
fields. -/
def State.stored (s : State) (r : Reg) (p off : Nat) : Word :=
  let a := s.slotOf p off
  mix (r.mask .rws) (s.shadAtSlot a) (s.regAtSlot a) &&& ~~~(r.mask .wo)

/-- The places of every register of a page with shadow copies, with the masks of their RWS fields. -/
def shadowSlots (p : Nat) : List (Nat × Word) :=
  match pageType p with
  | none => []
  | some t =>
    ((regTab t).filter fun r => r.mask .rws != 0).flatMap fun r =>
      if t = .sens && r.off == 0x0CC then (List.range 24).map fun n => (vlimAddr n, r.mask .rws)
      else if t = .nav && 0x098 ≤ r.off && r.off ≤ 0x0A0 then
        (List.range 64).map fun n => (arrAddr (n / 8) (n % 8) ((r.off - 0x098) / 4), r.mask .rws)
      else (List.range r.cnt).map fun i => (addr p (r.off + i * r.stride), r.mask .rws)

/-! ## Checks on a written value (rule R18) -/

/-- Whether a field takes a value. -/
def Fld.ok (f : Fld) (v : Word) : Bool :=
  let x := fld v (f.lo + f.wd - 1) f.lo
  match f.rng with
  | .any => true
  | .nat lo hi => decide (lo ≤ x ∧ x ≤ hi)
  | .int lo hi => decide (lo ≤ signed f.wd x ∧ signed f.wd x ≤ hi)
  | .nonzero => x != 0
  | .zeroOr lo hi => x == 0 || decide (lo ≤ x ∧ x ≤ hi)
  | .fromFld lo wd plus hi => decide (fld v (lo + wd - 1) lo + plus ≤ x ∧ x ≤ hi)
  | .below lo wd => decide (x < fld v (lo + wd - 1) lo)

/-- Refusals of a write as pairs of the lowest bit of the field and the code. -/
abbrev Viol := List (Nat × Nat)

/-- Order among codes for one bit: LOCKED, BAD_ARG, BUSY (log entry 13). -/
def codeRank (c : Nat) : Nat := if c = 0x10 then 0 else if c = 0x05 then 1 else 2

/-- The refusal captured for a write: the one of the lowest bit (rule R18). -/
def worst (l : Viol) : Option Nat :=
  match l with
  | [] => none
  | x :: rest =>
    match rest with
    | [] => some x.2
    | _ => some (rest.foldl (fun b y =>
        if y.1 < b.1 ∨ (y.1 = b.1 ∧ codeRank y.2 < codeRank b.2) then y else b) x).2

/-- The refusals that hold for any block register: LOCKED on RW and RWS fields of a locked page, BAD_ARG for a value
outside its range. -/
def regViol (locked : Bool) (r : Reg) (v : Word) : Viol :=
  (r.flds.filter fun f => locked && (f.acc = .rw || f.acc = .rws)).map (fun f => (f.lo, 0x10)) ++
  (r.flds.filter fun f => (f.acc = .rw || f.acc = .rws || f.acc = .wo) && !f.ok v).map (fun f => (f.lo, 0x05))

/-- PG_CTL.LOCK of a page. -/
def State.locked (s : State) (p : Nat) : Bool := (s.reg p 0x00C).getLsbD 2

/-- PG_STAT.ENABLED of a page: the applied value of PG_CTL.EN (rules R68, R69). -/
def State.enabled (s : State) (p : Nat) : Bool := (s.reg p 0x00C).getLsbD 0

/-- A page is armed for a commit. -/
def State.armed (s : State) (p : Nat) : Bool := (s.reg p 0x02C).getLsbD 0

/-- Take a checked write into a block register (rule R15): RW fields take it, RWS fields in the shadow copy, W1C
fields clear where 1 is written, CLR clears a counter (rule R86). -/
def State.takeWrite (s : State) (r : Reg) (p off : Nat) (v : Word) : State :=
  let a := s.slotOf p off
  let old := s.regAtSlot a
  let v1 := mix (r.mask .rw) v old &&& ~~~(v &&& r.mask .w1c)
  let v2 := if r.mask .cnt != 0 && v.getLsbD 31 then setFld v1 16 0 0 else v1
  let s1 := s.setRegAtSlot a v2
  if r.mask .rws = 0 then s1 else s1.setShadAtSlot a (mix (r.mask .rws) v (s.shadAtSlot a))

/-! ## What the pages add -/

/-- What a page adds to the common behaviour: more refusals of a write; what a taken or a refused write does; reads
computed from the state; block status; whether the unit holds a live handle; level events that hold; its commit check
and what its commit does; what its soft reset does. -/
structure PageHooks where
  viol : State → Nat → Nat → Word → Viol
  taken : State → Nat → Nat → Word → State → State
  refused : State → Nat → Nat → Word → Nat → State
  view : State → Nat → Nat → Option Word
  stat : State → Nat → Word
  live : State → Nat → Bool
  level : State → Nat → Word
  check : State → State → Nat → Bool
  applied : State → Nat → State → State
  reset : State → Nat → State

/-! ## The header (rules R64 to R87) -/

/-- Remove a page from the group that a GROUP_COMMIT.GO armed. -/
def State.ungroup (s : State) (p : Nat) : State := { s with grp := s.grp.filter fun e => e.1 != p }

/-- PG_COMMIT.DISCARD (rules R71, R79): every shadow copy takes its applied value, every instance included, EN too. -/
def State.discard (s : State) (p : Nat) : State :=
  let s1 := (shadowSlots p).foldl (fun s e => s.setShadAtSlot e.1 (s.regAtSlot e.1)) s
  ((s1.setShad p 0x00C (s1.reg p 0x00C)).setRf p 0x02C 0 0 0).ungroup p

/-- What a write to a header register is refused with. -/
def hdrViol (h : PageHooks) (s : State) (p off : Nat) (v : Word) : Viol :=
  let lk := s.locked p
  if off = 0x004 then
    (if lk then [(24, 0x10)] else []) ++
    (if fld v 31 24 = 1 then [] else [(24, 0x05)]) ++ (if s.enabled p then [(24, 0x07)] else [])
  else if off = 0x00C then
    (if lk then [(0, 0x10)] else []) ++
    (if v.getLsbD 1 && (!capSrst p || h.live s p) then [(1, 0x07)] else [])
  else if off = 0x018 then (if lk then [(0, 0x10)] else [])
  else if off = 0x02C ∧ capShadow p = true then (if lk then [(0, 0x10)] else [])
  else []

/-- A write that the header takes (rules R68, R71, R80, R82, R85, R87). SELECTED can only take the one major of
stepping A1 (rule R66), so it converts nothing. -/
def hdrTake (h : PageHooks) (s : State) (p off : Nat) (v : Word) : State :=
  if off = 0x004 then s.setRf p 0x004 31 24 (fld v 31 24)
  else if off = 0x00C then
    let s1 := if capSrst p then s.setShad p 0x00C (setFld (s.shad p 0x00C) 0 0 (fld v 0 0)) else s
    let s2 := if v.getLsbD 1 then s1.setRf p 0x010 2 2 1 else s1
    if v.getLsbD 2 then s2.setRf p 0x00C 2 2 1 else s2
  else if off = 0x018 then (s.setReg p 0x018 (v &&& 0xFFFF000F)).syncIrq
  else if off = 0x01C then
    (s.setReg p 0x014 ((s.reg p 0x014 &&& ~~~v) ||| h.level s p)).syncIrq
  else if off = 0x020 then (if v.getLsbD 31 then s.setReg p 0x020 0 else s)
  else if off = 0x024 then (if v.getLsbD 31 then s.setReg p 0x024 (setFld (s.reg p 0x024) 16 0 0) else s)
  else if off = 0x02C ∧ capShadow p = true then
    let s1 := if v.getLsbD 1 then s.discard p else if v.getLsbD 0 then s.setRf p 0x02C 0 0 1 else s
    s1.setRf p 0x02C 2 2 (fld v 2 2)
  else s

/-- DEV.GROUP_COMMIT.GO (rule R76): arm every unlocked page whose GROUP is 1, as one group. A page armed already, alone or by an
earlier GO, joins the last GO's set and leaves its own: DESIGN CHOICE, the spec does not say which set it then belongs to
(log entry 92). -/
def State.groupGo (s : State) : State :=
  let ps := (List.range 256).filter fun p => capShadow p && (s.reg p 0x02C).getLsbD 2 && !s.locked p
  let s1 := ps.foldl (fun s p => s.setRf p 0x02C 0 0 1) s
  { s1 with goCnt := s.goCnt + 1,
            grp := (s1.grp.filter fun e => !ps.contains e.1) ++ ps.map fun p => (p, s.goCnt + 1) }

/-! ## One register write -/

/-- A WRITE OF ONE 32-BIT REGISTER: `be` tells whether all four byte enables are set (rules R9, R15 to R18, R62, R73,
R82). A refused write leaves the register whole as it was, counts and captures its code. Of a write to an unmapped page without
all its byte enables PARTIAL_WRITE is captured: DESIGN CHOICE, the spec orders neither before the other (log entry 92). -/
def State.regWrite (h : PageHooks) (s : State) (a : Nat) (v : Word) (be : Bool) : State :=
  let p := a / 0x1000 % 256
  let off := a % 0x1000 / 4 * 4
  if be = false then s.capErr 0x0B0 0x11 off
  else if pageType p = none then s.capErr 0x0B0 0x12 off
  else if off < 0x040 then
    match worst (hdrViol h s p off v ++ h.viol s p off v) with
    | some c => s.capErr p c off
    | none => hdrTake h s p off v
  else match regAt p off with
    | none => s
    | some r =>
      match worst (regViol (s.locked p) r v ++ h.viol s p off v) with
      | some c => h.refused (s.capErr p c off) p off v c
      | none => h.taken s p off v (s.takeWrite r p off v)

/-! ## One register read -/

/-- PG_STAT (rule R69): the common bits and the page's own. -/
def pgStat (h : PageHooks) (s : State) (p : Nat) : Word :=
  BitVec.ofNat 32 (b2n (s.enabled p) + b2n (s.armed p) * 2 + s.rf p 0x010 2 2 * 4 + b2n (s.locked p) * 8)
    ||| (h.stat s p &&& 0xFFFFFF00)

/-- A READ OF ONE 32-BIT REGISTER (rules R15, R62, R64). What a read does beside answering is in the meanings of the
rows whose reads act. -/
def State.regRead (h : PageHooks) (s : State) (a : Nat) : Word :=
  let p := a / 0x1000 % 256
  let off := a % 0x1000 / 4 * 4
  if pageType p = none then 0
  else if off = 0x008 then pgCap p
  else if off = 0x00C then
    (if capSrst p then mix 1 (s.shad p 0x00C) (s.reg p 0x00C) else s.reg p 0x00C) &&& 5
  else if off = 0x010 then pgStat h s p
  else if off = 0x01C then s.pnd p
  else if off = 0x02C then s.reg p 0x02C &&& 5
  else if off < 0x040 then s.reg p off
  else match regAt p off with
    | none => 0
    | some r => (h.view s p off).getD (s.stored r p off)

/-! ## Boundary work of the pages -/

/-- Apply the shadow copies of a page (rule R74), without its events. -/
def State.applyShadows (s : State) (p : Nat) : State :=
  let s1 := (shadowSlots p).foldl
    (fun s e => s.setRegAtSlot e.1 (mix e.2 (s.shadAtSlot e.1) (s.regAtSlot e.1))) s
  if capSrst p then s1.setRf p 0x00C 0 0 (fld (s1.shad p 0x00C) 0 0) else s1

/-- A page's commit is applied (rule R74): its stamp, ARM and COMMIT_DONE. -/
def State.commitDone (s : State) (p : Nat) : State :=
  (((s.setReg p 0x028 (BitVec.ofNat 32 s.heat)).setRf p 0x02C 0 0 0).ungroup p).raise p 0

/-- A page's commit is refused (rule R77). -/
def State.commitRefuse (s : State) (p code : Nat) : State :=
  ((((s.setRf p 0x02C 0 0 0).ungroup p).raise p 1)).capErr p code 0

/-- A soft reset takes effect (rule R72): block registers to their reset values, events and errors cleared, an armed
commit discarded; SELECTED, LOCK, EN and PG_IRQ_EN keep their values. PG_COMMIT.GROUP and the shadow copy of EN are kept too:
DESIGN CHOICE, the rule is silent on both (log entry 92). -/
def State.softReset (h : PageHooks) (s : State) (p : Nat) : State :=
  let inBlk := fun (e : Nat × Word) => e.1 / 0x1000 == p && decide (e.1 % 0x1000 ≥ 0x040)
  let s1 := { s with regs := s.regs.filter (fun e => !inBlk e), shadow := s.shadow.filter fun e => !inBlk e }
  let s2 := (((s1.setRf p 0x02C 0 0 0).ungroup p).setReg p 0x020 0).setReg p 0x024 0
  let s3 := h.reset ((s2.setReg p 0x014 0).setRf p 0x010 2 2 0) p
  (s3.setReg p 0x014 (s3.reg p 0x014 ||| h.level s3 p)).syncIrq

/-- The pages with an accepted soft reset waiting. -/
def State.srstPages (s : State) : List Nat := (List.range 256).filter fun p => s.rf p 0x010 2 2 = 1 && (pageType p).isSome

/-- Every accepted soft reset takes effect at the boundary, before the commits (rule R72). -/
def State.softResets (h : PageHooks) (s : State) : State := s.srstPages.foldl (State.softReset h) s

/-- One set of pages is checked and applied or refused as one (rule R77), with what its commits do, so that a later set is
checked against the state that this one leaves. -/
def State.commitSet (h : PageHooks) (s : State) (ps : List Nat) : State :=
  let new := ps.foldl State.applyShadows s
  let failing := ps.filter fun p => !h.check s new p
  if failing.isEmpty then ps.foldl (fun t p => h.applied s p t) (ps.foldl State.commitDone new)
  else ps.foldl (fun s p => s.commitRefuse p (if failing.contains p then 0x13 else 0x14)) s

/-- THE COMMITS OF ONE CAPTURE INSTANT (rules R74 to R77): the groups first, then single pages in ascending index. -/
def State.commitPass (h : PageHooks) (s : State) : State :=
  let armed := (List.range 256).filter fun p => capShadow p && s.armed p
  let gids := sortNat (armed.filterMap fun p => (s.grp.find? fun e => e.1 == p).map (·.2)).dedup
  let groups := gids.map fun g => armed.filter fun p => s.grp.contains (p, g)
  let singles := (armed.filter fun p => !(s.grp.any fun e => e.1 == p)).map fun p => [p]
  { (groups ++ singles).foldl (State.commitSet h) s with grp := [] }

end Sys2Proof.Machine
end

