-- ==== Sys2Proof/Machine/Cmd.lean ====
section
/-! DEFINITION. The ledger, handles, the journal and the completion ring (chapter 3): what every command uses. The
record's handling and the opcodes' steps are in Machine/Intake.lean. -/

namespace Sys2Proof.Machine

/-! ## Status codes (rule R134) -/

def stOK : Nat := 0x00
def stNO_BUDGET : Nat := 0x02
def stNO_HANDLE : Nat := 0x03
def stSTALE : Nat := 0x04
def stBAD_ARG : Nat := 0x05
def stVERSION : Nat := 0x06
def stBUSY : Nat := 0x07
def stLOCK_TIMEOUT : Nat := 0x08
def stSTEP_REFUSED : Nat := 0x09
def stTORN : Nat := 0x0A
def stCANCELLED : Nat := 0x0B
def stAUTH_FAIL : Nat := 0x0C
def stNOT_QUALIFIED : Nat := 0x0D
def stQUENCHED : Nat := 0x0E

/-! ## The ledger (rules R101 to R112) -/

/-- Bookable capacity of a pool (rule R101). -/
def poolCap (p : Nat) : Nat :=
  if p = 1 then 600000 else if p = 2 then 30000 else if p = 3 then 4200000 else if p = 4 then 1400000
  else if p = 5 then 4096 else if p = 6 then 64 else 0

/-- The sum of some bookings. -/
def sumAmt (l : List Booking) : Nat := l.foldl (fun n b => n + b.amt) 0

/-- Booked amount of a pool: the sum of its bookings (rule R112); for the command pool, the commands taken so far in
the heat (rule R128). -/
def State.booked (s : State) (p : Nat) : Nat :=
  if p = 6 then s.cmd.taken else sumAmt (s.cmd.books.filter fun b => b.pool = p)

/-- Free balance of a pool (rule R106). -/
def State.poolFree (s : State) (p : Nat) : Nat := poolCap p - s.booked p

/-- Add a booking. -/
def State.book (s : State) (pool amt : Nat) (own : Owner) (seq : Word) : State :=
  if amt = 0 then s else { s with cmd := { s.cmd with books := s.cmd.books ++ [⟨pool, amt, own, seq⟩] } }

/-- Release every booking of an owner. -/
def State.releaseAll (s : State) (own : Owner) : State :=
  { s with cmd := { s.cmd with books := s.cmd.books.filter fun b => b.own ≠ own } }

/-- Set the amount an owner books of a pool. -/
def State.rebook (s : State) (pool amt : Nat) (own : Owner) (seq : Word) : State :=
  ({ s with cmd := { s.cmd with books := s.cmd.books.filter fun b => ¬ (b.own = own ∧ b.pool = pool) } }).book pool amt own seq

/-- Bookings pass from one owner to another (rule R112). -/
def State.chown (s : State) (a b : Owner) : State :=
  { s with cmd := { s.cmd with books := s.cmd.books.map fun x => if x.own = a then { x with own := b } else x } }

/-- The amount an owner books of a pool. -/
def State.bookedBy (s : State) (own : Owner) (pool : Nat) : Nat :=
  sumAmt (s.cmd.books.filter fun b => b.own = own ∧ b.pool = pool)

/-- A booking word of a completion (rule R128). -/
def amtWord (pool amt : Nat) : Word := if amt = 0 then 0 else BitVec.ofNat 32 (amt % 2 ^ 28 + pool * 2 ^ 28)

/-- Words 3 and 6 of a completion from the bookings an owner holds, lowest pool first. -/
def State.bookWords (s : State) (own : Owner) : Word × Word :=
  match (List.range 5).filterMap fun i =>
      if s.bookedBy own (i + 1) = 0 then none else some (amtWord (i + 1) (s.bookedBy own (i + 1))) with
  | [] => (0, 0)
  | [a] => (a, 0)
  | a :: b :: _ => (a, b)

/-! ## Handles (rules R118 to R123) -/

/-- Entry i of the handle table. -/
def State.ent (s : State) (i : Nat) : Entry := Tab.get (fun _ => {}) s.cmd.ents i

/-- Write entry i. -/
def State.setEnt (s : State) (i : Nat) (e : Entry) : State :=
  { s with cmd := { s.cmd with ents := Tab.set (fun _ => {}) s.cmd.ents i e } }

/-- The live limit of a class (rule R119). -/
def classLimit (c : Nat) : Nat :=
  if c = 1 then 2048 else if c = 2 then 256 else if c = 3 then 8 else if c = 4 then 64 else if c = 5 then 16
  else if c = 6 then 64 else if c = 7 then 8 else if c = 15 then 48 else 0

/-- LIVE and DYING entries of a class (rule R145). -/
def State.classLive (s : State) (c : Nat) : Nat :=
  (s.cmd.ents.filter fun e => e.2.st ≠ .free ∧ e.2.cls = c).length

/-- LIVE and DYING entries (rule R144). -/
def State.entUsed (s : State) : Nat := (s.cmd.ents.filter fun e => e.2.st ≠ .free).length

/-- A handle (rule R118). -/
def mkHandle (cls gen idx : Nat) : Word := BitVec.ofNat 32 (cls % 16 * 2 ^ 28 + gen % 32768 * 2 ^ 13 + idx % 8192)
def hCls (h : Word) : Nat := fld h 31 28
def hGen (h : Word) : Nat := fld h 27 13
def hIdx (h : Word) : Nat := fld h 12 0

/-- The handle of an entry as it stands. DESIGN CHOICE: 0 for an entry never allocated, whose full current handle the spec does not
give (rule R123, log entry 93). -/
def State.handleOf (s : State) (i : Nat) : Word := if (s.ent i).gen = 0 then 0 else mkHandle (s.ent i).cls (s.ent i).gen i

/-- The head of the free queue: entries freed before come after the fresh indices (rule R120). -/
def State.freeHead (s : State) : Option Nat :=
  if s.cmd.fresh < 8192 then some s.cmd.fresh else s.cmd.freed.head?

/-- Whether a class has room (rule R119): CHAN's limit is shared with ANNEAL. -/
def State.classRoom (s : State) (c : Nat) : Bool :=
  decide (s.classLive c < classLimit c) &&
  (if c = 1 ∨ c = 15 then decide (s.classLive 1 + s.classLive 15 < 2048) else true)

/-- ALLOCATE A HANDLE (rules R119 to R121): the entry at the head of the free queue becomes LIVE with its next
generation. Where the class is full or no entry is free there is none, and CLASS_FULL is raised (rule R144), for a spawn or an
Anneal channel too: DESIGN CHOICE, neither has a completion (log entry 93). -/
def State.alloc (s : State) (cls : Nat) (host sys : Bool) : Option Nat × State :=
  match s.freeHead with
  | some i =>
    if s.classRoom cls then
      let e := s.ent i
      let s1 := { s with cmd := { s.cmd with
        fresh := if s.cmd.fresh < 8192 then s.cmd.fresh + 1 else s.cmd.fresh,
        freed := if s.cmd.fresh < 8192 then s.cmd.freed else s.cmd.freed.tail } }
      (some i, s1.setEnt i { st := .live, gen := if e.gen ≥ 32767 then 1 else e.gen + 1, cls := cls, torn := false,
                             sys := sys, host := host })
    else (none, s.raise 0x002 16)
  | none => (none, s.raise 0x002 16)

/-- Free an entry at once and put it at the tail of the free queue (rules R120, R130). -/
def State.freeNow (s : State) (i : Nat) : State :=
  let s1 := s.setEnt i { s.ent i with st := .free }
  { s1 with cmd := { s1.cmd with freed := s1.cmd.freed ++ [i] } }

/-- End an entry at a boundary (rules R109, R120, R131): its bookings are released; it stays DYING and becomes FREE
at the start of the heat after the one in which its destroy completed. -/
def State.freeLater (s : State) (i : Nat) : State :=
  let s1 := (s.setEnt i { s.ent i with st := .dying }).releaseAll (.entry i)
  { s1 with cmd := { s1.cmd with defer := s1.cmd.defer ++ [(s1.heat, i)] } }

/-- Entries whose destroy completed in an earlier heat join the free queue (rule R120). -/
def State.joinFree (s : State) : State :=
  let go := s.cmd.defer.filter fun e => decide (e.1 < s.heat)
  go.foldl (fun s e => s.freeNow e.2)
    { s with cmd := { s.cmd with defer := s.cmd.defer.filter fun e => decide (e.1 ≥ s.heat) } }

/-- Mark an entry DYING (rule R121). -/
def State.dying (s : State) (i : Nat) : State := s.setEnt i { s.ent i with st := .dying }

/-- Mark an entry torn (rules R53, R121). -/
def State.tear (s : State) (i : Nat) : State := s.setEnt i { s.ent i with torn := true }

/-- The class an opcode acts on in word 2 (rules R122, R132). -/
def opClass (op : Nat) : Option Nat :=
  if op = 0x0202 ∨ op = 0x0203 then some 1 else if op = 0x0302 then some 2 else if op = 0x0402 then some 3
  else if op = 0x0502 then some 4 else if op = 0x0602 then some 5 else if op = 0x0702 then some 6
  else if op = 0x0802 then some 7 else none

/-- The checks of rule R122 on the handle of a command: the status and detail that answer it, if one does. -/
def State.checkHandle (s : State) (op : Nat) (h : Word) : Option (Nat × Nat) :=
  if opClass op ≠ some (hCls h) then some (stBAD_ARG, 2)
  else
    let e := s.ent (hIdx h)
    if e.st ≠ .live ∨ e.gen ≠ hGen h ∨ hGen h = 0 then some (stSTALE, 0) else none

/-- A live object's entry index from its handle in word 2 of a checked command. -/
def JEntry.idx (e : JEntry) : Nat := hIdx (e.words.getD 2 0)

/-! ## The journal (rules R135 to R137) -/

def JEntry.seq (e : JEntry) : Word := e.words.getD 1 0
def JEntry.op (e : JEntry) : Nat := fld (e.words.getD 0 0) 15 0
def JEntry.named (e : JEntry) : Word := e.words.getD 2 0
def JEntry.quiet (e : JEntry) : Bool := (e.words.getD 0 0).getLsbD 25
/-- Argument word n of the record. -/
def JEntry.w (e : JEntry) (n : Nat) : Word := e.words.getD n 0

/-- The entry with a sequence number; sequence numbers are unique in the journal (rule R136). -/
def State.jfind (s : State) (seq : Word) : Option JEntry := s.cmd.jrn.find? fun e => e.seq == seq

/-- Change the entry with a sequence number. -/
def State.jmod (s : State) (seq : Word) (f : JEntry → JEntry) : State :=
  { s with cmd := { s.cmd with jrn := s.cmd.jrn.map fun e => if e.seq = seq then f e else e } }

/-- Commands in flight (rule R146 INFLIGHT), oldest first. -/
def State.flights (s : State) : List JEntry := (s.cmd.jrn.filter fun e => e.disp = .inFlight).reverse

/-- Drop the last entry of a list that is not in flight: the oldest completed one. -/
def dropOldest (l : List JEntry) : List JEntry :=
  match l.reverse.span (fun e => e.disp = .inFlight) with
  | (a, _ :: rest) => (a ++ rest).reverse
  | (a, []) => a.reverse

/-- A new newest entry; a full journal loses its oldest completed entry (rule R135). -/
def State.jadd (s : State) (e : JEntry) : State :=
  { s with cmd := { s.cmd with jrn := e :: (if s.cmd.jrn.length ≥ 256 then dropOldest s.cmd.jrn else s.cmd.jrn) } }

/-- Record the last completed step, and from which heat's starting boundary the next may run. -/
def State.jstep (s : State) (seq : Word) (step due : Nat) : State :=
  s.jmod seq fun e => { e with step := step, due := due }

/-! ## The completion ring (rules R124 to R128) -/

/-- Whether the rings of the CMD page run (rules R147, R499). -/
def State.cmdRun (s : State) : Bool :=
  !s.inReset && s.rf 0x003 0x040 0 0 == 1 && (s.rf 0x003 0x040 1 1 == 1 || s.host.dma)

/-- Base of a ring, from its BASE_LO and BASE_HI. -/
def State.ringBase (s : State) (p lo hi : Nat) : Nat := (s.reg p lo).toNat + (s.reg p hi).toNat * 2 ^ 32

/-- LOC of the command rings. -/
def State.cmdLoc (s : State) : Bool := s.rf 0x003 0x040 1 1 == 1

/-- The completion ring is full (rule R125). -/
def State.cqFull (s : State) : Bool :=
  let n := 2 ^ s.rf 0x003 0x060 3 0
  (s.rf 0x003 0x068 11 0 + 1) % n == s.rf 0x003 0x064 11 0 % n

/-- Write one completion into the ring (rules R124, R128): PHASE inverts when the tail wraps to 0, and a completion
without QUIET raises CQ_WRITTEN. -/
def State.putCompl (s : State) (ws : List Word) (quiet : Bool) : State :=
  let loc := s.cmdLoc
  let t := s.rf 0x003 0x068 11 0
  let base := s.ringBase 0x003 0x058 0x05C + t * (if loc then 4 else 32)
  let w1 := setFld (ws.getD 1 0) 31 31 (b2n s.cmd.phase)
  let t2 := (t + 1) % 2 ^ s.rf 0x003 0x060 3 0
  let s1 := (s.putRec loc base (ws.set 1 w1)).setReg 0x003 0x068 (BitVec.ofNat 32 t2)
  let s2 := { s1 with cmd := { s1.cmd with phase := if t2 = 0 then !s1.cmd.phase else s1.cmd.phase } }
  if quiet then s2 else s2.raise 0x003 16

/-- Held completions enter the ring in order as space appears (rule R126). -/
def State.flushHeld (s : State) (l : List (List Word × Bool)) : State :=
  match l with
  | [] => { s with cmd := { s.cmd with held := [] } }
  | x :: rest =>
    if s.cmdRun && !s.cqFull then (s.putCompl x.1 x.2).flushHeld rest
    else { s with cmd := { s.cmd with held := x :: rest } }

/-- Write what is held, as far as it goes. -/
def State.flush (s : State) : State := s.flushHeld s.cmd.held

/-- A completion to be written after those that wait. -/
def State.postCompl (s : State) (ws : List Word) (quiet : Bool) : State :=
  ({ s with cmd := { s.cmd with held := s.cmd.held ++ [(ws, quiet)] } }).flush

/-- The words of a completion record without PHASE (rule R128). -/
def State.complWords (s : State) (e : JEntry) (status step detail : Nat) (handle a1 a2 : Word) : List Word :=
  [e.seq, BitVec.ofNat 32 (status % 256 + step % 16 * 256), handle, a1, BitVec.ofNat 32 s.heat,
   BitVec.ofNat 32 detail, a2, BitVec.ofNat 32 (e.op + s.tb.epoch % 65536 * 65536)]

/-- A copy of a completion with DUP set, carrying the current heat (rule R136). -/
def dupWords (ws : List Word) (heat : Nat) : List Word :=
  (ws.set 1 (setFld (ws.getD 1 0) 12 12 1)).set 4 (BitVec.ofNat 32 heat)

/-- A COMMAND COMPLETES (rules R128, R130, R135, R136): its journal entry becomes DONE with its status, its completion
is written, and one copy with DUP for each duplicate that waited. The last completed step of a refused command is
the one before. -/
def State.finish (s : State) (e : JEntry) (status step detail : Nat) (handle a1 a2 : Word) : State :=
  let ws := s.complWords e status step detail handle a1 a2
  let dups := ((s.jfind e.seq).map (·.dups)).getD []
  let s1 := s.jmod e.seq fun x => { x with
    disp := .done, status := status, step := if status = 0 then step else step - 1, wait := false,
    handle := handle, compl := ws, dups := [] }
  dups.foldl (fun s q => s.postCompl (dupWords ws s.heat) q) (s1.postCompl ws e.quiet)

/-- A command refused at a step: its bookings are released at once (rule R130). DESIGN CHOICE: words 3 and 6 are 0, in a refused
CH_MODIFY too, whose channel keeps its bookings (rule R128, log entry 93). -/
def State.refuse (s : State) (e : JEntry) (status step detail : Nat) : State :=
  (s.releaseAll (.cmd e.seq)).finish e status step detail e.named 0 0

/-- A refusal for the budget (rule R108): the short pool and the amount requested in word 3, what is available in
the detail word. -/
def State.refuseBudget (s : State) (e : JEntry) (pool amt avail : Nat) (placed : Bool) : State :=
  (s.releaseAll (.cmd e.seq)).finish e stNO_BUDGET 1 (avail % 2 ^ 28 + b2n placed * 2 ^ 28) e.named (amtWord pool amt) 0

/-- A command done: word 3 and word 6 hold the bookings of the entry acted on. -/
def State.done (s : State) (e : JEntry) (step detail : Nat) (handle : Word) : State :=
  let b := s.bookWords (.entry (hIdx handle))
  s.finish e stOK step detail handle b.1 b.2

/-- A command completes without any step (rules R138, R564): recorded as NOT_STARTED. -/
def State.notStarted (s : State) (e : JEntry) (status detail : Nat) : State :=
  let ws := s.complWords e status 0 detail e.named 0 0
  let dups := ((s.jfind e.seq).map (·.dups)).getD []
  let s1 := s.jmod e.seq fun x => { x with disp := .notStarted, status := status, step := 0, wait := false,
                                           compl := ws, dups := [] }
  dups.foldl (fun s q => s.postCompl (dupWords ws s.heat) q) (s1.postCompl ws e.quiet)

/-! ## Arguments (rules R127, R611) -/

/-- The first offending word of 3 to 15: a bit outside the word's mask is set, or a value check fails. Words not in
`masks` must be 0. -/
def badWord (e : JEntry) (masks : List (Nat × Word)) (checks : List (Nat × Bool)) : Option Nat :=
  ((List.range 13).map (· + 3)).find? fun n =>
    let m := ((masks.find? fun x => x.1 == n).map (·.2)).getD 0
    (e.w n &&& ~~~m) != 0 || checks.any fun c => c.1 == n && !c.2

/-! ## Views of the HEAT, HTAB and CMD pages (rules R142 to R147) -/

/-- Registers of the HEAT page computed from the state. -/
def viewHeat (s : State) (off : Nat) : Option Word :=
  if off = 0x040 then some (BitVec.ofNat 32 s.heat)
  else if 0x054 ≤ off ∧ off ≤ 0x064 then some (BitVec.ofNat 32 (s.poolFree ((off - 0x054) / 4 + 1)))
  else none

/-- Registers of the HTAB page. -/
def viewHtab (s : State) (off : Nat) : Option Word :=
  if off = 0x040 then some (BitVec.ofNat 32 (s.entUsed + (8192 - s.entUsed) * 65536))
  else if 0x044 ≤ off ∧ off ≤ 0x05C then
    let c := (off - 0x040) / 4
    some (BitVec.ofNat 32 (s.classLive c + classLimit c * 65536))
  else if off = 0x060 then some (BitVec.ofNat 32 (s.classLive 15 + classLimit 15 * 65536))
  else none

/-- The disposition code of JRN_INFO (rule R147). -/
def Disp.code : Disp → Nat
  | .inFlight => 1 | .notStarted => 2 | .torn => 3 | .done => 4

/-- Registers of the CMD page. -/
def viewCmd (s : State) (off : Nat) : Option Word :=
  let e := s.cmd.jrn[s.rf 0x003 0x070 7 0]?
  if off = 0x06C then some (BitVec.ofNat 32 s.flights.length)
  else if off = 0x074 then some ((e.map JEntry.seq).getD 0)
  else if off = 0x078 then
    some ((e.map fun e => BitVec.ofNat 32 (e.op + e.status * 65536 + e.step * 2 ^ 24 + e.disp.code * 2 ^ 28)).getD 0)
  else if off = 0x07C then some ((e.map JEntry.named).getD 0)
  else none

/-! ## Writes to a ring's registers (rules R146, R612) -/

/-- Refusals of writes to the registers of a ring page: RUN and LOC in bits of the control register, base and size
registers. `bases` lists the offsets of BASE_LO and BASE_HI with the alignments for LOC 0 and LOC 1. -/
def ringViol (s : State) (p ctl runBit locBit : Nat) (bases : List (Nat × Nat × Nat × Nat)) (busy : List (Nat × Nat))
    (off : Nat) (v : Word) : Viol :=
  let run := s.rf p ctl runBit runBit == 1
  let loc := s.rf p ctl locBit locBit
  let loc' := if s.rf 0x000 0x050 0 0 = 1 then loc else fld v locBit locBit
  (if off = ctl then
    (if run && loc' != loc then [(locBit, 0x07)] else []) ++
    (if !run && fld v runBit runBit == 1 && bases.any (fun b =>
        (s.reg p b.1).toNat % (if loc' = 1 then b.2.2.2 else b.2.2.1) != 0 || (loc' == 1 && s.reg p b.2.1 != 0))
     then [(runBit, 0x05)] else [])
   else []) ++
  (if run && busy.any (fun b => b.1 == off) then [((busy.find? fun b => b.1 == off).map (·.2)).getD 0].map (fun b => (b, 0x07)) else []) ++
  (bases.filter fun b => b.1 == off && v.toNat % (if loc = 1 then b.2.2.2 else b.2.2.1) != 0).map (fun _ => (0, 0x05)) ++
  (bases.filter fun b => b.2.1 == off && loc == 1 && v != 0).map (fun _ => (0, 0x05))

end Sys2Proof.Machine
end

