-- ==== Sys2Proof/Machine/CorePage.lean ====
section
/-! DEFINITION. The CASAK pages (rules R469 to R474): loading, starting and stopping the user cores, and what a heat
boundary does to every core. -/

namespace Sys2Proof.Machine

/-- A core starts at vector 0 with the registers of rule R438, its descriptors and memories as they stand; A7 takes the
LIMIT of SEG7. A user core runs in user mode (rule R469). -/
def State.startCore (s : State) (k : Nat) : State :=
  s.modCore k fun c =>
    { st := .run, user := k == 6 || k == 7, seg := c.seg, iram := c.iram, x := c.x, y := c.y, clk := c.clk, heatNo := c.heatNo,
      trigH := c.trigH,
      a := Tab.set aReset [] 7 (BitVec.ofNat 27 (7 * 2 ^ 24 + descLimit (c.sg k 7))) }

/-- A core stops as under rule R470: one that runs at its next instruction boundary, one that waits or is held at once. -/
def State.stopCore (s : State) (k : Nat) : State :=
  let c := s.core k
  match c.st with
  | .run => if c.repN then s.setCore k { c with stopReq := true } else (s.setCore k { c with stopReq := true }).stopIfDue k
  | .wait | .held =>
    (s.setCore k { c with st := .stopped }).setReg (corePage k) 0x048 (BitVec.ofNat 32 (4 + c.pc.toNat * 2 ^ 16))
  | _ => s

/-- CORE_STAT.ST (rule R474). -/
def CoreRun.code : CoreRun → Nat
  | .stopped => 0 | .run => 1 | .wait => 2 | .held => 3 | .halted => 4

/-- The core of a CASAK page. -/
def coreOf (p : Nat) : Nat := p - 0x0A0

/-- A user core's page. -/
def userPage (p : Nat) : Bool := p == 0x0A6 || p == 0x0A7

/-- Registers of a CASAK page computed from the state. -/
def viewCore (s : State) (p off : Nat) : Option Word :=
  let c := s.core (coreOf p)
  if off = 0x040 then some (BitVec.ofNat 32 (c.st.code + b2n c.user * 8 + b2n c.repAct * 16))
  else if off = 0x044 then some (BitVec.ofNat 32 c.pc.toNat)
  else if 0x07C ≤ off ∧ off ≤ 0x088 then some (Tab.get (fun _ => 0) c.trigH ((off - 0x07C) / 4))
  else none

/-- The descriptor staged with a write of SEG_W2. -/
def State.stagedSeg (s : State) (p : Nat) (v : Word) : Native :=
  BitVec.ofNat 72 ((s.reg p 0x070).toNat + (s.reg p 0x074).toNat * 2 ^ 32 + fld v 7 0 * 2 ^ 64)

/-- Refusals: loading a core neither stopped nor halted, and a descriptor of rule R445. -/
def violCore (s : State) (p off : Nat) (v : Word) : Viol :=
  let st := (s.core (coreOf p)).st
  if 0x060 ≤ off ∧ off ≤ 0x078 ∧ st ≠ .stopped ∧ st ≠ .halted then [(0, 0x07)]
  else if off = 0x078 ∧ descBad (coreOf p) (s.rf p 0x06C 2 0) (s.stagedSeg p v) = true then [(0, 0x42)]
  else []

/-- LOAD_HI stores the row with its check bits and advances LOAD_ADDR. -/
def State.loadRow (s : State) (p : Nat) (hi : Word) : State :=
  let k := coreOf p
  let r := s.rf p 0x060 12 0
  ((s.modCore k fun c => { c with iram := Tab.set (fun _ => 0) c.iram r (BitVec.ofNat 64 ((s.reg p 0x064).toNat + hi.toNat * 2 ^ 32)) }).setBad
    k r false).setReg p 0x060 (BitVec.ofNat 32 ((r + 1) % 8192))

/-- SEG_SEL copies the selected descriptor into the staging registers. -/
def State.stageSeg (s : State) (p : Nat) : State :=
  let d := ((s.core (coreOf p)).sg (coreOf p) (s.rf p 0x06C 2 0)).toNat
  ((s.setReg p 0x070 (BitVec.ofNat 32 d)).setReg p 0x074 (BitVec.ofNat 32 (d / 2 ^ 32))).setReg p 0x078 (BitVec.ofNat 32 (d / 2 ^ 64))

/-- What a taken write to a CASAK page does. -/
def takenCore (p off : Nat) (v : Word) (s : State) : State :=
  if off = 0x05C then (if v.getLsbD 0 then s.coreEvent (coreOf p) 0x205 else s)
  else if off = 0x068 then s.loadRow p v
  else if off = 0x06C then s.stageSeg p
  else if off = 0x078 then s.modCore (coreOf p) fun c => c.setSg (coreOf p) (s.rf p 0x06C 2 0) (s.stagedSeg p v)
  else if off = 0x054 ∧ v.getLsbD 31 = true then s.setReg p 0x054 0
  else s

/-- A commit with EN 1 and BOOK 0, or with an increase that the user pool does not hold, is refused (rule R470). -/
def checkCore (old new : State) (p : Nat) : Bool :=
  let b0 := old.bookedBy (.sys (10 + coreOf p)) 4
  let b1 := new.rf p 0x04C 19 0
  !(new.enabled p && b1 == 0) && decide (b1 ≤ b0 + old.poolFree 4)

/-- A commit of a user core's page: the booking, then the start of a core that is stopped or halted, or the stop. -/
def appliedCore (p : Nat) (s : State) : State :=
  let k := coreOf p
  let s1 := s.rebook 4 (s.rf p 0x04C 19 0) (.sys (10 + k)) 0
  if s.enabled p = false then s1.stopCore k
  else match (s.core k).st with
    | .stopped | .halted => s1.startCore k
    | _ => s1.modCore k fun c => { c with stopReq := false }

/-- A soft reset of a user core's page: the core stops, its registers and descriptors take their reset values (rules R438,
R439), and its booking goes with BOOK. -/
def resetCore (s : State) (p : Nat) : State :=
  (s.modCore (coreOf p) fun c => { iram := c.iram, x := c.x, y := c.y, trigH := c.trigH }).releaseAll (.sys (10 + coreOf p))

/-- A live schedule that targets the core counts as a live handle (rule R473). -/
def liveCore (s : State) (p : Nat) : Bool := s.touts.any fun e => e.2.target == 0x10 + coreOf p && (s.ent e.1).st == .live

/-- A heat boundary at core k (rules R441, R471, R472): the cycle counts, the end of a hold with its BUDGET exception, and
B.HEAT with B.HEATNO. -/
def State.heatCore (s : State) (k : Nat) : State :=
  let p := corePage k
  let c := s.core k
  let cy := min 0xFFFFF c.cyc
  let s1 := (s.setReg p 0x050 (BitVec.ofNat 32 cy)).setReg p 0x054 (BitVec.ofNat 32 (max cy (s.rf p 0x054 19 0)))
  let s2 := s1.setCore k { c with cyc := 0, heatNo := BitVec.ofNat 32 s.heat }
  let s3 := if c.st = .held then
      ({ s2 with cores := (s2.setCore k { s2.core k with st := .run }).cores } : State).takeFault k vBUDGET 0 (c.lenAt c.pc)
    else s2
  s3.coreEvent k 0x200

/-- A heat boundary at every core. -/
def State.heatCores (s : State) : State := (List.range 9).foldl State.heatCore s

end Sys2Proof.Machine
end

