-- ==== Sys2Proof/Machine/TimeBase.lean ====
section
/-! DEFINITION. The time base (rules R358 to R369): how it advances, slews, steps and re-epochs, when heats end (rules
R97, R98), and the commands TIME_STEP, TIME_SLEW and TIME_REEPOCH with Assay's authority (rule R549). -/

namespace Sys2Proof.Machine

/-! ## Advancing (rules R360, R361, R368) -/

/-- One tick of 0.8 ns at nominal rate, in time units. -/
def tickUnits : Nat := 4 * 2 ^ 58

/-- A rate in ppb as an addend, halves away from zero (rule R360). -/
def ppbToA (p : Nat) : Nat := (2 * p * 2 ^ 58 + 10 ^ 9) / (2 * 10 ^ 9)

/-- The bound B (rule R361). -/
def State.rateBound (s : State) : Int := (ppbToA (s.rf 0x080 0x05C 17 0) : Nat)

/-- The applied addend with a slew term. -/
def State.addWith (s : State) (slew : Int) : Int := clampInt (-s.rateBound) s.rateBound (s.tb.aDisc + slew)

/-- The applied rate addend A (rule R361). -/
def State.addend (s : State) : Int := s.addWith (match s.tb.slew with | some w => w.a | none => 0)

/-- Time units the time base gains in one tick without the slew. -/
def State.tickPlain (s : State) : Nat := (4 * ((2 : Int) ^ 58 + s.addWith 0)).toNat

/-- Extra units one tick of a slew gains (rule R368). -/
def State.slewGain (s : State) (w : Slew) : Int := 4 * (s.addWith w.a - s.addWith 0)

/-- Ticks until a running slew ends; `none` while the clamp leaves it no gain. -/
def State.slewTicks (s : State) (w : Slew) : Option Nat :=
  let g := s.slewGain w
  if g = 0 ∨ (g < 0 ∧ 0 < w.left) ∨ (0 < g ∧ w.left < 0) then none else some (ceilDiv w.left.natAbs g.natAbs)

/-- Units gained in n ticks. -/
def State.unitsIn (s : State) (n : Nat) : Nat :=
  match s.tb.slew with
  | none => n * s.tickPlain
  | some w =>
    match s.slewTicks w with
    | none => ((n * s.tickPlain : Nat) + n * s.slewGain w).toNat
    | some k => if n < k then ((n * s.tickPlain : Nat) + n * s.slewGain w).toNat else ((n * s.tickPlain : Nat) + w.left).toNat

/-- LET n TICKS PASS. The slew ends on the tick at which what it has gained equals its offset, and that tick carries
the remainder exactly (rule R368). Elapsed time is measured against the time base (rule R13): it gains what the time base gains, and
before the first lock, while the time base stands, the nominal tick. -/
def State.advance (s : State) (n : Nat) : State :=
  if s.tb.everLocked = false then { s with el := s.el + n * tickUnits }
  else
    let s1 : State := { s with el := s.el + s.unitsIn n, tb := { s.tb with now := s.tb.now + s.unitsIn n } }
    match s.tb.slew with
    | none => s1
    | some w =>
      match s.slewTicks w with
      | none => { s1 with tb := { s1.tb with slew := some { w with left := w.left - n * s.slewGain w } } }
      | some k =>
        if n < k then { s1 with tb := { s1.tb with slew := some { w with left := w.left - n * s.slewGain w } } }
        else ({ s1 with tb := { s1.tb with slew := none } }).raise 0x080 18

/-- The first tick at or after an instant of the time base, counted from now. -/
def State.ticksTo (s : State) (t : Nat) : Nat :=
  let d := t - s.tb.now
  match s.tb.slew with
  | none => ceilDiv d (max 1 s.tickPlain)
  | some w =>
    let r := max 1 ((s.tickPlain : Int) + s.slewGain w).toNat
    match s.slewTicks w with
    | none => ceilDiv d r
    | some k =>
      let dk := ((k * s.tickPlain : Nat) + w.left).toNat
      if ceilDiv d r < k then ceilDiv d r
      else if d ≤ dk then k
      else k + ceilDiv (d - dk) (max 1 s.tickPlain)

/-- Time before an event: it does not run past the tick of the heat boundary, whose work comes first (log entry 1). -/
def State.after (s : State) (dt : Nat) : State :=
  if s.inReset then s
  else if s.tb.everLocked then s.advance (min dt (s.ticksTo s.tb.hEnd)) else s.advance dt

/-- The time base in 10 ps steps, halves up (rule R166), `off` steps after the last tick. -/
def State.stamp10 (s : State) (off : Nat) : Nat := (2 * s.tb.now * 100 + unitsPerNs) / (2 * unitsPerNs) + off

/-- The instant of a heat boundary has just passed: the events of that boundary may follow. -/
def State.atBoundary (s : State) : Bool := s.tb.everLocked && decide (s.tb.now < s.tb.hStart + 2 * tickUnits)

/-- Milliseconds in time units. -/
def msUnits : Nat := 1000000 * unitsPerNs

/-- The first whole millisecond at or after an instant. -/
def firstMs (t : Nat) : Nat := ceilDiv t msUnits * msUnits

/-! ## Health and lock (rules R362, R363) -/

/-- TB.STAT.HEALTHY as its two conditions stand: locked for 1 s, and not in REF_FAULT. -/
def State.healthyNow (s : State) : Bool :=
  s.tb.pllLock && decide (s.el ≥ s.tb.lockEl + ofNs 1000000000) && s.disc.st ≠ .refFault

/-- Bring HEALTHY up to date; HEALTH_CHANGE is raised where it changes. -/
def State.setHealthy (s : State) : State :=
  if s.healthyNow = s.tb.healthy then s
  else ({ s with tb := { s.tb with healthy := s.healthyNow } }).raise 0x080 19

/-! ## TIME_STEP and TIME_REEPOCH (rules R364 to R366, R369) -/

/-- The offset arguments in time units. -/
def offUnits (e : JEntry) : Int :=
  let sec := signed 64 ((e.w 4).toNat + (e.w 5).toNat * 2 ^ 32)
  (sec * 1000000000 + (e.w 6).toInt) * unitsPerNs + (fld (e.w 7) 15 0 : Int) * (unitsPerNs / 65536 : Nat)

/-- A solution good enough for FROM_NAV: FIX 1 or higher and TIME_STD below 1 µs within the last 1 s. -/
def State.navFresh (s : State) : Bool :=
  s.sol.have_ && decide (s.sol.fix ≥ 1) && decide (s.sol.timeStd < 100000) && decide (s.el ≤ s.sol.el + ofNs 1000000000)

/-- −TB_OFF of the latest solution, propagated with its DRIFT to now, in time units. -/
def State.navOffset (s : State) : Int :=
  -roundFree ((s.sol.tbOff : Rat) * (unitsPerNs : Nat) / 65536 + (s.sol.drift : Rat) * ((s.el - s.sol.el : Nat) : Rat) / 10 ^ 11)

/-- A field of TIME_STEP out of range, or a stepped time before the PTP epoch: the word's index. -/
def stepBad (s : State) (e : JEntry) : Option Nat :=
  let nav := (e.w 3).getLsbD 0
  let m : Word := if nav then 0 else 0xFFFFFFFF
  match badWord e [(3, 1), (4, m), (5, m), (6, m), (7, if nav then 0 else 0xFFFF)]
      [(6, decide ((e.w 6).toInt.natAbs ≤ 999999999))] with
  | some n => some n
  | none => if (s.tb.now : Int) + (if nav then s.navOffset else offUnits e) < 0 then some 4 else none

/-- Put a step or re-epoch in flight after its step 1. -/
def State.takeCorr (s : State) (e : JEntry) (re : Bool) : State :=
  ({ s with tb := { s.tb with corr := some {
      off := offUnits e, fromNav := (e.w 3).getLsbD 0, reepoch := re, engine := false, seq := e.seq,
      applied := false } } }).jstep e.seq 1 (s.heat + 1)

/-- Step 1 of TIME_STEP (rule R365). -/
def stepTimeStep (s : State) (e : JEntry) : State :=
  if s.tb.stepped || s.tb.corr.isSome then s.refuse e stSTEP_REFUSED 1 0
  else match stepBad s e with
    | some n => s.refuse e stBAD_ARG 1 n
    | none =>
      if !s.tb.healthy then s.refuse e stBUSY 1 1
      else if (e.w 3).getLsbD 0 && !s.navFresh then s.refuse e stBUSY 1 5
      else s.takeCorr e false

/-- A field of the fuse map (rule R525). -/
def State.fuse (s : State) (hi lo : Nat) : Nat := (s.fuses.toNat >>> lo) % 2 ^ (hi + 1 - lo)

/-- The bytes of an image-key hash in the fuses, or of a token, as 8-bit words. -/
def State.exBytes (s : State) (base from_ n : Nat) : List (BitVec 8) :=
  (List.range n).map fun i => s.exByte base (from_ + i)

/-- A little-endian number of bytes in exchange memory. -/
def State.exNum (s : State) (base from_ n : Nat) : Nat :=
  (List.range n).foldl (fun a i => a + (s.exByte base (from_ + i)).toNat * 2 ^ (8 * i)) 0

/-- The key slot holds a key that may be used: its hash is provisioned and key 0 is not revoked (rule R538). -/
def State.keyOk (s : State) (slot : Nat) (pub : List (BitVec 8)) : Bool :=
  if slot = 0 then s.fuse 936 936 == 0 && (Config.sha384 pub).toNat == s.fuse 383 0
  else if slot = 1 then s.fuse 767 384 != 0 && (Config.sha384 pub).toNat == s.fuse 767 384
  else false

/-- The re-epoch token at TOKEN_PTR verifies (rule R549). -/
def State.tokenOk (s : State) : Bool :=
  let a := s.rf 0x0C0 0x06C 15 0
  a != 0 && s.exNum a 0 4 == 0x4B504552 && s.exNum a 5 1 == 0 && s.exNum a 6 2 == s.tb.epoch
    && s.exNum a 8 8 == s.fuse 895 832
    && s.exNum a 16 8 == (s.reg 0x0C0 0x070).toNat + (s.reg 0x0C0 0x074).toNat * 2 ^ 32
    && s.keyOk (s.exNum a 4 1) (s.exBytes a 0x18 96)
    && Config.p384Verify (s.exBytes a 0x18 96) (s.exBytes a 0x78 96) (s.exBytes a 0 0x78)

/-- Draw a new NONCE: two free numbers. -/
def State.drawNonce (s : State) : State :=
  let s1 := (s.setReg 0x0C0 0x070 (BitVec.ofNat 32 (s.free 0xFFFFFFFF))).bump
  (s1.setReg 0x0C0 0x074 (BitVec.ofNat 32 (s1.free 0xFFFFFFFF))).bump

/-- CASAK-M runs: actions that need it are refused with BUSY while it is halted (rule R524). -/
def State.assayHalted (s : State) : Bool := (Tab.get (fun _ => {}) s.cores 8).st = .halted

/-- Assay's answer to a request for authority (rule R549): each is logged; a grant clears ARMED, draws a new NONCE and
counts in GRANTS; a token that does not verify captures TOKEN_BAD (rule R553). -/
def State.authority (s : State) : Bool × State :=
  let signed := s.fuse 937 937 == 1
  let ok := if signed then s.tokenOk else s.armAt.isSome
  let s1 := s.logOwn 0x21 (b2n ok) (BitVec.ofNat 32 s.tb.epoch)
  if ok then
    let s2 := ({ s1 with armAt := none }).drawNonce
    (true, (s2.setRf 0x0C0 0x068 15 8 (min 255 (s2.rf 0x0C0 0x068 15 8 + 1))).raise 0x0C0 19)
  else
    (false, (if signed then s1.capErr 0x0C0 0x40 0 else s1).raise 0x0C0 20)

/-- Step 1 of TIME_REEPOCH (rule R369). -/
def stepReepoch (s : State) (e : JEntry) : State :=
  if s.tb.corr.isSome then s.refuse e stBUSY 1 4
  else match stepBad s e with
    | some n => s.refuse e stBAD_ARG 1 n
    | none =>
      if !s.tb.healthy then s.refuse e stBUSY 1 1
      else if !s.tb.stepped then s.refuse e stBUSY 1 2
      else if s.tb.epoch = 0xFFFF then s.refuse e stBUSY 1 3
      else if (e.w 3).getLsbD 0 && !s.navFresh then s.refuse e stBUSY 1 5
      else if s.assayHalted then s.refuse e stBUSY 1 0
      else
        let r := s.authority
        if r.1 then r.2.takeCorr e true else r.2.refuse e stAUTH_FAIL 1 0

/-- A running slew is abandoned (rule R366): SLEW_REM reads 0 and SLEW_DONE is raised. -/
def State.dropSlew (s : State) : State :=
  match s.tb.slew with
  | none => s
  | some _ => ({ s with tb := { s.tb with slew := none } }).raise 0x080 18

/-- STEP 2 (rules R98, R366, R369): the offset is added on the boundary's tick; STEPPED sets or the epoch counter
rises; the heat that starts is the alignment heat. The heat number has risen before. -/
def State.applyCorr (s : State) (c : Correction) : State :=
  let off := if c.fromNav then s.navOffset else c.off
  let s1 := s.dropSlew
  let s2 := { s1 with tb := { s1.tb with
    now := ((s1.tb.now : Int) + off).toNat, stepped := true, stepNs := roundFree ((off : Rat) / (unitsPerNs : Nat)),
    epoch := if c.reepoch then s1.tb.epoch + 1 else s1.tb.epoch,
    stepSrc := if c.reepoch then s1.tb.stepSrc else c.engine,
    corr := some { c with applied := true, off := off }, align := true } }
  let s3 := (s2.setReg 0x080 0x06C (BitVec.ofNat 32 s.heat)).raise 0x080 (if c.reepoch then 17 else 16)
  let s4 := ((s3.setRf 0x001 0x048 0 0 1).setRf 0x001 0x048 15 8 (min 255 (s3.rf 0x001 0x048 15 8 + 1))).setReg 0x001 0x04C
    (BitVec.ofNat 32 s.heat)
  if c.engine then s4 else s4.jstep c.seq 2 (s.heat + 1)

/-- What is due of a step or re-epoch at a boundary: step 2, or its refusal where HEALTHY is 0 (rule R366). The answer
tells whether an offset was added. -/
def State.corrAtBoundary (s : State) : Bool × State :=
  match s.tb.corr with
  | some c =>
    if c.applied then (false, s)
    else if s.tb.healthy then (true, s.applyCorr c)
    else
      let s1 := { s with tb := { s.tb with corr := none } }
      (false, if c.engine then s1 else match s.jfind c.seq with
        | some e => s1.refuse e stBUSY 2 1
        | none => s1)
  | none => (false, s)

/-- STEP 3: the alignment heat ends (rules R98, R142, R366): ALIGN_LEN and ALIGNED, and the command completes with the
length in its detail word. -/
def State.endAlign (s : State) : State :=
  if s.tb.align = false then s
  else
    let len := (s.tb.hEnd - s.tb.hStart) / unitsPerNs
    let s1 := (({ s with tb := { s.tb with align := false } }).setReg 0x001 0x050 (BitVec.ofNat 32 len)).raise 0x001 17
    match s.tb.corr with
    | some c =>
      if c.applied then
        let s2 := { s1 with tb := { s1.tb with corr := none } }
        if c.engine then s2 else match s2.jfind c.seq with
          | some e => if e.disp = .inFlight then s2.finish e stOK 3 len 0 0 0 else s2
          | none => s2
      else s1
    | none => s1

/-- The engine asks for the one step (rule R335), as −TB_OFF of its solution; it obeys the rules of a TIME_STEP. -/
def State.autoStep (s : State) : State :=
  if s.tb.stepped || s.tb.corr.isSome || !s.tb.healthy then s
  else { s with tb := { s.tb with corr := some { off := 0, fromNav := true, reepoch := false, engine := true, seq := 0,
                                                 applied := false } } }

/-! ## TIME_SLEW (rules R367, R368) -/

/-- The offset of a TIME_SLEW, in 2^−16 ns. -/
def slewOff (e : JEntry) : Int := signed 48 ((e.w 3).toNat + fld (e.w 4) 15 0 * 2 ^ 32)

/-- Step 1 of TIME_SLEW. -/
def stepTimeSlew (s : State) (e : JEntry) : State :=
  let off := slewOff e
  let rate := fld (e.w 5) 17 0
  match badWord e [(3, 0xFFFFFFFF), (4, 0xFFFF), (5, 0x3FFFF)]
      [(4, decide (off.natAbs ≤ 1000000000 * 65536)),
       (5, off == 0 || decide (1 ≤ rate ∧ rate ≤ s.rf 0x080 0x05C 17 0))] with
  | some n => s.refuse e stBAD_ARG 1 n
  | none =>
    if s.disc.st = .locking ∨ s.disc.st = .locked then s.refuse e stBUSY 1 2
    else s.jstep e.seq 1 (s.heat + 1)

/-- Step 2 of TIME_SLEW at the boundary: it replaces a running slew; an offset of 0 cancels one. -/
def applySlew (s : State) (e : JEntry) : State :=
  let off := slewOff e
  let rate := fld (e.w 5) 17 0
  let a : Int := if 0 ≤ off then (ppbToA rate : Nat) else -(ppbToA rate : Nat)
  let s1 := { s with tb := { s.tb with
    slew := if off = 0 then none else some { a := a, left := off * (unitsPerNs / 65536 : Nat) } } }
  s1.finish e stOK 2 (if off = 0 then 0 else ceilDiv (1000 * off.natAbs) (65536 * max 1 rate)) 0 0 0

/-! ## The TB page (rules R395, R396) -/

/-- Signed nanoseconds a slew has left, saturated. -/
def State.slewRem (s : State) : Word :=
  match s.tb.slew with
  | none => 0
  | some w => satWord (roundFree ((w.left : Rat) / (unitsPerNs : Nat)))

/-- Registers of the TB page computed from the state. -/
def viewTb (s : State) (off : Nat) : Option Word :=
  if off = 0x040 then some (BitVec.ofNat 32 (secOf s.tb.now))
  else if off = 0x050 then
    some (BitVec.ofNat 32 (b2n s.tb.pllLock + b2n s.tb.healthy * 2 + b2n s.tb.stepped * 4 + b2n s.tb.seeded * 8
      + b2n s.tb.slew.isSome * 16 + b2n s.tb.corr.isSome * 32 + b2n s.tb.stepSrc * 64))
  else if off = 0x054 then some (BitVec.ofInt 32 s.addend)
  else if off = 0x058 then some (BitVec.ofNat 32 ((BitVec.ofInt 48 s.addend).toNat / 2 ^ 32))
  else if off = 0x060 then some s.slewRem
  else if off = 0x064 then some (BitVec.ofInt 32 s.tb.stepNs)
  else if off = 0x070 then some (BitVec.ofNat 32 s.tb.epoch)
  else none

/-- PG_STAT block bits of the TB page. -/
def statTb (s : State) : Word :=
  BitVec.ofNat 32 (b2n s.tb.stepped * 256 + b2n s.tb.healthy * 512 + b2n s.tb.slew.isSome * 1024)

/-- A read of NOW_SEC_LO latches the rest of the time base (rules R31, R395). -/
def State.latchNow (s : State) : State :=
  ((s.setReg 0x080 0x044 (BitVec.ofNat 32 (secOf s.tb.now / 2 ^ 32))).setReg 0x080 0x048
    (BitVec.ofNat 32 (nsOf s.tb.now))).setReg 0x080 0x04C (BitVec.ofNat 32 (fracOf s.tb.now + s.tb.epoch % 65536 * 65536))

/-- A read of STEP_LO latches STEP_HI. -/
def State.latchStep (s : State) : State :=
  s.setReg 0x080 0x068 (BitVec.ofNat 32 ((BitVec.ofInt 64 s.tb.stepNs).toNat / 2 ^ 32))

end Sys2Proof.Machine
end

