-- ==== Sys2Proof/Machine/Discipline.lean ====
section
/-! DEFINITION. The disciplining logic (rules R370 to R378): its updates, states, time constant and holdover, its
oscillator actuators, and the rows DISC_UPDATE, TAU_EVALUATION and HOLDOVER. Phases are in seconds. -/

namespace Sys2Proof.Machine

/-! ## Configuration and views -/

def State.discAct (s : State) : Nat := s.rf 0x081 0x040 7 6
def State.discSrc (s : State) : Nat := s.rf 0x081 0x040 1 0
def State.tauMin (s : State) : Nat := s.rf 0x081 0x044 4 0
def State.tauMax (s : State) : Nat := s.rf 0x081 0x044 12 8

/-- log2 of τ in use (rule R374): TAU_FIX where FIX is 1, in every state (log entry 95). -/
def State.tauNow (s : State) : Nat := if s.rf 0x081 0x044 21 21 = 1 then s.rf 0x081 0x044 20 16 else s.disc.tauLog2

/-- DISC.STATE.ST (rule R375). -/
def DiscSt.code : DiscSt → Nat
  | .off => 0 | .freerun => 1 | .freqAcq => 2 | .locking => 3 | .locked => 4 | .holdover => 5 | .refFault => 6

/-- Change the loop's record. -/
def State.modDisc (s : State) (f : Disc → Disc) : State := { s with disc := f s.disc }

/-- A change of state raises STATE_CHANGE (rule R397). At entry to LOCKING, τ is TAU_MIN and REF_JUMPED clears (rules
R374, R398). -/
def State.setDisc (s : State) (n : DiscSt) : State :=
  if s.disc.st = n then s
  else
    let s1 := s.modDisc fun d => { d with st := n, goodRun := 0, badRun := 0, reacq := 0, sinceValid := 0 }
    let s2 := if n = .locking then s1.modDisc fun d => { d with tauLog2 := s.tauMin, refJumped := false } else s1
    s2.raise 0x081 16

/-- The overlapping Allan variance at 2^k s of phases taken once per second, newest first. -/
def allanVar (ph : List Rat) (k : Nat) : Rat :=
  let m := 2 ^ k
  let a := ph.zip ((ph.drop m).zip (ph.drop (2 * m)))
  if a.isEmpty then 0
  else sumRat (a.map fun t => (t.1 - 2 * t.2.1 + t.2.2) * (t.1 - 2 * t.2.1 + t.2.2)) / (2 * (m * m : Nat) * a.length)

/-- Entry k of the Allan deviation table is valid (rule R374). -/
def Disc.adevOk (d : Disc) (k : Nat) : Bool := decide (d.phHist.length ≥ 8 * 2 ^ k)

/-- The learned aging, per second (rule R376): the slope of yi over 24 h of LOCKED. -/
def Disc.aging (d : Disc) : Rat := if d.yiLocked.length ≥ 86400 then Config.slopeOf (d.yiLocked.take 86400) else 0

/-- STATE.AGING_VALID. -/
def Disc.agingOk (d : Disc) : Bool := decide (d.yiLocked.length ≥ 86400)

/-! ## Outputs of the loop (rules R371 to R373) -/

/-- Bits of the code in use: DAC_BITS, or 24 for the ΣΔ output. -/
def State.dacBits (s : State) : Nat := if s.discAct = 2 then 24 else s.rf 0x081 0x054 4 0

/-- A fractional frequency as an addend. -/
def fracToA (y : Rat) : Int := roundFree (y * (2 ^ 58 : Nat))

/-- DAC_GAIN, and the part of yi that a code does not carry (rule R371). -/
def State.dacGain (s : State) : Rat := ((s.reg 0x081 0x060).toInt : Rat) / 10 ^ 15
def State.dacResid (s : State) (code : Int) : Rat := s.disc.yi - s.dacGain * ((code - (s.rf 0x081 0x05C 23 0 : Nat) : Int) : Rat)

/-- A_disc and the code from yi and yp (rule R371): with an actuator the code carries yi and the addend what a
clamped code cannot. -/
def State.discOut (s : State) : State :=
  let d := s.disc
  if s.discAct = 0 then { s with tb := { s.tb with aDisc := fracToA (d.yi + d.yp) } }
  else
    let raw := (s.rf 0x081 0x05C 23 0 : Nat) + roundFree (d.yi / s.dacGain)
    let hi : Int := (2 ^ s.dacBits : Nat) - 1
    let code := clampInt 0 hi raw
    let lim := decide (code ≠ raw)
    let resid := if lim then s.dacResid code else 0
    let s1 := { s with tb := { s.tb with aDisc := fracToA (d.yp + resid) },
                       disc := { d with code := code.toNat, dacLim := lim } }
    let s2 := if s.discAct = 2 ∧ code.toNat ≠ d.code then s1.emit (.oscPwm (s.rf 0x081 0x064 7 0) code.toNat) else s1
    if lim then s2.raise 0x081 20 else s2

/-- One OSC_SPI frame (rule R372): the prefix bits, the code, SHIFT zero bits. -/
def State.oscFrame (s : State) : Nat :=
  let bits := s.rf 0x081 0x054 4 0
  let fb := s.rf 0x081 0x054 13 8
  let sh := s.rf 0x081 0x054 23 20
  s.rf 0x081 0x058 15 0 % 2 ^ (fb - bits - sh) * 2 ^ (bits + sh) + s.disc.code % 2 ^ bits * 2 ^ sh

/-- In the heat after an update the code is written to the oscillator (rule R372). -/
def State.oscWrite (s : State) : State :=
  if s.disc.oscNext then
    let s1 := s.modDisc fun d => { d with oscNext := false }
    if s.discAct = 1 ∧ s.disc.st ≠ .off then
      (s1.modDisc fun d => { d with lastCode := d.code }).emit (.oscSpi (s.rf 0x081 0x054 31 24) (s.rf 0x081 0x054 17 16) (s.rf 0x081 0x054 13 8) s.oscFrame)
    else s1
  else s

/-! ## State changes not tied to an update (rule R375) -/

/-- PG_CTL.EN applied 0: OFF, with A_disc 0. -/
def State.discOff (s : State) : State :=
  let s1 := s.setDisc .off
  { s1 with tb := { s1.tb with aDisc := 0 }, disc := { st := .off, lastCode := s1.disc.lastCode, code := s1.disc.code } }

/-- EN applied 1: FREERUN from OFF, with yi 0 and the first write DAC_INIT. -/
def State.discOn (s : State) : State :=
  if s.disc.st = .off then
    ((s.modDisc fun d => { st := .off, code := s.rf 0x081 0x05C 23 0, oscNext := true, lastCode := d.lastCode,
                           lastEl := s.el }).setDisc .freerun)
  else s

/-- The PLL loses lock or Assay reports a REFIN clock fault: REF_FAULT, A_disc 0, the code held. -/
def State.refFault (s : State) : State :=
  if s.disc.st = .off ∨ s.disc.st = .refFault then s
  else
    let s1 := (s.setDisc .refFault).modDisc fun d => { d with yp := 0 }
    (({ s1 with tb := { s1.tb with aDisc := 0 } }).raise 0x081 19).setHealthy

/-- Holdover entry (rule R376): yp 0, yi the mean of its values over the last τ updates; std_entry from the last
valid update. A clamped code holds, and A_disc keeps its residual at the entry (rule R394). Raises HOLDOVER. -/
def State.holdoverEntry (s : State) : State :=
  let d := s.disc
  let h := d.yiHist.take (2 ^ s.tauNow)
  let s1 := (s.setDisc .holdover).modDisc fun d => { d with
    yp := 0, yi := if h.isEmpty then d.yi else meanRat h, holdT := 0,
    stdEntry := sqrtScaled d.var (10 ^ 9), holdUnc := sqrtScaled d.var (10 ^ 9) }
  (if d.dacLim then { s1 with tb := { s1.tb with aDisc := fracToA (s.dacResid d.code) } } else s1.discOut).raise 0x081 17

/-- Holdover from a measurement lost, withheld (rule R350) or a quench (rule R573). -/
def State.toHoldover (s : State) : State :=
  if s.disc.st = .freqAcq ∨ s.disc.st = .locking ∨ s.disc.st = .locked then s.holdoverEntry else s

/-- A step or re-epoch has applied (rule R375). -/
def State.discStepped (s : State) (re : Bool) : State :=
  match s.disc.st with
  | .freqAcq => if re then s else (s.modDisc fun d => { d with haveX := false, x := 0, meas := [] }).setDisc .locking
  | .locking | .locked =>
    let s1 := s.modDisc fun d => { d with haveX := false, x := 0, meas := [], tauLog2 := s.tauMin, goodRun := 0 }
    s1.setDisc .locking
  | _ => s

/-! ## One update a second (rules R370, R371) -/

/-- A valid measurement joins the current second: its phase in seconds and its variance. -/
def State.discMeas (s : State) (x var : Rat) : State :=
  if s.disc.st = .off then s else s.modDisc fun d => { d with meas := d.meas ++ [(x, var)] }

/-- HOLD_UNC (rule R376) after t seconds of holdover, stopping at its largest value. -/
def Disc.unc (d : Disc) (t : Nat) : Nat :=
  let ks := (List.range 17).filter fun k => d.adevOk k
  let below := ks.filter fun k => decide (2 ^ k ≤ t)
  let tk := if below.isEmpty then ks.head? else below.getLast?
  let sy : Rat := match tk with | some k => (sqrtScaled (allanVar d.phHist k) (10 ^ 15) : Nat) / 10 ^ 15 | none => 0
  min 0xFFFFFFFF (d.stdEntry + (roundFree (10 ^ 9 * (sy * t + absRat d.aging * t * t / 2))).toNat)

/-- The loop's terms at an update in LOCKING or LOCKED. -/
def State.loopTerms (s : State) (x : Rat) : State :=
  let tau : Rat := ((2 ^ s.tauNow : Nat) : Rat)
  let lim : Rat := (s.rf 0x081 0x048 15 0 : Nat) / 10 ^ 9
  (s.modDisc fun d => { d with yi := d.yi - x / (tau * tau), yp := clampRat (-lim) lim (-2 * x / tau) }).discOut

/-- The history the adaptive loop keeps (rules R374, R376). -/
def State.discHist (s : State) (x : Rat) : State :=
  s.modDisc fun d => { d with
    phHist := ((x + d.corrSum) :: d.phHist).take 604800, corrSum := d.corrSum + d.yi + d.yp,
    yiHist := if d.st = .locking ∨ d.st = .locked then (d.yi :: d.yiHist).take 65536 else d.yiHist,
    yiLocked := if d.st = .locked then (d.yi :: d.yiLocked).take 86400 else d.yiLocked, updates := d.updates + 1 }

/-- A valid update with phase x and variance v. -/
def State.updateValid (s : State) (x v : Rat) : State :=
  let d := s.disc
  let lockT : Rat := (s.rf 0x081 0x048 23 16 : Nat) / 10 ^ 9
  let unlockT : Rat := (s.rf 0x081 0x048 31 24 : Nat) / 10 ^ 9
  let s0 := s.modDisc fun d => { d with x := x, var := v, haveX := true, sinceValid := 0 }
  match d.st with
  | .freerun => ((s0.modDisc fun d => { d with phHist := [], corrSum := 0 }).setDisc (if s.tb.stepped then .locking else .freqAcq))
  | .freqAcq =>
    ((s0.modDisc fun e => { e with yi := if d.haveX then e.yi - (x - d.x) / 8 else e.yi, yp := 0 }).discOut).discHist x
  | .locking =>
    let s1 := ((s0.loopTerms x).discHist x).modDisc fun e => { e with goodRun := if absRat x < lockT then e.goodRun + 1 else 0 }
    if s1.disc.goodRun ≥ 60 then (s1.setDisc .locked).raise 0x081 18 else s1
  | .locked =>
    let jump := d.haveX && decide (absRat (x - d.x) > (s.rf 0x081 0x050 15 0 : Nat) / 10 ^ 9)
    let s1 := if jump then (s0.modDisc fun e => { e with refJumped := true, tauLog2 := s.tauMin }).raise 0x081 21 else s0
    let s2 := ((s1.loopTerms x).discHist x).modDisc fun e => { e with badRun := if absRat x > unlockT then e.badRun + 1 else 0 }
    if s2.disc.badRun ≥ 10 then s2.setDisc .locking else s2
  | .holdover =>
    let s1 := s0.modDisc fun e => { e with reacq := e.reacq + 1 }
    if s1.disc.reacq ≥ s.rf 0x081 0x04C 15 8 then s1.setDisc (if s.tb.stepped then .locking else .freqAcq) else s1
  | _ => s0

/-- What each second of holdover does (rule R376). -/
def State.holdSecond (s : State) : State :=
  let ag := s.rf 0x081 0x040 8 8 == 1 && s.disc.agingOk
  let s1 := s.modDisc fun d => { d with yi := if ag then d.yi + d.aging else d.yi, holdT := d.holdT + 1,
                                        holdUnc := d.unc (d.holdT + 1) }
  if ag && !s.disc.dacLim then s1.discOut else s1

/-- ONE UPDATE: the valid measurements of the second are averaged; σ_x² is the sum of their variances over the square
of their number (rule R370). -/
def State.discUpdate (s : State) : State :=
  let d := s.disc
  if d.st = .off then s
  else
    let n : Rat := (d.meas.length : Rat)
    let s1 := s.modDisc fun e => { e with meas := [], lastEl := s.el, oscNext := true }
    let s2 := if d.st = .holdover then s1.holdSecond else s1
    if d.meas.isEmpty ∨ d.st = .refFault then
      (s2.modDisc fun e => { e with
        sinceValid := e.sinceValid + 1, reacq := 0,
        oscNext := decide (d.st = .holdover ∨ d.st = .refFault), badRun := 0, goodRun := 0 })
    else s2.updateValid (meanRat (d.meas.map (·.1))) (sumRat (d.meas.map (·.2)) / (n * n))

/-- The target τ (rule R374): the smallest cost over the grid values with a valid entry, the lowest on a tie. -/
def State.tauTarget (s : State) : Nat :=
  let d := s.disc
  let ks := (List.range 17).filter fun k => decide (s.tauMin ≤ k ∧ k ≤ s.tauMax) && d.adevOk k
  let cost := fun (k : Nat) => d.var / ((2 ^ k : Nat) : Rat) + ((2 ^ (2 * k) : Nat) : Rat) * allanVar d.phHist k
  ks.foldl (fun b k => if cost k < cost b then k else b) (ks.headD d.tauLog2)

/-- Every 16 updates τ moves one grid step towards the target (rule R374). -/
def State.tauEval (s : State) : State :=
  if s.disc.updates < 16 then s
  else if s.rf 0x081 0x044 21 21 = 1 then
    s.modDisc fun d => { d with updates := 0, tauLog2 := s.rf 0x081 0x044 20 16, tauTgt := s.rf 0x081 0x044 20 16 }
  else
    let t := s.tauTarget
    s.modDisc fun d => { d with
      updates := 0, tauTgt := t,
      tauLog2 := if d.tauLog2 < t then d.tauLog2 + 1 else if t < d.tauLog2 then d.tauLog2 - 1 else d.tauLog2 }

/-- The valid exchanges of the second on PTP_PORT join the update (rules R370, R422): those whose t2 − t1 lies in the
lowest quarter of the second's values, all of them where there are fewer than 4. -/
def State.ptpSecond (s : State) : State :=
  let l := (Tab.get (fun _ => {}) s.eth (s.rf 0x081 0x040 3 2)).second
  let use := if l.length < 4 then l
    else l.filter fun a => decide ((l.filter fun b => decide (b.1 < a.1)).length < l.length / 4)
  let s1 := { s with eth := s.eth.map fun e => (e.1, { e.2 with second := [] }) }
  if s.discSrc = 1 then use.foldl (fun s a => s.discMeas a.2.1 a.2.2) s1 else s1

/-! ## Rows -/

/-- DISC_UPDATE (R371): once a second the loop updates; a row before the second is up changes nothing (log entry 2). -/
def execDiscUpdate (dt : Nat) (s : State) : Out :=
  let s1 := s.after dt
  .next (if s1.inReset || decide (s1.el < s1.disc.lastEl + ofNs 999999000) then s1 else s1.ptpSecond.discUpdate)

/-- TAU_EVALUATION (R374). -/
def execTauEvaluation (s : State) : Out := .next (if s.inReset then s else s.tauEval)

/-- HOLDOVER (R376): no valid update for HOLD_DELAY_S seconds. -/
def execHoldover (s : State) : Out :=
  .next (if !s.inReset && decide (s.disc.sinceValid ≥ s.rf 0x081 0x04C 7 0) then s.toHoldover else s)

/-- REF_FAULT_END (R375): the PLL locked for 1 s and no REFIN clock fault; yi is kept. -/
def execRefFaultEnd (dt : Nat) (s : State) : Out :=
  let s1 := s.after dt
  .next (if s1.disc.st = .refFault ∧ s1.tb.pllLock = true ∧ s1.tb.refBad = false ∧ s1.el ≥ s1.tb.lockEl + ofNs 1000000000 then
    ((s1.setDisc .freerun).discOut).setHealthy
  else s1)

/-- PLL_UNLOCK (R363): the time base goes on with the held control word; HEALTHY clears. -/
def execPllUnlock (dt : Nat) (s : State) : Out :=
  let s1 := s.after dt
  .next (if s1.tb.pllLock then (({ s1 with tb := { s1.tb with pllLock := false } }).setHealthy).refFault else s1)

/-- HEALTH_CHANGE (R363): the PLL has stayed locked for 1 s. -/
def execHealthChange (dt : Nat) (s : State) : Out := .next ((s.after dt).setHealthy)

/-- SLEW_DONE (R368): time goes on to the tick on which the running slew ends, or to the heat boundary before it. -/
def execSlewDone (s : State) : Out :=
  .next (match s.tb.slew with
    | none => s
    | some w => match s.slewTicks w with
      | none => s
      | some k => s.after k)

/-- NOW_SEC_LO (R395): the answer is SEC [31:0], and the rest of the time base is latched. -/
def execNowSecLo (s : State) : Out :=
  .next (s.readRow (BitVec.ofNat 32 (secOf s.tb.now)) State.latchNow)

/-- STEP_LO (R395). -/
def execStepLo (s : State) : Out :=
  .next (s.readRow (BitVec.ofInt 32 s.tb.stepNs) State.latchStep)

/-! ## The DISC page (rules R397, R398) -/

/-- Registers of the DISC page computed from the state. -/
def viewDisc (s : State) (off : Nat) : Option Word :=
  let d := s.disc
  if off = 0x068 then
    some (BitVec.ofNat 32 (d.st.code + s.tauNow % 32 * 16 + d.tauTgt % 32 * 512 + b2n d.dacLim * 2 ^ 14
      + b2n d.agingOk * 2 ^ 15 + b2n d.refJumped * 2 ^ 16))
  else if off = 0x06C then some (satWord (roundFree (d.x * 10 ^ 11)))
  else if off = 0x070 then some (satWord (roundFree (d.yi * 10 ^ 11)))
  else if off = 0x074 then some (BitVec.ofNat 32 d.lastCode)
  else if off = 0x078 then some (BitVec.ofNat 32 d.holdT)
  else if off = 0x07C then some (BitVec.ofNat 32 d.holdUnc)
  else if off = 0x084 then
    let k := s.rf 0x081 0x080 4 0
    some (BitVec.ofNat 32 (min 0x7FFFFFFF (sqrtScaled (allanVar d.phHist k) (10 ^ 15)) + b2n (d.adevOk k) * 2 ^ 31))
  else if off = 0x088 then some (satWord (roundFree (d.aging * 86400 * 10 ^ 15)))
  else none

/-- The commit check of the DISC page (rule R397). -/
def checkDisc (old new : State) : Bool :=
  decide (new.rf 0x081 0x054 4 0 + new.rf 0x081 0x054 23 20 ≤ new.rf 0x081 0x054 13 8)
  && decide (new.rf 0x081 0x05C 23 0 < 2 ^ new.rf 0x081 0x054 4 0)
  && decide (new.tauMin ≤ new.tauMax) && decide (new.rf 0x081 0x048 23 16 < new.rf 0x081 0x048 31 24)
  && !(old.enabled 0x081 && new.discAct != old.discAct)

/-- What a commit of the DISC page does beside. -/
def appliedDisc (old s : State) : State :=
  if s.enabled 0x081 then (if old.enabled 0x081 then s else s.discOn) else s.discOff

/-- A soft reset of the DISC page: the loop starts again from where EN leaves it (log entry 15). -/
def resetDisc (s : State) : State := if s.enabled 0x081 then s.discOff.discOn else s.discOff

end Sys2Proof.Machine
end

