-- ==== Sys2Proof/Machine/TimeIO.lean ====
section
/-! DEFINITION. The time outputs (rules R379 to R388) and the time inputs
(rules R389 to R392): their commands' steps, their edges, pulses and captures, and their pages. -/

namespace Sys2Proof.Machine

/-! ## Schedules (rules R380, R381) -/

/-- The schedule of an entry. -/
def State.sched (s : State) (i : Nat) : Sched := Tab.get (fun _ => {}) s.touts i

/-- Write a schedule. -/
def State.setSched (s : State) (i : Nat) (x : Sched) : State := { s with touts := Tab.set (fun _ => {}) s.touts i x }

/-- Whether an entry holds a schedule. -/
def State.hasSched (s : State) (i : Nat) : Bool := s.touts.any fun e => e.1 == i

/-- Live schedules of a target. -/
def State.schedsOf (s : State) (tgt : Nat) : Nat := (s.touts.filter fun e => e.2.target = tgt).length

/-- A target is a pin. -/
def Sched.pin (x : Sched) : Bool := x.target < 8

/-- Edge k in 10 ps steps: START + k · PERIOD / DIV, rounded to the nearest step, halves up (rule R380). -/
def Sched.t10 (x : Sched) (k : Nat) : Nat := (2 * (x.start * x.div + k * x.periodNs * 100) + x.div) / (2 * x.div)

/-- The first k from 0 whose edge lies at or after an instant in time units. -/
def Sched.firstK (x : Sched) (t : Nat) : Nat :=
  let t10 := ceilDiv (t * 100) unitsPerNs
  if x.periodNs = 0 then (if t10 ≤ x.t10 0 then 0 else 1)
  else ceilDiv (x.div * (2 * t10 - 1) - 2 * x.start * x.div) (200 * x.periodNs)

/-- A signed delay register in picoseconds. -/
def State.delayPs (s : State) (p off : Nat) : Int := (s.reg p off).toInt

/-- The instant at which edge k leaves: t_k, on a pin less DELAYn (rule R382). -/
def State.edgeAt (s : State) (x : Sched) (k : Nat) : Nat :=
  let ps : Int := (x.t10 k : Int) * 10 - (if x.pin then s.delayPs 0x082 (0x064 + 4 * x.target) else 0)
  ceilDiv (ps.toNat * unitsPerNs) 1000

/-- A gate is open (rule R383). -/
def State.gateOpen (s : State) (g : Nat) : Bool :=
  g == 0 || (s.tb.healthy && s.tb.stepped && (g == 1 || s.disc.st == .locked ||
    (s.disc.st == .holdover && decide (s.disc.holdUnc ≤ s.rf 0x081 0x050 31 16))))

/-- Pins rest at their idle level (rule R387): during a quench while HEALTHY is 0. -/
def State.quiet (s : State) : Bool := !decide (s.fault.phase = .run) && !s.tb.healthy

/-- Pulses of a pin in progress (rule R379). -/
def State.pinActive (s : State) (n : Nat) : Bool := s.pulses.any (fun q => q.pin == n) && !s.quiet

/-- The level of a TOUT pin (rule R379): low in reset; none stands for high-impedance. -/
def State.pinLevel (s : State) (n : Nat) : Option Bool :=
  if s.inReset then some false
  else if s.rf 0x082 (0x044 + 4 * n) 1 1 = 1 then none
  else some (s.pinActive n != (s.rf 0x082 (0x044 + 4 * n) 0 0 == 1))

/-- An argument of TOUT_SCHEDULE that fails its check at step 1 (rules R380, R381): the word's index. -/
def toutBad (e : JEntry) : Option Nat :=
  let tgt := fld (e.w 3) 7 0
  let pin := decide (tgt < 8)
  let per := (e.w 7).toNat
  let div := fld (e.w 8) 15 0
  let cnt := (e.w 11).toNat
  let wd := fld (e.w 9) 29 0 * 100 + fld (e.w 10) 6 0
  badWord e [(3, 0x3FF), (4, 0xFFFFFFFF), (5, 0x3FFFFFFF), (6, 0x7F), (7, 0xFFFFFFFF), (8, 0xFFFF), (9, 0x3FFFFFFF),
      (10, 0x7F), (11, 0xFFFFFFFF)]
    [(3, pin || tgt == 0x16 || tgt == 0x17), (3, decide (fld (e.w 3) 9 8 ≤ 2)), (5, decide (fld (e.w 5) 29 0 ≤ 999999999)),
     (6, decide (fld (e.w 6) 6 0 ≤ 99)), (7, per != 0 || cnt == 1),
     (7, per == 0 || div == 0 || decide ((if pin then 100 else 10000) * div ≤ per)), (8, div != 0),
     (9, if pin then decide (500 ≤ wd) && (cnt == 1 || decide ((wd + 500) * div ≤ per * 100)) else fld (e.w 9) 29 0 == 0),
     (10, decide (fld (e.w 10) 6 0 ≤ 99)), (10, pin || fld (e.w 10) 6 0 == 0)]

/-- START with bits [63:32] of its seconds from the time base, in 10 ps steps. -/
def State.start10 (s : State) (sec ns ps10 : Nat) : Nat :=
  ((secOf s.tb.now / 2 ^ 32 * 2 ^ 32 + sec) * 1000000000 + ns) * 100 + ps10

/-- Steps 1 and 2 of TOUT_SCHEDULE (rules R132, R381): check, allocate, check the start. -/
def stepToutSchedule (s : State) (e : JEntry) : State :=
  let tgt := fld (e.w 3) 7 0
  match toutBad e with
  | some n => s.refuse e stBAD_ARG 1 n
  | none =>
    if s.schedsOf tgt ≥ (if tgt < 8 then 8 else 4) then s.refuse e stBUSY 1 3
    else match s.alloc 4 true false with
      | (none, s1) => s1.refuse e stNO_HANDLE 1 0
      | (some i, s1) =>
        let st10 := s1.start10 (e.w 4).toNat (fld (e.w 5) 29 0) (fld (e.w 6) 6 0)
        let cnt := (e.w 11).toNat
        let ahead : Int := (st10 : Int) * (unitsPerNs : Nat) - (s1.tb.now * 100 : Nat)
        if (cnt ≠ 0 ∧ ahead < (ofNs 2000000 * 100 : Nat)) ∨ ahead > (ofNs (10 ^ 15) * 100 : Nat) then
          (s1.freeNow i).refuse e stBAD_ARG 2 4
        else
          let x : Sched := { target := tgt, gate := fld (e.w 3) 9 8, start := st10, periodNs := (e.w 7).toNat,
                             div := fld (e.w 8) 15 0, width := fld (e.w 9) 29 0 * 100 + fld (e.w 10) 6 0,
                             finite := cnt != 0, left := cnt }
          ((s1.setSched i x).jmod e.seq fun y => { y with handle := s1.handleOf i, arg := i }).jstep e.seq 2 (s.heat + 1)

/-- A schedule ends (rule R386): SCH_END, and its entry goes DYING until the boundary after. -/
def State.schedEnd (s : State) (i : Nat) : State :=
  ((s.setSched i { s.sched i with done := true, ended := some s.heat }).dying i).raise 0x082 16

/-- No edge follows; the schedule ends once it has no pulse in progress. -/
def State.schedDone (s : State) (i : Nat) : State :=
  let s1 := s.setSched i { s.sched i with done := true }
  if s.pulses.any fun q => q.own == some i then s1 else s1.schedEnd i

/-- The lowest free trigger slot of a core (rule R472). -/
def State.freeTrig (s : State) (tgt : Nat) : Nat :=
  ((List.range 4).find? fun t => !(s.touts.any fun e => e.2.target == tgt && e.2.loaded && e.2.trigSlot == t)).getD 0

/-- Step 3 of TOUT_SCHEDULE at the boundary L: the generator is loaded; the first edge is the first k whose instant
lies at or after L + 100 µs (rules R381, R472). -/
def loadSched (s : State) (e : JEntry) : State :=
  let i := e.arg
  let x := s.sched i
  let k := x.firstK (s.tb.now + ofNs 100000)
  let t := s.freeTrig x.target
  let s1 := s.setSched i { x with loaded := true, nextK := k, trigSlot := if x.pin then 0 else t }
  let s2 := if x.pin then s1 else
    s1.modCore (if x.target = 0x16 then 6 else 7) fun c => { c with trigH := Tab.set (fun _ => 0) c.trigH t (s.handleOf i) }
  let s3 := s2.done e 3 (k % 2 ^ 32) (s.handleOf i)
  if x.periodNs = 0 ∧ k > 0 then s3.schedDone i else s3

/-- A schedule leaves the measurement plane (rules R131, R386): a pulse in progress completes its width; its trigger
slot is freed (rule R472). -/
def State.dropSched (s : State) (i : Nat) : State :=
  let x := s.sched i
  let s1 := { s with touts := s.touts.filter (fun e => e.1 != i),
                     pulses := s.pulses.map fun q => if q.own = some i then { q with own := none } else q }
  if x.loaded && !x.pin then
    s1.modCore (if x.target = 0x16 then 6 else 7) fun c => { c with trigH := Tab.set (fun _ => 0) c.trigH x.trigSlot 0 }
  else s1

/-- Entries of schedules that ended in an earlier heat are freed (rules R119, R386). -/
def State.freeEndedScheds (s : State) : State :=
  let go := (s.touts.filter fun e => match e.2.ended with | some h => decide (h < s.heat) | none => false).map (·.1)
  go.foldl (fun s i => ((s.dropSched i).releaseAll (.entry i)).freeNow i) s

/-- One edge of a schedule falls due (rules R382, R383, R387, R388): emitted while its gate is open, else suppressed;
either counts against COUNT. -/
def State.edgeDue (s : State) (i : Nat) : State :=
  let x := s.sched i
  let k := x.nextK
  let open_ := s.gateOpen x.gate && !(x.pin && s.quiet)
  let x1 := { x with nextK := k + 1, left := x.left - 1, emit := if open_ then (x.emit + 1) % 2 ^ 32 else x.emit,
                     supp := if open_ then x.supp else min 0xFFFF (x.supp + 1) }
  let s1 := s.setSched i x1
  let s2 :=
    if !open_ then s1.raise 0x082 18
    else if x.pin then
      { (s1.emit (.toutRise x.target k)) with
        pulses := s1.pulses ++ [⟨x.target, s.edgeAt x k + ceilDiv (x.width * unitsPerNs) 100, some i⟩] }
    else
      let c : CoreId := if x.target = 0x16 then 6 else 7
      let s2 := (s1.modCore c fun q => { q with trigK := Tab.set (fun _ => 0) q.trigK x.trigSlot (BitVec.ofNat 32 k) }).emit
        (.trigger c x.trigSlot (BitVec.ofNat 32 k))
      let s3 := if (s1.core c).bits.getLsbD (0x201 + x.trigSlot) then s2.coreEvent c 0x206 else s2
      s3.coreEvent c (0x201 + x.trigSlot)
  if (x.finite && x1.left == 0) || x.periodNs == 0 then s2.schedDone i else s2

/-- Time goes on to an edge of a loaded schedule; an edge at or after the heat boundary waits for its work. -/
def State.edgeRow (s : State) (i : Nat) (pin : Bool) : State :=
  let x := s.sched i
  if s.inReset || !s.hasSched i || !x.loaded || x.done || x.pin != pin then s
  else
    let at_ := s.edgeAt x x.nextK
    let s1 := s.after (s.ticksTo at_)
    if at_ < s.tb.hEnd ∧ at_ ≤ s1.tb.now then s1.edgeDue i else s1

/-- TOUT_EDGE (R382): the edge instant of the schedule of an entry is reached. -/
def execToutEdge (idx : Nat) (s : State) : Out := .next (s.edgeRow idx true)

/-- TRIGGER (R388): the instant of a trigger schedule is reached. -/
def execTrigger (idx : Nat) (s : State) : Out := .next (s.edgeRow idx false)

/-- The pulse of a pin that ends first. -/
def State.firstPulse (s : State) (pin : Nat) : Option Pulse :=
  (s.pulses.filter fun q => q.pin = pin).foldl (fun b q => match b with
    | some p => if q.endAt < p.endAt then some q else some p
    | none => some q) none

/-- PULSE_END (R382): the pulse of a pin that ends first ends; a finite schedule's last one ends the schedule. -/
def execPulseEnd (pin : Fin 8) (s : State) : Out :=
  .next <| match s.firstPulse pin.val with
  | none => s
  | some q =>
    let s1 := s.after (s.ticksTo q.endAt)
    if s.inReset || decide (s1.tb.now < q.endAt) then s1
    else
      let s2 := { s1 with pulses := s1.pulses.erase q }
      let s3 := if s2.pulses.any fun r => r.pin == q.pin then s2 else s2.emit (.toutFall q.pin)
      match q.own with
      | none => s3
      | some i => if (s3.sched i).done && !(s3.pulses.any fun r => r.own == some i) then s3.schedEnd i else s3

/-- The next whole second of the system PPS: the first whose edge lies at or after now, and not the one just handled. -/
def State.ppsNext (s : State) : Nat × Nat :=
  let at_ := fun (k : Nat) => ceilDiv (((k : Int) * 10 ^ 12 - s.delayPs 0x082 0x064).toNat * unitsPerNs) 1000
  let k0 := secOf s.tb.now
  let k := if s.tb.now ≤ at_ k0 then k0 else if s.tb.now ≤ at_ (k0 + 1) then k0 + 1 else k0 + 2
  let k' := if k = s.ppsLast then k + 1 else k
  (k', at_ k')

/-- PPS (R384): at a whole second of the time base the system PPS edge leaves TOUT0 while its gate is open. -/
def execPps (s : State) : Out :=
  let n := s.ppsNext
  let s1 := s.after (s.ticksTo n.2)
  .next <|
    if s.inReset || !s.tb.everLocked || decide (s.tb.hEnd ≤ n.2 ∨ s1.tb.now < n.2) then s1
    else
      let s2 := { s1 with ppsLast := n.1 }
      if s2.rf 0x082 0x040 0 0 = 1 ∧ s2.gateOpen (s2.rf 0x082 0x040 2 1) = true ∧ s2.quiet = false then
        { (s2.emit (.toutRise 0 n.1)) with
          pulses := s2.pulses ++ [⟨0, n.2 + s2.rf 0x082 0x040 17 8 * msUnits, none⟩] }
      else s2

/-- What a step or re-epoch by `off` time units does to the outputs (rule R385): next edges are recomputed, and pulses
in progress keep their width in elapsed ticks. -/
def State.stepScheds (s : State) (off : Int) : State :=
  let s1 := { s with ppsLast := 0, pulses := s.pulses.map fun q => { q with endAt := ((q.endAt : Int) + off).toNat } }
  if off ≤ 0 then s1
  else s1.touts.foldl (fun s e =>
    let x := e.2
    if !x.loaded || x.done then s
    else
      let k := max x.nextK (if x.periodNs = 0 then (if s.tb.now + ofNs 100000 ≤ ofNs (x.t10 0) / 100 then 0 else 1)
        else x.firstK (s.tb.now + ofNs 100000))
      let n := if x.finite then min (k - x.nextK) x.left else k - x.nextK
      if n = 0 then s
      else
        let s2 := (s.setSched e.1 { x with nextK := x.nextK + n, skip := min 0xFFFF (x.skip + n), left := x.left - n }).raise
          0x082 17
        if (x.finite && x.left == n) || x.periodNs == 0 then s2.schedDone e.1 else s2) s1

/-- Registers of the TOUT page computed from the state (rule R400). -/
def viewTout (s : State) (off : Nat) : Option Word :=
  let i := s.rf 0x082 0x084 12 0
  let x := s.sched i
  let live := s.hasSched i && (s.ent i).st == .live
  if off = 0x088 then
    some (if live then BitVec.ofNat 32 (x.target + x.gate * 256 + 1024 + b2n (s.gateOpen x.gate) * 2048) else 0)
  else if off = 0x08C then some (if live then BitVec.ofNat 32 (x.t10 x.nextK / (100 * 10 ^ 9)) else 0)
  else if off = 0x094 then some (if live then BitVec.ofNat 32 x.emit else 0)
  else if off = 0x098 then some (if live then (if x.finite then BitVec.ofNat 32 x.left else 0xFFFFFFFF) else 0)
  else if off = 0x09C then some (if live then BitVec.ofNat 32 (x.skip + x.supp * 65536) else 0)
  else if off = 0x0A0 then some (BitVec.ofNat 32 ((List.range 8).foldl (fun m n => m + s.schedsOf n * 16 ^ n) 0))
  else if off = 0x0A4 then some (BitVec.ofNat 32 (s.schedsOf 0x16 + s.schedsOf 0x17 * 16))
  else none

/-- SCH_NEXT_SEC (R399): the answer is bits [31:0] of the next edge's seconds, and SCH_NEXT_NS is latched. -/
def execSchNextSec (s : State) : Out :=
  let x := s.sched (s.rf 0x082 0x084 12 0)
  let live := s.hasSched (s.rf 0x082 0x084 12 0) && (s.ent (s.rf 0x082 0x084 12 0)).st == .live
  .next (s.readRow ((viewTout s 0x08C).getD 0) fun s =>
    s.setReg 0x082 0x090 (if live then BitVec.ofNat 32 (x.t10 x.nextK / 100 % 10 ^ 9) else 0))

/-! ## Time inputs (rules R389 to R392) -/

/-- An input. -/
def State.tin (s : State) (n : Nat) : TinIn := Tab.get (fun _ => {}) s.tins n

/-- Write an input. -/
def State.setTin (s : State) (n : Nat) (x : TinIn) : State := { s with tins := Tab.set (fun _ => {}) s.tins n x }

/-- The handles on an input with their entry indices. -/
def State.armsOf (s : State) (n : Nat) : List (Nat × TinArm) := s.tinArms.filter fun e => e.2.input = n

/-- An argument of TIN_ARM that fails its check (rule R390). -/
def tinBad (s : State) (e : JEntry) : Option Nat :=
  let win := (e.w 3).getLsbD 4
  let m : Word := if win then 0xFFFFFFFF else 0
  match badWord e [(3, 0x1F), (4, m), (5, m), (6, m), (7, m), (8, 0xFFFFFFFF)]
      [(3, fld (e.w 3) 3 2 != 0), (5, decide ((e.w 5).toNat ≤ 999999999)), (7, decide ((e.w 7).toNat ≤ 999999999))] with
  | some n => some n
  | none => if win && decide (s.start10 (e.w 6).toNat (e.w 7).toNat 0 ≤ s.start10 (e.w 4).toNat (e.w 5).toNat 0) then some 6
            else none

/-- Step 1 of TIN_ARM: check, allocate, take the lowest free slot of the input. -/
def stepTinArm (s : State) (e : JEntry) : State :=
  let n := fld (e.w 3) 1 0
  match tinBad s e with
  | some w => s.refuse e stBAD_ARG 1 w
  | none =>
    if (s.armsOf n).length ≥ 4 then s.refuse e stBUSY 1 3
    else match s.alloc 5 true false with
      | (none, s1) => s1.refuse e stNO_HANDLE 1 0
      | (some i, s1) =>
        let slot := ((List.range 4).find? fun t => !((s1.armsOf n).any fun a => a.2.slot == t)).getD 0
        let a : TinArm := { input := n, edge := fld (e.w 3) 3 2, window := (e.w 3).getLsbD 4,
                            openPs10 := s1.start10 (e.w 4).toNat (e.w 5).toNat 0,
                            closePs10 := s1.start10 (e.w 6).toNat (e.w 7).toNat 0, count := (e.w 8).toNat, slot := slot }
        (({ s1 with tinArms := Tab.ins s1.tinArms i a }).jmod e.seq fun y =>
          { y with handle := s1.handleOf i, arg := i }).jstep e.seq 1 (s.heat + 1)

/-- Step 2 of TIN_ARM: the handle accepts edges from the heat that its arming boundary starts. -/
def armTin (s : State) (e : JEntry) : State :=
  let a := Tab.get (fun _ => {}) s.tinArms e.arg
  ({ s with tinArms := Tab.ins s.tinArms e.arg { a with armed := true } }).done e 2 a.slot (s.handleOf e.arg)

/-- A handle leaves its input; the entries held stay (rule R394). -/
def State.dropTin (s : State) (i : Nat) : State := { s with tinArms := s.tinArms.filter fun e => e.1 != i }

/-- A handle accepts an edge with a stamp (rules R390, R392). -/
def TinArm.accepts (a : TinArm) (rising : Bool) (stamp : Int) : Bool :=
  a.armed && (if rising then a.edge % 2 == 1 else decide (2 ≤ a.edge)) && (a.count == 0 || decide (a.used < a.count)) &&
  (!a.window || decide ((a.openPs10 : Int) ≤ stamp ∧ stamp < a.closePs10))

/-- The disciplining logic reads a copy of a rising edge that a handle accepts on its input (rule R370, SRC 2): the stamp
less the nearest whole second, with a standard deviation of 1 ns. -/
def State.tinCopy (s : State) (n : Nat) (rising : Bool) (stamp : Int) : State :=
  let d := (stamp + 50000000000) % 100000000000 - 50000000000
  if s.discSrc = 2 ∧ s.rf 0x081 0x040 5 4 = n ∧ rising = true ∧ d ≠ -50000000000 then
    s.discMeas ((d : Rat) / 100000000000) (1 / 10 ^ 18)
  else s

/-- A stamped edge enters the FIFO, or is dropped from a full one (rule R391). -/
def State.tinStamp (s : State) (n : Nat) (rising : Bool) (stamp : Int) : State :=
  let acc := (s.armsOf n).filter fun a => a.2.accepts rising stamp
  let hmask := acc.foldl (fun m a => m + 2 ^ a.2.slot) 0
  if acc.isEmpty then s
  else
    let s0 := s.tinCopy n rising stamp
    let s1 : State := { s0 with tinArms := s.tinArms.map fun (a : Nat × TinArm) => if acc.any fun b => b.1 == a.1 then (a.1, { a.2 with used := a.2.used + 1 }) else a }
    let t := s.tin n
    if t.fifo.length ≥ 64 then
      ((s1.setTin n { t with ovfPend := true }).count 0x083 (0x058 + 4 * n)).raise 0x083 (20 + n)
    else
      (s1.setTin n { t with fifo := t.fifo ++ [⟨stamp, s.tb.epoch % 65536, rising, hmask, s.tb.align, t.ovfPend⟩],
                            ovfPend := false }).raise 0x083 (16 + n)

/-- TIN_EDGE (R389): an edge arrives on an input, `sub` 10 ps steps after a tick. During a quench, capture continues
while HEALTHY is 1 (rule R574). -/
def execTinEdge (input : Fin 4) (rising : Bool) (dt sub : Nat) (s : State) : Out :=
  let s1 := s.after dt
  let n := input.val
  let sel := (s1.armsOf n).any fun a => if rising then a.2.edge % 2 == 1 else decide (2 ≤ a.2.edge)
  let el := s1.el + sub % 80 * unitsPerNs / 100
  .next <|
    if s1.inReset || !sel || s1.quiet then s1
    else
      let t := s1.tin n
      if (t.lastEdge.map fun l => decide (el < l + ofNs 100)).getD false then s1.count 0x083 (0x068 + 4 * n)
      else
        let stamp := ⌊((s1.tb.now * 100 : Nat) : Rat) / (unitsPerNs : Nat) + (sub % 80 : Nat)
          - (s1.delayPs 0x083 (0x040 + 4 * n) : Rat) / 10 + 1 / 2⌋
        (s1.setTin n { t with lastEdge := some el }).tinStamp n rising stamp

/-- Move the oldest entry of an input into its view registers (rule R391). -/
def State.popTin (s : State) (n : Nat) : State :=
  let t := s.tin n
  match t.fifo with
  | [] => s.setTin n { t with view := none }
  | x :: rest => s.setTin n { t with fifo := rest, view := some x }

/-- What a taken write to TIN.POP does. -/
def popTins (s : State) (v : Word) : State :=
  (List.range 4).foldl (fun s n => if v.getLsbD n then s.popTin n else s) s

/-- Level events of the TIN page: CAPTUREn while FIFO n holds an entry (rule R391). -/
def levelTin (s : State) : Word :=
  BitVec.ofNat 32 ((List.range 4).foldl (fun m n => if (s.tin n).fifo.isEmpty then m else m + 2 ^ (16 + n)) 0)

/-- Registers of the TIN page computed from the state (rule R402). -/
def viewTin (s : State) (off : Nat) : Option Word :=
  if off = 0x054 then some (BitVec.ofNat 32 ((List.range 4).foldl (fun m n => m + (s.tin n).fifo.length * 2 ^ (7 * n)) 0))
  else if 0x080 ≤ off ∧ off < 0x100 then
    let n := (off - 0x080) / 0x20
    match (s.tin n).view with
    | none => some 0
    | some x =>
      let sec := (x.stamp / (100 * 10 ^ 9) : Int)
      let ns := (x.stamp / 100 % 10 ^ 9 : Int).toNat
      match (off - 0x080) % 0x20 with
      | 0x00 => some (BitVec.ofInt 32 sec)
      | 0x04 => some (BitVec.ofInt 32 (sec / 2 ^ 32))
      | 0x08 => some (BitVec.ofNat 32 ns)
      | 0x0C => some (BitVec.ofNat 32 ((roundFree (((x.stamp % 100).toNat * 65536 : Nat) / 100)).toNat % 65536 + x.epoch * 65536))
      | 0x10 => some (BitVec.ofNat 32 (1 + b2n x.rising * 2 + x.hmask % 16 * 4 + b2n x.retimed * 64 + b2n x.ovfBefore * 128))
      | _ => some 0
  else none

end Sys2Proof.Machine
end

