-- ==== Sys2Proof/Machine/Crc.lean ====
section
/-! DEFINITION. The cyclic redundancy checks that the spec names, bit by bit over bytes. -/

namespace Sys2Proof.Machine

/-- One bit of a check of w bits that shifts left. -/
def crcStep (w poly : Nat) (c : Nat) (bit : Bool) : Nat :=
  let top := c.testBit (w - 1)
  let c1 := c * 2 % 2 ^ w
  if top != bit then Nat.xor c1 poly else c1

/-- A check that takes bytes most significant bit first. -/
def crcMsb (w poly init : Nat) (l : List Byte) : Nat :=
  l.foldl (fun c b => (List.range 8).foldl (fun c i => crcStep w poly c (b.getLsbD (7 - i))) c) init

/-- CRC-8 of the front-end link and the SPI target (rules R187, R503). -/
def crc8 (l : List Byte) : Nat := crcMsb 8 0x07 0 l

/-- CRC-24Q of RTCM 3 messages (rule R337). -/
def crc24 (l : List Byte) : Nat := crcMsb 24 0x864CFB 0 l

/-- CRC-32 with the IEEE 802.3 polynomial: reflected, preset to ones and inverted. -/
def crc32 (l : List Byte) : Nat :=
  let c := l.foldl (fun c b => (List.range 8).foldl (fun c i =>
    if c.testBit 0 != b.getLsbD i then Nat.xor (c / 2) 0xEDB88320 else c / 2) c) 0xFFFFFFFF
  Nat.xor c 0xFFFFFFFF

end Sys2Proof.Machine
end

