-- ==== Sys2Proof/Machine/Complex.lean ====
section
/-! DEFINITION. Complex numbers, decibels and the transforms that the signal chapters (6 to 8) compute with. Sums and
products are exact; only a carrier table, a logarithm or an arctangent is a constant with no body (log entry 79). -/

namespace Sys2Proof.Machine

def Cx.add (a b : Cx) : Cx := ⟨a.re + b.re, a.im + b.im⟩
def Cx.sub (a b : Cx) : Cx := ⟨a.re - b.re, a.im - b.im⟩
def Cx.mul (a b : Cx) : Cx := ⟨a.re * b.re - a.im * b.im, a.re * b.im + a.im * b.re⟩
def Cx.conj (a : Cx) : Cx := ⟨a.re, -a.im⟩
def Cx.scale (k : Rat) (a : Cx) : Cx := ⟨k * a.re, k * a.im⟩

/-- |a|². -/
def Cx.norm2 (a : Cx) : Rat := a.re * a.re + a.im * a.im

/-- The quotient of two complex numbers; 0 by 0. -/
def Cx.div (a b : Cx) : Cx := (a.mul b.conj).scale (1 / b.norm2)

/-- |a|, to 2^−32 (log entry 11). -/
def Cx.abs (a : Cx) : Rat := (sqrtScaled a.norm2 (2 ^ 32) : Nat) / (2 ^ 32 : Nat)

/-- a / |a|; 0 for 0. -/
def Cx.unit (a : Cx) : Cx := if a.abs = 0 then {} else a.scale (1 / a.abs)

/-- A pair of integers as a complex number. -/
def cxOf (x : Int × Int) : Cx := ⟨x.1, x.2⟩

/-- Two lists of sums, entry by entry; the longer one's rest is kept. -/
def addSums : List Cx → List Cx → List Cx
  | [], l => l
  | l, [] => l
  | a :: l, b :: m => a.add b :: addSums l m

/-- e^{jφ} of a phase in 2^−32 cycle, by the block's carrier table. -/
def cis (ph : BitVec 32) : Cx := ⟨(Config.carrier ph).1, (Config.carrier ph).2⟩

/-- e^{−jφ}: what removes a carrier. -/
def wipe (ph : BitVec 32) : Cx := (cis ph).conj

/-- A phase in cycles as 2^−32 of a cycle, whole cycles dropped. -/
def phaseOf (cycles : Rat) : BitVec 32 := BitVec.ofInt 32 ⌊cycles * (2 ^ 32 : Nat)⌋

/-- 10 to a power: exact where the exponent is whole. -/
def pow10 (x : Rat) : Rat :=
  if x.den = 1 then (if 0 ≤ x.num then (10 : Rat) ^ x.num.toNat else 1 / (10 : Rat) ^ (-x.num).toNat) else Config.pow10 x

/-- p exceeds q by more than h half decibels: 10·log10(p/q) > h/2. -/
def dbOver (p q : Rat) (h : Nat) : Bool := decide (p ^ 20 > (10 : Rat) ^ h * q ^ 20)

/-- A power ratio in 0.5 dB, from 0 to 255, rounded freely (log entry 11). -/
def halfDb (p q : Rat) : Nat :=
  if q ≤ 0 then 255
  else
    let h := (List.range 256).foldl (fun b k => if p ^ 20 ≥ (10 : Rat) ^ k * q ^ 20 then k else b) 0
    if p ^ 20 = (10 : Rat) ^ h * q ^ 20 ∨ p < q then h else min 255 (h + b2n (Config.roundUp h 20))

/-- Insert a number into a rising list. -/
def insRat (x : Rat) : List Rat → List Rat
  | [] => [x]
  | y :: l => if x ≤ y then x :: y :: l else y :: insRat x l

/-- The median of some numbers; of an even number the mean of the two in the middle. -/
def medianRat (l : List Rat) : Rat :=
  let o := l.foldr insRat []
  let n := o.length
  if n % 2 = 1 then o.getD (n / 2) 0 else (o.getD (n / 2 - 1) 0 + o.getD (n / 2) 0) / 2

/-- Bin k of the transform of some samples of a power-of-two number (their index counts from the first). -/
def dftBin (xs : List (Int × Int)) (k : Nat) : Cx :=
  (xs.foldl (fun (a : Cx × Nat) x =>
    (a.1.add ((cxOf x).mul (wipe (BitVec.ofNat 32 (a.2 * k % xs.length * (2 ^ 32 / xs.length))))), a.2 + 1)) ({}, 0)).1

/-- Solve A·z = b by elimination without exchange of rows, as A is positive definite: `m` holds the rows of A with b behind
them; the answer is z. -/
def solveRows (fuel : Nat) (m : List (List Cx)) : List Cx :=
  match fuel, m with
  | fuel + 1, row :: rest =>
    let p := row.headD ⟨1, 0⟩
    let low := rest.map fun r =>
      let k := (r.headD {}).div p
      (r.zip row).map (fun x => x.1.sub (k.mul x.2)) |>.drop 1
    let z := solveRows fuel low
    let tail := row.drop 1
    let s := (tail.zip z).foldl (fun (a : Cx) (x : Cx × Cx) => a.add (x.1.mul x.2)) {}
    ((tail.getLastD {}).sub s).div p :: z
  | _, _ => []

end Sys2Proof.Machine
end

