-- ==== Sys2Proof/Machine/Streams.lean ====
section
/-! DEFINITION. Streams: how the lane pages map slots to the physical streams 0 to 31 (rules R152 to R158), the
combined streams 32 to 39 of combiner groups (rule R230), and which live objects use a stream. -/

namespace Sys2Proof.Machine

/-! ## Lane configurations: FRAME, SLOT_MASK, SLOT_MAP0 to SLOT_MAP3 and DESKEW as seven words -/

/-- FRAME.VER, FMT, ODD and the slots N of a configuration. -/
def cfgVer (c : List Word) : Nat := fld (c.getD 0 0) 0 0
def cfgFmt (c : List Word) : Nat := fld (c.getD 0 0) 2 1
def cfgOdd (c : List Word) : Bool := (c.getD 0 0).getLsbD 3
def cfgN (c : List Word) : Nat := if cfgVer c = 0 then 16 else fld (c.getD 0 0) 7 4 + 1

/-- b: bit times of a slot (rule R152). -/
def fmtBits (f : Nat) : Nat := if f = 0 then 2 else if f = 1 then 4 else 8

/-- The frame length L in bit times (rules R153, R154). -/
def cfgL (c : List Word) : Nat := (if cfgVer c = 0 then 0 else 4) + cfgN c * fmtBits (cfgFmt c)

/-- Slot, stream and band of every enabled slot, in slot order (rule R157). -/
def cfgSlots (c : List Word) : List (Nat × Nat × Nat) :=
  (List.range (cfgN c)).filterMap fun t =>
    if (c.getD 1 0).getLsbD t then
      let m := fld (c.getD (2 + t / 4) 0) (8 * (t % 4) + 7) (8 * (t % 4))
      some (t, m % 32, m / 32)
    else none

/-- The streams of a configuration. -/
def cfgStreams (c : List Word) : List Nat := ((cfgSlots c).map fun x => x.2.1).dedup

/-- Slots that a stream has in a frame (rule R158). -/
def cfgK (c : List Word) (st : Nat) : Nat := ((cfgSlots c).filter fun x => x.2.1 = st).length

/-- The applied configuration of lane n's page. -/
def State.laneCfg (s : State) (n : Nat) : List Word :=
  [s.reg (0x010 + n) 0x040, s.reg (0x010 + n) 0x048, s.reg (0x010 + n) 0x04C, s.reg (0x010 + n) 0x050,
   s.reg (0x010 + n) 0x054, s.reg (0x010 + n) 0x058, s.reg (0x010 + n) 0x060]

/-- A lane. -/
def State.lane (s : State) (n : Nat) : Lane := Tab.get (fun _ => {}) s.lanes n

/-- Write a lane. -/
def State.setLane (s : State) (n : Nat) (x : Lane) : State := { s with lanes := Tab.set (fun _ => {}) s.lanes n x }

/-- The lane and band that the applied pages give a physical stream. -/
def State.streamAt (s : State) (st : Nat) : Option (Nat × Nat) :=
  (List.range 8).findSome? fun n => ((cfgSlots (s.laneCfg n)).find? fun x => x.2.1 == st).map fun x => (n, x.2.2)

/-- The nominal sample rate of a physical stream in Hz (rules R102, R158), 0 where it has none. -/
def State.physRate (s : State) (st : Nat) : Rat :=
  match s.streamAt st with
  | none => 0
  | some (n, _) =>
    let c := (s.lane n).bookCfg
    (cfgK c st * 2 * (s.lane n).lastNom : Nat) / (cfgL c : Nat)

/-! ## Combiner groups -/

/-- A combiner group by number. -/
def State.group (s : State) (g : Nat) : Group := Tab.get (fun _ => {}) s.groups g

/-- Write a group. -/
def State.setGroup (s : State) (g : Nat) (x : Group) : State := { s with groups := Tab.set (fun _ => {}) s.groups g x }

/-- The live groups (their entries exist from step 2 on) with their numbers. -/
def State.liveGroups (s : State) : List (Nat × Group) := s.groups.filter fun e => e.2.n != 0

/-- The live group whose output is a combined stream. -/
def State.groupOut (s : State) (st : Nat) : Option (Nat × Group) := s.liveGroups.find? fun e => e.2.out == st

/-- The nominal sample rate of a stream in Hz: a combined stream takes that of its elements (rule R102). -/
def State.streamRate (s : State) (st : Nat) : Rat :=
  if st < 32 then s.physRate st
  else match s.groupOut st with
    | none => 0
    | some (_, g) => s.physRate (g.streams.getD g.ref 0)

/-- Correlation grains of a channel: taps at a sample rate in Hz (rule R102). -/
def grainsOf (taps : Nat) (rate : Rat) : Nat := ⌈(taps : Rat) * rate / 1000 / 1024⌉.toNat

/-- The owner of a channel's bookings: its entry, or for an ANNEAL handle the Malith (rule R112). -/
def State.chanOwner (s : State) (i : Nat) : Owner := if (s.ent i).cls = 15 then .sys (1000 + i) else .entry i

/-- A channel counts in a billet: it runs there or migrates there (rule R117). -/
def Chan.inBillet (c : Chan) (b : Nat) : Bool := c.billet == b || (c.mig.map fun m => m.1 == b).getD false

/-- Taps a channel books, its element prompt taps among them (rule R102). -/
def Chan.tapCount (c : Chan) : Nat := c.prm.taps + c.mem

/-- The lane a stream's stamps come from: its own, or the acting reference's (rule R235). -/
def State.streamLane (s : State) (st : Nat) : Option Nat :=
  if st < 32 then (s.streamAt st).map (·.1)
  else (s.groupOut st).bind fun e => (s.streamAt (e.2.streams.getD e.2.act 0)).map (·.1)

/-- A physical stream mapped to an enabled slot of a QUALIFIED lane, or a combined stream with a live group that is
not ABSENT (rules R249, R278); a group whose entry is DYING is no live group. -/
def State.streamQual (s : State) (st : Nat) : Bool :=
  if st < 32 then ((s.streamAt st).map fun x => (s.lane x.1).st == .qualified).getD false
  else ((s.groupOut st).map fun e => e.2.st != .absent && e.2.st != .free && (s.ent e.2.entry).st == .live).getD false

/-- A lane delivers nothing to its streams: OFF, ABSENT, fill ended, or no real frame yet (rules R164, R169, R170). -/
def Lane.silent (x : Lane) : Bool :=
  x.st == .off || x.st == .absent || x.ended || (x.st != .qualified && !x.fillRun)

/-- A physical stream is absent: no lane carries it, its lane is silent, or its conditioning is disabled (log entry 82). -/
def State.physAbsent (s : State) (st : Nat) : Bool :=
  ((s.streamAt st).map fun x => (s.lane x.1).silent).getD true || !s.enabled (0x030 + st / 2)

/-- A stream is absent. -/
def State.streamAbsent (s : State) (st : Nat) : Bool :=
  if st < 32 then s.physAbsent st
  else ((s.groupOut st).map fun e => e.2.st == .absent || s.physAbsent (e.2.streams.getD e.2.act 0)).getD true

/-! ## What uses a stream -/

/-- The stream argument of a search job. -/
def Job.stream (j : Job) : Nat := fld (j.words.getD 3 0) 21 16

/-- An object's entry is LIVE. -/
def State.isLive (s : State) (i : Nat) : Bool := (s.ent i).st == .live

/-- Live channels, search jobs and combiner groups on a stream (rules R72, R159, R181, R240, R241). -/
def State.usersOf (s : State) (st : Nat) : Nat :=
  (s.chans.filter fun e => e.2.prm.stream = st && s.isLive e.1).length
  + (s.jobs.filter fun e => e.2.stream = st && s.isLive e.1).length
  + (s.liveGroups.filter fun e => e.2.streams.contains st && s.isLive e.2.entry).length

/-- The channels on a stream with their entry indices, those whose element taps run on it among them. -/
def State.chansOn (s : State) (st : Nat) : List (Nat × Chan) := s.chans.filter fun e => e.2.prm.stream = st

/-- A channel. -/
def State.chan (s : State) (i : Nat) : Chan := Tab.get (fun _ => {}) s.chans i

/-- Write a channel. -/
def State.setChan (s : State) (i : Nat) (x : Chan) : State := { s with chans := Tab.ins s.chans i x }

/-- Change a channel that exists. -/
def State.modChan (s : State) (i : Nat) (f : Chan → Chan) : State :=
  { s with chans := s.chans.map fun e => if e.1 = i then (e.1, f e.2) else e }

/-- A search job. -/
def State.job (s : State) (i : Nat) : Job := Tab.get (fun _ => {}) s.jobs i

/-- Write a search job. -/
def State.setJob (s : State) (i : Nat) (x : Job) : State := { s with jobs := Tab.ins s.jobs i x }

end Sys2Proof.Machine
end

