-- ==== Sys2Proof/Machine/Signals.lean ====
section
/-! DEFINITION. The signal catalogue (rules R273 to R276) and whether a signal fits a stream. -/

namespace Sys2Proof.Machine

/-- A signal: carrier (for FDMA that of channel 0 with the channel spacing), main-lobe width and chip rate in Hz, code
length, primary period in ms, whether it has a pilot, which component is searched, symbol rate, and its PRNs. -/
structure Sig where
  carrier : Nat
  step : Nat := 0
  width : Nat
  chips : Nat
  len : Nat
  tp : Nat
  pilot : Bool
  search : Bool := true
  searchPilot : Bool
  syms : Nat
  prnLo : Nat
  prnHi : Nat
  deriving DecidableEq, Repr

/-- The catalogue of rule R273. -/
def sigOf (code : Nat) : Option Sig :=
  match code with
  | 0x01 => some ⟨1575420000, 0, 2046000, 1023000, 1023, 1, false, true, false, 50, 1, 32⟩
  | 0x02 => some ⟨1575420000, 0, 4092000, 1023000, 10230, 10, true, true, true, 100, 1, 32⟩
  | 0x03 => some ⟨1227600000, 0, 2046000, 1023000, 10230, 20, true, true, false, 50, 1, 32⟩
  | 0x04 => some ⟨1176450000, 0, 20460000, 10230000, 10230, 1, true, true, true, 100, 1, 32⟩
  | 0x10 => some ⟨1602000000, 562500, 1022000, 511000, 511, 1, false, true, false, 100, 0, 13⟩
  | 0x11 => some ⟨1246000000, 437500, 1022000, 511000, 511, 1, false, true, false, 100, 0, 13⟩
  | 0x12 => some ⟨1202025000, 0, 20460000, 10230000, 10230, 1, true, true, true, 200, 1, 24⟩
  | 0x20 => some ⟨1575420000, 0, 4092000, 1023000, 4092, 4, true, true, true, 250, 1, 36⟩
  | 0x21 => some ⟨1176450000, 0, 20460000, 10230000, 10230, 1, true, true, true, 50, 1, 36⟩
  | 0x22 => some ⟨1207140000, 0, 20460000, 10230000, 10230, 1, true, true, true, 250, 1, 36⟩
  | 0x23 => some ⟨1191795000, 0, 51150000, 10230000, 10230, 1, true, false, true, 250, 1, 36⟩
  | 0x24 => some ⟨1278750000, 0, 10230000, 5115000, 5115, 1, true, true, true, 1000, 1, 36⟩
  | 0x30 => some ⟨1561098000, 0, 4092000, 2046000, 2046, 1, false, true, false, 50, 1, 63⟩
  | 0x31 => some ⟨1575420000, 0, 4092000, 1023000, 10230, 10, true, true, true, 100, 1, 63⟩
  | 0x32 => some ⟨1176450000, 0, 20460000, 10230000, 10230, 1, true, true, true, 200, 1, 63⟩
  | 0x33 => some ⟨1207140000, 0, 20460000, 10230000, 10230, 1, false, true, false, 1000, 1, 63⟩
  | 0x34 => some ⟨1268520000, 0, 20460000, 10230000, 10230, 1, false, true, false, 50, 1, 63⟩
  | 0x40 => some ⟨1575420000, 0, 2046000, 1023000, 1023, 1, false, true, false, 50, 193, 202⟩
  | 0x41 => some ⟨1575420000, 0, 4092000, 1023000, 10230, 10, true, true, true, 100, 193, 202⟩
  | 0x42 => some ⟨1227600000, 0, 2046000, 1023000, 10230, 20, true, true, false, 50, 193, 202⟩
  | 0x43 => some ⟨1176450000, 0, 20460000, 10230000, 10230, 1, true, true, true, 100, 193, 202⟩
  | 0x44 => some ⟨1278750000, 0, 10230000, 2557500, 10230, 4, false, true, false, 250, 193, 202⟩
  | 0x50 => some ⟨1176450000, 0, 2046000, 1023000, 1023, 1, false, true, false, 50, 1, 14⟩
  | 0x60 => some ⟨1575420000, 0, 2046000, 1023000, 1023, 1, false, true, false, 500, 120, 158⟩
  | 0x61 => some ⟨1176450000, 0, 20460000, 10230000, 10230, 1, true, true, true, 500, 120, 158⟩
  | _ => none

/-- A signal where the code is none of the catalogue's. -/
def sigNone : Sig := ⟨0, 0, 0, 0, 0, 1, false, false, false, 50, 1, 0⟩

/-- The symbol rates of a signal (rule R273): E5a-I and E5b-I within AltBOC, else one. -/
def symRates (code : Nat) : List Nat := if code = 0x23 then [50, 250] else [((sigOf code).getD sigNone).syms]

/-- Length in primary periods of the secondary or overlay code, or meander, of a component (rule R273: 0 data, 1 pilot); 1 where
it has none. L2C's CL, which runs over 75 periods of CM, is no secondary code. -/
def secLen (code prn comp : Nat) : Nat :=
  match code, comp with
  | 0x02, 1 => 1800 | 0x41, 1 => 1800 | 0x31, 1 => 1800
  | 0x04, 0 => 10 | 0x43, 0 => 10 | 0x04, 1 => 20 | 0x43, 1 => 20
  | 0x10, 0 => 20 | 0x11, 0 => 20
  | 0x12, 0 => 5 | 0x12, 1 => 10
  | 0x20, 1 => 25
  | 0x21, 0 => 20 | 0x21, 1 => 100
  | 0x22, 0 => 4 | 0x22, 1 => 100
  | 0x23, 1 => 100
  | 0x24, 1 => 100
  | 0x30, 0 => if 6 ≤ prn ∧ prn ≤ 58 then 20 else 1
  | 0x34, 0 => if 6 ≤ prn ∧ prn ≤ 58 then 20 else 1
  | 0x32, 0 => 5 | 0x32, 1 => 100
  | 0x61, 1 => 20
  | _, _ => 1

/-- ±1 for a chip. -/
def pm (b : Bool) : Rat := if b then -1 else 1

/-- A chip of a component's secondary code; the GLONASS meander inverts every 10 ms, and of AltBOC's two pilots it is half the sum
(log entry 84). -/
def secVal (code prn comp k : Nat) : Rat :=
  if code = 0x10 ∨ code = 0x11 then pm (decide (10 ≤ k % 20))
  else if code = 0x23 then (pm (Config.secChip 0x21 prn comp (k % 100)) + pm (Config.secChip 0x22 prn comp (k % 100))) / 2
  else if secLen code prn comp = 1 then 1 else pm (Config.secChip code prn comp (k % secLen code prn comp))

/-- A PRN is valid for a signal. -/
def prnOk (code prn : Nat) : Bool :=
  ((sigOf code).map fun g => decide (g.prnLo ≤ prn ∧ prn ≤ g.prnHi)).getD false

/-- The carrier of a signal and PRN in Hz: for FDMA that of the frequency channel k = PRN − 7. -/
def Sig.fc (g : Sig) (prn : Nat) : Int := (g.carrier : Int) + g.step * ((prn : Int) - 7)

/-- The carrier where the signal is not FDMA is the same for every PRN. -/
def Sig.freq (g : Sig) (prn : Nat) : Int := if g.step = 0 then g.carrier else g.fc prn

/-- A front-end. -/
def State.fec (s : State) (n : Nat) : Fec := Tab.get (fun _ => {}) s.fecs n

/-- Write a front-end. -/
def State.setFec (s : State) (n : Nat) (x : Fec) : State := { s with fecs := Tab.set (fun _ => {}) s.fecs n x }

/-- A little-endian number in a list of bytes. -/
def bytesNum (l : List Byte) (off n : Nat) : Nat :=
  (List.range n).foldl (fun a i => a + (l.getD (off + i) 0).toNat * 2 ^ (8 * i)) 0

/-- LO_HZ + LO_FRAC of a band in the applied tuning entry (rule R197). -/
def Fec.lo (x : Fec) (band : Nat) : Option Rat :=
  if x.haveTune then some ((bytesNum x.tune (8 + 16 * band) 4 : Nat) + ((bytesNum x.tune (12 + 16 * band) 2 : Nat) : Rat) / 65536)
  else none

/-- INVERT_Q of a band in the applied tuning entry (rule R197). -/
def Fec.invert (x : Fec) (band : Nat) : Bool := x.haveTune && (x.tune.getD (0x0F + 16 * band) 0).getLsbD 1

/-- The physical stream whose front-end band a stream's carrier follows: its own, or the designated reference's (rule R276). -/
def State.bandOf (s : State) (st : Nat) : Option (Nat × Nat) :=
  (if st < 32 then some st else (s.groupOut st).map fun e => e.2.streams.getD e.2.ref 0).bind s.streamAt

/-- f_LO of a stream (rule R276). -/
def State.streamLo (s : State) (st : Nat) : Option Rat :=
  (s.bandOf st).bind fun x => (s.fec x.1).lo x.2

/-- A signal fits a stream (rule R276); a stream without f_LO or nominal rate passes. -/
def State.fits (s : State) (code prn st : Nat) : Bool :=
  match sigOf code, s.streamLo st with
  | some g, some lo =>
    let r := s.streamRate st
    let nom := ((s.streamLane st).map fun n => (s.reg (0x010 + n) 0x044).toNat).getD 0
    r == 0 || nom == 0 ||
      (decide (lo - 2 / 5 * r ≤ g.freq prn - (g.width : Rat) / 2) && decide (g.freq prn + (g.width : Rat) / 2 ≤ lo + 2 / 5 * r))
  | _, _ => true

end Sys2Proof.Machine
end

