-- ==== Sys2Proof/Machine/Cond.lean ====
section
/-! DEFINITION. The conditioning chain of a physical stream (rules R216 to R229): what each sample does to the chain's
sums, the end-of-heat updates, the notches' assignment and release, and the COND pages. -/

namespace Sys2Proof.Machine

/-! ## Registers of a stream (rule R241) -/

/-- The COND page of a stream. -/
def condPage (st : Nat) : Nat := 0x030 + st / 2

/-- Offset of register o of a stream on its page. -/
def condOff (st o : Nat) : Nat := 0x040 + 0x80 * (st % 2) + o

/-- A COND register of a stream. -/
def State.cr (s : State) (st o : Nat) : Word := s.reg (condPage st) (condOff st o)

/-- Store a COND register of a stream. -/
def State.setCr (s : State) (st o : Nat) (v : Word) : State := s.setReg (condPage st) (condOff st o) v

/-- Raise interrupt k of a stream: 0 NOTCH, 1 BLANK_HI, 2 AGC_LIMIT. -/
def State.raiseCr (s : State) (st k : Nat) : State := s.raise (condPage st) (16 + 3 * (st % 2) + k)

/-- A chain. -/
def State.chain (s : State) (st : Nat) : Chain := Tab.get (fun _ => {}) s.chains st

/-- Write a chain. -/
def State.setChain (s : State) (st : Nat) (c : Chain) : State := { s with chains := Tab.set (fun _ => {}) s.chains st c }

/-- The groups a stream is a current member of. -/
def State.memberOf (s : State) (st : Nat) : Option (Nat × Group) :=
  s.liveGroups.find? fun e => e.2.st != .free && e.2.members.any fun k => e.2.streams.getD k 0xFF == st

/-! ## A sample (rules R152, R217 to R223) -/

/-- The value of a code (rule R152). -/
def codeVal (fmt : Nat) (odd : Bool) (c : Nat) : Int :=
  if fmt = 0 then 2 * (c % 4 : Nat) - 3
  else
    let v := if fmt = 1 then signed 4 (c % 16) else signed 8 (c % 256)
    if odd then 2 * v + 1 else v

/-- The multiplier of the expansion (rule R217). -/
def expMul (fmt : Nat) (odd : Bool) : Int :=
  if fmt = 0 then 4096 else if fmt = 1 then (if odd then 2048 else 4096) else if odd then 128 else 256

/-- The largest magnitude of a format (rule R221). -/
def maxMag (fmt : Nat) (odd : Bool) : Nat :=
  if fmt = 0 then 3 else if fmt = 1 then (if odd then 15 else 8) else if odd then 255 else 128

/-- The histogram bin of a code (rule R221). -/
def histBin (fmt c : Nat) : Nat := if fmt = 0 then c % 4 else if fmt = 1 then c % 16 else c / 16 % 16

/-- Count one more in a histogram bin. -/
def binUp (t : Tab Nat) (b : Nat) : Tab Nat := Tab.set (fun _ => 0) t b (Tab.get (fun _ => 0) t b + 1)

/-- THR is exceeded by a magnitude (rule R223). -/
def Chain.exceeds (c : Chain) (m : Rat) : Bool :=
  match c.thr with
  | none => false
  | some t => decide (m * m * m * m > t)

/-- A value after the digital gain, rounded and limited to ±127 (rule R219). -/
def Chain.out (c : Chain) (x : Int) : Int := clampInt (-127) 127 (roundFree (x * c.dgain / 256))

/-- Some notch of the chain is active. -/
def Chain.notchOn (c : Chain) : Bool := c.notches.any fun e => e.2.active

/-- A number limited to the 16 bits of a chain value (rule R217). -/
def sat16 (x : Rat) : Int := clampInt (-32768) 32767 (roundFree x)

/-- ONE SAMPLE THROUGH A NOTCH (rule R227): a zero on the unit circle at the frequency, a pole at radius 1 − 2^−(4+RADIUS);
the frequency of a notch that is not slaved moves down the gradient of |y|², normalised by the power of what the section
subtracts (log entry 81). -/
def Notch.step (n : Notch) (radius mu : Nat) (x : Int × Int) : (Int × Int) × Notch :=
  let e := cis n.w
  let r : Rat := 1 - 1 / (2 ^ (4 + (if n.slaved then n.radius else radius)) : Nat)
  let d := (e.mul (cxOf n.x1)).sub ((e.mul (cxOf n.y1)).scale r)
  let y := (cxOf x).sub d
  let g : Rat := if d.norm2 = 0 then 0 else 2 * (y.re * d.im - y.im * d.re) / d.norm2
  let yo : Int × Int := (sat16 y.re, sat16 y.im)
  (yo, { n with x1 := x, y1 := yo, inPow := n.inPow + (cxOf x).norm2, outPow := n.outPow + (cxOf yo).norm2,
                w := if n.slaved then n.w else n.w - BitVec.ofInt 32 (roundFree (g * (2 ^ 32 : Nat) / (2 ^ (8 + mu) : Nat))) })

/-- Stage 4: the active notches in order (rules R216, R227). -/
def Chain.notchAll (c : Chain) (cfg : Word) (x : Int × Int) : (Int × Int) × Chain :=
  c.notches.foldl (fun a e =>
    if e.2.active then
      let r := e.2.step (fld cfg 27 24) (fld cfg 15 12) a.1
      (r.1, { a.2 with notches := Tab.set (fun _ => {}) a.2.notches e.1 r.2 })
    else a) (x, c)

/-- Stages 4 and 5 on a chain value, which every sample passes (rules R216, R219). -/
def Chain.finish (c : Chain) (ctl ncfg : Word) (x : Int × Int) (fill blank : Bool) : Smp × Chain :=
  let r := if ctl.getLsbD 4 then c.notchAll ncfg x else (x, c)
  ({ i := r.2.out r.1.1, q := r.2.out r.1.2, fill := fill, blank := blank }, { r.2 with pos := r.2.pos + 1 })

/-- A sample between stages 2 and 3 enters the spectral monitor (rule R225): windows of 1,024 unblanked samples begin at every
sixteenth of the heat's nominal `n` samples, and one that is full is transformed. -/
def Chain.watch (c : Chain) (n : Nat) (x : Int × Int) : Chain :=
  if c.wins < 16 ∧ c.wins * max 1024 (n / 16) ≤ c.pos then
    let win := x :: c.win
    if win.length < 1024 then { c with win := win }
    else
      let xs := win.reverse
      { c with win := [], wins := c.wins + 1,
               spec := (List.range 1024).foldl (fun t k => Tab.set (fun _ => 0) t k (Tab.get (fun _ => 0) t k + (dftBin xs k).norm2)) c.spec }
  else c

/-- A REAL SAMPLE PASSES THE CHAIN (rules R216 to R223); `n` is the heat's nominal number of samples. -/
def Chain.sample (c : Chain) (ctl blk ncfg : Word) (n fmt : Nat) (odd : Bool) (i q : Nat) : Smp × Chain :=
  let vi := codeVal fmt odd i
  let vq := codeVal fmt odd q
  let x : Int × Int := (vi * expMul fmt odd, vq * expMul fmt odd)
  let d : Int × Int := if ctl.getLsbD 0 then (sat16 (x.1 - c.meanI), sat16 (x.2 - c.meanQ)) else x
  let m : Rat := ((d.1.natAbs + d.2.natAbs : Nat) : Rat)
  let pulse := ctl.getLsbD 3 && c.exceeds m
  let blanked := pulse || (ctl.getLsbD 3 && c.ext != 0)
  let c0 := { c with last := x, real := c.real + 1, ext := if pulse then fld blk 15 8 else c.ext - 1, inRun := blanked,
                     hstat := Nat.lor c.hstat c.stat }
  if blanked then ({ c0 with blanked := c.blanked + 1 } : Chain).finish ctl ncfg (0, 0) false true
  else
    let mm := maxMag fmt odd
    let c1 := ({ c0 with
      sumI := c.sumI + x.1, sumQ := c.sumQ + x.2, sumSq := c.sumSq + m * m,
      outer := c.outer + b2n (vi.natAbs == mm || vq.natAbs == mm),
      bins := binUp (binUp c.bins (histBin fmt i)) (16 + histBin fmt q) } : Chain).watch n d
    let r := c1.finish ctl ncfg d false false
    (r.1, { r.2 with outSq := r.2.outSq + r.1.i * r.1.i + r.1.q * r.1.q })

/-- A FILLED SAMPLE PASSES THE CHAIN (rules R164, R216, R223): it repeats the last delivered one, or 0 where there was none,
and is never blanked. -/
def Chain.fillOne (c : Chain) (ctl ncfg : Word) : Smp × Chain :=
  ({ c with filled := true, ext := c.ext - 1, inRun := false, hstat := Nat.lor c.hstat c.stat } : Chain).finish ctl ncfg c.last true false

/-- A real sample of a stream arrives with its codes: what the chain puts out, and a run of blanked samples that begins counts in
BLK_CNT. A chain whose page is disabled takes and gives nothing (log entry 82). -/
def State.realSample (s : State) (st fmt : Nat) (odd : Bool) (i q : Nat) : Option Smp × State :=
  if !s.enabled (condPage st) then (none, s)
  else
    let c := s.chain st
    let r := c.sample (s.cr st 0x00) (s.cr st 0x08) (s.cr st 0x0C) (⌊s.physRate st / 1000⌋.toNat) fmt odd i q
    let s1 := s.setChain st r.2
    (some r.1, if r.2.inRun && !c.inRun then s1.count (condPage st) (condOff st 0x40) else s1)

/-- A filled sample of a stream. -/
def State.fillSample (s : State) (st : Nat) : Option Smp × State :=
  if !s.enabled (condPage st) then (none, s)
  else
    let r := (s.chain st).fillOne (s.cr st 0x00) (s.cr st 0x0C)
    (some r.1, s.setChain st r.2)

/-- The DC mean restarts at a tuning entry (rule R218): its DC_I and DC_Q times 2^8, or 0. -/
def State.restartDc (s : State) (st : Nat) (dc : Option (Int × Int)) : State :=
  s.setChain st { s.chain st with meanI := (dc.map (·.1)).getD 0 * 256, meanQ := (dc.map (·.2)).getD 0 * 256 }

/-! ## The end of a heat (rules R218 to R224) -/

/-- Step a mean towards a heat's mean. -/
def stepMean (mean heat : Rat) (tau : Nat) : Rat := mean + (heat - mean) / (2 ^ tau : Nat)

/-- The blanking threshold of the next heat (rule R224), as its fourth power; the excess keeps and raises it. -/
def Chain.nextThr (c : Chain) (k : Nat) (excess : Bool) : Chain :=
  let used := c.real - c.blanked
  let up := if excess then min 16 (c.raise_ + 1) else c.raise_ - 1
  let base : Option Rat :=
    if used = 0 then c.thr.map (· / (2 ^ c.raise_ : Nat))
    else
      let v := c.sumSq / used
      let f : Rat := ((k : Nat) : Rat) / 16
      some (f * f * f * f * v * v)
  { c with thr := base.map (· * (2 ^ up : Nat)), raise_ := up, blankHi := excess }

/-- The digital gain of the next heat (rule R220); r is computed to 2^−16 of a code (log entry 11). -/
def Chain.nextGain (c : Chain) (tgt tau : Nat) : Rat :=
  let used := c.real - c.blanked
  let r : Rat := (sqrtScaled (c.outSq / (2 * used : Nat)) 65536 : Nat) / 65536
  if used = 0 ∨ r = 0 then c.dgain else clampRat (1 / 16) 16 (c.dgain + c.dgain * (tgt / r - 1) / (2 ^ tau : Nat))

/-- Clear the sums for a new heat. -/
def Chain.newHeat (c : Chain) : Chain :=
  { c with real := 0, blanked := 0, sumI := 0, sumQ := 0, sumSq := 0, outSq := 0, outer := 0, bins := [],
           hist := c.bins, pos := 0 }

/-- THE END OF A HEAT in the chain of a stream: levels, blanking, means and gain; the sums of the heat restart. -/
def State.endCond (s : State) (st : Nat) : State :=
  if !s.enabled (condPage st) then s
  else
  let c := s.chain st
  let ctl := s.cr st 0x00
  let agc := s.cr st 0x04
  let blk := s.cr st 0x08
  let used := c.real - c.blanked
  let frac : Rat := if c.real = 0 then 0 else (c.blanked : Rat) / c.real
  let excess := decide (frac * 1000 > fld blk 23 16)
  let c1 := c.nextThr (fld blk 7 0) excess
  let tau := fld ctl 11 8
  let c2 := if used = 0 then c1 else
    { c1 with meanI := stepMean c1.meanI (c.sumI / used) tau, meanQ := stepMean c1.meanQ (c.sumQ / used) tau }
  let c3 := if ctl.getLsbD 2 then { c2 with dgain := c.nextGain (fld agc 23 16) (fld agc 31 28) } else c2
  let s1 := s.setChain st { c3.newHeat with fePer := c.fePer + 1 }
  let s2 := if used = 0 then s1 else s1.setCr st 0x18 (BitVec.ofNat 32
    ((roundFree (((c.outer * 10000 : Nat) : Rat) / used)).toNat % 65536
      + min 255 (sqrtScaled (c.outSq / (2 * used : Nat)) 1) * 65536))
  let s3 := s2.setCr st 0x1C (BitVec.ofNat 32 ((roundFree (frac * 1000)).toNat + b2n excess * 1024))
  if excess then s3.raiseCr st 1 else s3

/-! ## Notches (rules R225 to R228) -/

/-- Notch k of a chain. -/
def Chain.notch (c : Chain) (k : Nat) : Notch := Tab.get (fun _ => {}) c.notches k

/-- Write notch k of a chain. -/
def Chain.setNotch (c : Chain) (k : Nat) (x : Notch) : Chain := { c with notches := Tab.set (fun _ => {}) c.notches k x }

/-- FREQ of a notch, in sample rate / 65,536 (rule R242). -/
def Notch.freq (n : Notch) : BitVec 16 := n.w.extractLsb' 16 16

/-- Distance of two frequencies on the circle of the sample rate, in its 2^−32; a bin is 2^22 of them. -/
def freqDist (a b : BitVec 32) : Nat := min (a - b).toNat (b - a).toNat

/-- The end of a heat in the notches (rule R227): DEPTH from the heat's powers, the heats for which it stayed below REL_DB. -/
def Chain.endNotches (c : Chain) (rel : Nat) : Chain :=
  (List.range 4).foldl (fun c k =>
    let n := c.notch k
    if n.active then
      let d := if n.inPow = 0 then n.depth else halfDb n.inPow n.outPow
      c.setNotch k { n with depth := d, low := if d < rel then n.low + 1 else 0, inPow := 0, outPow := 0 }
    else c) c

/-- Release notch k: NOTCH is raised. -/
def State.releaseNotch (s : State) (st k : Nat) : State :=
  (s.setChain st ((s.chain st).setNotch k {})).raiseCr st 0

/-- Of two active notches within one bin of each other the later-assigned is released (rule R227). -/
def State.dropTwins (s : State) (st : Nat) : State :=
  (List.range 4).foldl (fun s k =>
    let c := s.chain st
    if (c.notch k).active && (List.range 4).any (fun j => j != k && (c.notch j).active &&
        decide ((c.notch j).order < (c.notch k).order) && decide (freqDist (c.notch j).w (c.notch k).w ≤ 2 ^ 22))
    then s.releaseNotch st k else s) s

/-- Put a notch at a frequency. -/
def State.putNotch (s : State) (st k : Nat) (w : BitVec 32) : State :=
  let c := s.chain st
  (s.setChain st { c.setNotch k { active := true, w := w, order := c.notchSeq } with
    notchSeq := c.notchSeq + 1 }).raiseCr st 0

/-- A detection at a bin of power `p` over a floor `q` (rule R226): the lowest free notch, else the active one of the lowest
DEPTH where the bin exceeds that by 6 dB, else NOTCH_FULL. -/
def State.detect (s : State) (st k : Nat) (p q : Rat) : State :=
  let c := s.chain st
  let w : BitVec 32 := BitVec.ofNat 32 (k * 2 ^ 22)
  if (List.range 4).any fun j => (c.notch j).active && decide (freqDist (c.notch j).w w ≤ 2 * 2 ^ 22) then s
  else match (List.range 4).find? fun j => !(c.notch j).active with
    | some j => s.putNotch st j w
    | none =>
      let j := (List.range 4).foldl (fun b j => if (c.notch j).depth < (c.notch b).depth then j else b) 0
      if p ^ 20 ≥ (10 : Rat) ^ ((c.notch j).depth + 12) * q ^ 20 then s.putNotch st j w else s.capErr (condPage st) 0x40 0

/-- The heats in a row for which each bin has exceeded the floor by DET_DB. -/
def nextRuns (runs : Tab Nat) (hot : List Nat) : Tab Nat :=
  hot.foldl (fun t k => Tab.set (fun _ => 0) t k (Tab.get (fun _ => 0) runs k + 1)) []

/-- BW_MEAS of a stream's band in the applied tuning entry, in Hz; 0 where there is none (rule R197). -/
def State.bwMeas (s : State) (st : Nat) : Nat :=
  match s.streamAt st with
  | none => 0
  | some (n, j) => if (s.fec n).haveTune then ((s.fec n).tune.getD (0x16 + 16 * j) 0).toNat * 250000 else 0

/-- The bins of a stream that count (rule R225): those within BW_MEAS, or all where none is known (log entry 81). -/
def State.specBins (s : State) (st : Nat) : List Nat :=
  let bw := s.bwMeas st
  (List.range 1024).filter fun k =>
    bw = 0 || decide (((min k (1024 - k) : Nat) : Rat) * s.physRate st / 1024 ≤ (bw : Rat) / 2)

/-- THE SPECTRAL MONITOR AT THE END OF A HEAT (rules R225 to R227, R236): floor and peak, and detections, which for a member feed
the notches of its group's acting reference. A heat without a full window leaves all as it is. -/
def State.monitor (s : State) (st : Nat) : State :=
  let cfg := s.cr st 0x0C
  let c := s.chain st
  let c0 := { c.endNotches (fld cfg 23 16) with win := [], wins := 0, spec := [] }
  if !s.enabled (condPage st) then s
  else if c.wins = 0 then s.setChain st c0
  else
    let pow := fun (k : Nat) => (Tab.get (fun _ => 0) c.spec k : Rat)
    let bins := s.specBins st
    let floor := medianRat (bins.map pow)
    let peak := bins.foldl (fun m k => max m (pow k)) 0
    let hot := bins.filter fun k => dbOver (pow k) floor (fld cfg 7 0)
    let runs := nextRuns c.runs hot
    let full : Rat := (c.wins * (1024 * 32768) ^ 2 : Nat)
    let s1 := (s.setChain st { c0 with runs := runs }).setCr st 0x38
      (((BitVec.ofInt 16 (-Config.decibel 10 (floor / full))).setWidth 32)
        + ((BitVec.ofInt 16 (Config.decibel 10 (peak / floor))).setWidth 32) * 65536)
    let to_ := match s1.memberOf st with
      | some (_, g) => g.streams.getD g.act st
      | none => st
    let hits := hot.filter fun k => Tab.get (fun _ => 0) runs k ≥ fld cfg 11 8
    (if (s.cr st 0x00).getLsbD 4 then hits.foldl (fun s k => s.detect to_ k (pow k) floor) s1 else s1).dropTwins to_

/-- What notch j of a stream becomes beside the acting reference's notch (rule R236): its frequency and radius, SLAVED. -/
def slaveOf (src own : Notch) (radius : Nat) : Notch :=
  if src.active then { own with active := true, w := src.w, slaved := true, radius := radius, order := src.order }
  else if own.active then {} else own

/-- Notches of a stream follow those of the acting reference `r`; one assigned or released raises NOTCH (rules R228, R236). -/
def State.slaveStream (s : State) (r st : Nat) : State :=
  (List.range 4).foldl (fun s j =>
    let own := (s.chain st).notch j
    let n := slaveOf ((s.chain r).notch j) own (fld (s.cr r 0x0C) 27 24)
    let s1 := s.setChain st ((s.chain st).setNotch j n)
    if n.active != own.active then s1.raiseCr st 0 else s1) s

/-- Members of a group take the notches of the acting reference; a stream that leaves its group or becomes the acting reference
keeps the notches as its own (rule R236; log entry 83). -/
def State.slaveNotches (s : State) : State :=
  (List.range 32).foldl (fun s st =>
    let slaveTo := (s.memberOf st).bind fun e =>
      let r := e.2.streams.getD e.2.act 0
      if r = st then none else some r
    match slaveTo with
    | some r => s.slaveStream r st
    | none => (List.range 4).foldl (fun s j =>
        let n := (s.chain st).notch j
        if n.slaved then s.setChain st ((s.chain st).setNotch j { n with slaved := false, low := 0 }) else s) s) s

/-- NOTCH_RELEASE (R227): a notch whose DEPTH has stayed below REL_DB for 2^REL_HEATS_LOG2 heats is released. -/
def execNotchRelease (stream : Fin 32) (k : Fin 4) (s : State) : Out :=
  let n := (s.chain stream.val).notch k.val
  .next (if n.active && !n.slaved && decide (n.low ≥ 2 ^ fld (s.cr stream.val 0x0C) 31 28)
         then s.releaseNotch stream.val k.val else s)

/-! ## The COND pages (rules R236, R241, R242) -/

/-- Whether the gain loop of a stream is held for its group (rule R236). -/
def State.feHeld (s : State) (st : Nat) : Bool :=
  match s.memberOf st with
  | some (g, _) => s.rf 0x040 (0x040 + 0x40 * g) 1 1 == 1
  | none => false

/-- The fourth root of a rational, rounded freely. -/
def fourthRoot (x : Rat) : Nat :=
  let n := Nat.sqrt (Nat.sqrt ⌊x⌋.toNat)
  if (n * n * n * n : Nat) = x then n else if Config.roundUp ⌊x⌋ 4 then n + 1 else n

/-- CSTAT of a stream. -/
def State.cstat (s : State) (st : Nat) : Nat :=
  let c := s.chain st
  b2n c.notchOn + b2n c.blankHi * 2 + b2n c.feLimit * 4 + b2n (s.memberOf st).isSome * 8

/-- A block of a stream begins: its conditioning status is that of its first sample (rule R229). -/
def State.markStat (s : State) (st : Nat) : State := s.setChain st { s.chain st with stat := s.cstat st }

/-- The heat's conditioning status restarts (rule R229). -/
def State.clearStat (s : State) (st : Nat) : State :=
  if (s.chain st).hstat = 0 then s else s.setChain st { s.chain st with hstat := 0 }

/-- Registers of a COND page computed from the state. -/
def viewCond (s : State) (p off : Nat) : Option Word :=
  let st := 2 * (p - 0x030) + (if off ≥ 0x0C0 then 1 else 0)
  let o := (off - 0x040) % 0x80
  let c := s.chain st
  if o = 0x10 then
    some ((satInt16 c.meanI).setWidth 32 + (satInt16 c.meanQ).setWidth 32 * 65536)
  else if o = 0x14 then
    some (BitVec.ofNat 32 (c.feGain + b2n c.feLimit * 256 + b2n (s.feHeld st) * 512 + (roundFree (c.dgain * 1024)).toNat * 65536))
  else if o = 0x1C then
    some (setFld (s.reg p off) 31 16 (min 65535 ((c.thr.map fun t => fourthRoot (t / 16)).getD 0)))
  else if 0x20 ≤ o ∧ o ≤ 0x2C then
    let n := c.notch ((o - 0x20) / 4)
    some (BitVec.ofNat 32 (n.freq.toNat + n.depth % 256 * 65536 + b2n n.active * 2 ^ 24 + b2n n.slaved * 2 ^ 25))
  else if o = 0x34 then
    some (BitVec.ofNat 32 (Tab.get (fun _ => 0) c.hist (fld (s.reg p (off - 4)) 4 0) % 2 ^ 24))
  else if o = 0x3C then some (BitVec.ofNat 32 (s.cstat st))
  else none
where
  satInt16 (x : Rat) : BitVec 16 := BitVec.ofInt 16 (clampInt (-32768) 32767 (roundFree x))

/-- Live objects on the two streams of a COND page (rule R241). -/
def liveCond (s : State) (p : Nat) : Bool :=
  s.usersOf (2 * (p - 0x030)) + s.usersOf (2 * (p - 0x030) + 1) != 0

/-- A soft reset of a COND page restarts both chains. -/
def resetCond (s : State) (p : Nat) : State :=
  (s.setChain (2 * (p - 0x030)) {}).setChain (2 * (p - 0x030) + 1) {}

end Sys2Proof.Machine
end

