-- ==== Sys2Proof/Machine/Correl.lean ====
section
/-! DEFINITION. The correlators of the tracking channels (rules R274, R283 to R289, R303): replicas, taps, the carrier and code
NCOs, dumps, symbol units, and the window of the aided search. -/

namespace Sys2Proof.Machine

/-! ## Replicas (rules R273, R274, R284) -/

/-- The signal of a channel. -/
def Chan.sig (c : Chan) : Sig := (sigOf c.prm.signal).getD sigNone

/-- Chips that the code NCO runs through in a primary period; for L2C the interleaved chips of CM and CL. -/
def Sig.ncoLen (g : Sig) : Nat := max 1 (g.chips * g.tp / 1000)

/-- NCO chips to a chip of the primary code: 2 for L2C's CM. -/
def Sig.ncoScale (g : Sig) : Nat := if g.len = 0 then 1 else max 1 (g.ncoLen / g.len)

/-- L2C. -/
def isL2c (code : Nat) : Bool := code == 0x03 || code == 0x42

/-- BOC(1,1) signals (rule R274). -/
def isBoc (code : Nat) : Bool := code == 0x02 || code == 0x20 || code == 0x31 || code == 0x41

/-- THE REPLICA of component `comp` (0 data, 1 pilot) at code phase `ph` in 2^−32 chip of the NCO: `seg` counts primary periods from the
start of the secondary code (or CL), where it is known; `shift` is the code shift of an L6 symbol; `inv` that the spectrum is
inverted. The order of the interleaved chips and AltBOC's square subcarriers are log entry 84. -/
def replica (code prn comp : Nat) (seg : Option Nat) (shift : Nat) (inv : Bool) (ph : Int) : Cx :=
  let n := ((sigOf code).getD sigNone).ncoLen
  let k := (ph / 2 ^ 32 % n).toNat
  let per := ((seg.getD 0 : Nat) + ph / (n * 2 ^ 32 : Nat) : Int)
  let late := decide (ph / 2 ^ 31 % 2 = 1)
  if isL2c code then
    if comp = 0 then ⟨if k % 2 = 0 then pm (Config.chip code prn 0 (k / 2)) else 0, 0⟩
    else ⟨if k % 2 = 1 then pm (Config.chip code prn 1 ((per % 75).toNat * 10230 + k / 2)) else 0, 0⟩
  else if code = 0x44 then ⟨if late then 0 else pm (Config.chip code prn 0 ((k + shift) % 10230)), 0⟩
  else if code = 0x23 then
    let q := (6 * ph / 2 ^ 32 % 4).toNat
    let sc : Cx := ⟨if q = 0 ∨ q = 3 then 1 else -1, if q ≤ 1 then 1 else -1⟩
    let wiped := fun (part : Nat) =>
      pm (Config.chip part prn comp k) * (if seg.isSome ∧ comp = 1 then pm (Config.secChip part prn 1 (per % 100).toNat) else 1)
    let lo := if inv then sc else sc.conj
    (lo.scale (wiped 0x21)).add (lo.conj.scale (wiped 0x22))
  else ⟨pm (Config.chip code prn comp k) * (if isBoc code && late then -1 else 1), 0⟩

/-- Offset of tap i from the prompt in 2^−32 chip (rule R284): tap 2i − 1 at −i × S and tap 2i at +i × S. -/
def tapOff (spc i : Nat) : Int :=
  let d : Int := ((i + 1) / 2 * (spc + 1) * 2 ^ 26 : Nat)
  if i % 2 = 1 then -d else d

/-! ## Tuning and the NCOs (rule R283) -/

/-- What a channel's carrier is referred to: f_c, f_LO, and whether the band inverts the spectrum. -/
structure Tune where
  fc : Rat
  lo : Rat
  neg : Bool
  deriving DecidableEq, Repr

/-- The tuning of a channel's stream. -/
def State.tuneOf (s : State) (c : Chan) : Tune :=
  { fc := c.sig.freq c.prm.prn, lo := (s.streamLo c.prm.stream).getD 0,
    neg := ((s.bandOf c.prm.stream).map fun x => (s.fec x.1).invert x.2).getD false }

/-- ±1 as the spectrum is inverted or not. -/
def Tune.sg (t : Tune) : Rat := if t.neg then -1 else 1

/-- Carrier frequency in 2^−16 Hz and code rate in 2^−24 chip/s for a Doppler in Hz and a code-loop correction in chip/s. -/
def Chan.ncoOf (c : Chan) (t : Tune) (fd corr : Rat) : Int × Int :=
  (roundFree (t.sg * (t.fc + fd - t.lo) * 65536), roundFree (((c.sig.chips : Rat) * (1 + fd / t.fc) + corr) * (2 ^ 24 : Nat)))

/-- Set the NCOs' rates. -/
def Chan.setNco (c : Chan) (x : Int × Int) : Chan := { c with cfreq := x.1, krate := x.2 }

/-- Carrier cycles in 2^−32 that pass in a span in ps. -/
def Chan.cInc (c : Chan) (ps : Rat) : Int := roundFree (((c.cfreq * 65536 : Int) : Rat) * ps / (10 ^ 12 : Nat))

/-- Code chips in 2^−32 that pass in a span in ps. -/
def Chan.kInc (c : Chan) (ps : Rat) : Int := roundFree (((c.krate * 256 : Int) : Rat) * ps / (10 ^ 12 : Nat))

/-- The NCOs run on for a span: the phases, the primary periods completed, and the accumulated carrier phase, whose rate is the
negative Doppler (rule R323). -/
def Chan.runFor (c : Chan) (t : Tune) (ps : Rat) : Chan :=
  let ci := c.cInc ps
  let n : Nat := c.sig.ncoLen * 2 ^ 32
  let k : Int := (c.kph : Int) + c.kInc ps
  { c with cph := c.cph + BitVec.ofInt 32 ci, kph := (k % (n : Int)).toNat, per := ((c.per : Int) + k / (n : Int)).toNat,
           cp := c.cp - (t.sg * (ci : Rat) / (2 ^ 32 : Nat) - (t.fc - t.lo) * ps / (10 ^ 12 : Nat)) }

/-- The NCOs run on to an instant without samples: the period in progress has no dump (log entry 84). -/
def Chan.skipTo (c : Chan) (t : Tune) (at_ : Rat) : Chan :=
  let g := c.runFor t (at_ - c.nextAt)
  { g with per := g.per + b2n c.epoch, acc := [], part := [], l6 := [], epoch := false, nextAt := at_ }

/-- THE START OF A CHANNEL (rule R280): the NCOs take the code phase of the reference instant propagated to the first sample, at
`at_` ps; the carrier phase starts at 0. `ref` is the reference instant, none for the first sample itself. -/
def Chan.startNco (c : Chan) (t : Tune) (ref : Option Rat) (at_ : Rat) : Chan :=
  let fd : Rat := (c.prm.doppler : Rat) / 1000
  let c1 := c.setNco (c.ncoOf t fd 0)
  let dt := match ref with | some r => at_ - r | none => 0
  let n : Int := (c.sig.ncoLen * 2 ^ 32 : Nat)
  let k0 : Int := (c.prm.code * c.sig.ncoScale * 2 ^ 26 : Nat)
  { c1 with run_ := true, cph := 0, kph := ((k0 + c1.kInc dt) % n).toNat, off := 0, base := 0, per := 0, epoch := false, acc := [], part := [],
            nextAt := at_, cp := 0, vel := fd, dop := fd, accl := 0, jerk := 0, ccor := 0, resid := 0, nco := none }

/-! ## Dumps (rules R286, R287) -/

/-- A complex number as a native word (rule R50): I in .H, Q in .L, 36 bits each. -/
def toNative (a : Cx) : Native :=
  let part := fun (x : Rat) => BitVec.ofInt 36 (clampInt (-(2 ^ 35)) (2 ^ 35 - 1) (roundFree x))
  part a.re ++ part a.im

/-- A native word as a complex number. -/
def ofNative (w : Native) : Cx := ⟨(w.extractLsb' 36 36).toInt, (w.extractLsb' 0 36).toInt⟩

/-- The component that the taps carry and the one of the prompt's second result (rule R285). L2C's taps carry CM until the place in CL
is known, and the second result CL's first segment (log entry 84). -/
def Chan.mainComp (c : Chan) : Nat := if c.sig.pilot && (!isL2c c.prm.signal || c.secSync) then 1 else 0

/-- Primary periods since the start of the secondary code, where synchronised. -/
def Chan.segNow (c : Chan) : Option Nat := if c.secSync then some (c.per + c.secOff) else none

/-- The replica of a component at an offset of the taps. -/
def Chan.rep (c : Chan) (inv : Bool) (comp : Nat) (o : Int) : Cx :=
  replica c.prm.signal c.prm.prn comp c.segNow c.shift inv ((c.kph : Int) + c.off - o)

/-- A wiped-off sample against every tap and the second result of the prompt tap, which data-only signals lack (rule R285). -/
def Chan.products (c : Chan) (inv : Bool) (y : Cx) : List Cx :=
  ((List.range c.prm.taps).map fun i => y.mul (c.rep inv c.mainComp (tapOff c.prm.spc i)).conj)
  ++ [if c.sig.pilot then y.mul (c.rep inv (1 - c.mainComp) 0).conj else {}]

/-- The sums of an L6 symbol for a code shift, from its samples (rule R288). -/
def Chan.l6Sums (c : Chan) (shift : Nat) (offs : List Int) : List Cx :=
  offs.map fun o => c.l6.foldl (fun (a : Cx) x =>
    a.add (x.1.mul (replica c.prm.signal c.prm.prn 0 none shift false ((x.2 : Int) + c.off - o)).conj)) {}

/-- The code shift that carries an L6 symbol: the strongest of the 256 on the prompt (rule R288). -/
def Chan.l6Shift (c : Chan) : Nat :=
  let pow := fun (k : Nat) => (((c.l6Sums k [0]).headD {}).norm2)
  (List.range 256).foldl (fun b k => if pow k > pow b then k else b) 0

/-- A DUMP at an epoch (rule R286), stamped with the sample at it: the sums of both parts of the period; an L6 symbol is decided
first (rule R288). -/
def Chan.dumpNow (c : Chan) (t : Rat) : Chan :=
  let l6 := c.prm.signal == 0x44
  let sh := if l6 then c.l6Shift else 0
  let sums := addSums c.part c.acc
  let taps := if l6 then c.l6Sums sh ((List.range c.prm.taps).map (tapOff c.prm.spc)) else sums.take c.prm.taps
  let d : Dump := { stamp := t, per := c.per, taps := taps.map toNative, data := toNative (sums.getD c.prm.taps {}),
                    els := (sums.drop (c.prm.taps + 1)).map toNative }
  { c with dumps := d :: c.dumps, acc := [], part := [], epoch := false, per := c.per + 1, shift := sh, l6 := [] }

/-! ## The window of the aided search (rule R303) -/

/-- 0, 1, −1, 2, −2, …: outward from the centre, alternating. -/
def zigzag (n : Nat) : Int := if n % 2 = 1 then ((n + 1) / 2 : Nat) else -((n / 2 : Nat) : Int)

/-- Positions and bins of the aided search. -/
def Chan.window (c : Chan) : Nat × Nat :=
  (max 1 ⌈2 * c.prm.codeUnc * 64 / (max 1 ((c.prm.taps - 1) * (c.prm.spc + 1)) : Nat)⌉.toNat,
   2 * ⌈c.prm.doppUnc * (c.sig.tp : Nat) / 5000⌉.toNat + 1)

/-- Offset of the window centre in 2^−32 chip and Doppler in Hz at a step of the search: over positions within a bin, then over bins. -/
def Chan.stepAt (c : Chan) (n : Nat) : Int × Rat :=
  let w := c.window
  (zigzag (n % w.1) * ((c.prm.taps - 1) * (c.prm.spc + 1) * 2 ^ 26 : Nat),
   (c.prm.doppler : Rat) / 1000 + zigzag (n / w.1 % w.2) * 500 / (c.sig.tp : Nat))

/-- Put the taps and the carrier at a step of the search. -/
def Chan.goStep (c : Chan) (t : Tune) (n : Nat) : Chan :=
  let x := c.stepAt n
  ({ c with dwAt := n, off := c.base + x.1, dw := [], dwN := 0, vel := x.2, dop := x.2 }).setNco (c.ncoOf t x.2 0)

/-- A period of a dwell: the taps' powers add up, and after 10 periods the next step begins. -/
def Chan.dwell (c : Chan) (t : Tune) : Chan :=
  match c.st, c.stage, c.dumps with
  | .pullin, 0, d :: _ =>
    let pows := d.taps.map fun w => (ofNative w).norm2
    let sum := if c.dw.isEmpty then pows else (c.dw.zip pows).map fun x => x.1 + x.2
    if c.dwN + 1 < 10 then { c with dw := sum, dwN := c.dwN + 1 }
    else ({ c with dwDone := (c.dwAt, sum) :: c.dwDone }).goStep t ((c.dwAt + 1) % (c.window.1 * c.window.2))
  | _, _, _ => c

/-! ## A sample (rules R283 to R288) -/

/-- A channel correlates: it has started and is not LOST (rule R299). -/
def Chan.active (c : Chan) : Bool := c.st != .created && c.st != .lost

/-- ONE SAMPLE of a channel's stream at `t` ps with the sample period `ts` ps; `els` are the values for its element taps. Where samples
are missing before it the NCOs run on, and the period in progress has no dump (log entry 84). -/
def Chan.take (c : Chan) (tn : Tune) (x : Smp) (els : List Cx) (t ts : Rat) : Chan :=
  let c0 := if t ≥ c.nextAt + ts then c.skipTo tn t else c
  let c1 := if c0.epoch then (c0.dumpNow t).dwell tn else c0
  let y := (cxOf (x.i, x.q)).mul (wipe c1.cph)
  let pr := (c1.rep tn.neg c1.mainComp 0).conj
  let sums := (if c1.prm.signal = 0x44 then List.replicate (c1.prm.taps + 1) ⟨0, 0⟩ else c1.products tn.neg y)
    ++ els.map fun v => (v.mul (wipe c1.cph)).mul pr
  let c2 := { c1 with acc := addSums c1.acc sums, l6 := if c1.prm.signal = 0x44 then (y, c1.kph) :: c1.l6 else [],
                      filled := c1.filled || x.fill, lastS := x, nextAt := t + ts }
  let c3 := c2.runFor tn ts
  { c3 with per := c2.per, epoch := decide (c2.per < c3.per) }

/-- A sample of a lost member's own stream at its element tap (rules R238, R287): against the NCOs' phases at its instant. -/
def Chan.takeEl (c : Chan) (tn : Tune) (pos : Nat) (x : Smp) (t : Rat) : Chan :=
  let at_ := c.runFor tn (t - c.nextAt)
  let v := ((cxOf (x.i, x.q)).mul (wipe at_.cph)).mul (at_.rep tn.neg at_.mainComp 0).conj
  { c with acc := addSums c.acc (List.replicate (c.prm.taps + 1 + pos) {} ++ [v]) }

/-- The instant of a channel's reference in ps, none for the first sample (rules R277, R278). -/
def State.refInst (s : State) (c : Chan) : Option Rat :=
  if c.prm.refSec = 0 ∧ c.prm.refNs = 0 then none
  else some (((secOf s.tb.now / 2 ^ 32 * 2 ^ 32 + c.prm.refSec) * 10 ^ 12 + c.prm.refNs * 1000 : Nat) : Rat)

/-- Tap operations of a channel on a sample (rule R102). -/
def Chan.ops (c : Chan) : Nat := c.prm.taps + c.els.length

/-- A channel starts with its first sample, then takes every sample; a sample that the crossing to its billet dropped is filled
(rule R40). -/
def State.chanSample (s : State) (i : Nat) (x : Smp) (els : Nat → Cx) (t ts : Rat) (drops : List Nat) : State :=
  let c := s.chan i
  if !c.active then s
  else
    let tn := s.tuneOf c
    let c1 := if c.run_ then c
      else
        let n := c.startNco tn (s.refInst c) t
        if c.stage = 0 then n.goStep tn 0 else n
    let x1 := if drops.contains c.billet then { c1.lastS with fill := true } else x
    { s.modChan i fun _ => c1.take tn x1 (c1.els.map els) t ts with
      work := Tab.set (fun _ => 0) s.work c.billet (Tab.get (fun _ => 0) s.work c.billet + c1.ops) }

/-- Heat boundary (rule R286): what a channel has summed of the period in progress is its first part. -/
def Chan.splitPart (c : Chan) : Chan := { c with part := addSums c.part c.acc, acc := [] }

end Sys2Proof.Machine
end

