-- ==== Sys2Proof/Machine/Search.lean ====
section
/-! DEFINITION. What the Crucible does with samples (rules R245 to R247, R250, R251, R255, R256, R259 to R262): the figures of a
job, the snapshot memory, the capture path, the cells, their floor and the peaks. -/

namespace Sys2Proof.Machine

/-! ## The figures of a job (rules R246 to R251) -/

/-- The signal of a job's record words. -/
def jSig (ws : List Word) : Sig := (sigOf (fld (ws.getD 3 0) 7 0)).getD sigNone

def jPrn (ws : List Word) : Nat := fld (ws.getD 3 0) 15 8
def jStreamMode (ws : List Word) : Bool := (ws.getD 3 0).getLsbD 25

/-- The FFT size N (rule R246): the smallest power of two that is at least SPC × L and at least 1,024. -/
def jN (ws : List Word) : Nat :=
  let x := (if (ws.getD 3 0).getLsbD 28 then 4 else 2) * (jSig ws).len
  ([1024, 2048, 4096, 8192, 16384, 32768].find? fun n => decide (x ≤ n)).getD 65536

def jTc (ws : List Word) : Nat := fld (ws.getD 4 0) 7 0
def jK (ws : List Word) : Nat := fld (ws.getD 4 0) 20 8
def jTp (ws : List Word) : Nat := (jSig ws).tp

/-- P: primary periods to a segment (rule R251). -/
def jP (ws : List Word) : Nat := jTc ws / jTp ws

/-- D: Doppler bins (rule R250); DOPP_HALF is in 0.1 Hz and the spacing is 5,000 / Tc of them. -/
def jD (ws : List Word) : Nat := 2 * ceilDiv (fld (ws.getD 6 0) 19 0 * jTc ws) 5000 + 1

/-- The total in search grains (rule R251). -/
def jTotal (ws : List Word) : Nat := jN ws * jD ws * jP ws * jK ws / 1024

/-- The requested booking in search grains per heat (rule R251). -/
def jReq (ws : List Word) : Nat :=
  if jStreamMode ws then ceilDiv (jN ws * jD ws) (1024 * jTp ws)
  else if fld (ws.getD 11 0) 14 0 = 0 then min (jTotal ws) 30000 else fld (ws.getD 11 0) 14 0

/-- Snapshot words of a job (rules R247, R252). -/
def jWords (ws : List Word) : Nat :=
  if jStreamMode ws then 2 * jN ws * jD ws + ceilDiv (2 * jN ws) 9 else ceilDiv (jN ws * jP ws * jK ws) 9

/-- The length of a capture in ms. -/
def jMs (ws : List Word) : Nat := jP ws * jK ws * jTp ws

/-- The searched component: 0 data, 1 pilot (rule R246). -/
def jComp (ws : List Word) : Nat := b2n (jSig ws).searchPilot

/-- The searched component has a secondary or overlay code (rules R248, R273); a meander is none. -/
def jHasSec (code prn : Nat) : Bool :=
  secLen code prn (b2n ((sigOf code).getD sigNone).searchPilot) != 1 && code != 0x10 && code != 0x11

/-! ## The snapshot memory (rules R247, R252) -/

/-- Words of the snapshot memory (rule R57). -/
def snapCap : Nat := 1048576

/-- A snapshot. -/
def State.snap (s : State) (n : Nat) : Snap := Tab.get (fun _ => {}) s.snaps n

/-- Write a snapshot. -/
def State.setSnap (s : State) (n : Nat) (x : Snap) : State := { s with snaps := Tab.set (fun _ => {}) s.snaps n x }

/-- The address of word `w` of some runs of words. -/
def wordAt : List (Nat × Nat) → Nat → Option Nat
  | [], _ => none
  | r :: l, w => if w < r.2 then some (r.1 + w) else wordAt l (w - r.2)

/-- The runs of words that rising runs in use leave free, from an address on. -/
def gapsFrom (b : Nat) : List (Nat × Nat) → List (Nat × Nat)
  | [] => if b < snapCap then [(b, snapCap - b)] else []
  | r :: l => (if b < r.1 then [(b, r.1 - b)] else []) ++ gapsFrom (r.1 + r.2) l

/-- The first words of some runs, so many in all. -/
def takeRuns (need : Nat) : List (Nat × Nat) → List (Nat × Nat)
  | [] => []
  | r :: l => if need = 0 then [] else if need ≤ r.2 then [(r.1, need)] else r :: takeRuns (need - r.2) l

/-- Insert a run by its first word. -/
def insRun (r : Nat × Nat) : List (Nat × Nat) → List (Nat × Nat)
  | [] => [r]
  | x :: l => if r.1 ≤ x.1 then r :: x :: l else x :: insRun r l

/-- Runs for `need` words out of what the snapshots in use leave free, lowest addresses first (log entry 85). -/
def State.allocRuns (s : State) (need : Nat) : List (Nat × Nat) :=
  takeRuns need (gapsFrom 0 ((s.snaps.flatMap fun e => e.2.runs).foldr insRun []))

/-- A stored sample as a byte: I in bits [7:4], Q in bits [3:0] (log entry 85). -/
def nibbles (y : Int × Int) : Nat := (y.1 % 16).toNat * 16 + (y.2 % 16).toNat

/-- Store sample `i` of a snapshot: nine to a native word, sample i of the word in bits [8i+7:8i] (rule R247). -/
def State.putSample (s : State) (n i : Nat) (y : Int × Int) : State :=
  match wordAt (s.snap n).runs (i / 9) with
  | none => s
  | some a =>
    let sh := 8 * (i % 9)
    let w := if i % 9 = 0 then (0 : Native) else Tab.get (fun _ => 0) s.snapMem a
    { s with snapMem := Tab.set (fun _ => 0) s.snapMem a ((w &&& ~~~(BitVec.ofNat 72 (0xFF <<< sh))) ||| BitVec.ofNat 72 (nibbles y <<< sh)),
             bad := Tab.set (fun _ => false) s.bad (badKey 29 a) false }

/-- Sample `i` of a snapshot. -/
def State.getSample (s : State) (n i : Nat) : Int × Int :=
  match wordAt (s.snap n).runs (i / 9) with
  | none => (0, 0)
  | some a =>
    let b := (Tab.get (fun _ => 0) s.snapMem a).toNat >>> (8 * (i % 9)) % 256
    (signed 4 (b / 16), signed 4 (b % 16))

/-! ## The cells (rules R250, R251) -/

/-- Doppler of bin b in Hz. -/
def binHz (ws : List Word) (b : Nat) : Rat :=
  ((ws.getD 5 0).toInt : Rat) / 1000 + ((b : Int) - (((jD ws - 1) / 2 : Nat) : Int) : Int) * (500 : Rat) / (jTc ws : Nat)

/-- The correlation of primary period `p` of a job in a cell (rule R251): delay cell `d` of bin `b`, over the period's samples, the
secondary or overlay code stripped where a segment has more than one period. Code phase is at the capture's first sample. -/
def cellSum (ws : List Word) (neg : Bool) (xs : List (Int × Int)) (p b d : Nat) : Cx :=
  let n := jN ws
  let f := (if neg then -1 else 1) * binHz ws b
  let code := fld (ws.getD 3 0) 7 0
  let r := xs.foldl (fun (a : Cx × Nat) x =>
    let tMs : Rat := (p * jTp ws : Nat) + (a.2 * jTp ws : Nat) / (n : Rat)
    let rep := replica code (jPrn ws) (jComp ws) none 0 false (((d + a.2) * (jSig ws).ncoLen * 2 ^ 32 / n : Nat) : Int)
    (a.1.add (((cxOf x).mul (wipe (phaseOf (f * tMs / 1000)))).mul rep.conj), a.2 + 1)) ({}, 0)
  if jP ws = 1 ∨ !jHasSec code (jPrn ws) then r.1
  else r.1.scale (secVal code (jPrn ws) (jComp ws) (fld (ws.getD 8 0) 31 16 + p))

/-- A cell's key in a job's tables. -/
def cellKey (ws : List Word) (b d : Nat) : Nat := b * jN ws + d

/-- All cells of a job: bin and delay cell. -/
def jGrid (ws : List Word) : List (Nat × Nat) := (List.range (jD ws)).flatMap fun b => (List.range (jN ws)).map fun d => (b, d)

/-- THE STATISTIC of a cell from all stored samples (rules R251, R259): |sum|² over the segments, each the coherent sum of P periods. -/
def cellStat (ws : List Word) (neg : Bool) (at_ : Nat → List (Int × Int)) (b d : Nat) : Rat :=
  (List.range (jK ws)).foldl (fun a k =>
    a + ((List.range (jP ws)).foldl (fun (c : Cx) p => c.add (cellSum ws neg (at_ (k * jP ws + p)) (k * jP ws + p) b d)) {}).norm2) 0

/-- A period of a STREAM job enters its accumulators (rules R251, R252). -/
def Job.addPeriod (j : Job) (neg : Bool) (p : Nat) : Job :=
  let ws := j.words
  let xs := j.inp.reverse
  let last := (p + 1) % jP ws == 0
  (jGrid ws).foldl (fun (j : Job) c =>
    let k := cellKey ws c.1 c.2
    let v := (Tab.get (fun _ => {}) j.coh k).add (cellSum ws neg xs p c.1 c.2)
    if last then { j with coh := Tab.set (fun _ => {}) j.coh k {},
                          stat := Tab.set (fun _ => 0) j.stat k (Tab.get (fun _ => 0) j.stat k + v.norm2) }
    else { j with coh := Tab.set (fun _ => {}) j.coh k v }) { j with inp := [] }

/-! ## The capture path (rules R247, R255, R256) -/

/-- A capture of the job is running. -/
def Job.capturing (j : Job) : Bool := j.phase == .capturing || (j.phase == .processing && jStreamMode j.words)

/-- Samples of a capture. -/
def jCount (ws : List Word) : Nat := jN ws * jP ws * jK ws

/-- The sample `j` of 16 around an instant, out of samples newest first: 8 later ones and 8 not later. -/
def around (hist : List (Rat × Smp)) (u : Rat) (j : Nat) : Option (Rat × Smp) :=
  if j < 8 then ((hist.filter fun x => x.1 > u).reverse)[7 - j]? else (hist.filter fun x => x.1 ≤ u)[j - 8]?

/-- The tuning of a job's signal on its stream. -/
def State.jobTune (s : State) (ws : List Word) : Tune :=
  let st := fld (ws.getD 3 0) 21 16
  { fc := (jSig ws).freq (jPrn ws), lo := (s.streamLo st).getD 0,
    neg := ((s.bandOf st).map fun x => (s.fec x.1).invert x.2).getD false }

/-- One stored sample (rule R247): the stream shifted by the signal's nominal offset from the band centre, filtered and resampled at
the instant `u`, and requantised to 4+4 bits. -/
def State.resample (s : State) (ws : List Word) (hist : List (Rat × Smp)) (a u ts : Rat) : Int × Int :=
  let tn := s.jobTune ws
  let ratio := (jTp ws : Rat) * 1000000000 / (jN ws : Nat) / ts
  let frac := match around hist u 8 with | some x => (u - x.1) / ts | none => 0
  let y := (List.range 16).foldl (fun (y : Cx) j => match around hist u j with
    | none => y
    | some x =>
      let v := (cxOf (x.2.i, x.2.q)).mul (wipe (phaseOf (tn.sg * (tn.fc - tn.lo) * (x.1 - a) / (10 ^ 12 : Nat))))
      y.add (v.scale (Config.capTap ratio frac j))) {}
  (clampInt (-8) 7 (roundFree (Config.capScale * y.re)), clampInt (-8) 7 (roundFree (Config.capScale * y.im)))

/-- Store the next sample of a capture: in the snapshot, or for STREAM in the period in progress. -/
def State.storeNext (s : State) (i : Nat) (y : Int × Int) : State :=
  let j := s.job i
  let x := s.snap j.snap
  let s1 := s.setSnap j.snap { x with count := x.count + 1 }
  if jStreamMode j.words then
    let j1 := { j with inp := y :: j.inp, pow := j.pow + (cxOf y).norm2 }
    s1.setJob i (if j1.inp.length = jN j.words then j1.addPeriod (s.jobTune j.words).neg (x.count / jN j.words) else j1)
  else s1.putSample j.snap x.count y

/-- Store what the samples so far allow: a stored sample needs 8 later ones of the stream. -/
def State.storeDue (fuel : Nat) (s : State) (i : Nat) (t ts : Rat) : State :=
  match fuel with
  | 0 => s
  | fuel + 1 =>
    let j := s.job i
    let x := s.snap j.snap
    let a := j.capAt.getD 0
    let u := a + (x.count : Rat) * (jTp j.words : Nat) * 1000000000 / (jN j.words : Nat)
    if x.count < jCount j.words ∧ u + 8 * ts ≤ t then (s.storeNext i (s.resample j.words x.hist a u ts)).storeDue fuel i t ts else s

/-- The captures that share a snapshot. -/
def State.capsOf (s : State) (n : Nat) : List Nat := (s.jobs.filter fun e => e.2.snap = n ∧ e.2.capturing).map (·.1)

/-- The snapshots being captured from a stream. -/
def State.snapsOn (s : State) (st : Nat) : List Nat :=
  ((s.jobs.filter fun e => e.2.stream = st ∧ e.2.capturing).map fun e => e.2.snap).dedup

/-- ONE SAMPLE for a snapshot (rules R255, R256, R264): the first at or after the start instant gives STAMP; a filled one, or a block that
begins with DISCONTINUITY or MASK_CHANGE after the first stored sample (`brk`), spoils the capture; the conditioning status of
its blocks is gathered. A sample that the crossing to the Crucible dropped is filled (rule R40). -/
def State.snapSample (s : State) (n : Nat) (x : Smp) (brk : Bool) (cond : Nat) (t ts : Rat) (drop : Bool) : State :=
  match s.capsOf n with
  | [] => s
  | i :: rest =>
    let h := (s.snap n).hist
    let x1 := if drop then { ((h.head?.map (·.2)).getD {}) with fill := true } else x
    let s1 := s.setSnap n { s.snap n with hist := (t, x1) :: h.take 31 }
    let start : Rat := (((s.job i).start.getD 0 : Nat) : Rat) * 1000 / (unitsPerNs : Nat)
    let ws := (s.job i).words
    let last := ((s.job i).capAt.getD t) + ((jCount ws - 1 : Nat) : Rat) * (jTp ws : Nat) * 1000000000 / (jN ws : Nat)
    let s2 := (i :: rest).foldl (fun (s : State) k =>
      let j := s.job k
      if t < start ∨ last < t then s
      else s.setJob k { j with
        capAt := some (j.capAt.getD t), capEpoch := if j.capAt.isSome then j.capEpoch else s.tb.epoch,
        spoilt := j.spoilt || x1.fill || (brk && j.capAt.isSome), cond := Nat.lor j.cond (cond % 8) }) s1
    if t < start then s2 else s2.storeDue 4 i t ts

/-- A sample of a stream reaches the Crucible. -/
def State.capture (s : State) (st : Nat) (x : Smp) (brk : Bool) (cond : Nat) (t ts : Rat) (drop : Bool) : State :=
  (s.snapsOn st).foldl (fun s n => s.snapSample n x brk cond t ts drop) s

/-! ## The floor (rule R259) -/

/-- A cell with its statistic. -/
abbrev Cell := Nat × Nat × Rat

/-- Two cells lie within ±2 delay cells, on the circle of the code, and ±1 Doppler bin of each other. -/
def near (n : Nat) (a b : Cell) : Bool :=
  decide ((a.1 : Int) - b.1 ≤ 1 ∧ (b.1 : Int) - a.1 ≤ 1) &&
  (let d := ((a.2.1 : Int) - b.2.1) % n
   decide (d ≤ 2 ∨ (n : Int) - d ≤ 2))

/-- The largest of some cells; the first in order of bin and delay of equal ones. -/
def largest (l : List Cell) : Option Cell :=
  l.foldl (fun b x => match b with | none => some x | some y => if x.2.2 > y.2.2 then some x else some y) none

/-- The `k` largest cells. -/
def topCells (k : Nat) (l : List Cell) : List Cell :=
  match k with
  | 0 => []
  | k + 1 => match largest l with
    | none => []
    | some c => c :: topCells k (l.filter fun x => x.1 != c.1 || x.2.1 != c.2.1)

/-- F: the mean statistic without the 64 largest cells and their neighbours, divided by K (rule R259). -/
def floorOf (ws : List Word) (l : List Cell) : Rat :=
  let top := topCells 64 l
  meanRat ((l.filter fun x => !top.any fun c => near (jN ws) c x).map (·.2.2)) / (jK ws : Nat)

/-- The mean statistic per segment that white noise of a power per sample would give: P periods of N samples against the replica. -/
def whiteOf (ws : List Word) (pow : Rat) : Rat :=
  pow * (jP ws : Nat) * (List.range (jN ws)).foldl (fun a m => a + (replica (fld (ws.getD 3 0) 7 0) (jPrn ws) (jComp ws) none 0 false
    ((m * (jSig ws).ncoLen * 2 ^ 32 / jN ws : Nat) : Int)).norm2) 0

/-! ## Candidates and peaks (rules R260 to R262, R265) -/

/-- A delay cell lies within CODE_CENTRE ± CODE_HALF on the circle of the code (rule R262). -/
def candidate (ws : List Word) (d : Nat) : Bool :=
  let half := fld (ws.getD 8 0) 15 0
  let len := max 1 (jSig ws).len
  let x : Rat := (d : Rat) * len / (jN ws : Nat) - (fld (ws.getD 7 0) 23 0 : Nat) / 64
  let m := x - (len : Rat) * (⌊x / len⌋ : Int)
  half == 0 || decide (m ≤ half) || decide ((len : Rat) - m ≤ half)

/-- A peak (rule R265): code phase in 1/64 chip, Doppler in 0.01 Hz, SNR and C/N0 in 0.1 dB, DET. -/
structure Peak where
  code : Nat
  dopp : Int
  snr : Int
  cn0 : Nat
  det : Bool
  deriving DecidableEq, Repr

/-- The vertex of a parabola through three values, as an offset from the middle one; 0 where one is missing or they do not bend. -/
def vertex (a : Option Rat) (b : Rat) (c : Option Rat) : Rat :=
  match a, c with
  | some a, some c => if a - 2 * b + c = 0 then 0 else clampRat (-1 / 2) (1 / 2) ((a - c) / (2 * (a - 2 * b + c)))
  | _, _ => 0

/-- The statistic of a cell of the grid, delay on the circle of the code. -/
def statAt (ws : List Word) (l : List Cell) (b d : Int) : Option Rat :=
  (l.find? fun x => decide ((x.1 : Int) = b ∧ (x.2.1 : Int) = d % (jN ws : Nat))).map (·.2.2)

/-- A cell as a peak: refined by the parabolas of rule R262, z against the floor F, DET against the threshold. -/
def peakOf (ws : List Word) (l : List Cell) (f thr : Rat) (c : Cell) : Peak :=
  let b : Int := c.1
  let d : Int := c.2.1
  let dd := vertex (statAt ws l b (d - 1)) c.2.2 (statAt ws l b (d + 1))
  let db := vertex (statAt ws l (b - 1) d) c.2.2 (statAt ws l (b + 1) d)
  let len := max 1 (jSig ws).len
  let z := c.2.2 / ((jK ws : Nat) * f)
  { code := (roundFree (((d : Rat) + dd) * len * 64 / (jN ws : Nat)) % (64 * len : Nat)).toNat,
    dopp := roundFree ((binHz ws c.1 + db * 500 / (jTc ws : Nat)) * 100),
    snr := clampInt (-2048) 2047 (Config.decibel 10 z),
    cn0 := if z ≤ 1 then 0 else (clampInt 0 1023 (Config.decibel 10 ((z - 1) * 1000 / (jTc ws : Nat)))).toNat,
    det := decide (c.2.2 > thr) }

/-- The peaks: the largest candidate, then without its neighbours the next, up to 8 (rule R262). -/
def peakCells (k : Nat) (ws : List Word) (l : List Cell) : List Cell :=
  match k with
  | 0 => []
  | k + 1 => match largest l with
    | none => []
    | some c => c :: peakCells k ws (l.filter fun x => !near (jN ws) c x)

end Sys2Proof.Machine
end

