-- ==== Sys2Proof/Machine/Align.lean ====
section
/-! DEFINITION. The spatial combiner's datapath (rules R232 to R235, R238): the aligner, the covariance, the weights, the combined
sample; and where a conditioned sample of a physical stream goes. -/

namespace Sys2Proof.Machine

/-- Change a group. -/
def State.modGroup (s : State) (g : Nat) (f : Group → Group) : State := s.setGroup g (f (s.group g))

/-- A weight of a group. -/
def Group.weight (x : Group) (k : Nat) : Cx := Tab.get (fun _ => {}) x.weights k

/-- An element's recent samples. -/
def Group.buf (x : Group) (k : Nat) : List (Rat × Smp) := Tab.get (fun _ => []) x.bufs k

/-- The element whose samples set the grid (rule R232): the designated reference while it is a member, else the acting one (log
entry 86). -/
def Group.gridEl (x : Group) : Nat := if x.members.contains x.ref then x.ref else x.act

/-- An element's sample at an instant of the grid (rule R232): 16 taps around it. -/
def alignAt (hist : List (Rat × Smp)) (u ts : Rat) : Cx :=
  let frac := match around hist u 8 with | some x => (u - x.1) / ts | none => 0
  (List.range 16).foldl (fun (y : Cx) j => match around hist u j with
    | none => y
    | some x => y.add ((cxOf (x.2.i, x.2.q)).scale (Config.alignTap frac j))) {}

/-- An element's sample that a flag is taken from: the latest at or before the instant. -/
def flagAt (hist : List (Rat × Smp)) (u : Rat) : Smp := ((around hist u 8).map (·.2)).getD {}

/-- The aligned samples of the members at an instant: zero for all where one is blanked (rules R232, R234). -/
def Group.aligned (x : Group) (u ts : Rat) : Tab Cx :=
  let blank := x.members.any fun k => (flagAt (x.buf k) u).blank
  x.members.map fun k => (k, if blank then {} else alignAt (x.buf k) u ts)

/-- Add x·x* to the covariance sums (rule R233). -/
def Group.addCov (x : Group) (v : Tab Cx) : Group :=
  { x with covN := x.covN + 1,
           cov := v.foldl (fun t a => v.foldl (fun t b =>
             Tab.set (fun _ => {}) t (8 * a.1 + b.1) ((Tab.get (fun _ => {}) t (8 * a.1 + b.1)).add (a.2.mul b.2.conj))) t) x.cov }

/-- ONE COMBINED SAMPLE (rules R233, R234): y = w'x, requantised with the group's gain; filled or blanked where a member's is. -/
def Group.combine (x : Group) (u ts : Rat) : Smp × Tab Cx × Group :=
  let v := x.aligned u ts
  let fill := x.members.any fun k => (flagAt (x.buf k) u).fill
  let blank := x.members.any fun k => (flagAt (x.buf k) u).blank
  let y := v.foldl (fun (a : Cx) e => a.add ((x.weight e.1).conj.mul e.2)) {}
  let o := fun (r : Rat) => clampInt (-127) 127 (roundFree (r * x.dgain))
  let smp : Smp := { i := o y.re, q := o y.im, fill := fill, blank := blank }
  let act := ((v.find? fun e => e.1 == x.act).map (·.2)).getD {}
  let x1 := { x with refPow := x.refPow + act.norm2, outPow := x.outPow + y.norm2, gridLast := u }
  let x2 := if fill || blank then x1 else x1.addCov v
  (smp, v, if blank then x2 else { x2 with outSq := x2.outSq + smp.i * smp.i + smp.q * smp.q, outN := x2.outN + 1 })

/-- The first instant of the grid can come out: every member has 8 samples after it, or the aligner's delay is used up (rule R232). -/
def Group.ready (x : Group) : Bool :=
  match x.grid with
  | [] => false
  | g :: _ => decide (72 < x.grid.length) || x.members.all fun k => decide (8 ≤ ((x.buf k).filter fun e => e.1 > g.1).length)

/-- Channels and captures on a stream take a sample. -/
def State.toUsers (s : State) (st : Nat) (x : Smp) (els : Nat → Cx) (brk : Bool) (cond : Nat) (t ts : Rat) (drops : List Nat) : State :=
  ((s.chansOn st).foldl (fun s e => s.chanSample e.1 x els t ts drops) s).capture st x brk cond t ts (drops.contains 16)

/-- Conditioning status of a stream, or of the members of a combined one (rule R229): NOTCH_ON, BLANK_HI, AGC_LIMIT. -/
def State.streamCond (s : State) (st : Nat) : Nat :=
  (if st < 32 then (s.chain st).stat
   else ((s.groupOut st).map fun e => e.2.members.foldl (fun a k => Nat.lor a (s.chain (e.2.streams.getD k 0)).stat) 0).getD 0) % 8

/-- The combined samples that can come out do, stamped with the raw instant less GD_REF and the element's delay (rule R235). -/
def State.combineDue (fuel : Nat) (s : State) (g : Nat) : State :=
  match fuel with
  | 0 => s
  | fuel + 1 =>
    let x := s.group g
    match x.ready, x.grid with
    | true, u :: rest =>
      let r := x.combine u.1 u.2
      let s1 := s.setGroup g { r.2.2 with grid := rest }
      (s1.toUsers x.out r.1 (fun k => Tab.get (fun _ => {}) r.2.1 k) false (s1.streamCond x.out) (u.1 - x.gdRef) u.2 []).combineDue fuel g
    | _, _ => s

/-- A group aligns: it is formed and its stream is not absent. -/
def Group.works (x : Group) : Bool := x.st == .forming || x.st == .active || x.st == .single

/-- A sample of element `k` enters the aligner at its antenna instant, the raw stamp less ELEM_DELAYk (rule R232). -/
def State.toGroup (s : State) (g k : Nat) (x : Smp) (brk : Bool) (raw ts : Rat) : State :=
  let y := s.group g
  let u := raw - y.delays.getD k 0
  let s1 := s.setGroup g { y with bufs := Tab.set (fun _ => []) y.bufs k (((u, x) :: y.buf k).take 160),
                                  grid := if k = y.gridEl ∧ u > y.gridLast then y.grid ++ [(u, ts)] else y.grid }
  let s2 := if brk then
      { s1 with jobs := s1.jobs.map fun (e : Nat × Job) =>
          if e.2.stream = y.out ∧ e.2.capturing ∧ e.2.capAt.isSome then (e.1, { e.2 with spoilt := true }) else e }
    else s1
  s2.combineDue 80 g

/-- The element taps that run on a physical stream of their own, since its member was lost (rules R238, R287). -/
def State.lostTaps (s : State) (st : Nat) (x : Smp) (t : Rat) : State :=
  s.liveGroups.foldl (fun s e =>
    (List.range e.2.n).foldl (fun s k =>
      if e.2.streams.getD k 0xFF = st ∧ !e.2.members.contains k then
        { s with chans := s.chans.map fun (c : Nat × Chan) =>
            match c.2.els.findIdx? (· == k) with
            | some pos => if c.2.prm.stream = e.2.out ∧ c.2.active ∧ c.2.run_ then (c.1, c.2.takeEl (s.tuneOf c.2) pos x t) else c
            | none => c }
      else s) s) s

/-- A CONDITIONED SAMPLE of a physical stream goes to its channels, the Crucible and the combiner (rules R164, R167, R219): `raw` is its
raw stamp and `delay` DELAYj, in ps; `brk` that a block with DISCONTINUITY or MASK_CHANGE begins with it. The billets hold during a
quench (rule R573). -/
def State.sink (s : State) (st : Nat) (x : Smp) (brk : Bool) (raw delay ts : Rat) (drops : List Nat) : State :=
  if s.inReset || s.fault.phase != .run then s
  else
    let s1 := (s.toUsers st x (fun _ => {}) brk (s.chain st).stat (raw - delay) ts drops).lostTaps st x (raw - delay)
    match s1.liveGroups.find? fun e => e.2.works && e.2.members.any fun k => e.2.streams.getD k 0xFF == st with
    | none => s1
    | some e => match e.2.members.find? fun k => e.2.streams.getD k 0xFF == st with
      | none => s1
      | some k => s1.toGroup e.1 k x brk raw ts

/-! ## The end of a heat (rules R233, R234, R238) -/

/-- (R + δI)z = e_ref for the members, as rows of the matrix with the right side behind them (rule R233). -/
def Group.rows (x : Group) : List (List Cx) :=
  let m := x.members
  let r := fun (a b : Nat) => (Tab.get (fun _ => ({} : Cx)) x.cov (8 * a + b)).scale (1 / (x.covN : Nat))
  let mean := sumRat (m.map fun k => (r k k).re) / (m.length : Nat)
  let delta := mean * pow10 (-((x.loadDb : Nat) : Rat) / 10)
  m.map fun a => (m.map fun b => if a = b then (r a b).add ⟨delta, 0⟩ else r a b) ++ [if a = x.act then ⟨1, 0⟩ else ⟨0, 0⟩]

/-- The weights at the end of a heat (rule R233): w moves to w_opt by 1/W_TAU, the acting reference's stays 1; they hold under FREEZE, in a heat
with fewer than 1,024 usable samples and for a single member. -/
def Group.weigh (x : Group) (freeze : Bool) (tau : Nat) : Group :=
  if freeze || decide (x.covN < 1024) || decide (x.members.length < 2) then x
  else
    let z := solveRows x.members.length x.rows
    let zr := (((x.members.zip z).find? fun e => e.1 == x.act).map (·.2)).getD ⟨1, 0⟩
    { x with weights := (x.members.zip z).foldl (fun (t : Tab Cx) e =>
        let w := x.weight e.1
        Tab.set (fun _ => {}) t e.1 (if e.1 = x.act then ⟨1, 0⟩
          else w.add (((e.2.div zr).sub w).scale (1 / (max 1 tau : Nat))))) x.weights }

/-- The gain of the output for the next heat, by the rule of the chains (rules R220, R234), with the time constant of the acting
reference's stream (log entry 86). -/
def Group.nextGain (x : Group) (tgt tau : Nat) : Rat :=
  let r : Rat := (sqrtScaled (x.outSq / (2 * x.outN : Nat)) 65536 : Nat) / 65536
  if x.outN = 0 ∨ r = 0 then x.dgain else clampRat (1 / 16) 16 (x.dgain + x.dgain * (tgt / r - 1) / (2 ^ tau : Nat))

/-- The end of a heat in a group: weights, SUPPR, gain; the sums restart. -/
def Group.endHeat (x : Group) (freeze : Bool) (tau tgt gtau : Nat) : Group :=
  { x.weigh freeze tau with
    suppr := if x.refPow = 0 then x.suppr else halfDb x.refPow x.outPow, dgain := x.nextGain tgt gtau,
    cov := [], covN := 0, refPow := 0, outPow := 0, outSq := 0, outN := 0 }

/-- The state that a number of members gives (rule R237). -/
def memSt (n : Nat) : GrpSt := if n ≥ 2 then .active else if n = 1 then .single else .absent

/-- The grid goes on with the samples of its element, where that has changed. -/
def Group.regrid (x : Group) (old : Nat) : Group :=
  if x.gridEl = old then x
  else
    let l := ((x.buf x.gridEl).filter fun e => e.1 > x.gridLast).reverse
    { x with grid := l.map fun e => (e.1, ((x.grid.head?.map (·.2)).getD 0)) }

/-- Members leave a group at a boundary (rule R238): a new acting reference is the lowest remaining index, and every
weight is divided by its old one. -/
def Group.split (x : Group) (lost : List Nat) : Group :=
  let rest := x.members.filter fun k => !lost.contains k
  let act := if lost.contains x.act then rest.headD x.act else x.act
  let d := x.weight act
  let ws := rest.foldl (fun (t : Tab Cx) k =>
    Tab.set (fun _ => {}) t k (if k = act then ⟨1, 0⟩ else if lost.contains x.act then (x.weight k).div d else x.weight k)) []
  ({ x with members := rest, act := act, weights := ws, st := memSt rest.length, splitDue := lost, bufs := x.bufs.filter fun e => !lost.contains e.1, jump := true } : Group).regrid x.gridEl

end Sys2Proof.Machine
end

