-- ==== Sys2Proof/Machine/Lane.lean ====
section
/-! DEFINITION. The sample lanes (rules R148 to R183): states, framing, fill, blocks and stamps, rate measurement,
common clocks, and the LANE pages. -/

namespace Sys2Proof.Machine

/-- The page of lane n. -/
def lanePage (n : Nat) : Nat := 0x010 + n

/-- Change a lane. -/
def State.modLane (s : State) (n : Nat) (f : Lane → Lane) : State := s.setLane n (f (s.lane n))

/-- Capture an error code without counting it in PG_ERR_CNT (rule R182). -/
def State.capCode (s : State) (p code : Nat) : State :=
  if fld (s.reg p 0x020) 31 31 = 1 then s
  else (s.setReg p 0x020 (BitVec.ofNat 32 (code + 0x80000000))).raise p 2

/-! ## Common clocks (rules R179, R180) -/

/-- The other lanes and itself in a lane's common-clock group, in order. -/
def State.ccGroup (s : State) (n : Nat) : List Nat :=
  if s.rf (lanePage n) 0x064 3 3 = 0 then []
  else (List.range 8).filter fun m =>
    s.rf (lanePage m) 0x064 3 3 = 1 && s.rf (lanePage m) 0x064 2 0 = s.rf (lanePage n) 0x064 2 0

/-- The reference lane: the lowest-numbered QUALIFIED lane of the group. -/
def State.ccRef (s : State) (n : Nat) : Option Nat := (s.ccGroup n).find? fun m => (s.lane m).st == .qualified

/-- PG_STAT.CC_OK of a lane. -/
def State.ccOk (s : State) (n : Nat) : Bool :=
  s.rf (lanePage n) 0x064 3 3 == 1 &&
  (if s.ccRef n = some n then (s.ccGroup n).any fun m => m != n && (s.lane m).ccOk else (s.lane n).ccOk)

/-- Lanes whose CC_OK fell against an earlier state raise CC_LOST, and members on them are to be split (rule R238). -/
def State.ccFell (s old : State) : State :=
  (List.range 8).foldl (fun s n =>
    if old.ccOk n && !s.ccOk n then (s.modLane n fun x => { x with ccLost := true }).raise (lanePage n) 23 else s) s

/-- A lane leaves QUALIFIED: it, and where it was the reference the whole group, lose CC_OK. -/
def State.ccLeave (s : State) (n : Nat) : State :=
  let hit := if s.ccRef n = some n then s.ccGroup n else [n]
  hit.foldl (fun s m => s.modLane m fun x => { x with ccOk := false, ccRun := [] }) s

/-! ## States (rules R169, R170) -/

/-- A lane's state changes: STATE_CHANGE; outside QUALIFIED and NOT_QUALIFIED no rate is reported, and leaving
QUALIFIED discards the window. -/
def State.laneTo (s : State) (n : Nat) (st : LaneSt) : State :=
  let x := s.lane n
  if x.st = st then s
  else
    let s0 := if x.st = .qualified then s.ccLeave n else s
    let s1 := (s0.modLane n fun x => { x with st := st, unq := x.unq || st != .qualified }).raise (lanePage n) 16
    let s2 := if st = .qualified ∨ st = .notQualified then s1 else s1.setReg (lanePage n) 0x08C 0
    let s3 := if st = .notQualified then s2 else (s2.modLane n fun x => { x with win := [], badHeats := 0, goodHeats := 0 })
    let s4 := if st = .notQualified then s3 else s3.setReg (lanePage n) 0x090 0
    s4.ccFell s

/-! ## Blocks and stamps (rules R160 to R168) -/

/-- An elapsed time of late as a stamp in 10 ps steps, halves up (rule R166). -/
def State.stampAt (s : State) (el : Nat) : Nat := (2 * (s.tb.now - (s.el - el)) * 100 + unitsPerNs) / (2 * unitsPerNs)

/-- A block begins (rule R165): the number rises by 1, and a wrap to 0 is reported. It takes the DELAYj in force (rule R168), and its
streams their conditioning status (rule R229). -/
def State.newBlock (s : State) (n stamp : Nat) (fill mask disc : Bool) (gap : Nat) : State :=
  let x := s.lane n
  let b : Block := { num := x.nextBlk % 2 ^ 32, frames := 0, stamp := stamp, epoch := s.tb.epoch,
                     period := x.p10 * 65536 / 100, fill := fill, mask := mask, disc := disc,
                     rateBad := x.st == .notQualified, gap := gap,
                     delays := (List.range 8).map fun j => (s.reg (lanePage n) (0x068 + 4 * j)).toInt,
                     at_ := (stamp * 10 : Nat) }
  let s1 := s.setLane n { x with blk := some b, nextBlk := x.nextBlk + 1 }
  let s2 := if x.nextBlk ≠ 0 ∧ x.nextBlk % 2 ^ 32 = 0 then s1.raise (lanePage n) 20 else s1
  let s3 := (cfgStreams x.cfg).foldl State.markStat s2
  if fill then s3.count (lanePage n) 0x0C4 else s3

/-- The block in progress is complete, or there is none. -/
def Lane.blockDone (x : Lane) : Bool := match x.blk with | some b => decide (b.frames ≥ 1024) | none => true

/-- Frames in the block in progress that a new block would cut (rule R161). -/
def Lane.short (x : Lane) : Nat := (x.blk.map fun b => if b.frames ≥ 1024 then 0 else b.frames).getD 0

/-- The block in progress holds filled samples; it counts once as filled. -/
def State.markFill (s : State) (n : Nat) : State :=
  match (s.lane n).blk with
  | some b =>
    if b.fill then s
    else (s.modLane n fun x => { x with blk := some { b with fill := true } }).count (lanePage n) 0x0C4
  | none => s

/-- One frame enters the block in progress, or begins the next. -/
def State.frameIn (s : State) (n stamp : Nat) (fill : Bool) : State :=
  let s1 := if (s.lane n).blockDone then s.newBlock n stamp fill false false 0 else if fill then s.markFill n else s
  s1.modLane n fun x => { x with blk := x.blk.map fun b => { b with frames := b.frames + 1 } }

/-- Sample period in ps of a stream with k slots in a frame: by the block's FRAME_PERIOD, or the nominal one where none is measured. -/
def Lane.samplePs (x : Lane) (k : Nat) : Rat :=
  match x.blk with
  | none => 0
  | some b => (if b.period = 0 then ((cfgL x.cfg * 500000000000 : Nat) : Rat) / (max 1 x.lastNom : Nat)
      else ((b.period * 1000 : Nat) : Rat) / 65536) / (max 1 k : Nat)

/-- A conditioned sample of slot t of the frame last counted goes out with its stamp (rules R158, R168): the sample's index in the block times
the sample period after the block's stamp. -/
def State.slotOut (s : State) (n : Nat) (t : Nat × Nat × Nat) (o : Option Smp) (drops : List Nat) : State :=
  let x := s.lane n
  match o, x.blk with
  | some v, some b =>
    let k := cfgK x.cfg t.2.1
    let pos := ((cfgSlots x.cfg).filter fun u => u.2.1 = t.2.1 ∧ u.1 < t.1).length
    let idx := (b.frames - 1) * k + pos
    let ts := x.samplePs k
    s.sink t.2.1 v (idx == 0 && (b.disc || b.mask)) (b.at_ + idx * ts) (b.delays.getD t.2.2 0) ts drops
  | _, _ => s

/-! ## Fill (rule R164) -/

/-- The samples of a frame are filled. -/
def State.fillSlots (s : State) (n : Nat) (drops : List Nat) : State :=
  (cfgSlots (s.lane n).cfg).foldl (fun s t => (s.fillSample t.2.1).2.slotOut n t (s.fillSample t.2.1).1 drops) s

/-- One fill frame with its nominal instant: it goes on in the block in progress, or begins a fill block with that stamp (log entry 87). -/
def State.fillFrame (s : State) (n el : Nat) : State := (s.frameIn n (s.stampAt el) true).fillSlots n []

/-- Fill frames `i` and so on to `i + k − 1` after the elapsed time `el0`, one each nominal frame period. -/
def State.fillSteps (k : Nat) (s : State) (n el0 i : Nat) : State :=
  match k with
  | 0 => s
  | k + 1 =>
    let x := s.lane n
    (s.fillFrame n (el0 + i * (cfgL x.cfg * ofNs 1000000000) / (2 * max 1 x.lastNom))).fillSteps k n el0 (i + 1)

/-- PACE THE FILL of a lane up to now (rule R164): one frame each nominal frame period after the last real frame, for
at most 100 ms; every enabled slot's stream repeats its last sample. -/
def State.pace (s : State) (n : Nat) : State :=
  let x := s.lane n
  if !x.fillRun || x.ended || x.lastNom == 0 then s
  else
    let el := min s.el (x.lastEl + ofNs 100000000)
    let num := 2 * x.lastNom
    let den := cfgL x.cfg * ofNs 1000000000
    let m := ceilDiv ((el - x.fillEl) * num) den - 1
    (s.fillSteps m n x.fillEl 1).modLane n fun y => { y with fillEl := x.fillEl + m * den / num }

/-- A lane that delivered real frames stops delivering them: a fill run begins (rule R164); once fill has ended none begins before the
next real frame (rule R170). -/
def State.startFill (s : State) (n : Nat) : State :=
  s.modLane n fun x =>
    if x.everReal && !x.fillRun && !x.ended then { x with fillRun := true, fillEl := x.lastEl, gapPend := true }
    else { x with gapPend := x.gapPend || x.everReal }

/-- A held or committed configuration is in force from this frame on (rules R160 to R163): the number of the block that begins with it,
or while nothing is delivered of the next to begin (log entry 87). -/
def State.slotApplied (s : State) (n short : Nat) (begun : Bool) : State :=
  let x := s.lane n
  let s1 := s.setReg (lanePage n) 0x0A8 (BitVec.ofNat 32 short)
  (s1.setReg (lanePage n) 0x0AC (BitVec.ofNat 32 (if begun then (x.blk.map (·.num)).getD 0 else x.nextBlk))).raise (lanePage n) 19

/-! ## A frame (rules R155, R171 to R175) -/

/-- A version-2 header is bad for a configuration (rules R154, R155). -/
def badHeader (c : List Word) (h : BitVec 8) : Bool :=
  cfgVer c == 1 &&
  (((List.range 8).countP fun i => h.getLsbD i) % 2 == 0 || h.getLsbD 6 || h.toNat / 16 % 4 != cfgFmt c
    || h.toNat % 16 + 1 != cfgN c)

/-- A bad frame is counted and its code captured (rules R155, R182). -/
def State.hdrBad (s : State) (n : Nat) : State := (s.count (lanePage n) 0x0C0).capCode (lanePage n) 0x40

/-- The samples of a real frame go to their streams, or are filled where its header is bad or the crossing from the lane island dropped
its entry (rules R40, R155, R164). -/
def State.deliver (s : State) (n : Nat) (fill : Bool) (codes : List (BitVec 8 × BitVec 8)) (drops : List Nat) : State :=
  if fill then s.fillSlots n drops
  else
    let c := (s.lane n).cfg
    (cfgSlots c).foldl (fun s t =>
      let q := codes.getD t.1 (0, 0)
      let r := s.realSample t.2.1 (cfgFmt c) (cfgOdd c) q.1.toNat q.2.toNat
      r.2.slotOut n t r.1 drops) s

/-- Entries dropped at flow crossings count on the destinations' pages (rules R40, R182): 0 to 15 the billets, 16 the Crucible, 17 stream
distribution, counted on the LANE page. -/
def State.countDrops (s : State) (n : Nat) (drops : List Nat) : State :=
  drops.dedup.foldl (fun (s : State) (d : Nat) =>
    s.capErr (if d < 16 then 0x050 + d else if d = 16 then 0x041 else lanePage n) 0x21 0) s

/-- The gap before a first real block, in ns (rule R175). -/
def gapNs (stamp last p10 : Nat) : Nat := min (2 ^ 48 - 1) ((2 * (stamp - last - p10) + 100) / 200)

/-- A real frame whose LnFS edge has this stamp: a held commit takes effect, the first after a gap begins a block with
DISCONTINUITY, and the samples go out. -/
def State.realFrame (s : State) (n : Nat) (e : FrameEv) : State :=
  let s0 := (s.pace n).countDrops n e.drops
  let x := s0.lane n
  let start := x.fillRun || x.gapPend || !x.everReal
  let cfg := x.pend.getD x.cfg
  let bad := badHeader cfg e.header
  let drop := e.drops.contains 17
  let short := x.short
  let gap := if x.gapPend then gapNs e.stamp x.lastStamp x.p10 else 0
  let s1 := s0.setLane n { x with cfg := cfg, pend := none, fillRun := false, ended := false, gapPend := false,
                                  everReal := true, gap := if x.gapPend then gap else x.gap }
  let s2 := if start || x.pend.isSome then s1.newBlock n e.stamp false x.pend.isSome x.gapPend gap else s1
  let s3 := if x.gapPend then s2.raise (lanePage n) 18 else s2
  let s4 := s3.frameIn n e.stamp (bad || drop)
  let s5 := if x.pend.isSome then s4.slotApplied n short true else s4
  let s6 := if bad then s5.hdrBad n else s5
  let s7 := if bad then s6 else s6.modLane n fun y => { y with lastEl := e.el, lastStamp := e.stamp }
  s7.deliver n (bad || drop) e.codes e.drops

/-- The edge of a frame is noted; a good one gives the frame period, and counts into the heat's rate measurement where the edge before it lies
in the same heat (rules R168, R176). -/
def Lane.interval (x : Lane) (cycles stamp : Nat) (good : Bool) : Lane :=
  match x.edge, good with
  | some e, true =>
    let y := { x with edge := some stamp, edgeIn := true, p10 := stamp - e }
    if x.edgeIn then { y with cyc := x.cyc + cycles, dur := x.dur + (stamp - e) } else y
  | _, _ => { x with edge := some stamp, edgeIn := true }

/-- Framing is lost (rule R172): the frame is discarded. -/
def State.frameLost (s : State) (n : Nat) : State :=
  let s1 := ((s.count (lanePage n) 0x0BC).raise (lanePage n) 22).startFill n
  (s1.modLane n fun x => { x with cand := false, edge := none }).laneTo n .framing

/-- Two good edges qualify a lane, and the second frame is delivered (rules R170, R171, R177). -/
def State.qualify (s : State) (n : Nat) : State :=
  (s.laneTo n .qualified).modLane n fun x =>
    { x with cand := false, win := [], winHeat := s.heat + 1, badHeats := 0, goodHeats := 0, tolHeats := 0, cyc := 0,
             dur := 0 }

/-- An edge `cycles` after the last good one is good for a configuration's L (rule R171). -/
def goodFor (c : List Word) (cycles : Nat) (wasLow : Bool) : Bool := wasLow && 2 * cycles == cfgL c

/-- A commit reaches its applying frame on a NOT_QUALIFIED lane (rules R160, R161, R163): the fill goes on under the new mask and map, in a
block that begins with a fill frame now. -/
def State.applyFill (s : State) (n : Nat) (e : FrameEv) (cfg : List Word) : State :=
  let x := s.lane n
  let s1 := s.modLane n fun y => { y with cfg := cfg, pend := none }
  if x.fillRun && !x.ended then
    ((((s1.modLane n fun y => { y with fillEl := e.el }).newBlock n e.stamp true true false 0).frameIn n e.stamp true).fillSlots n
      []).slotApplied n x.short true
  else s1.slotApplied n 0 false

/-- LnFS AT A FRAME CHECK of a lane (rules R170 to R172). In FRAMING a candidate is confirmed at the L in force or at that of a held commit,
LnFS low at the expected start drops it, and any other high sample is the new candidate (log entry 87). -/
def State.frameAt (s : State) (e : FrameEv) : State :=
  let n := e.lane
  let x := s.lane n
  match x.st with
  | .framing =>
    match e.fs with
    | .missing => s.setLane n { x with cand := false, edge := none }
    | .high cycles wasLow again =>
      let held := x.pend.getD x.cfg
      if x.cand && (goodFor x.cfg cycles wasLow || goodFor held cycles wasLow) then
        if badHeader held e.header && !again then (s.setLane n { x with cand := false, edge := none }).hdrBad n
        else
          let s1 := (s.setLane n (x.interval cycles e.stamp true)).qualify n
          if again then s1.frameLost n else s1.realFrame n e
      else s.setLane n { x with cand := true, edge := some e.stamp, edgeIn := true }
  | .qualified =>
    match e.fs with
    | .missing => s.frameLost n
    | .high cycles wasLow again =>
      if goodFor x.cfg cycles wasLow && !again then (s.setLane n (x.interval cycles e.stamp true)).realFrame n e
      else s.frameLost n
  | .notQualified =>
    match e.fs with
    | .missing => s.setLane n { x with edge := none }
    | .high cycles wasLow _ =>
      let ok := goodFor x.cfg cycles wasLow
      let s1 := (s.setLane n (x.interval cycles e.stamp ok)).pace n
      let cfg := x.pend.getD x.cfg
      let s2 := if ok && badHeader cfg e.header then s1.hdrBad n else s1
      if ok && x.pend.isSome then s2.applyFill n e cfg else s2
  | _ => s

/-- FRAME (R171): the check of LnFS at an edge, with the frame's header, the codes of its slots, and the flow crossings that drop its entry
(rule R40). A frame stamped at or after the boundary that ends the heat waits for the boundary's work (rule R181). -/
def execFrame (lane : Fin 8) (dt sub : Nat) (fs : FsSample) (header : BitVec 8) (codes : List (BitVec 8 × BitVec 8))
    (drops : List (Fin 18)) (s : State) : Out :=
  let s1 := s.after dt
  let u := sub % 80 * unitsPerNs / 100
  let e : FrameEv := { lane := lane.val, stamp := s1.stamp10 (sub % 80), el := s1.el + u, fs := fs, header := header, codes := codes,
                       drops := drops.map (·.val) }
  .next (if s1.inReset then s1
    else if s1.tb.everLocked && decide (s1.tb.now + u ≥ s1.tb.hEnd) then { s1 with lateFrames := s1.lateFrames ++ [e] }
    else s1.frameAt e)

/-- The frames that came on the tick of a boundary, once its work is done (rule R181). -/
def State.lateFrame (s : State) : State := s.lateFrames.foldl State.frameAt { s with lateFrames := [] }

/-- GLITCH (R173): a phase of LnCLK shorter than 35 % of the period is rejected and counted. -/
def execGlitch (lane : Fin 8) (dt : Nat) (s : State) : Out :=
  let s1 := s.after dt
  let p := lanePage lane.val
  .next (if s1.inReset || (s1.lane lane.val).st == .off then s1
    else (if fld (s1.reg p 0x0B8) 16 0 = 0 then s1.raise p 21 else s1).count p 0x0B8)

/-- CLOCK_STOP (R170): no edge of LnCLK for 16 nominal periods. -/
def execClockStop (lane : Fin 8) (dt : Nat) (s : State) : Out :=
  let n := lane.val
  let s1 := (s.after dt).pace n
  let x := s1.lane n
  let idle := s1.modLane n fun y => { y with cand := false, edge := none }
  .next (if s1.inReset then s1
    else match x.st with
    | .qualified | .framing | .notQualified =>
      if x.ended then (idle.modLane n fun y => { y with everReal := false }).laneTo n .absent else (idle.startFill n).laneTo n .stopped
    | _ => s1)

/-- CLOCK_EDGE (R170): an edge of LnCLK on a STOPPED or ABSENT lane. -/
def execClockEdge (lane : Fin 8) (dt : Nat) (s : State) : Out :=
  let s1 := s.after dt
  let x := s1.lane lane.val
  .next (if s1.inReset then s1
    else if x.st = .stopped ∨ x.st = .absent then s1.laneTo lane.val .acquire else s1)

/-- ACQUIRE_DONE (R170): 256 periods in a row without a rejected pulse. -/
def execAcquireDone (lane : Fin 8) (dt : Nat) (s : State) : Out :=
  let s1 := s.after dt
  .next (if !s1.inReset && (s1.lane lane.val).st == .acquire then
      (s1.modLane lane.val fun y => { y with cand := false, edge := none }).laneTo lane.val .framing
    else s1)

/-- FILL_END (R170): 100 ms without real samples since the last real frame, in elapsed time. -/
def execFillEnd (lane : Fin 8) (dt : Nat) (s : State) : Out :=
  let n := lane.val
  let s1 := (s.after dt).pace n
  let x := s1.lane n
  .next (if s1.inReset || !x.fillRun || x.ended || x.st == .qualified || decide (s1.el < x.lastEl + ofNs 100000000) then s1
    else
      let s2 := s1.modLane n fun y => { y with ended := true, fillRun := false }
      if x.st = .stopped then (s2.modLane n fun y => { y with everReal := false }).laneTo n .absent else s2)

/-! ## The end of a heat (rules R176 to R180) -/

/-- The lane clock over a heat, in Hz, from its stamps. -/
def Lane.hz (x : Lane) : Rat := ((x.cyc * 10 ^ 11 : Nat) : Rat) / x.dur

/-- The windowed deviation in ppb. -/
def winPpb (w : List (Nat × Nat)) (nom : Nat) : Rat :=
  let c : Nat := (w.map (·.1)).foldl (· + ·) 0
  let d : Nat := (w.map (·.2)).foldl (· + ·) 0
  if d = 0 ∨ nom = 0 then 0 else (((c * 10 ^ 11 : Nat) : Rat) / d / nom - 1) * 10 ^ 9

/-- RATE_CHANGE and RATE_OUT of a valid window (rule R178). -/
def State.rateTol (s : State) (n : Nat) (ppb : Rat) (valid : Bool) : State :=
  let x := s.lane n
  if !valid then s.setLane n { x with tolHeats := 0 }
  else if absRat ppb > s.rf (lanePage n) 0x05C 17 0 then
    let s1 := s.setLane n { x with tolHeats := 0, rcFired := true }
    if x.rcFired then s1 else s1.raise (lanePage n) 17
  else if x.rcFired then
    s.setLane n { x with tolHeats := if x.tolHeats + 1 ≥ 1000 then 0 else x.tolHeats + 1, rcFired := decide (x.tolHeats + 1 < 1000) }
  else s

/-- The rate of a heat that has ended, with the transitions of R170 and R176: the deviation is that of HZ. `s.heat` is the heat that
starts. -/
def State.endRate (s : State) (n : Nat) : State :=
  let x := s.lane n
  let nom := (s.reg (lanePage n) 0x044).toNat
  if !(x.st = .qualified ∨ x.st = .notQualified) || x.dur == 0 || nom == 0 then s
  else
    let hz := min 0xFFFFFFFF (roundFree x.hz).toNat
    let dev := absRat ((hz : Rat) / nom - 1) * 1000000
    let s1 := s.setReg (lanePage n) 0x08C (BitVec.ofNat 32 hz)
    let w := if s.heat > x.winHeat then ((x.cyc, x.dur) :: x.win).take 1000 else x.win
    let valid := decide (w.length ≥ 1000)
    let ppb := winPpb w nom
    let s2 := s1.setReg (lanePage n) 0x090 (if w.isEmpty then 0 else
      setFld (setFld 0 30 0 (BitVec.ofInt 31 (clampInt (-(2 ^ 30 - 1)) (2 ^ 30 - 1) (roundFree ppb))).toNat) 31 31 (b2n valid))
    let s3 := (s2.modLane n fun y => { y with win := w }).rateTol n ppb valid
    if x.st = .qualified then
      let bad := if dev > 200 then x.badHeats + 1 else 0
      let s4 := s3.modLane n fun y => { y with badHeats := bad, goodHeats := 0 }
      if bad ≥ 2 then (s4.startFill n).laneTo n .notQualified else s4
    else
      let good := if dev ≤ 150 then x.goodHeats + 1 else 0
      let s4 := s3.modLane n fun y => { y with goodHeats := good, badHeats := 0 }
      if good ≥ 16 then
        (s4.laneTo n .qualified).modLane n fun y =>
          { y with gapPend := y.gapPend || y.everReal, winHeat := s.heat }
      else s4

/-- The skew of a lane to its reference in 10 ps steps, within half a frame period (rule R179). -/
def skew10 (r e p : Nat) : Int :=
  if p = 0 then 0
  else
    let d := ((r : Int) - e) % p
    if 2 * d > p then d - p else d

/-- RATE_PPB of a lane with its validity. -/
def State.ppbOf (s : State) (n : Nat) : Int × Bool :=
  (signed 31 (s.rf (lanePage n) 0x090 30 0), s.rf (lanePage n) 0x090 31 31 == 1)

/-- The common-clock window of a QUALIFIED lane takes a heat's skew in 10 ps steps and rate difference to its reference (rule R180): CC_OK after
1,000 heats with differences of at most 5 ppb and skews within 500 ps; CC_OK ends with a skew more than 1 ns off CC_SKEW0. -/
def State.ccWindow (s : State) (n r : Nat) (k : Int) : State :=
  let x := s.lane n
  let a := s.ppbOf n
  let b := s.ppbOf r
  let run := ((k, a.1 - b.1) :: x.ccRun).take 1000
  let hi := run.foldl (fun m e => max m e.1) k
  let lo := run.foldl (fun m e => min m e.1) k
  if x.ccOk then
    if (k * 10 - (s.reg (lanePage n) 0x0CC).toInt).natAbs > 1000 then
      s.modLane n fun y => { y with ccOk := false, ccRun := [] }
    else s.modLane n fun y => { y with ccRun := run }
  else if run.length ≥ 1000 ∧ a.2 = true ∧ b.2 = true ∧ (run.all fun e => decide (e.2.natAbs ≤ 5)) = true ∧ hi - lo ≤ 50 then
    (s.modLane n fun y => { y with ccOk := true, ccRun := run }).setReg (lanePage n) 0x0CC (BitVec.ofInt 32 (k * 10))
  else s.modLane n fun y => { y with ccRun := run }

/-- The common-clock check of a heat that has ended (rules R179, R180): every lane of a group but the reference is measured against it. -/
def State.endCc (s : State) (n : Nat) : State :=
  if s.rf (lanePage n) 0x064 3 3 = 0 then (s.setReg (lanePage n) 0x0C8 0).setReg (lanePage n) 0x0CC 0
  else match s.ccRef n with
  | none => s
  | some r =>
    let x := s.lane n
    match (s.lane r).edge, x.edge with
    | some er, some e =>
      if r = n ∨ (s.lane r).edgeIn = false ∨ x.edgeIn = false then s
      else
        let k := skew10 er e x.p10
        let s1 := s.setReg (lanePage n) 0x0C8 (BitVec.ofInt 32 (k * 10))
        if x.st = .qualified then s1.ccWindow n r k else s1
    | _, _ => s

/-- THE LANES AT THE END OF A HEAT: fill, rates, common clocks; the heat's sums restart. -/
def State.endLanes (s : State) : State :=
  let s1 := (List.range 8).foldl (fun s n => (s.pace n).endRate n) s
  let s2 := (List.range 8).foldl State.endCc s1
  (List.range 8).foldl (fun s n => s.modLane n fun x => { x with edgeIn := false, cyc := 0, dur := 0 }) (s2.ccFell s1)

/-- Flags of the heat are cleared once the channels have seen them. -/
def State.clearLaneFlags (s : State) : State :=
  let s1 := (List.range 8).foldl (fun s n => s.modLane n fun x => { x with ccLost := false, unq := x.st != .qualified }) s
  (List.range 32).foldl (fun s st =>
    if (s.chain st).filled then (s.clearStat st).setChain st { (s.clearStat st).chain st with filled := false } else s.clearStat st) s1

/-! ## The LANE pages (rules R159, R160, R182) -/

/-- STATE codes (rule R169). -/
def LaneSt.code : LaneSt → Nat
  | .off => 0 | .acquire => 1 | .framing => 2 | .qualified => 3 | .stopped => 4 | .absent => 5 | .notQualified => 6

/-- Registers of a LANE page computed from the state. -/
def viewLane (s : State) (p off : Nat) : Option Word :=
  let x := s.lane (p - 0x010)
  let st := (x.blk.map (·.stamp)).getD 0
  if off = 0x088 then some (BitVec.ofNat 32 x.st.code)
  else if off = 0x098 then some (BitVec.ofNat 32 (st / 10 ^ 11))
  else if off = 0x0B0 then some (BitVec.ofNat 32 x.gap)
  else none

/-- PG_STAT block bits of a LANE page. -/
def statLane (s : State) (p : Nat) : Word :=
  BitVec.ofNat 32 ((s.lane (p - 0x010)).st.code * 256 + b2n (s.ccOk (p - 0x010)) * 2048
    + b2n (s.lane (p - 0x010)).rcFired * 4096)

/-- STAMP_SEC_LO (R182): the newest raw stamp's seconds; the block number and the rest of the stamp are latched. -/
def execStampSecLo (lane : Fin 8) (s : State) : Out :=
  let p := lanePage lane.val
  let x := s.lane lane.val
  let b := x.blk
  let st := (b.map (·.stamp)).getD 0
  .next (s.readRow ((viewLane s p 0x098).getD 0) fun s =>
    ((((s.setReg p 0x094 (BitVec.ofNat 32 ((b.map (·.num)).getD 0))).setReg p 0x09C
      (BitVec.ofNat 32 (st / 10 ^ 11 / 2 ^ 32))).setReg p 0x0A0 (BitVec.ofNat 32 (st / 100 % 10 ^ 9))).setReg p 0x0A4
      (BitVec.ofNat 32 (st % 100 * 65536 / 100 + (b.map (·.epoch)).getD 0 % 65536 * 65536))))

/-- GAP_LO (R182): bits [31:0] of the last gap; GAP_HI is latched. -/
def execGapLo (lane : Fin 8) (s : State) : Out :=
  let p := lanePage lane.val
  let g := (s.lane lane.val).gap
  .next (s.readRow (BitVec.ofNat 32 g) fun s => s.setReg p 0x0B4 (BitVec.ofNat 32 (g / 2 ^ 32)))

/-- The nominal rate that a stream has under the registers of a state being committed; with NOM_FCLK 0 none. -/
def State.regRate (s : State) (st : Nat) : Option Rat :=
  match s.streamAt st with
  | none => none
  | some (n, _) =>
    let nom := (s.reg (lanePage n) 0x044).toNat
    if nom = 0 then none else some ((cfgK (s.laneCfg n) st * 2 * nom : Nat) / (cfgL (s.laneCfg n) : Nat))

/-- Element taps that a CH_MODIFY staged for a channel, by element (rules R109, R287): the bits of a mask. -/
def maskEls (m : Nat) : List Nat := (List.range 8).filter fun k => m.testBit k

/-- Taps that a channel books: its own, or with an increase that a CH_MODIFY has staged those (rules R109, R111). -/
def State.bookedTaps (s : State) (i : Nat) (c : Chan) : Nat :=
  match s.flights.find? fun e => e.op == 0x0202 && e.step == 2 && e.idx == i && (e.w 12).getLsbD 0 with
  | some e => max c.tapCount (fld (e.w 3) 25 22 + (maskEls e.arg).length)
  | none => c.tapCount

/-- Correlation grains a channel would book under the registers of a state being committed (rule R111). -/
def State.newGrains (s new : State) (i : Nat) (c : Chan) : Nat :=
  let st := if c.prm.stream < 32 then c.prm.stream
    else ((s.groupOut c.prm.stream).map fun e => e.2.streams.getD e.2.ref 0).getD 0
  match new.regRate st with
  | some r => grainsOf (s.bookedTaps i c) r
  | none => s.bookedBy (s.chanOwner i) 1

/-- Correlation grains of the channels that count in a billet, under a costing. -/
def State.billetSum (s : State) (b : Nat) (cost : Nat → Chan → Nat) : Nat :=
  (s.chans.filter fun e => e.2.inBillet b).foldl (fun n e => n + cost e.1 e.2) 0

/-- Whether the rebooked channels fit their billets and the pool (rules R103, R111). -/
def State.rebookFits (s new : State) : Bool :=
  (List.range 16).all (fun b => decide (s.billetSum b (s.newGrains new) ≤ 37500)) &&
  decide (s.booked 1 + s.chans.foldl (fun n e => n + s.newGrains new e.1 e.2) 0
    ≤ poolCap 1 + s.chans.foldl (fun n e => n + s.bookedBy (s.chanOwner e.1) 1) 0)

/-- The commit check of a LANE page (rules R157, R159): `old` is the state before, `new` the state that all pages of
the commit will leave. -/
def checkLane (old new : State) (p : Nat) : Bool :=
  let n := p - 0x010
  let c := new.laneCfg n
  let sl := cfgSlots c
  let others := (List.range 8).filter (· != n)
  decide (fld (c.getD 1 0) 15 0 < 2 ^ cfgN c) &&
  sl.all (fun t => others.all fun m => !(cfgStreams (new.laneCfg m)).contains t.2.1) &&
  sl.all (fun t => sl.all fun u => t.2.1 != u.2.1 || t.2.2 == u.2.2) &&
  (cfgStreams (old.laneCfg n)).all (fun st =>
    (List.range 8).any (fun m => (cfgStreams (new.laneCfg m)).contains st) || old.usersOf st == 0) &&
  ((List.range 8).all fun m => m == n || !(new.ccGroup n).contains m ||
    (new.reg (lanePage m) 0x044 == new.reg (lanePage n) 0x044 && cfgVer (new.laneCfg m) == cfgVer c &&
     cfgFmt (new.laneCfg m) == cfgFmt c && fld ((new.laneCfg m).getD 0 0) 7 4 == fld (c.getD 0 0) 7 4)) &&
  (new.reg p 0x044 == 0 || old.rebookFits new)

/-- Rebook every channel at the nominal rate now applied (rules R102, R111). -/
def State.rebookLanes (s : State) : State :=
  s.chans.foldl (fun s e =>
    let own := s.chanOwner e.1
    s.rebook 1 (grainsOf (s.bookedTaps e.1 e.2) (s.streamRate e.2.prm.stream)) own
      (((s.cmd.books.find? fun b => b.own = own ∧ b.pool = 1).map (·.seq)).getD 0)) s

/-- What an applied commit of a LANE page does: rates, the lane's start or OFF, and a configuration that waits for its
applying frame (rules R160, R163, R170, R183). -/
def appliedLane (old : State) (p : Nat) (s : State) : State :=
  let n := p - 0x010
  let c := s.laneCfg n
  let nom := (s.reg p 0x044).toNat
  let on := s.enabled p && nom != 0
  let s0 := s.pace n
  let s1 := if c = old.laneCfg n then s0 else s0.modLane n fun x => { x with pend := some c }
  let s2 := if nom = 0 then s1 else s1.modLane n fun x => { x with lastNom := nom, bookCfg := c }
  let s3 := if nom ≠ 0 ∧ (c ≠ (old.lane n).bookCfg ∨ nom ≠ (old.lane n).lastNom) then s2.rebookLanes else s2
  let s4 := if s.reg p 0x064 = old.reg p 0x064 then s3 else
    (s3.modLane n fun x => { x with ccOk := false, ccRun := [] }).ccFell s3
  let s5 := if s.rf p 0x064 3 3 = 0 then (s4.setReg p 0x0C8 0).setReg p 0x0CC 0 else s4
  if on then (if (s5.lane n).st = .off then s5.laneTo n .acquire else s5)
  else (s5.laneTo n .off).modLane n fun x =>
    { x with fillRun := false, ended := false, everReal := false, gapPend := false, cand := false, edge := none }

/-- Live objects on a lane's streams (rule R181). -/
def liveLane (s : State) (p : Nat) : Bool :=
  (cfgStreams (s.laneCfg (p - 0x010))).any fun st => s.usersOf st != 0

/-- A soft reset of a LANE page: the lane is OFF at its reset values; the block count continues. -/
def resetLane (s : State) (p : Nat) : State :=
  let n := p - 0x010
  (s.setLane n { nextBlk := (s.lane n).nextBlk }).ccFell s

end Sys2Proof.Machine
end

