-- ==== Sys2Proof/Machine/FrontEnd.lean ====
section
/-! DEFINITION. Front-end control (rules R184 to R202, R222) and injection over the return lane (rules R203 to R211):
the link's transactions, the front-end's states, calibration, the gain loop, injection jobs, and the FEC and RLANE
pages. -/

namespace Sys2Proof.Machine

/-- The page of front-end n. -/
def fecPage (n : Nat) : Nat := 0x020 + n

/-- Change a front-end. -/
def State.modFec (s : State) (n : Nat) (f : Fec → Fec) : State := s.setFec n (f (s.fec n))

/-- Milliseconds and microseconds in time units. -/
def usUnits (n : Nat) : Nat := ofNs (1000 * n)

/-! ## The description table (rule R195) -/

def Fec.flags (x : Fec) : Nat := bytesNum x.table 0x0F 1
def Fec.hasGain (x : Fec) : Bool := x.flags.testBit 2
def Fec.hasTone (x : Fec) : Bool := x.flags.testBit 3
def Fec.hasTemp (x : Fec) : Bool := x.flags.testBit 4
def Fec.scriptN (x : Fec) : Nat := bytesNum x.table 0x24 1
def Fec.entryBase (x : Fec) : Nat := bytesNum x.table 0x16 2

/-- The table that FEDT_PTR names, if it passes its checks. -/
def State.fedt (s : State) (n : Nat) : Option (List Byte) :=
  let a := s.rf (fecPage n) 0x044 15 0
  let len := s.exNum a 6 2
  let l := s.exBytes a 0 len
  if s.exNum a 0 4 = 0x54444546 ∧ s.exNum a 4 1 = 1 ∧ 52 ≤ len ∧ len ≤ 180 ∧ len = 0x34 + 4 * s.exNum a 0x24 1
    ∧ s.exNum a 0x24 1 ≤ 32 ∧ crc32 (l.take (len - 4)) = bytesNum l (len - 4) 4
  then some l else none

/-! ## The link (rules R185 to R190) -/

/-- m of FnSCK = 1,250 MHz / 2m for a limit in kHz (rule R185). -/
def sckM (khz : Nat) : Nat := max 25 (min 6250 (ceilDiv 1250000 (2 * max 1 khz)))

/-- The bytes of a request (rule R187). -/
def UflReq.bytes (ver : Nat) (r : UflReq) : List Byte :=
  let len := if r.op = 2 then r.data.length else if r.op = 1 then r.rd else 0
  let long := ver == 2 && decide (len ≥ 15)
  let h : List Byte := [BitVec.ofNat 8 (r.op * 16 + (if long then 15 else min 15 len)), BitVec.ofNat 8 (r.adr / 256), BitVec.ofNat 8 r.adr]
    ++ (if long then [BitVec.ofNat 8 len] else []) ++ (if r.op = 2 then r.data else [])
  h ++ [BitVec.ofNat 8 (crc8 h)]

/-- Put the request at the head of a link's queue on the wire. -/
def State.uflGo (s : State) (n : Nat) : State :=
  match (s.fec n).q with
  | [] => s
  | r :: _ => s.emit (.ufl n (r.bytes (if r.tag = .discover then 1 else (s.fec n).ver)))

/-- Queue a request; an idle link sends it at once. -/
def State.uflSend (s : State) (n : Nat) (r : UflReq) : State :=
  let s1 := s.modFec n fun x => { x with q := x.q ++ [r] }
  if (s.fec n).q.isEmpty then (s1.modFec n fun x => { x with tries := 0, wait := false }).uflGo n else s1

/-- The head request is over; the next one goes out. -/
def State.uflNext (s : State) (n : Nat) : State :=
  (s.modFec n fun x => { x with q := x.q.tail, tries := 0, wait := false }).uflGo n

/-- Bytes of one read or write: 15 with version 1, up to 136 with version 2. -/
def Fec.chunk (x : Fec) : Nat := if x.ver = 2 then 136 else 15

/-- Read the plan and calibration fields of the applied entry (rule R197): bytes 0x00 to 0x87. -/
def State.readEntry (s : State) (n : Nat) : State :=
  let x := s.fec n
  let base := x.entryBase + 0x100 * x.entry
  (List.range (ceilDiv 136 x.chunk)).foldl (fun s i =>
    s.uflSend n { tag := .entry (i * x.chunk), op := 1, adr := base + i * x.chunk, rd := min x.chunk (136 - i * x.chunk) }) s

/-! ## Streams of a front-end's lane -/

/-- The streams of lane n with their bands. -/
def State.bandsOf (s : State) (n : Nat) : List (Nat × Nat) := ((cfgSlots (s.laneCfg n)).map fun t => (t.2.1, t.2.2)).dedup

/-- Byte k of a band in the applied entry. -/
def Fec.bandByte (x : Fec) (j off : Nat) : Nat := bytesNum x.tune (off + 16 * j) 1

/-- PRESENT bands of the applied entry. -/
def Fec.present (x : Fec) : List Nat := (List.range 8).filter fun j => (x.bandByte j 0x0F).testBit 0

/-- The applied entry's calibration may be used (rule R201). -/
def State.calUsable (s : State) (n : Nat) : Bool :=
  let x := s.fec n
  (bytesNum x.tune 0 1).testBit 1 &&
  (!x.hasTemp || match x.temp with
    | some t => decide ((t.toInt - signed 8 (bytesNum x.tune 1 1)).natAbs ≤ s.rf (fecPage n) 0x050 15 8)
    | none => false)

/-! ## States (rule R198) -/

/-- A front-end's state changes. -/
def State.fecTo (s : State) (n : Nat) (st : FecSt) : State :=
  if (s.fec n).st = st then s.modFec n fun x => { x with el := s.el }
  else (s.modFec n fun x => { x with st := st, el := s.el }).raise (fecPage n) 16

/-- FAULT with a code: the request on the wire ends, and of those behind it only keep-alives and raw requests remain (rules R192, R202). -/
def State.fecFault (s : State) (n code : Nat) : State :=
  let x := s.fec n
  let stays := fun (r : UflReq) => r.tag == .keepalive || r.tag == .raw
  let s1 := (s.capErr (fecPage n) code 0).modFec n fun x => { x with q := x.q.take 1 ++ (x.q.drop 1).filter stays }
  let s2 := if x.wait && !(x.q.take 1).any stays then s1.uflNext n else s1
  s2.fecTo n .fault

/-- Send TUNE with the applied entry (rule R198). -/
def State.fecTune (s : State) (n : Nat) : State :=
  let e := s.rf (fecPage n) 0x048 5 0
  let s1 := (s.modFec n fun x => { x with entry := e, lockEl := none, haveTune := false }).fecTo n .lockwait
  s1.uflSend n { tag := .tune, op := 5, adr := e }

/-- Write entry i of the power-up script, or after the last one wait. -/
def State.fecScript (s : State) (n i : Nat) : State :=
  let x := s.fec n
  let s1 := s.modFec n fun x => { x with scriptPos := i, el := s.el }
  if i ≥ x.scriptN then s1
  else s1.uflSend n { tag := .script i, op := 2, adr := bytesNum x.table (0x30 + 4 * i) 2, data := [x.table.getD (0x32 + 4 * i) 0] }

/-- The script runs from its first entry. -/
def State.fecPowerup (s : State) (n : Nat) : State := (s.fecTo n .powerup).fecScript n 0

/-- The DC mean of every stream on a lane restarts from the entry (rule R218). -/
def State.tuneDc (s : State) (n : Nat) : State :=
  let x := s.fec n
  (s.bandsOf n).foldl (fun s b => s.restartDc b.1
    (if (bytesNum x.tune 0 1).testBit 1 then some (signed 8 (x.bandByte b.2 0x14), signed 8 (x.bandByte b.2 0x15)) else none)) s

/-- The gain loops of a band's streams stand at a gain (rule R222). -/
def State.startGain (s : State) (n j g : Nat) : State :=
  ((s.bandsOf n).filter fun b => b.2 = j).foldl (fun s b => s.setChain b.1 { s.chain b.1 with feGain := g }) s

/-- Write the gain byte of a band (rule R202); it is the chain's gain from then on. -/
def State.writeGain (s : State) (n j g : Nat) : State :=
  let x := s.fec n
  (s.uflSend n { tag := .gain j, op := 2, adr := bytesNum x.table 0x18 2 + j, data := [BitVec.ofNat 8 g] }).startGain n j g

/-- READY after a TUNE with a usable calibration (rules R198, R222): GAIN_INIT is written per band. -/
def State.fecReadyInit (s : State) (n : Nat) : State :=
  let x := s.fec n
  let s1 := if x.hasGain then x.present.foldl (fun s j => s.writeGain n j (x.bandByte j 0x17)) s else s
  s1.fecTo n .ready

/-- READY after a TUNE otherwise: the gain loop starts from GAIN_INIT (rule R222), which the front-end has taken itself; nothing is
written (rule R198). -/
def State.fecReadyStart (s : State) (n : Nat) : State :=
  let x := s.fec n
  (x.present.foldl (fun s j => s.startGain n j (x.bandByte j 0x17)) s).fecTo n .ready

/-- The first whole heat from now. -/
def State.wholeHeat (s : State) : Nat := if s.atBoundary then s.heat else s.heat + 1

/-- A calibration starts (rule R200), with the tone where the front-end has one; `go` where the front-end is READY. -/
def State.calStart (s : State) (n : Nat) (go : Bool) : State :=
  let x := s.fec n
  let s1 := (s.modFec n fun x => { x with calStep := if x.hasTone then 1 else 4, calHeat := s.wholeHeat, calBad := false, calReps := 0,
                                          calBands := [], calQueued := false, calGo := go }).fecTo n .calibrate
  if x.hasTone then s1.uflSend n { tag := .tone true, op := 6, adr := 1 } else s1

/-- No injection job runs and the tail has ended, so that a calibration may start (rule R208); jobs that wait for the lock do not hold
it back (log entry 94). -/
def State.injQuiet (s : State) : Bool := s.rl.st == .idle && s.rl.jobs.all fun e => e.2.st == .pendingLock || e.2.st == .ending

/-- What LOCKWAIT does once LOCK is seen and the entry is read (rules R198, R208). -/
def State.fecLocked (s : State) (n : Nat) : State :=
  let x := s.fec n
  if x.st != .lockwait || !x.lock || x.lockEl.isNone || !x.haveTune || (x.hasTemp && x.temp.isNone) then s
  else if s.calUsable n then (s.modFec n fun x => { x with calStale := false }).fecReadyInit n
  else if s.rf (fecPage n) 0x048 8 8 = 0 then (s.modFec n fun x => { x with calStale := true }).fecReadyStart n
  else if s.injQuiet then s.calStart n false
  else (s.modFec n fun x => { x with calStale := true, calQueued := true }).fecReadyStart n

/-! ## Frames of the return lane (rules R203 to R206) -/

/-- A job by slot. -/
def State.inj (s : State) (k : Nat) : InjJob := Tab.get (fun _ => {}) s.rl.jobs k

/-- Write a job. -/
def State.setInj (s : State) (k : Nat) (j : InjJob) : State := { s with rl := { s.rl with jobs := Tab.ins s.rl.jobs k j } }

/-- A slot holds a job. -/
def State.hasInj (s : State) (k : Nat) : Bool := s.rl.jobs.any fun e => e.1 == k

/-- The front-end that carries the upconverter. -/
def State.injFec (s : State) : Nat := s.rf 0x018 0x040 18 16

/-- Bits of I and of Q, slots of a frame, and the frame's time: 4 + N·b bit times of half a clock of 1,250 MHz / CLK_DIV. -/
def State.rlBits (s : State) : Nat := fmtBits (s.rf 0x018 0x040 9 8)
def State.rlSlots (s : State) : Nat := s.rf 0x018 0x040 13 10 + 1
def State.frameTime (s : State) : Nat := (4 + s.rlSlots * s.rlBits) * s.rf 0x018 0x040 6 0 * (unitsPerNs / 5 * 2)

/-- Time of the 256 frames of a lead-in or a tail (rule R204). -/
def State.frames256 (s : State) : Nat := 256 * s.frameTime

/-- The header of a frame (rule R154), with odd parity. -/
def State.rlHeader (s : State) : Byte :=
  let v := s.rlSlots - 1 + s.rf 0x018 0x040 9 8 * 16
  let ones := (List.range 7).foldl (fun (a : Nat) k => a + b2n (v.testBit k)) 0
  BitVec.ofNat 8 (v + if ones % 2 = 0 then 128 else 0)

/-- The PRESENT band of the front-end whose plan a signal lies in: its carrier within half the bandwidth requested of the LO. -/
def Fec.bandFor (x : Fec) (code prn : Nat) : Option Nat :=
  x.present.find? fun j =>
    match sigOf code, x.lo j with
    | some g, some lo => decide (absRat (g.freq prn - lo) ≤ (x.bandByte j 0x0E * 125000 : Nat))
    | _, _ => false

/-- THE CODE GENERATOR (rule R206): the primary code at an instant of the time base in units, on its carrier at the band's offset, ATTEN
below full scale. Its epochs fall CODE_OFFSET after a whole second; component, full scale and the offset of the carrier are log entry 94. -/
def State.injCode (s : State) (j : InjJob) (at_ : Rat) : Cx :=
  let w := fun (k : Nat) => j.words.getD k 0
  let code := fld (w 3) 7 0
  let prn := fld (w 3) 15 8
  let g := (sigOf code).getD sigNone
  let x := s.fec s.injFec
  let fd : Rat := ((w 4).toInt : Rat) / 1000
  let t : Rat := at_ / (unitsPerNs * 10 ^ 9 : Nat) - (j.sec : Nat)
  let lo : Rat := (((x.bandFor code prn).bind x.lo)).getD (g.freq prn)
  let chips := t * (g.ncoLen * 1000 : Nat) / (g.tp : Nat) * (1 + fd / (g.freq prn)) - ((w 5).toNat * g.ncoScale : Nat) / (1024 : Nat)
  let amp := ((2 ^ (s.rlBits - 1) - 1 : Nat) : Rat) * pow10 (-((fld (w 3) 31 24 : Nat) : Rat) / 80)
  ((replica code prn (b2n g.searchPilot) none 0 false ⌊chips * (2 ^ 32 : Nat)⌋).mul (cis (phaseOf (((g.freq prn) - lo + fd) * t)))).scale amp

/-- A sample of a job: the code generator's, or one of its ring, whose layout the spec does not give and which is a free value (log
entry 94). -/
def State.injVal (s : State) (j : InjJob) (at_ : Rat) : Cx × State :=
  if (j.words.getD 3 0).getLsbD 16 then
    let v := s.free (2 ^ (2 * s.rlBits) - 1)
    (⟨signed s.rlBits (v % 2 ^ s.rlBits), signed s.rlBits (v / 2 ^ s.rlBits)⟩, s.bump)
  else (s.injCode j at_, s)

/-- ONE SAMPLE of the return lane (rule R205): the jobs' sum, which saturates at the format's range and is counted then. -/
def State.injSum (s : State) (at_ : Rat) : (Int × Int) × State :=
  let r := s.rl.jobs.foldl (fun (a : Cx × State) (e : Nat × InjJob) =>
    if e.2.st = .active then ((a.2.injVal e.2 at_).1.add a.1, (a.2.injVal e.2 at_).2) else a) ({}, s)
  let top : Int := 2 ^ (s.rlBits - 1)
  let v := (roundFree r.1.re, roundFree r.1.im)
  let c := (clampInt (-top) (top - 1) v.1, clampInt (-top) (top - 1) v.2)
  (c, if c = v then r.2 else r.2.count 0x018 0x04C)

/-- The first injected sample of a job leaves (step 4): the command completes with its slot. -/
def State.injActive (s : State) (k at_ : Nat) : State :=
  let j := s.inj k
  let s1 := s.setInj k { j with st := .active, winHeat := s.heat + 1, spoilt := false, badLanes := 0, sec := secOf at_ }
  match s1.jfind j.seq with
  | some e => if e.disp = .inFlight then s1.done e 4 k (s1.handleOf j.entry) else s1
  | none => s1

/-- The jobs in a state start: step 3 is complete and the lane sends data. -/
def State.injStarts (s : State) (st : InjSt) (at_ : Nat) : State :=
  s.rl.jobs.foldl (fun s (e : Nat × InjJob) => if e.2.st = st then (s.jstep e.2.seq 3 (s.heat + 1)).injActive e.1 at_ else s)
    { s with rl := { s.rl with st := .active } }

/-- ONE FRAME of the return lane (rules R203, R204): its RLFS edge's instant on the time base, its header, and the same stream in every
slot in order; zero samples outside ACTIVE. Jobs that join a running lane start with it. -/
def State.rlOne (s : State) : State :=
  let at_ := s.tb.now - (s.el - s.rl.next)
  let s1 := if s.rl.jobs.any fun e => e.2.st == .joining then s.injStarts .joining at_ else s
  let r := (List.range s.rlSlots).foldl (fun (a : List (Int × Int) × State) k =>
    if s1.rl.st = .active then
      let v := a.2.injSum ((at_ : Rat) + ((k * s.frameTime : Nat) : Rat) / (s.rlSlots : Nat))
      (a.1 ++ [v.1], v.2)
    else (a.1 ++ [(0, 0)], a.2)) ([], s1)
  let s2 := r.2.emit (.rlFrame at_ s.rlHeader r.1)
  { s2 with rl := { s2.rl with next := s.rl.next + s.frameTime } }

/-- The return lane comes up to now: the frames whose edges have passed; a lead-in or tail has 256. -/
def State.rlRun (s : State) : State :=
  let lim := if s.rl.st = .leadIn ∨ s.rl.st = .tail then min s.el (s.rl.el + s.frames256 - 1) else s.el
  if s.inReset ∨ s.rl.st = .idle ∨ lim < s.rl.next then s
  else (List.range ((lim - s.rl.next) / s.frameTime + 1)).foldl (fun s _ => s.rlOne) s

/-- RLCLK starts, and with it the lead-in (rule R204). -/
def State.rlStart (s : State) : State :=
  ({ s with rl := { s.rl with st := .leadIn, el := s.el, next := s.el } } : State).emit (.rlClock true)

/-- A job runs or is on its way to: it is neither waiting for the lock nor ending. -/
def InjJob.going (j : InjJob) : Bool := j.st != .ending && j.st != .pendingLock

/-- Injection jobs live in the sense of R208 and R211: every job that holds a slot. -/
def State.injLive (s : State) : Bool := !s.rl.jobs.isEmpty

/-- SUSPEND (rule R210): the jobs on front-end n stop with zero samples from the next frame, and their windows are discarded. -/
def State.suspendInj (s0 : State) (n : Nat) : State :=
  if s0.injFec ≠ n then s0
  else
    let s := s0.rlRun
    if !(s.rl.jobs.any fun (e : Nat × InjJob) => e.2.going && e.2.st != InjSt.suspended) then s
    else
      let fresh := !(s.reg 0x018 0x014).getLsbD 17
      ({ s with rl := { s.rl with
          st := if s.rl.st = RlSt.tail then RlSt.tail else RlSt.suspended,
          susp := if fresh then some s.heat else s.rl.susp,
          jobs := s.rl.jobs.map fun (e : Nat × InjJob) =>
            if e.2.going then (e.1, ({ e.2 with st := InjSt.suspended, cut := e.2.cut || e.2.st == InjSt.active } : InjJob)) else e } }).raise
        0x018 17

/-- A status byte (rules R189, R198): it was sent after the last TUNE where `after`. -/
def State.fecStatus (s : State) (n : Nat) (b : BitVec 8) (after : Bool) : State :=
  let x := s.fec n
  let lock := b.getLsbD 2
  let s1 := s.modFec n fun x => { x with
    lock := lock, injOn := b.getLsbD 4,
    lockEl := if x.st = .lockwait ∧ after ∧ lock ∧ x.lockEl.isNone then some s.el else x.lockEl }
  let s2 := if !lock || b.getLsbD 5 then s1.suspendInj n else s1
  if x.st = .ready ∧ lock = false then (s2.raise (fecPage n) 17).fecTo n .lockwait
  else if x.st = .ready ∧ b.getLsbD 5 = true then (s2.raise (fecPage n) 20).fecPowerup n
  else s2.fecLocked n

/-- FnSCK in kHz under the limits of LINK_CFG and the table (rule R185). -/
def State.sckOf (s : State) (n : Nat) : Nat :=
  1250000 / (2 * sckM (min (s.rf (fecPage n) 0x040 15 0) (bytesNum (s.fec n).table 0x10 2)))

/-- DISCOVER is answered (rules R191, R198). -/
def State.fecIdent (s : State) (n : Nat) (d : List Byte) : State :=
  let x := s.fec n
  let cap := if s.rf (fecPage n) 0x040 17 16 = 1 then 1 else 3
  let vers := Nat.land (Nat.land (bytesNum d 4 1) (bytesNum x.table 0x0C 1)) cap
  let s1 := s.setReg (fecPage n) 0x058 (BitVec.ofNat 32 (bytesNum d 0 4))
  if bytesNum d 0 4 ≠ bytesNum x.table 8 4 then s1.fecFault n 0x42
  else if x.flags.testBit 0 = false then s1.fecFault n 0x44
  else if vers = 0 then s1.fecFault n 0x43
  else
    (s1.modFec n fun x => { x with ver := if vers ≥ 2 then 2 else 1, sck := s.sckOf n }).fecPowerup n

/-- Replace bytes of the applied entry. -/
def putBytes (l : List Byte) (off : Nat) (d : List Byte) : List Byte :=
  (List.range (max l.length (off + d.length))).map fun i =>
    if off ≤ i ∧ i < off + d.length then d.getD (i - off) 0 else l.getD i 0

/-- A number as little-endian bytes. -/
def leBytes (n x : Nat) : List Byte := (List.range n).map fun i => BitVec.ofNat 8 (x / 2 ^ (8 * i))

/-- Step 5 of a calibration (rule R200): the C fields go to the applied entry, with the temperature of a STATUS. -/
def State.calWriteBack (s : State) (n : Nat) : State :=
  let x := s.fec n
  let t0 := putBytes x.tune 0 ([BitVec.ofNat 8 (Nat.lor (bytesNum x.tune 0 1) 2), x.temp.getD 0] ++ leBytes 2 x.calOsc.toNat
    ++ leBytes 4 (secOf s.tb.now % 2 ^ 32))
  let t1 := x.calBands.foldl (fun t b => putBytes t (0x10 + 16 * b.1) b.2) t0
  let base := x.entryBase + 0x100 * x.entry
  let s1 := s.modFec n fun x => { x with tune := t1 }
  let s2 := x.present.foldl (fun s j =>
    s.uflSend n { tag := .calBand, op := 2, adr := base + 0x10 + 16 * j, data := (t1.drop (0x10 + 16 * j)).take 7 }) s1
  s2.uflSend n { tag := .calWrite, op := 2, adr := base, data := t1.take 8 }

/-- A calibration ends, on a usable calibration or not, and the front-end goes to READY (rules R198, R200). -/
def State.calEnd (s : State) (n : Nat) (stale : Bool) : State :=
  let s1 := s.modFec n fun x => { x with calEl := s.el, calStep := 0, calBands := [], calStale := stale }
  (if (s.fec n).calGo then s1.fecTo n .ready else s1.fecReadyStart n).raise (fecPage n) 18

/-- A raw transaction ends (rules R202, R213). -/
def State.rawEnd (s : State) (n : Nat) (fail : Bool) : State :=
  (s.modFec n fun x => { x with rawDone := true, rawFail := fail }).raise (fecPage n) 21

/-- What a good answer to a request does. -/
def State.uflDone (s : State) (n : Nat) (r : UflReq) (d : List Byte) : State :=
  let x := s.fec n
  if x.st = .fault ∧ r.tag ≠ .raw then s
  else match r.tag with
  | .discover => if x.st = .discover then s.fecIdent n d else s
  | .script _ => s.modFec n fun x => { x with el := s.el }
  | .tune => (s.modFec n fun x => { x with el := s.el, pollEl := s.el, tune := [] }).readEntry n
  | .entry off =>
    let t := putBytes x.tune off d
    let s1 := s.modFec n fun x => { x with tune := t, haveTune := decide (t.length ≥ 136) }
    if t.length ≥ 136 then (s1.tuneDc n).fecLocked n else s1
  | .status =>
    let s1 := s.modFec n fun x => { x with temp := d.head?.map (·.setWidth 8) }
    if x.st = .calibrate ∧ x.calStep = 5 then s1.calWriteBack n else s1.fecLocked n
  | .calWrite => if x.st = .calibrate then s.calEnd n false else s
  | .raw => if r.op = 1 then (s.setReg (fecPage n) 0x074 (BitVec.ofNat 32 (bytesNum d 0 r.rd))).rawEnd n false
            else s.rawEnd n false
  | _ => s

/-- The interval since the last good transaction enters MAX_GAP (rules R192, R213). -/
def State.goodGap (s : State) (n : Nat) : State :=
  s.modFec n fun x => { x with
    goodEl := some s.el,
    maxGap := max x.maxGap (match x.goodEl with | some e => min 0xFFFF ((s.el - e) / usUnits 10) | none => 0) }

/-- A request has failed three retries (rules R190, R198). -/
def State.uflFailed (s : State) (n : Nat) (r : UflReq) : State :=
  let s1 := s.raise (fecPage n) 19
  let s2 := if r.tag = .raw then s1.rawEnd n true else s1
  match (s.fec n).st with
  | .powerup | .lockwait | .calibrate | .ready => (s2.fecFault n 0x40).uflNext n
  | .discover => (if r.tag = .discover then s2.modFec n fun x => { x with el := s.el } else s2).uflNext n
  | _ => s2.uflNext n

/-- Data bytes of the response to a request (rule R187). -/
def UflReq.respLen (r : UflReq) : Nat := if r.op = 1 then r.rd else if r.op = 0xF then 8 else if r.op = 3 then 1 else 0

/-- The CRC of a response is that of the bytes before it (rule R187). -/
def respCrc (resp : List Byte) : Bool := decide (2 ≤ resp.length) && (resp.getLastD 0).toNat == crc8 resp.dropLast

/-- TRANSACTION (R187 to R190): a transaction ends with the bytes of its response, or with none where no front-end answered. The status
byte of a refused request counts too (rule R198). -/
def execTransaction (link : Fin 8) (dt : Nat) (resp : List (BitVec 8)) (s : State) : Out :=
  let n := link.val
  let s1 := s.after dt
  let x := s1.fec n
  .next (if s1.inReset || x.wait then s1
    else match x.q with
    | [] => s1
    | r :: _ =>
      let status := resp.headD 0xFF
      let read := respCrc resp && status != 0xFF
      let after := r.tag != .tune && !(x.q.tail.any fun q => q.tag == .tune)
      if !read || status.getLsbD 1 || resp.length != r.respLen + 2 then
        let s2 := if read then s1.fecStatus n status after else s1
        if x.tries ≥ 3 then s2.uflFailed n r
        else s2.modFec n fun x => { x with wait := true, waitEl := s1.el }
      else
        (((s1.goodGap n).uflNext n).uflDone n r (resp.drop 1).dropLast).fecStatus n status after)

/-- RETRY (R190): 1 µs after a failed transaction it is sent again. -/
def execRetry (link : Fin 8) (dt : Nat) (s : State) : Out :=
  let n := link.val
  let s1 := s.after dt
  let x := s1.fec n
  .next (if s1.inReset || !x.wait || decide (s1.el < x.waitEl + usUnits 1) then s1
    else ((s1.modFec n fun x => { x with wait := false, tries := x.tries + 1 }).count (fecPage n) 0x06C).uflGo n)

/-- KEEPALIVE (R192): at each heat whose number is a multiple of 10, on every link whose front-end is not OFF. -/
def execKeepalive (link : Fin 8) (s : State) : Out :=
  let n := link.val
  .next (if s.inReset || (s.fec n).st == .off || s.heat % 10 != 0 || (s.fec n).kaHeat == some s.heat then s
    else (s.modFec n fun x => { x with kaHeat := some s.heat }).uflSend n { tag := .keepalive, op := 4, adr := 0 })

/-- DISCOVER_RETRY (R198): DISCOVER is sent again 100 ms after the last one failed. -/
def execDiscoverRetry (link : Fin 8) (dt : Nat) (s : State) : Out :=
  let n := link.val
  let s1 := s.after dt
  let x := s1.fec n
  .next (if s1.inReset || x.st != .discover || (x.q.any fun r => r.tag == .discover) || decide (s1.el < x.el + ofNs 100000000) then s1
    else (s1.modFec n fun x => { x with el := s1.el }).uflSend n { tag := .discover, op := 0xF, adr := 0 })

/-- SCRIPT_WAIT (R198): the wait after a script entry ends; after the last one and T_POWERUP_US, TUNE is sent. -/
def execScriptWait (link : Fin 8) (dt : Nat) (s : State) : Out :=
  let n := link.val
  let s1 := s.after dt
  let x := s1.fec n
  let i := x.scriptPos
  let last := decide (i + 1 ≥ x.scriptN)
  let us := (if x.scriptN = 0 then 0 else 10 * bytesNum x.table (0x33 + 4 * i) 1) + (if last then bytesNum x.table 0x12 2 else 0)
  .next (if s1.inReset || x.st != .powerup || (x.q.any fun r => r.tag == .script i) || decide (s1.el < x.el + usUnits us) then s1
    else if last then s1.fecTune n else s1.fecScript n (i + 1))

/-- STATUS (R198): every 10 µs in LOCKWAIT. -/
def execStatus (link : Fin 8) (dt : Nat) (s : State) : Out :=
  let n := link.val
  let s1 := s.after dt
  let x := s1.fec n
  .next (if s1.inReset || x.st != .lockwait || decide (s1.el < x.pollEl + usUnits 10) then s1
    else (s1.modFec n fun x => { x with pollEl := s1.el }).uflSend n { tag := .status, op := 3, adr := 0 })

/-- LOCK_FAIL (R198): no LOCK by T_LOCK_MAX_US after TUNE, or after LOCK was lost (log entry 94). -/
def execLockFail (link : Fin 8) (dt : Nat) (s : State) : Out :=
  let n := link.val
  let s1 := s.after dt
  let x := s1.fec n
  .next (if s1.inReset || x.st != .lockwait || (x.lock && x.lockEl.isSome) || decide (s1.el < x.el + usUnits (bytesNum x.table 0x14 2)) then s1
    else s1.fecFault n 0x45)

/-- A calibration step ends (rule R200): its measurements enter, or it repeats after a heat without a QUALIFIED lane. -/
def State.calStepEnd (s : State) (n : Nat) (osc : BitVec 16) (bands : List CalMeas) : State :=
  let x := s.fec n
  if x.calBad then
    if x.calReps ≥ 16 then
      (s.capErr (fecPage n) 0x46 0).calEnd n true
    else s.modFec n fun x => { x with calBad := false, calReps := x.calReps + 1, calHeat := s.wholeHeat }
  else
    let own := bands.filter fun b => x.present.contains b.band.val
    let bytesOf := fun (j : Nat) => ((x.calBands.find? fun b => b.1 == j).map (·.2)).getD ((x.tune.drop (0x10 + 16 * j)).take 7)
    let next := s.modFec n fun x => { x with calStep := x.calStep + 1, calHeat := s.wholeHeat, calReps := 0 }
    match x.calStep with
    | 2 =>
      let bs := own.map fun b => (b.band.val, putBytes (bytesOf b.band.val) 0 (leBytes 2 b.amp.toNat ++ leBytes 2 b.phase.toNat ++ [b.dcI, b.dcQ]))
      (next.modFec n fun x => { x with calBands := bs, calOsc := osc }).uflSend n { tag := .tone false, op := 6, adr := 0 }
    | 4 =>
      let bs := own.map fun b => (b.band.val, putBytes (bytesOf b.band.val) 6 [b.bw])
      (next.modFec n fun x => { x with
        calBands := bs, calOsc := if x.hasTone then x.calOsc else BitVec.ofNat 16 (bytesNum x.tune 2 2) }).uflSend n
        { tag := .status, op := 3, adr := 0 }
    | _ => next

/-- Heats of a calibration step. -/
def calHeats (step : Nat) : Nat := if step = 2 ∨ step = 4 then 4 else 1

/-- CALIBRATION_STEP (R200): a step's heats have passed. -/
def execCalibrationStep (link : Fin 8) (osc : BitVec 16) (bands : List CalMeas) (s : State) : Out :=
  let n := link.val
  let x := s.fec n
  .next (if s.inReset || x.st != .calibrate || x.calStep == 0 || decide (5 ≤ x.calStep)
      || decide (s.heat < x.calHeat + calHeats x.calStep) then s
    else s.calStepEnd n osc bands)

/-! ## The gain loop (rule R222) -/

/-- FE_GAIN_LOOP (R222): a stream's period ends; OUTER of its last heat is compared with TGT_OUTER. -/
def execFeGainLoop (stream : Fin 32) (s : State) : Out :=
  let st := stream.val
  let c := s.chain st
  .next (match s.streamAt st with
    | none => s
    | some (n, j) =>
      let x := s.fec n
      if s.inReset || (s.cr st 0x00).getLsbD 1 == false || !x.hasGain || x.st != .ready || s.feHeld st
        || decide (c.fePer < fld (s.cr st 0x04) 27 24) then s
      else
        let outer := fld (s.cr st 0x18) 15 0
        let tgt := fld (s.cr st 0x04) 15 0
        let want : Int := (c.feGain : Int) + (if 4 * outer > 5 * tgt then -1 else if 10 * outer < 8 * tgt then 1 else 0)
        let g := clampInt (bytesNum x.table 0x1A 1) (bytesNum x.table 0x1B 1) want
        let run := if g = want then 0 else c.feClamp + 1
        let s1 := s.setChain st { c with fePer := 0, feClamp := run, feLimit := if g = want then false else c.feLimit || decide (run ≥ 8) }
        let s2 := if run = 8 then s1.raiseCr st 2 else s1
        if g.toNat = c.feGain then s2 else s2.writeGain n j g.toNat)

/-! ## Injection (rules R203 to R211) -/

/-- A signal lies on a band of a front-end (rule R206); before the plan is read it passes. -/
def Fec.onBand (x : Fec) (code prn : Nat) : Bool := !x.haveTune || (x.bandFor code prn).isSome

/-- Step 1 of INJ_START (rule R206): the status and detail that refuse it. -/
def State.injBad (s : State) (e : JEntry) : Option (Nat × Nat) :=
  let code := fld (e.w 3) 7 0
  let prn := fld (e.w 3) 15 8
  let buf := (e.w 3).getLsbD 16
  let x := s.fec s.injFec
  let log2 := fld (e.w 8) 3 0
  match badWord e [(3, 0xFF01FFFF), (4, 0xFFFFFFFF), (5, 0xFFFFFFFF), (6, 0xFFFF), (7, if buf then 0xFFFF else 0), (8, if buf then 0xF else 0)]
      [(3, prnOk code prn && x.onBand code prn), (4, decide ((e.w 4).toInt.natAbs ≤ 100000000)),
       (5, decide ((e.w 5).toNat < 1024 * ((sigOf code).map (·.len)).getD 0)),
       (6, fld (e.w 6) 7 0 != 0 && fld (e.w 6) 15 8 != 0), (8, !buf || decide (6 ≤ log2 ∧ log2 ≤ 14))] with
  | some n => some (stBAD_ARG, n)
  | none =>
    if x.flags.testBit 1 = false then some (stBAD_ARG, 3)
    else if s.rl.jobs.any fun j => j.2.st != .ending && fld (j.2.words.getD 3 0) 15 0 == fld (e.w 3) 15 0 then some (stBAD_ARG, 3)
    else if (List.range 8).any fun n => (e.w 6).getLsbD n && (s.lane n).st != .qualified then some (stNOT_QUALIFIED, 0)
    else if s.enabled 0x018 = false then some (stBUSY, 0)
    else match x.st with
      | .off | .discover | .powerup | .fault => some (stBUSY, 0)
      | _ => none

/-- A calibration is queued (rule R208). -/
def State.calWaits (s : State) : Bool := (List.range 8).any fun n => (s.fec n).calQueued

/-- Steps 1 and 2 of INJ_START: check, allocate, take a slot and wait for the lock. -/
def stepInjStart (s : State) (e : JEntry) : State :=
  match s.injBad e with
  | some (st, d) => s.refuse e st 1 d
  | none => match s.alloc 3 true false with
    | (none, s1) => s1.refuse e stNO_HANDLE 1 0
    | (some i, s1) =>
      let k := ((List.range 8).find? fun k => !s1.hasInj k).getD 0
      let s2 := s1.setInj k { entry := i, seq := e.seq, words := e.words, startEl := s1.el, behind := s1.calWaits }
      let s3 := { s2 with rl := { s2.rl with res := s2.rl.res.filter fun r => r.1 / 64 != k } }
      (s3.jmod e.seq fun y => { y with handle := s3.handleOf i, arg := k }).jstep e.seq 1 (s.heat + 1)

/-- The conditions of R207 for a job. -/
def State.injGo (s : State) (k : Nat) : Bool :=
  let x := s.fec s.injFec
  (x.st == .ready || x.st == .lockwait) && x.lock
  && !((List.range 8).any fun n => (s.fec n).st == .calibrate) && !((s.inj k).behind && s.calWaits) &&
  (match x.lockEl with
   | some l => decide (s.el ≥ max l x.calEl + usUnits (s.rf (fecPage s.injFec) 0x04C 25 16))
   | none => false)

/-- A window's results show FILLED (rule R209). -/
def State.fillResults (s : State) (k : Nat) : State :=
  let w := (s.inj k).words.getD 6 0
  (List.range 8).foldl (fun s n => (s.bandsOf n).foldl (fun (s : State) b =>
    if w.getLsbD n && w.getLsbD (8 + b.2) then
      let key := 64 * k + 8 * n + b.2
      { s with rl := { s.rl with res := Tab.ins s.rl.res key { Tab.get (fun _ => {}) s.rl.res key with filled := true } } }
    else s) s) s

/-- The window that a suspension discarded shows FILLED (rules R209, R210). -/
def State.cutWindow (s : State) (k : Nat) : State :=
  let j := s.inj k
  if j.cut then (s.setInj k { j with cut := false }).fillResults k else s

/-- A job enters step 3 (rules R204, R210, R211): with the lead-in, at the next frame of a running lane, ending a tail at once, or after the
tail where it waited when the last job ended. -/
def State.injEnter (s : State) (k : Nat) : State :=
  let j := s.inj k
  let put := fun (s : State) (st : InjSt) => s.setInj k { s.inj k with st := st }
  match s.rl.st with
  | .idle => (put s .leadIn).rlStart
  | .leadIn => put s .leadIn
  | .tail => if j.afterTail then put s .tailWait else put { s with rl := { s.rl with st := .active } } .joining
  | _ => put s .joining

/-- PENDING_LOCK (R207, R204, R210): the conditions hold for a waiting or a suspended job; INJ on is sent. The suspended jobs resume
together. -/
def execPendingLock (slot : Fin 8) (dt : Nat) (s : State) : Out :=
  let k := slot.val
  let s1 := (s.after dt).rlRun
  let j := s1.inj k
  .next (if s1.inReset || !s1.hasInj k || !s1.injGo k then s1
    else
      let s2 := s1.uflSend s1.injFec { tag := .inj true, op := 7, adr := 1 }
      match j.st with
      | .pendingLock =>
        if s1.el > j.startEl + usUnits (s1.rf (fecPage s1.injFec) 0x04C 13 0) then s1
        else ((s2.jstep j.seq 2 (s1.heat + 1)).injEnter k).rlRun
      | .suspended =>
        (s2.rl.jobs.foldl (fun s (e : Nat × InjJob) => if e.2.st = .suspended then (s.cutWindow e.1).injEnter e.1 else s) s2).rlRun
      | _ => s1)

/-- LOCK_TIMEOUT (R207): the lock timeout passes without the conditions; nothing is injected. -/
def execLockTimeout (slot : Fin 8) (dt : Nat) (s : State) : Out :=
  let k := slot.val
  let s1 := s.after dt
  let j := s1.inj k
  .next (if s1.inReset || !s1.hasInj k || j.st != .pendingLock || s1.injGo k
      || decide (s1.el < j.startEl + usUnits (s1.rf (fecPage s1.injFec) 0x04C 13 0)) then s1
    else
      let s2 := ({ s1 with rl := { s1.rl with jobs := Tab.del s1.rl.jobs k } }).freeNow j.entry
      match s2.jfind j.seq with
      | some e => s2.refuse e stLOCK_TIMEOUT 2 0
      | none => s2)

/-- LEAD_IN (R204): the 256 zero frames end. -/
def execLeadIn (dt : Nat) (s : State) : Out :=
  let s1 := (s.after dt).rlRun
  .next (if s1.inReset || s1.rl.st != .leadIn || decide (s1.el < s1.rl.el + s1.frames256) then s1
    else (s1.injStarts .leadIn (s1.tb.now - (s1.el - s1.rl.next))).rlRun)

/-- TAIL (R204, R211): the 256 zero frames end; RLCLK stops, or the lead-in of jobs that waited for it follows. -/
def execTail (dt : Nat) (s : State) : Out :=
  let s1 := (s.after dt).rlRun
  .next (if s1.inReset || s1.rl.st != .tail || decide (s1.el < s1.rl.el + s1.frames256) then s1
    else if s1.rl.jobs.any fun e => e.2.st == .tailWait then
      ({ s1 with rl := { s1.rl with
        st := .leadIn, el := s1.rl.next,
        jobs := s1.rl.jobs.map fun (e : Nat × InjJob) => if e.2.st = .tailWait then (e.1, { e.2 with st := .leadIn }) else e } } : State).rlRun
    else ({ s1 with rl := { s1.rl with st := .idle } } : State).emit (.rlClock false))

/-- SUSPEND set in this heat is taken back: a suspension and the end of the last job in one heat record no suspension (rule R211). -/
def State.unsuspend (s : State) : State :=
  if s.rl.susp = some s.heat then (s.setReg 0x018 0x014 (s.reg 0x018 0x014 &&& ~~~(BitVec.ofNat 32 (2 ^ 17)))).syncIrq else s

/-- Step 1 of INJ_STOP (rule R131): the entry is DYING and the job sends its last sample, that of the frame in progress; after the last job
the tail follows, and jobs in step 2 wait for it (rule R211). -/
def State.injStop (s0 : State) (i : Nat) : State :=
  let s := s0.rlRun
  let jobs := s.rl.jobs.map fun (e : Nat × InjJob) => if e.2.entry = i then (e.1, { e.2 with st := .ending, cut := false }) else e
  let s1 : State := { s with rl := { s.rl with jobs := jobs } }
  if jobs.any (fun e => e.2.going) || s.rl.st == .idle || s.rl.st == .tail then s1
  else ({ s1 with rl := { s1.rl with
    st := .tail, el := s.rl.next,
    jobs := jobs.map fun (e : Nat × InjJob) => if e.2.st = .pendingLock then (e.1, { e.2 with afterTail := true }) else e } } : State).unsuspend

/-- The tail that an ending job waits for still runs. -/
def State.injTailing (s : State) : Bool := s.rl.st == .tail

/-- The slot of an ended job becomes free; its results stay readable. -/
def State.dropInj (s : State) (i : Nat) : State := { s with rl := { s.rl with jobs := s.rl.jobs.filter fun e => e.2.entry != i } }

/-- At a quench every job stops with the tail, jobs that wait go, INJ off is sent, and the entries are DYING (rules
R210, R574). -/
def State.quenchInj (s : State) : State :=
  if s.rl.jobs.isEmpty then s
  else
    let s1 := s.rl.jobs.foldl (fun s e => (s.injStop e.2.entry).dying e.2.entry) s
    s1.uflSend s1.injFec { tag := .inj false, op := 7, adr := 0 }

/-- Whether a lane spoils the windows of the heat that ended: not QUALIFIED at some time of it, or with a filled sample (rule R209). -/
def State.laneSpoils (s : State) (n : Nat) : Bool :=
  (s.lane n).unq || (cfgStreams (s.lane n).cfg).any fun st => (s.chain st).filled

/-- A job repeated samples of its ring (rules R205, R209): they are counted, UNDERRUN is raised, and the window is spoilt. -/
def State.injUnderrun (s : State) (k n : Nat) : State :=
  let j := s.inj k
  if j.st = .active ∧ (j.words.getD 3 0).getLsbD 16 ∧ n ≠ 0 then
    ((List.range n).foldl (fun s _ => s.count 0x018 0x048) (s.setInj k { j with spoilt := j.spoilt || decide (j.winHeat < s.heat) })).raise 0x018 18
  else s

/-- The end of a heat for injection: repeated samples, the windows that contain the heat where it spoils them, and the windows that
suspensions cut. -/
def State.endInjHeat (s : State) (repeats : List (Fin 8 × Nat)) : State :=
  let s1 := repeats.foldl (fun s x => s.injUnderrun x.1.val x.2) s
  let bad : BitVec 8 := BitVec.ofNat 8 ((List.range 8).foldl (fun m n => if s.laneSpoils n then m + 2 ^ n else m) 0)
  let s2 : State := { s1 with rl := { s1.rl with jobs := s1.rl.jobs.map fun (e : Nat × InjJob) =>
      if e.2.st = .active ∧ e.2.winHeat < s.heat then (e.1, { e.2 with badLanes := e.2.badLanes ||| bad }) else e } }
  s2.rl.jobs.foldl (fun s e => s.cutWindow e.1) s2

/-- The result of one lane and band of a window. -/
def State.injResult (s : State) (k : Nat) (m : InjMeas) : State :=
  let j := s.inj k
  let n := m.lane.val
  if !((j.words.getD 6 0).getLsbD n && (j.words.getD 6 0).getLsbD (8 + m.band.val) && (s.bandsOf n).any fun b => b.2 == m.band.val) then s
  else
    let key := 64 * k + 8 * n + m.band.val
    let r := Tab.get (fun _ => {}) s.rl.res key
    let path := signed 32 (bytesNum (s.fec s.injFec).table 0x1C 4)
    let r1 : InjRes := if j.spoilt || j.badLanes.getLsbD n then { r with filled := true }
      else { delay := m.delay - path, cn0 := m.cn0.toNat, valid := true, filled := false, windows := min 0xFFFF (r.windows + 1),
             heat := s.heat - 1 }
    { s with rl := { s.rl with res := Tab.ins s.rl.res key r1 } }

/-- RESULT (R209): a window of 100 heats of a job ends. -/
def execResult (slot : Fin 8) (meas : List InjMeas) (s : State) : Out :=
  let k := slot.val
  let j := s.inj k
  .next (if s.inReset || j.st != .active || decide (s.heat < j.winHeat + 100) then s
    else
      let s1 := meas.foldl (fun s m => s.injResult k m) s
      (s1.setInj k { j with winHeat := s.heat, spoilt := false, badLanes := 0 }).raise 0x018 16)

/-! ## Boundary work -/

/-- A queued calibration starts once no injection job lives but those that wait behind it, and the tail has ended (rule R208). -/
def State.queuedCal (s : State) : State :=
  if s.rl.st != .idle || s.rl.jobs.any (fun e => !e.2.behind) then s
  else (List.range 8).foldl (fun s n => if (s.fec n).calQueued && (s.fec n).st == .ready then s.calStart n true else s) s

/-- A measuring heat without a QUALIFIED lane spoils its calibration step (rule R200). -/
def State.endCalHeat (s : State) : State :=
  (List.range 8).foldl (fun s n =>
    let x := s.fec n
    if x.st = .calibrate ∧ (x.calStep = 2 ∨ x.calStep = 4) ∧ x.calHeat < s.heat ∧ (s.lane n).unq = true then
      s.modFec n fun x => { x with calBad := true } else s) s

/-! ## The FEC page (rules R196, R199, R202, R212, R213) -/

/-- STATE codes. -/
def FecSt.code : FecSt → Nat
  | .off => 0 | .discover => 1 | .powerup => 2 | .lockwait => 3 | .calibrate => 4 | .ready => 5 | .fault => 6

/-- Registers of a FEC page computed from the state. -/
def viewFec (s : State) (p off : Nat) : Option Word :=
  let x := s.fec (p - 0x020)
  if off = 0x054 then some (BitVec.ofNat 32 (x.st.code + x.ver * 16 + x.entry * 256 + b2n x.lock * 65536
    + b2n (x.st == .calibrate) * 2 ^ 17 + b2n x.calStale * 2 ^ 18 + b2n x.calQueued * 2 ^ 19 + b2n x.injOn * 2 ^ 20))
  else if off = 0x05C then some (BitVec.ofNat 32 (bytesNum x.table 0x0C 1 + x.flags * 256 + bytesNum x.table 0x0D 1 % 4 * 2 ^ 16
    + bytesNum x.table 0x0E 1 % 8 * 2 ^ 18))
  else if off = 0x060 then some (BitVec.ofNat 32 x.sck)
  else if off = 0x064 then some (BitVec.ofNat 32 x.maxGap)
  else if off = 0x068 then some (BitVec.ofNat 32 ((x.temp.map (·.toNat)).getD 0 + b2n (x.hasTemp && x.temp.isSome) * 256))
  else if off = 0x070 then
    some ((s.reg p off &&& 0x000FFFFF) ||| BitVec.ofNat 32 (b2n x.rawDone * 2 ^ 21 + b2n x.rawFail * 2 ^ 22))
  else none

/-- Bytes a raw write may not touch: the gain bytes and the applied tuning entry (rule R202); without a table there are none. -/
def State.guarded (s : State) (n adr len : Nat) : Bool :=
  let x := s.fec n
  let hit := fun (lo n : Nat) => decide (adr < lo + n ∧ lo < adr + len)
  !x.table.isEmpty && (hit (bytesNum x.table 0x18 2) 8 || hit (x.entryBase + 0x100 * s.rf (fecPage n) 0x048 5 0) 256)

/-- Refusals of writes to a FEC page: RAW_CTL.GO (rule R202). -/
def violFec (s : State) (p off : Nat) (v : Word) : Viol :=
  let x := s.fec (p - 0x020)
  if off = 0x070 ∧ v.getLsbD 20 = true ∧
      ((x.st ≠ .ready ∧ x.st ≠ .fault) ∨ (v.getLsbD 19 = true ∧ s.guarded (p - 0x020) (fld v 15 0) (fld v 18 16) = true))
  then [(20, 0x07)] else []

/-- What a taken write to a FEC page does: CAL_CTL.GO, RAW_CTL.GO and MAX_GAP.CLR. -/
def takenFec (s : State) (p off : Nat) (v : Word) : State :=
  let n := p - 0x020
  let x := s.fec n
  if off = 0x050 ∧ v.getLsbD 0 = true then
    if s.injLive ∨ s.rl.st = .tail then s.modFec n fun x => { x with calQueued := true }
    else if x.st = .ready then s.calStart n true else s
  else if off = 0x064 ∧ v.getLsbD 31 = true then s.modFec n fun x => { x with maxGap := 0 }
  else if off = 0x070 ∧ v.getLsbD 20 = true then
    let len := fld v 18 16
    let r : UflReq := if v.getLsbD 19 then
        { tag := .raw, op := 2, adr := fld v 15 0, data := leBytes len (s.reg p 0x074).toNat }
      else { tag := .raw, op := 1, adr := fld v 15 0, rd := len }
    (s.modFec n fun x => { x with rawDone := false, rawFail := false }).uflSend n r
  else s

/-- The commit check of a FEC page (rule R199). -/
def checkFec (old new : State) (p : Nat) : Bool :=
  let n := p - 0x020
  let tune := old.reg p 0x048 != new.reg p 0x048
  let ptr := old.reg p 0x044 != new.reg p 0x044
  let x := old.fec n
  !(tune || ptr) ||
  (!(cfgStreams (old.laneCfg n)).any (fun st => old.usersOf st != 0) && !(old.injLive && old.injFec == n)
    && x.st != .calibrate && !(ptr && x.st != .off))

/-- The lane check that a READY front-end adds (rule R196). -/
def checkLaneFec (new : State) (p : Nat) : Bool :=
  let n := p - 0x010
  let x := new.fec n
  let c := new.laneCfg n
  x.st != .ready || ((bytesNum x.table 0x0D 1).testBit (cfgVer c) && (bytesNum x.table 0x0E 1).testBit (cfgFmt c))

/-- A front-end goes OFF: SAFE is sent and all traffic stops. -/
def State.fecOff (s : State) (n : Nat) : State :=
  let x := s.fec n
  if x.st = .off then s
  else
    let safe : UflReq := { tag := .raw, op := 8, adr := 0 }
    let s1 := ((s.suspendInj n).emit (.ufl n (safe.bytes (max 1 x.ver)))).fecTo n .off
    s1.setFec n { el := s.el, maxGap := x.maxGap, rawDone := x.rawDone, rawFail := x.rawFail }

/-- What an applied commit of a FEC page does (rule R198). -/
def appliedFec (old : State) (p : Nat) (s : State) : State :=
  let n := p - 0x020
  let x := s.fec n
  if s.enabled p = false then s.fecOff n
  else if x.st = .off ∧ s.rf p 0x044 15 0 ≠ 0 then
    match s.fedt n with
    | none => s.fecFault n 0x41
    | some l =>
      ((((s.meetEx (s.rf p 0x044 15 0) (ceilDiv l.length 8)).modFec n fun x => { x with table := l }).fecTo n .discover).uflSend n { tag := .discover, op := 0xF, adr := 0 }).modFec n
        fun x => { x with sck := 1000 }
  else
    let s1 := if x.ver = 0 then s else s.modFec n fun y => { y with sck := s.sckOf n }
    if x.st = .ready ∧ s.reg p 0x048 ≠ old.reg p 0x048 then s1.fecTune n else s1

/-- A soft reset of a FEC page. -/
def resetFec (s : State) (p : Nat) : State := (s.fecOff (p - 0x020)).setFec (p - 0x020) {}

/-- An injection job counts as a live handle of its front-end. -/
def liveFec (s : State) (p : Nat) : Bool := s.injLive && s.injFec == p - 0x020

/-- PG_STAT block bits of a FEC page. -/
def statFec (s : State) (p : Nat) : Word := BitVec.ofNat 32 ((s.fec (p - 0x020)).st.code * 256)

/-! ## The RLANE page (rules R211, R214, R215) -/

/-- STATE codes. -/
def RlSt.code : RlSt → Nat
  | .idle => 0 | .leadIn => 1 | .active => 2 | .tail => 3 | .suspended => 4

/-- Registers of the RLANE page computed from the state. -/
def viewRlane (s : State) (off : Nat) : Option Word :=
  let sel := s.reg 0x018 0x050
  let r := Tab.get (fun _ => {}) s.rl.res (64 * fld sel 8 6 + 8 * fld sel 5 3 + fld sel 2 0)
  let bits := fun (f : InjJob → Bool) => s.rl.jobs.foldl (fun m e => if f e.2 then m + 2 ^ e.1 else m) 0
  if off = 0x044 then
    some (BitVec.ofNat 32 (s.rl.st.code + bits (fun j => j.going) * 16 + bits (fun j => j.st == .pendingLock) * 2 ^ 12))
  else if off = 0x054 then some (satWord r.delay)
  else if off = 0x058 then
    some (BitVec.ofNat 32 (r.cn0 % 1024 + b2n r.valid * 1024 + b2n r.filled * 2048 + r.windows * 65536))
  else if off = 0x05C then some (BitVec.ofNat 32 r.heat)
  else none

/-- The commit check of the RLANE page (rule R211). -/
def checkRlane (old new : State) : Bool := !old.injLive || (old.reg 0x018 0x040 == new.reg 0x018 0x040 && new.enabled 0x018)

/-- A soft reset of the RLANE page. -/
def resetRlane (s : State) : State :=
  let s1 := s.rlRun
  { (if s1.rl.st = .idle then s1 else s1.emit (.rlClock false)) with rl := {} }

/-- PG_STAT block bits of the RLANE page. -/
def statRlane (s : State) : Word := BitVec.ofNat 32 (s.rl.st.code * 256)

end Sys2Proof.Machine
end

