-- ==== Sys2Proof/Machine/Loops.lean ====
section
/-! DEFINITION. What the cores do with a channel's dumps (rules R292 to R298, R303 to R306): synchronisation, coherent integration,
C/N0, lock indicators, discriminators and loops. -/

namespace Sys2Proof.Machine

/-! ## Lengths and bandwidths (rules R293 to R296, R304) -/

/-- Symbol duration in ms (rules R273, R304). -/
def symMs (code prn : Nat) : Nat :=
  let fast := (code == 0x30 || code == 0x34) && (decide (prn ≤ 5) || decide (59 ≤ prn))
  if fast then 2 else ((sigOf code).map fun g => 1000 / g.syms).getD 20

/-- Primary periods in a symbol. -/
def Chan.symN (c : Chan) : Nat := max 1 (symMs c.prm.signal c.prm.prn / max 1 c.sig.tp)

/-- The coherent length in use, in ms (rule R304). -/
def Chan.tcUse (c : Chan) : Nat :=
  let g := c.sig
  if g.pilot then (if c.secSync then c.prm.tcPilot else g.tp)
  else if c.bitSync then
    let d := symMs c.prm.signal c.prm.prn
    ((List.range (c.prm.tcData / g.tp)).foldl (fun b k => if d % ((k + 1) * g.tp) = 0 then (k + 1) * g.tp else b) g.tp)
  else g.tp

/-- Largest PLL or FLL bandwidth in Hz: its maximum in 0.25 Hz and the bound 0.25 / Tc (rule R293). -/
def Chan.bwLim (c : Chan) (max25 : Nat) : Rat := min ((max25 : Nat) / 4) (250 / (c.tcUse : Nat))

/-- PLL bandwidth of grid step k (rule R294); the bound wins over the minimum. -/
def State.pllBw (s : State) (c : Chan) (k : Nat) : Rat :=
  let lo : Rat := ((s.rf 0x060 0x040 7 0 : Nat) : Rat) / 4
  min (c.bwLim c.prm.pllMax) (lo * (5 / 4 : Rat) ^ k)

/-- The highest grid step within the limit. -/
def State.pllTop (s : State) (c : Chan) : Nat :=
  (List.range 17).foldl (fun b k => if ((s.rf 0x060 0x040 7 0 : Nat) : Rat) / 4 * (5 / 4 : Rat) ^ k ≤ c.bwLim c.prm.pllMax then k else b) 0

/-- The phase-error variance that the PLL would have at a bandwidth (rule R294). -/
def Chan.pllVar (c : Chan) (bn : Rat) : Rat :=
  let n := pow10 ((c.cn0 : Rat) / 100)
  let tc : Rat := (c.tcUse : Rat) / 1000
  let w0 := bn / (7845 / 10000)
  let t := bn / n * (if c.sig.pilot then 1 else 1 + 1 / (2 * tc * n))
  let d := 2 * Config.pi * c.jerk / (w0 * w0 * w0)
  t + d * d

/-- The grid step with the smallest variance, the lowest of equal ones (rule R294). -/
def State.pllTarget (s : State) (c : Chan) : Nat :=
  (List.range (s.pllTop c + 1)).foldl (fun b k => if c.pllVar (s.pllBw c k) < c.pllVar (s.pllBw c b) then k else b) 0

/-- The grid step of the next update: at most one towards the target (rule R294). -/
def State.pllStep (s : State) (c : Chan) : Nat :=
  let t := s.pllTarget c
  min (s.pllTop c) (if c.bw < t then c.bw + 1 else if t < c.bw then c.bw - 1 else c.bw)

/-- The FLL's bandwidth in use in Hz (rules R293, R296): its own in PULLIN's FLL stage, FLL_MIN while it assists. -/
def State.fllBw (s : State) (c : Chan) (assist : Bool) : Rat :=
  min (c.bwLim c.prm.fllMax) (if assist then ((s.rf 0x060 0x040 23 16 : Nat) : Rat) / 4 else c.fll)

/-- FLL bandwidth after 20 updates (rule R296): half, but not below FLL_MIN, and never raised. -/
def State.fllHalf (s : State) (b : Rat) : Rat :=
  let lo : Rat := ((s.rf 0x060 0x040 23 16 : Nat) : Rat) / 4
  if b ≤ lo then b else max lo (b / 2)

/-- The DLL's bandwidth in Hz (rules R293, R295). -/
def State.dllBw (s : State) (c : Chan) : Rat :=
  let top : Rat := min ((c.prm.dllMax : Rat) / 100) (100 / (c.tcUse : Nat))
  if c.st = .pullin then top
  else min top (max (((s.rf 0x060 0x044 15 0 : Nat) : Rat) / 100) ((c.prm.dllMax : Rat) / 100 * pow10 (((c.cn0 : Int) - 450 : Int) / 200)))

/-! ## C/N0 (rule R297) -/

/-- C/N0 in 0.1 dB-Hz from the second and fourth moments of a prompt of `tp` ms: with Pd = √(2·M2² − M4) the signal's and M2 − Pd the noise's
power (log entry 88). -/
def cn0Of (m2 m4 : Rat) (tp : Nat) : Nat :=
  let d := 2 * m2 * m2 - m4
  if d ≤ 0 then 0
  else
    let pd : Rat := (sqrtScaled d 65536 : Nat) / 65536
    if m2 ≤ pd then 650 else (clampInt 0 650 (Config.decibel 10 (pd / (m2 - pd) * 1000 / (max 1 tp : Nat)))).toNat

/-- The moments of a dump's prompt, filtered with 100 ms. -/
def Chan.moments (c : Chan) (p : Cx) : Chan :=
  let a : Rat := min 1 ((c.sig.tp : Rat) / 100)
  let x := p.norm2
  let m2 := if c.m2 = 0 then x else c.m2 + (x - c.m2) * a
  let m4 := if c.m2 = 0 then x * x else c.m4 + (x * x - c.m4) * a
  { c with m2 := m2, m4 := m4, cn0 := cn0Of m2 m4 c.sig.tp }

/-! ## Synchronisation (rule R305) -/

/-- The prompt of the component that the taps carry. -/
def Dump.main (d : Dump) : Cx := ofNative (d.taps.headD 0)

/-- The prompt of the data component (rule R285). -/
def Chan.dataOf (c : Chan) (d : Dump) : Cx := if c.mainComp = 1 then ofNative d.data else d.main

/-- Correlation of signs, newest first, with a secondary code whose newest chip has index `o`, over the code period that begins `from_` chips back. -/
def secCorr (signs : List Bool) (code prn comp o from_ : Nat) : Rat :=
  let n := secLen code prn comp
  absRat (sumRat ((List.range n).map fun i =>
    pm (signs.getD (from_ + i) false) * secVal code prn comp ((o + 2 * n - from_ - i) % n)))

/-- The place in a secondary code of the newest of some signs: the first at which both of the last two code periods reach 0.9 of the code
(log entry 88). -/
def secAlign (signs : List Bool) (code prn comp : Nat) : Option Nat :=
  let n := secLen code prn comp
  let full := sumRat ((List.range n).map fun i => absRat (secVal code prn comp i))
  if signs.length < 2 * n then none
  else (List.range n).find? fun o =>
    decide (secCorr signs code prn comp o 0 * 10 ≥ 9 * full) && decide (secCorr signs code prn comp o n * 10 ≥ 9 * full)

/-- One dump in the histogram of prompt sign changes: over 100 symbols, BIT_SYNC where one position holds at least 60 % of the changes. -/
def Chan.histo (c : Chan) (per : Nat) (changed : Bool) : Chan :=
  let n := c.symN
  let h := if changed then Tab.set (fun _ => 0) c.hist (per % n) (Tab.get (fun _ => 0) c.hist (per % n) + 1) else c.hist
  if c.histN + 1 < 100 * n then { c with hist := h, histN := c.histN + 1 }
  else
    let at_ := fun (k : Nat) => Tab.get (fun _ => 0) h k
    let total := (List.range n).foldl (fun a k => a + at_ k) 0
    let best := (List.range n).foldl (fun b k => if at_ k > at_ b then k else b) 0
    let ok := decide (0 < total) && decide (10 * at_ best ≥ 6 * total)
    { c with hist := [], histN := 0, bitSync := ok, symOff := if ok then (n - best) % n else c.symOff }

/-- L2C's CL (rule R305): of 75 periods of CM the one in which CL's first segment correlates best begins CL. -/
def Chan.clSearch (c : Chan) (d : Dump) : Chan :=
  let p := (ofNative d.data).norm2
  let b := if c.clN = 0 ∨ p > c.clBest.1 then (p, d.per) else c.clBest
  if c.clN + 1 < 75 then { c with clBest := b, clN := c.clN + 1 }
  else { c with clBest := (0, 0), clN := 0, secSync := true, secOff := (75 - b.2 % 75) % 75 }

/-- SYMBOL AND SECONDARY SYNCHRONISATION with one dump (rule R305). -/
def Chan.syncDump (c : Chan) (d : Dump) : Chan :=
  let code := c.prm.signal
  let prn := c.prm.prn
  let ds := decide ((c.dataOf d).re < 0)
  let ms := decide (d.main.re < 0)
  let changed := ((c.signs.head?).map fun x => x.1 != ds).getD false
  let c1 := { c with signs := ((ds, ms) :: c.signs).take 200 }
  let np := secLen code prn 1
  let c2 := if isL2c code && !c.secSync then c1.clSearch d else c1
  if code = 0x44 then { c2 with bitSync := true }
  else if c.sig.pilot ∧ 2 ≤ np ∧ np ≤ 100 then
    if c.secSync then c2
    else match secAlign (c2.signs.map (·.2)) code prn 1 with
      | some o =>
        let off := (o + np - d.per % np) % np
        { c2 with secSync := true, secOff := off, bitSync := true, symOff := off % c.symN }
      | none => c2
  else if c.bitSync then c2
  else
    let nd := secLen code prn 0
    if nd = 1 then c2.histo d.per changed
    else match secAlign (c2.signs.map (·.1)) code prn 0 with
      | some o =>
        let off := (o + nd - d.per % nd) % nd
        { c2 with bitSync := true, symOff := off % c.symN, secOff := if c.sig.pilot then c2.secOff else off }
      | none => c2

/-! ## Coherent integration (rule R304) -/

/-- The secondary chip to strip from a period of the component that the taps carry; AltBOC's replica has it stripped. -/
def Chan.strip (c : Chan) (per : Nat) : Rat :=
  let np := secLen c.prm.signal c.prm.prn 1
  if c.sig.pilot then (if c.secSync ∧ np ≠ 1 ∧ c.prm.signal ≠ 0x23 then secVal c.prm.signal c.prm.prn 1 (per + c.secOff) else 1)
  else if c.bitSync then secVal c.prm.signal c.prm.prn 0 (per + c.secOff) else 1

/-- The data component's symbol in progress takes a dump after BIT_SYNC. -/
def Chan.addSym (c : Chan) (d : Dump) : Chan :=
  if !c.bitSync then c
  else
    let chip := secVal c.prm.signal c.prm.prn 0 (d.per + (if c.sig.pilot then c.symOff else c.secOff))
    let v := c.sym.add ((c.dataOf d).scale chip)
    if (d.per + c.symOff) % c.symN + 1 = c.symN then { c with sym := {}, symNow := v } else { c with sym := v }

/-- One dump enters the integration in progress; the answer holds the taps' sums where it ends one. On data alone each begins at a
symbol boundary. -/
def Chan.integrate (c : Chan) (d : Dump) : Chan × Option (List Cx) :=
  let n := max 1 (c.tcUse / max 1 c.sig.tp)
  let fresh := !c.sig.pilot && c.bitSync && (d.per + c.symOff) % c.symN % n == 0
  let old := if fresh then [] else c.isum
  let cnt := (if fresh then 0 else c.icnt) + 1
  let sums := addSums old (d.taps.map fun w => (ofNative w).scale (c.strip d.per))
  if cnt ≥ n then ({ c with isum := [], icnt := 0 }, some sums) else ({ c with isum := sums, icnt := cnt }, none)

/-! ## Discriminators (rule R292) -/

/-- The phase error in cycles: atan2(Q, I) on a pilot, atan(Q / I) on data alone. -/
def phaseErr (pilot : Bool) (p : Cx) : Rat := if pilot || decide (0 ≤ p.re) then Config.atan2 p.im p.re else Config.atan2 (-p.im) (-p.re)

/-- The frequency error in Hz over `tc` ms: the cross product of two integrations, normalised by their power; on data alone by the sign of
their dot product. -/
def freqErr (pilot : Bool) (a b : Cx) (tc : Nat) : Rat :=
  let cross := a.re * b.im - a.im * b.re
  let dot := a.re * b.re + a.im * b.im
  let pow := (a.norm2 + b.norm2) / 2
  if pow = 0 then 0 else (if !pilot && decide (dot < 0) then -cross else cross) / pow * 1000 / (2 * Config.pi * (max 1 tc : Nat))

/-- The code error in chips from the pair DLL_PAIR: (E² − L²) / (E² + L²), scaled to chips. -/
def Chan.codeErr (c : Chan) (sums : List Cx) : Rat :=
  let e := (sums.getD (2 * c.prm.dllPair - 1) {}).norm2
  let l := (sums.getD (2 * c.prm.dllPair) {}).norm2
  if e + l = 0 then 0 else (e - l) / (e + l) * Config.dllScale c.prm.signal ((2 * c.prm.dllPair * (c.prm.spc + 1) : Nat) / 64)

/-! ## Loop filters (rules R292, R294; log entry 88) -/

/-- The FLL, second order: an acceleration and a velocity integrator. -/
def Chan.runFll (c : Chan) (bn ef t : Rat) : Chan :=
  let w := bn / (53 / 100)
  let a := c.accl + w * w * ef * t
  let v := c.vel + (a + 1414 / 1000 * w * ef) * t
  { c with accl := a, vel := v, dop := v }

/-- The PLL, third order, with the FLL's assistance in its second integrator; the jerk it sees is filtered over 1 s. -/
def Chan.runPll (c : Chan) (bn e fbn ef t : Rat) : Chan :=
  let w := bn / (7845 / 10000)
  let a := c.accl + w * w * w * e * t
  let v := c.vel + (a + 11 / 10 * w * w * e + 1414 / 1000 * (fbn / (53 / 100)) * ef) * t
  { c with accl := a, vel := v, dop := v + 24 / 10 * w * e, jerk := c.jerk + (w * w * w * e - c.jerk) * min 1 t }

/-! ## Lock indicators (rule R298) -/

/-- PLOCK over the last 20 prompt integrations. -/
def plockOf (pilot : Bool) (prom : List Cx) (thr : Nat) : Bool :=
  decide (prom.length ≥ 20) &&
  decide (meanRat (prom.map fun p => if p.norm2 = 0 then 0 else (p.re * p.re - p.im * p.im) / p.norm2) ≥ (thr : Rat) / 64) &&
  (!pilot || decide (0 < meanRat (prom.map (·.re))))

/-- FLOCK over the last 20 updates. -/
def flockOf (fdis : List Rat) (tp : Nat) : Bool :=
  decide (fdis.length ≥ 20) && decide (meanRat (fdis.map fun x => x * x) < (1000 / (16 * max 1 tp : Nat) : Rat) ^ 2)

end Sys2Proof.Machine
end

