-- ==== Sys2Proof/Machine/Channel.lean ====
section
/-! DEFINITION. Tracking channels (rules R277 to R317): their commands, placement and migration (rules R115 to R117,
R289 to R291), what a heat does to a channel's state, vector coupling, and the BILL, TRK and VEC pages. -/

namespace Sys2Proof.Machine

/-! ## Parameters (rules R277, R281) -/

/-- A field of the arguments that fails its check (rules R277, R278, R281): the word's index. `m` is the selection mask
of CH_MODIFY, all ones for CH_CREATE; `taps` the channel's taps where they are not selected. -/
def chanBad (e : JEntry) (m : Nat) (modify : Bool) (taps : Nat) : Option Nat :=
  let sel := fun (k : Nat) (w : Word) => if m.testBit k then w else (0 : Word)
  let code := fld (e.w 3) 7 0
  let g := (sigOf code).getD sigNone
  let tp := fld (e.w 3) 25 22
  let t := if m.testBit 0 then tp else taps
  let pair := fld (e.w 4) 6 4
  let td := fld (e.w 4) 15 8
  let tq := fld (e.w 4) 23 16
  let full : Word := 0xFFFFFFFF
  badWord e
    [(3, 0x003FFFFF ||| sel 0 0xFFC00000), (4, sel 0 0x72 ||| sel 1 1 ||| sel 2 0xFFFF00 ||| sel 3 0x1F000000 ||| sel 6 4),
     (5, sel 6 full), (6, sel 6 0xFFFFFF), (7, sel 6 full), (8, sel 6 0x3FFFFFFF), (9, sel 6 0xFFFFF3FF), (10, sel 4 full),
     (11, sel 5 0xFF), (12, if modify then 0x7F else 0)]
    [(3, prnOk code (fld (e.w 3) 15 8) && decide (fld (e.w 3) 21 16 ≤ 39)), (3, !m.testBit 0 || decide (3 ≤ tp)),
     (4, decide (pair ≤ (t - 1) / 2)), (4, decide (td ≤ 20) && td % g.tp == 0), (4, decide (tq ≤ 200) && tq % g.tp == 0),
     (4, g.pilot || tq == 0), (4, decide (fld (e.w 4) 28 24 ≤ 30)), (5, decide ((e.w 5).toInt.natAbs ≤ 80000000)),
     (6, !m.testBit 6 || decide (fld (e.w 6) 23 0 < 64 * g.len)), (8, decide (fld (e.w 8) 29 0 ≤ 999999999)),
     (9, (e.w 4).getLsbD 2 || e.w 9 == 0), (9, decide (fld (e.w 9) 31 12 ≤ 100000)),
     (10, fld (e.w 10) 7 0 == 0 || decide (4 ≤ fld (e.w 10) 7 0 ∧ fld (e.w 10) 7 0 ≤ 160)),
     (10, fld (e.w 10) 15 8 == 0 || decide (4 ≤ fld (e.w 10) 15 8 ∧ fld (e.w 10) 15 8 ≤ 80)),
     (10, decide (fld (e.w 10) 31 16 ≤ 500))]

/-- A value, or its default where it is 0. -/
def orDef (x d : Nat) : Nat := if x = 0 then d else x

/-- The parameters after the selected arguments, defaults resolved. -/
def State.prmOf (s : State) (e : JEntry) (m : Nat) (b : ChanPrm) : ChanPrm :=
  let code := fld (e.w 3) 7 0
  let prn := fld (e.w 3) 15 8
  let pilot := ((sigOf code).map (·.pilot)).getD false
  let b0 := { b with signal := code, prn := prn, stream := fld (e.w 3) 21 16 }
  let b1 := if m.testBit 0 then { b0 with taps := fld (e.w 3) 25 22, spc := fld (e.w 3) 31 26, eprompt := (e.w 4).getLsbD 1,
                                          dllPair := orDef (fld (e.w 4) 6 4) 1 } else b0
  let b2 := if m.testBit 1 then { b1 with vec := (e.w 4).getLsbD 0 } else b1
  let b3 := if m.testBit 2 then { b2 with tcData := orDef (fld (e.w 4) 15 8) (min 20 (symMs code prn)),
                                          tcPilot := if pilot then orDef (fld (e.w 4) 23 16) 20 else 0 } else b2
  let b4 := if m.testBit 3 then { b3 with coastS := orDef (fld (e.w 4) 28 24) (s.rf 0x060 0x04C 24 20) } else b3
  let b5 := if m.testBit 4 then { b4 with pllMax := orDef (fld (e.w 10) 7 0) (s.rf 0x060 0x040 15 8),
                                          fllMax := orDef (fld (e.w 10) 15 8) (s.rf 0x060 0x040 31 24),
                                          dllMax := orDef (fld (e.w 10) 31 16) (s.rf 0x060 0x044 31 16) } else b4
  let b6 := if m.testBit 5 then { b5 with aMax := orDef (fld (e.w 11) 7 0) (s.rf 0x060 0x050 7 0) } else b5
  if m.testBit 6 then
    { b6 with aided := (e.w 4).getLsbD 2, doppler := (e.w 5).toInt, code := fld (e.w 6) 23 0, refSec := (e.w 7).toNat,
              refNs := fld (e.w 8) 29 0, codeUnc := (fld (e.w 9) 9 0 : Nat), doppUnc := (fld (e.w 9) 31 12 : Nat) }
  else b6

/-- The reference instant lies more than 60 s from the time base (rule R278). -/
def State.refFar (s : State) (e : JEntry) : Bool :=
  !(e.w 7 == 0 && fld (e.w 8) 29 0 == 0) &&
  (let now := toNs s.tb.now
   let ref := (secOf s.tb.now / 2 ^ 32 * 2 ^ 32 + (e.w 7).toNat) * 1000000000 + fld (e.w 8) 29 0
   decide (now + 60000000000 < ref ∨ ref + 60000000000 < now))

/-- The elements whose prompt taps a channel takes: the group's current members (rules R279, R287). -/
def State.elsOf (s : State) (st : Nat) (ep : Bool) : List Nat :=
  if ep then ((s.groupOut st).map fun e => e.2.members).getD [] else []

/-- Element prompt taps a channel takes. -/
def State.memOf (s : State) (st : Nat) (ep : Bool) : Nat := (s.elsOf st ep).length

/-- Live channels with MODE 1 (rule R278). -/
def State.vecChans (s : State) : Nat := (s.chans.filter fun e => e.2.prm.vec).length

/-! ## Billets (rules R103, R115 to R117, R288 to R290) -/

/-- Correlation grains booked for a channel. -/
def State.chanGrains (s : State) (i : Nat) : Nat := s.bookedBy (s.chanOwner i) 1

/-- Channels that count in a billet. -/
def State.billetChans (s : State) (b : Nat) : List (Nat × Chan) := s.chans.filter fun e => e.2.inBillet b

/-- Booked grains of a billet (rule R117). -/
def State.billetBooked (s : State) (b : Nat) : Nat := (s.billetChans b).foldl (fun n e => n + s.chanGrains e.1) 0

/-- The slots of a billet in use or reserved. -/
def State.slotsOf (s : State) (b : Nat) : List Nat :=
  s.chans.flatMap fun e => (if e.2.billet = b then [e.2.slot] else []) ++
    (match e.2.mig with | some (d, t, _) => if d = b then [t] else [] | none => [])

/-- QZSS L6 channels of a billet, each with a symbol unit (rule R288). -/
def State.l6Of (s : State) (b : Nat) : Nat := ((s.billetChans b).filter fun e => e.2.prm.signal = 0x44).length

/-- The lowest free slot of a billet. -/
def State.freeSlot (s : State) (b : Nat) : Option Nat :=
  let used := s.slotsOf b
  (List.range 256).find? fun t => !used.contains t

/-- A billet has a free slot and, for an L6 channel, a free symbol unit. -/
def State.billetHas (s : State) (b : Nat) (l6 : Bool) : Bool := (s.freeSlot b).isSome && (!l6 || decide (s.l6Of b < 4))

/-- The first of the billets with the least figure. -/
def leastOf (l : List Nat) (f : Nat → Nat) : Option Nat :=
  l.foldl (fun b x => match b with | none => some x | some y => if f x < f y then some x else some y) none

/-- The billet in which a channel is placed (rule R115). -/
def State.placeFor (s : State) (g : Nat) (l6 : Bool) : Option Nat :=
  leastOf ((List.range 16).filter fun b => s.billetHas b l6 && decide (s.billetBooked b + g ≤ 37500)) s.billetBooked

/-- The largest free grains of a billet that has the slot and unit (rule R108). -/
def State.mostFree (s : State) (l6 : Bool) : Nat :=
  ((List.range 16).filter fun b => s.billetHas b l6).foldl (fun m b => max m (37500 - s.billetBooked b)) 0

/-! ## CH_CREATE (rules R277 to R280) -/

/-- The refusals of R278: status and detail. -/
def State.chanRefused (s : State) (e : JEntry) : Option (Nat × Nat) :=
  match chanBad e 0x7F false 0 with
  | some n => some (stBAD_ARG, n)
  | none =>
    let st := fld (e.w 3) 21 16
    let ep := (e.w 4).getLsbD 1
    if !s.fits (fld (e.w 3) 7 0) (fld (e.w 3) 15 8) st then some (stBAD_ARG, 3)
    else if ep && decide (st < 32) then some (stBAD_ARG, 4)
    else if ep && decide (fld (e.w 3) 25 22 + s.memOf st true > 15) then some (stBAD_ARG, 3)
    else if s.refFar e then some (stBAD_ARG, 7)
    else if !s.streamQual st || (s.streamLo st).isNone then some (stNOT_QUALIFIED, 3)
    else if (e.w 4).getLsbD 0 && decide (s.vecChans ≥ 1024) then some (stBUSY, 1024)
    else none

/-- Firmware cycles of a channel (rule R104). -/
def cyclesOf (vec : Bool) : Nat := if vec then 500 else 300

/-- A new channel in a billet and slot, with the elements of its element prompt taps. -/
def newChan (prm : ChanPrm) (els : List Nat) (billet slot : Nat) : Chan :=
  { prm := prm, els := els, mem := els.length, billet := billet, slot := slot, dopp := prm.doppler }

/-- Steps 1 to 3 of CH_CREATE: book, allocate, program the slot. -/
def stepChCreate (s : State) (e : JEntry) : State :=
  match s.chanRefused e with
  | some (st, d) => s.refuse e st 1 d
  | none =>
    let prm := s.prmOf e 0x7F {}
    let els := s.elsOf prm.stream prm.eprompt
    let g := grainsOf (prm.taps + els.length) (s.streamRate prm.stream)
    let cy := cyclesOf prm.vec
    let l6 := prm.signal == 0x44
    if s.poolFree 1 < g then s.refuseBudget e 1 g (s.poolFree 1) false
    else if s.poolFree 3 < cy then s.refuseBudget e 3 cy (s.poolFree 3) false
    else match s.placeFor g l6 with
      | none => s.refuseBudget e 1 g (s.mostFree l6) true
      | some b =>
        let s1 := (s.book 1 g (.cmd e.seq) e.seq).book 3 cy (.cmd e.seq) e.seq
        match s1.alloc 1 true false with
        | (none, s2) => s2.refuse e stNO_HANDLE 2 0
        | (some i, s2) =>
          let s3 := (s2.chown (.cmd e.seq) (.entry i)).setChan i (newChan prm els b ((s.freeSlot b).getD 0))
          (s3.jmod e.seq fun y => { y with handle := s3.handleOf i, arg := i }).jstep e.seq 3 (s.heat + 1)

/-- What a channel is as it starts in PULLIN (rules R280, R299, R304): its NCOs start with its next sample, its loops and its
synchronisation from nothing. -/
def Chan.restart (c : Chan) (aided : Bool) (heat el : Nat) : Chan :=
  { prm := c.prm, mem := c.mem, els := c.els, billet := c.billet, slot := c.slot, mig := c.mig, excl := c.excl, exclHeat := c.exclHeat,
    tryEl := c.tryEl, lockedOnce := c.lockedOnce, flags := c.flags, eph := c.eph, torn := c.torn, slip := c.slip,
    aoaEl := c.aoaEl, aoaValid := c.aoaValid, aoaBad := c.aoaBad, aoaRun := c.aoaRun, rho := c.rho,
    st := .pullin, stage := if aided then 0 else 1, startHeat := heat, dopp := c.prm.doppler, fll := (c.prm.fllMax : Rat) / 4, usedEl := el }

/-- A channel starts in PULLIN. -/
def State.pullIn (s : State) (i : Nat) (aided : Bool) : State := s.modChan i fun c => c.restart aided s.heat s.el

/-- Step 4 of CH_CREATE: the first heat begins. -/
def runChan (s : State) (e : JEntry) : State :=
  let c := s.chan e.arg
  (s.pullIn e.arg c.prm.aided).done e 4 (c.billet + c.slot * 16) (s.handleOf e.arg)

/-! ## CH_MODIFY (rules R281, R282) -/

/-- Step 1 of CH_MODIFY: the status and detail that refuse it. -/
def State.modRefused (s : State) (e : JEntry) (c : Chan) : Option (Nat × Nat) :=
  let m := fld (e.w 12) 6 0
  if fld (e.w 3) 7 0 ≠ c.prm.signal ∨ fld (e.w 3) 15 8 ≠ c.prm.prn ∨ fld (e.w 3) 21 16 ≠ c.prm.stream then some (stBAD_ARG, 3)
  else match chanBad e m true c.prm.taps with
    | some n => some (stBAD_ARG, n)
    | none =>
      let st := c.prm.stream
      let ep := (e.w 4).getLsbD 1
      if ep && decide (st < 32) then some (stBAD_ARG, 4)
      else if ep && decide (fld (e.w 3) 25 22 + s.memOf st true > 15) then some (stBAD_ARG, 3)
      else if m.testBit 6 && s.refFar e then some (stBAD_ARG, 7)
      else if (e.w 4).getLsbD 0 && !c.prm.vec && decide (s.vecChans ≥ 1024) then some (stBUSY, 1024)
      else none

/-- The elements of a channel's element taps after a CH_MODIFY whose step 1 is taken now (rule R287). -/
def State.modEls (s : State) (c : Chan) (p : ChanPrm) (m : Nat) : List Nat := if m.testBit 0 then s.elsOf p.stream p.eprompt else c.els

/-- Steps 1 and 2 of CH_MODIFY: any increase is booked and the change staged. -/
def stepChModify (s : State) (e : JEntry) : State :=
  let i := e.idx
  let c := s.chan i
  match s.modRefused e c with
  | some (st, d) => s.refuse e st 1 d
  | none =>
    let m := fld (e.w 12) 6 0
    let p := s.prmOf e m c.prm
    let els := s.modEls c p m
    let g0 := s.chanGrains i
    let g := if m.testBit 0 then grainsOf (p.taps + els.length) (s.streamRate p.stream) else g0
    let own := s.chanOwner i
    let cy0 := s.bookedBy own 3
    let cy := cyclesOf p.vec
    let b := match c.mig with | some (d, _, _) => d | none => c.billet
    if g > g0 ∧ s.poolFree 1 < g - g0 then s.refuseBudget e 1 (g - g0) (s.poolFree 1) false
    else if cy > cy0 ∧ s.poolFree 3 < cy - cy0 then s.refuseBudget e 3 (cy - cy0) (s.poolFree 3) false
    else if g > g0 ∧ s.billetBooked b + (g - g0) > 37500 then s.refuseBudget e 1 (g - g0) (37500 - s.billetBooked b) true
    else
      let s1 := if g > g0 then s.rebook 1 g own e.seq else s
      ((if cy > cy0 then s1.rebook 3 cy own e.seq else s1).jmod e.seq fun y =>
        { y with arg := els.foldl (fun a k => a + 2 ^ k) 0 }).jstep e.seq 2 (s.heat + 1)

/-- A slip (rule R306): SLIP in the next record, the lock time restarts; on a Costas loop the sign is lost. -/
def State.slip (s : State) (i : Nat) : State :=
  let costas := !((sigOf (s.chan i).prm.signal).map (·.pilot)).getD false
  ((s.modChan i fun c => { c with slip := true, lockT := 0, halfRes := c.halfRes && !costas }).count 0x060 0x078).raise 0x060 18

/-- A slip where one occurred. -/
def State.slipIf (s : State) (i : Nat) (b : Bool) : State := if b then s.slip i else s

/-- Vector to scalar (rule R310): the integrators are loaded from the NCO rates in force. -/
def Chan.uncouple (c : Chan) (t : Tune) : Chan :=
  if !c.coupled then c
  else
    let fd : Rat := t.sg * (c.cfreq : Rat) / 65536 - (t.fc - t.lo)
    { c with coupled := false, ramp := 0, exclRun := 0, rel := 0, relC := 0, vel := fd, dop := fd, accl := 0, nco := none,
             ccor := (c.krate : Rat) / (2 ^ 24 : Nat) - (c.sig.chips : Rat) * (1 + fd / t.fc) }

/-- Uncouple a channel; PENDING_VEC shows as MODE 1 without coupling. -/
def State.uncouple (s : State) (i : Nat) : State := s.modChan i fun c => c.uncouple (s.tuneOf c)

/-- Step 3 of CH_MODIFY at the boundary: the change applies, with the element taps that step 1 found, and a decrease is released. -/
def applyModify (s : State) (e : JEntry) : State :=
  let i := e.idx
  let c := s.chan i
  let m := fld (e.w 12) 6 0
  let p := s.prmOf e m c.prm
  let els := if m.testBit 0 then maskEls e.arg else c.els
  let own := s.chanOwner i
  let s1 := if m.testBit 0 then s.rebook 1 (grainsOf (p.taps + els.length) (s.streamRate p.stream)) own e.seq else s
  let s2 := if m.testBit 1 then s1.rebook 3 (cyclesOf p.vec) own e.seq else s1
  let s3 := if p.vec then s2 else s2.uncouple i
  let keep := !m.testBit 0
  let s4 := s3.modChan i fun c => { c with
    prm := p, els := els, mem := els.length, excl := c.excl && p.vec,
    acc := if keep then c.acc else [], part := if keep then c.part else [], l6 := if keep then c.l6 else [],
    isum := if keep then c.isum else [], icnt := if keep then c.icnt else 0, dw := if keep then c.dw else [],
    dwN := if keep then c.dwN else 0 }
  let s5 := if m.testBit 6 then (s4.pullIn i p.aided).slip i else s4
  s5.done e 3 0 e.named

/-- A channel leaves its billet (rules R131, R289). -/
def State.dropChan (s : State) (i : Nat) : State := { s with chans := Tab.del s.chans i }

/-! ## Spawning and Anneal (rules R133, R266, R280, R567) -/

/-- Defaults of a channel without a command. -/
def State.defPrm (s : State) (code prn stream taps spc : Nat) (dopp : Int) (ph : Nat) : ChanPrm :=
  { signal := code, prn := prn, stream := stream, taps := taps, spc := spc, dllPair := 1,
    tcData := min 20 (symMs code prn), tcPilot := if ((sigOf code).map (·.pilot)).getD false then 20 else 0,
    coastS := s.rf 0x060 0x04C 24 20, doppler := dopp, code := ph, pllMax := s.rf 0x060 0x040 15 8,
    fllMax := s.rf 0x060 0x040 31 24, dllMax := s.rf 0x060 0x044 31 16, aMax := s.rf 0x060 0x050 7 0 }

/-- Admit, allocate and start a channel at a boundary (rule R133): the status, and the entry where it is OK. Anneal uses
BILL0 only (rule R565). -/
def State.makeChan (s : State) (prm : ChanPrm) (cls : Nat) (host : Bool) (seq : Word) : Nat × Option Nat × State :=
  let g := grainsOf prm.taps (s.streamRate prm.stream)
  if s.poolFree 1 < g ∨ s.poolFree 3 < 300 then (stNO_BUDGET, none, s)
  else match (if cls = 15 then (if s.billetHas 0 false && decide (s.billetBooked 0 + g ≤ 37500) then some 0 else none)
      else s.placeFor g (prm.signal == 0x44)) with
    | none => (stNO_BUDGET, none, s)
    | some b =>
      match s.alloc cls host (cls == 15) with
      | (none, s1) => (stNO_HANDLE, none, s1)
      | (some i, s1) =>
        let own := s1.chanOwner i
        let s2 := ((s1.book 1 g own seq).book 3 300 own seq).setChan i (newChan prm [] b ((s.freeSlot b).getD 0))
        (stOK, some i, s2.pullIn i prm.aided)

/-! ## Placement (rule R116) -/

/-- A command in flight on an entry. -/
def State.busyEntry (s : State) (i : Nat) : Bool := s.flights.any fun e => e.handle != 0 && hIdx e.handle == i || hIdx e.named == i && e.named != 0

/-- The channel that a run moves next between two billets: the largest cost within half the spread, lowest index; Anneal's
channels stay in BILL0 (rule R565). -/
def State.pickMove (s : State) (from_ to_ spread : Nat) : Option Nat :=
  (s.chans.filter fun e => e.2.billet = from_ && e.2.mig.isNone && s.isLive e.1 && (s.ent e.1).cls != 15 && !s.busyEntry e.1
      && decide (2 * s.chanGrains e.1 ≤ spread) && decide (s.billetBooked to_ + s.chanGrains e.1 ≤ 37500)
      && (e.2.prm.signal != 0x44 || decide (s.l6Of to_ < 4))).foldl
    (fun b e => match b with
      | none => some e.1
      | some i => if s.chanGrains e.1 > s.chanGrains i then some e.1 else some i) none

/-- Booked grains of a billet with the moves in progress counted as complete. -/
def State.billetAfter (s : State) (b : Nat) : Nat :=
  (s.chans.filter fun e => match e.2.mig with | some (d, _, _) => d = b | none => e.2.billet = b).foldl
    (fun n e => n + s.chanGrains e.1) 0

/-- The spread of the billets' bookings, from the highest to the lowest with a free slot (else the lowest), and the channel to
move to the latter while the spread exceeds `hyst`. -/
def State.nextMove (s : State) (hyst : Nat) : Nat × Option (Nat × Nat) :=
  let top := ((leastOf (List.range 16) fun b => 10 ^ 9 - s.billetAfter b).getD 0)
  match leastOf ((List.range 16).filter fun b => b != top && (s.freeSlot b).isSome) s.billetAfter with
  | none => (s.billetAfter top - ((leastOf (List.range 16) s.billetAfter).map s.billetAfter).getD 0, none)
  | some low =>
    let spread := s.billetAfter top - s.billetAfter low
    (spread, if spread ≤ hyst then none else (s.pickMove top low spread).map fun i => (i, low))

/-- One move of a run, where one is due; the number counts the moves made. -/
def moveOnce (hyst : Nat) (x : State × Nat) : State × Nat :=
  match (x.1.nextMove hyst).2 with
  | none => x
  | some m => (x.1.modChan m.1 fun c => { c with mig := some (m.2, (x.1.freeSlot m.2).getD 0, x.1.heat + 1) }, x.2 + 1)

/-- At most `n` moves of one run; the answer holds the number made and the spread. DESIGN CHOICE: the spread is the one left after
the moves; the spec does not say which of a run's PLACE_STAT.SPREAD shows (rules R117, R143, log entry 93). -/
def State.moves (n : Nat) (s : State) (hyst : Nat) : Nat × Nat × State :=
  let r := (List.range n).foldl (fun x _ => moveOnce hyst x) (s, 0)
  (r.2, (r.1.nextMove hyst).1, r.1)

/-- PLACEMENT (R116): one run of the loop in a heat whose number is a multiple of PERIOD. -/
def execPlacement (s : State) : Out :=
  let cfg := s.reg 0x001 0x070
  .next (if s.inReset || !s.tb.everLocked || fld cfg 0 0 == 0 || s.heat % max 1 (fld cfg 15 8) != 0 || s.placeHeat == s.heat
      || !decide (s.fault.phase = .run) then s
    else
      let r := s.moves (fld cfg 7 4) (fld cfg 31 16)
      { (r.2.2.setReg 0x001 0x074 (BitVec.ofNat 32 ((s.rf 0x001 0x074 15 0 + r.1) % 65536 + min 65535 r.2.1 * 65536))) with
        placeHeat := s.heat })

/-- Switching boundaries (rule R290): a channel whose migration is due goes on in its destination. -/
def State.switchMigs (s : State) : State :=
  s.chans.foldl (fun s e => match e.2.mig with
    | some (d, t, h) =>
      if h ≤ s.heat then (s.modChan e.1 fun c => { c with billet := d, slot := t, mig := none }).count (0x050 + d) 0x054 else s
    | none => s) s

/-! ## A heat of a channel (rules R292 to R306) -/

/-- U in chips and UD in Hz of a channel now (rule R301). -/
def State.uncert (s : State) (c : Chan) : Rat × Rat :=
  let t : Rat := ((s.el - c.usedEl : Nat) : Rat) / (ofNs 1000000000 : Nat)
  let a : Rat := (c.prm.aMax * 500 : Nat)
  (((c.u0 : Rat) + c.sv * t + a * t * t / 2) / 1000 * c.sig.chips / 299792458,
   ((c.sv : Rat) + a * t) / 1000 * c.sig.freq c.prm.prn / 299792458)

/-- The front-end of a stream is READY. -/
def State.feReady (s : State) (st : Nat) : Bool := ((s.streamLane st).map fun n => (s.fec n).st == .ready).getD false

/-- Whether the heat that ends was impaired for a channel (rule R300); `ovr` are the units whose work on its samples is dropped. -/
def State.heatImpaired (s : State) (c : Chan) (ovr : List Nat) : Bool :=
  c.filled || !s.feReady c.prm.stream || c.split || ovr.contains c.billet

/-- Change a channel's state; TO_COAST and TO_LOST are raised. -/
def State.chanTo (s : State) (i : Nat) (st : ChanSt) : State :=
  let s1 := s.modChan i fun c => { c with st := st, run := 0, low := 0, high := 0, coast := 0, wasAbsent := false }
  match st with
  | .coast => s1.raise 0x060 16
  | .lost => s1.raise 0x060 17
  | _ => s1

/-- A resume closes the loops from the predicted states (rule R302); the synchronisation is kept where the code has moved by no more than
half a symbol. -/
def Chan.resume (c : Chan) (u : Rat) (el : Nat) : Chan :=
  let kept := decide (u * 2000 ≤ (c.sig.chips * symMs c.prm.signal c.prm.prn : Nat))
  { c with usedEl := el, lockedOnce := true, isum := [], icnt := 0, prev := none, bitSync := c.bitSync && kept, secSync := c.secSync && kept,
           frameSync := c.frameSync && kept, hist := [], histN := 0, signs := [], sym := {} }

/-- A resume (rule R302): LOCKED with its bandwidths, and SLIP is set. -/
def State.resume (s : State) (i : Nat) : State :=
  ((s.chanTo i .locked).modChan i fun c => c.resume (s.uncert c).1 s.el).slip i

/-- The lock indicators and discriminators of an integration's end (rules R292, R298), Doppler errors with the sign of the Doppler. -/
def Chan.measure (c : Chan) (sg : Rat) (plockThr : Nat) (sums : List Cx) : Chan :=
  let p := sums.headD {}
  let pilot := c.sig.pilot
  let prom := (p :: c.prom).take 20
  let fdis := match c.prev with
    | some q => (sg * freqErr pilot q p c.tcUse :: c.fdis).take 20
    | none => c.fdis
  let plock := plockOf pilot prom plockThr
  { c with prom := prom, fdis := fdis, prev := some p, resid := c.codeErr sums, plock := plock, flock := flockOf fdis c.sig.tp,
           plockLost := if plock then false else c.plockLost || c.plock }

/-- The loops run once, over `sums` (rules R292 to R296, R307): `e` and `ef` are the phase and frequency errors. A coupled channel has a PLL at
PLL_MIN, closed while PLOCK is 1, and no DLL. -/
def State.loop (s : State) (c : Chan) (e ef : Rat) : Chan :=
  let t : Rat := (c.tcUse : Rat) / 1000
  if c.coupled then
    (if c.plock then { c with bw := 0 }.runPll (s.pllBw { c with bw := 0 } 0) e 0 0 t else { c with bw := 0 })
  else
    let d := s.dllBw c
    let c1 := { c with dll := d, ccor := 4 * d * c.resid }
    if c.st = .pullin ∧ c.stage = 1 then
      let halve := decide (c.fllUpd + 1 ≥ 20)
      { c1.runFll (s.fllBw c false) ef t with
        fll := if halve then s.fllHalf c.fll else c.fll, fllUpd := if halve then 0 else c.fllUpd + 1 }
    else
      let k := s.pllStep c
      { c1 with bw := k }.runPll (s.pllBw c k) e (if c.plock then 0 else s.fllBw c true) ef t

/-- What an update brings about (rules R299, R306): the PLL's stage, LOCKED after 20 good updates, and slips. -/
def State.updated (s : State) (i : Nat) (before : Chan) (e : Rat) : State :=
  let c := s.chan i
  let ok := c.plock && decide (c.cn0 ≥ s.rf 0x060 0x048 9 0)
  match c.st with
  | .pullin =>
    if c.stage = 1 then (if c.flock then s.modChan i fun c => { c with stage := 2, run := 0, bw := s.pllTop c } else s)
    else if ok ∧ c.run + 1 ≥ 20 then (s.chanTo i .locked).modChan i fun c => { c with lockT := 0, lockedOnce := true }
    else (s.modChan i fun c => { c with run := if ok then c.run + 1 else 0 }).slipIf i (big c || (c.plock && before.plockLost))
  | .locked => s.slipIf i (big c || (c.plock && before.plockLost))
  | _ => s
where
  big (c : Chan) : Bool :=
    decide (absRat e * 256 > ((if c.sig.pilot then s.rf 0x060 0x050 15 8 else s.rf 0x060 0x050 23 16 : Nat) : Rat))

/-- ONE UPDATE at the last dump of a coherent integration (rule R292). -/
def State.update (s : State) (i : Nat) (sums : List Cx) : State :=
  let c0 := s.chan i
  let sg := (s.tuneOf c0).sg
  let c := c0.measure sg (s.rf 0x060 0x048 31 26) sums
  let e := sg * phaseErr c.sig.pilot (sums.headD {})
  let ef := if c0.prev.isSome then c.fdis.headD 0 else 0
  (s.modChan i fun _ => s.loop c e ef).updated i c0 e

/-- The sums of the angle-of-arrival test take a dump (rule R346): each element's prompt times the conjugate of the reference's. -/
def Chan.addAoa (c : Chan) (ref : Option Nat) (d : Dump) : Chan :=
  match ref.bind fun r => (c.els.findIdx? (· == r)).bind fun k => d.els[k]? with
  | none => c
  | some w => { c with aoaSum := (c.els.zip d.els).foldl (fun (t : Tab Cx) e =>
      Tab.set (fun _ => {}) t e.1 ((Tab.get (fun _ => ({} : Cx)) t e.1).add ((ofNative e.2).mul (ofNative w).conj))) c.aoaSum }

/-- The designated reference of a channel's group. -/
def State.refOf (s : State) (c : Chan) : Option Nat := (s.groupOut c.prm.stream).map fun e => e.2.ref

/-- A DUMP of an unimpaired heat (rules R286, R297, R304, R305): synchronisation, C/N0, the symbol in progress, and where the loops are closed
the coherent integration with its update. -/
def State.useDump (s : State) (i : Nat) (d : Dump) : State :=
  let c := s.chan i
  let c1 := (((c.syncDump d).moments d.main).addSym d).addAoa (s.refOf c) d
  if c.st == .coast then s.modChan i fun _ => c1
  else
    let r := c1.integrate d
    let s1 := s.modChan i fun _ => r.1
    match r.2 with
    | none => s1
    | some sums => s1.update i sums

/-- The first dwell in which a tap exceeds the level of the aided search (rule R303): its step and its strongest tap. -/
def State.detectDwell (s : State) (c : Chan) : Option (Nat × Nat) :=
  c.dwDone.reverse.findSome? fun w =>
    let low := w.2.foldl min (w.2.headD 0)
    let best := (List.range w.2.length).foldl (fun b k => if w.2.getD k 0 > w.2.getD b 0 then k else b) 0
    if w.2.getD best 0 > Config.aidedLevel (s.rf 0x060 0x048 9 0) low then some (w.1, best) else none

/-- Detection (rules R299, R303): the taps are centred on it, the carrier takes its bin, and the FLL begins. -/
def Chan.detected (c : Chan) (t : Tune) (x : Nat × Nat) : Chan :=
  let w := c.stepAt x.1
  let off := c.base + w.1 - tapOff c.prm.spc x.2
  ({ c with stage := 1, run := 0, fll := (c.prm.fllMax : Rat) / 4, fllUpd := 0, off := off, base := off, vel := w.2, dop := w.2, accl := 0,
            dw := [], dwN := 0, dwDone := [], isum := [], icnt := 0, prev := none, prom := [], fdis := [] }).setNco (c.ncoOf t w.2 0)

/-- What the firmware's message decoding gives a channel in an unimpaired heat (rule R305). SEC_SYNC of an 1,800-chip overlay is set with the
overlay's place, from the transmit time of the last epoch. -/
def Chan.sync (c : Chan) (x : ChanIn) : Chan :=
  let tp := max 1 c.sig.tp
  let done : Nat := match c.dumps with | d :: _ => d.per + 1 | [] => c.per
  let tx0 : Option Int := x.tow.map fun t => t - ((done * tp : Nat) : Int)
  let c1 := match tx0 with | some t => { c with txMs := t } | none => c
  let c2 := { c1 with
    frameSync := c.frameSync || x.frameSync, halfRes := c.halfRes || (x.halfRes && !c.sig.pilot), eph := x.eph, cn0Heats := c.cn0Heats + 1,
    exclRun := if c.coupled then (if x.exclFail then c.exclRun + 1 else 0) else 0 }
  match tx0 with
  | some t => if x.secSync ∧ secLen c.prm.signal c.prm.prn 1 = 1800 then
      { c2 with secSync := true, secOff := (t / (tp : Nat) % 1800).toNat } else c2
  | none => c2

/-- The heat's dumps run through a channel, oldest first. -/
def State.runDumps (s : State) (i : Nat) (x : ChanIn) : State :=
  ((s.chan i).dumps.reverse.foldl (fun s d => s.useDump i d) s).modChan i fun c => { c.sync x with
    usedEl := if c.st = .coast then c.usedEl else s.el, u0 := if c.st = .coast then c.u0 else x.u0, sv := if c.st = .coast then c.sv else x.sv,
    std := x.std }

/-- An aided search after an absence, with the uncertainty that grew (rule R299), about the predicted code and carrier. -/
def Chan.again (c : Chan) (t : Tune) (u : Rat × Rat) : Chan :=
  ({ c with stage := 0, pull := 0, plock := false, plockLost := false, flock := false, fll := (c.prm.fllMax : Rat) / 4, fllUpd := 0,
            base := c.off, isum := [], icnt := 0, prev := none, prom := [], fdis := [], dwDone := [],
            prm := { c.prm with codeUnc := u.1, doppUnc := u.2 * 10, doppler := c.dopp } }).goStep t 0

/-- PULLIN again. -/
def State.pullAgain (s : State) (i : Nat) (u : Rat × Rat) : State :=
  ((s.chanTo i .pullin).modChan i fun c => { c with coupled := false, ramp := 0, rel := 0, relC := 0, nco := none }).modChan i fun c =>
    c.again (s.tuneOf c) u

/-- The end of a heat in PULLIN (rules R303, R304): `off` that its dumps are not used. -/
def State.endPullin (s : State) (i : Nat) (x : ChanIn) (off : Bool) : State :=
  let s1 := s.modChan i fun c => { c with pull := c.pull + 1 }
  let c := s1.chan i
  if off then s1.modChan i fun c => { c with dw := [], dwN := 0, dwDone := [] }
  else if c.stage = 0 then
    match s1.detectDwell c with
    | some w => s1.modChan i fun c => c.detected (s.tuneOf c) w
    | none => s1.modChan i fun c => { c with dwDone := [] }
  else s1.runDumps i x

/-- The end of a heat in LOCKED: consecutive unimpaired heats below CN0_LOSS are counted. -/
def State.endLocked (s : State) (i : Nat) (x : ChanIn) (imp absent : Bool) : State :=
  let s1 := s.modChan i fun c => { c with lockT := min 0xFFFFFFFF (c.lockT + 1), wasAbsent := absent }
  if imp || absent then s1
  else (s1.runDumps i x).modChan i fun c => { c with low := if c.cn0 < s.rf 0x060 0x048 25 16 then c.low + 1 else 0 }

/-- The end of a heat in COAST (rule R299). -/
def State.endCoast (s : State) (i : Nat) (x : ChanIn) (imp absent : Bool) : State :=
  let s0 := if imp || absent then s else s.runDumps i x
  let hi := !imp && !absent && decide ((s0.chan i).cn0 ≥ s.rf 0x060 0x048 9 0)
  let back := (s0.chan i).wasAbsent
  let s1 := s0.modChan i fun c => { c with
    coast := c.coast + 1, wasAbsent := c.wasAbsent || absent, high := if hi then c.high + 1 else if imp then c.high else 0,
    u0 := if c.coupled then x.u0 else c.u0, sv := if c.coupled then x.sv else c.sv, usedEl := if c.coupled then s.el else c.usedEl }
  if absent then s1
  else if back then
    (if (s1.uncert (s1.chan i)).1 ≤ 1 / 2 then s1.resume i else s1.pullAgain i (s1.uncert (s1.chan i)))
  else if hi && decide ((s1.chan i).high ≥ 20) then s1.resume i
  else s1

/-- The NCO values that the heat's samples give, to take effect a heat later (rules R283, R301, R307, R310): the loops' for a scalar channel
whose loops ran; for a coupled one the prediction with its PLL's correction and what a switch still ramps out; else the last rates. -/
def Chan.nextNco (c : Chan) (t : Tune) (pred : Option (Int × Int)) (ran : Bool) : Option (Int × Int) :=
  if c.coupled then
    match pred with
    | some p =>
      let own := if c.st = .locked ∧ c.plock then c.dop else 0
      let r := c.ncoOf t ((p.1 : Rat) / 65536 + own + c.rel) 0
      some (r.1, p.2 + roundFree (c.relC * (2 ^ 24 : Nat)))
    | none => none
  else if ran ∧ (c.st = .locked ∨ (c.st = .pullin ∧ c.stage ≠ 0)) then some (c.ncoOf t c.dop c.ccor)
  else none

/-- At the end of a heat, at `at_` ps: the code phase since period 0 in ms, with the code loop's latest residual (rule R321), and the carrier
phase (rule R323); without samples the NCOs run on up to here. -/
def Chan.mark (c : Chan) (t : Tune) (at_ : Rat) (absent : Bool) : Chan :=
  if !c.run_ then c
  else
    let c1 := if absent && decide (c.nextAt < at_) then c.skipTo t at_ else c
    let n := c1.runFor t (at_ - c1.nextAt)
    let chips : Rat := (((n.kph : Int) + n.off : Int) : Rat) / (2 ^ 32 : Nat) + n.resid
    { c1 with endPh := (((n.per + b2n c1.epoch) * c.sig.tp : Nat) : Rat) + chips * 1000 / (max 1 c.sig.chips : Nat), endCp := n.cp }

/-- The NCO values computed one heat before take effect, and those of the heat that ended are kept for the next boundary (rule R283); the
sums of the period in progress are its first part (rule R286), and the heat's own marks restart. -/
def Chan.turn (c : Chan) (t : Tune) (pred : Option (Int × Int)) (ran : Bool) : Chan :=
  let c1 := match c.nco with | some x => c.setNco x | none => c
  { c1.splitPart with nco := c.nextNco t pred ran, dumps := [], filled := false }

/-- The Doppler that the carrier NCO runs at, in mHz. -/
def Chan.doppNow (c : Chan) (t : Tune) : Int :=
  if c.run_ then roundFree (1000 * (t.sg * (c.cfreq : Rat) / 65536 - (t.fc - t.lo))) else c.dopp

/-- THE HEAT THAT ENDS, for one channel (rules R299 to R302, R306): its dumps, counts and the returns from COAST. -/
def State.endChan (s : State) (ins : List ChanIn) (ovr : List Nat) (i : Nat) : State :=
  let c := s.chan i
  let t := s.tuneOf c
  let x := (ins.find? fun x => x.idx == i).getD { idx := i, u0 := c.u0, sv := c.sv, eph := c.eph, std := c.std }
  let imp := s.heatImpaired c ovr
  let absent := s.streamAbsent c.prm.stream
  let live := c.active
  let s0 := s.modChan i fun c => { c with
    impaired := imp, impRun := if imp then c.impRun + 1 else 0, overrun := ovr.contains c.billet, dopp := c.doppNow t,
    isum := if imp then [] else c.isum, icnt := if imp then 0 else c.icnt, prev := if imp then none else c.prev,
    syncHeats := if c.bitSync ∨ !live then 0 else c.syncHeats + 1 }
  let s1 := s0.slipIf i (live && (c.split || (imp && c.impRun == 10)))
  let s2 := match c.st with
    | .pullin => s1.endPullin i x (imp || absent)
    | .locked => s1.endLocked i x imp absent
    | .coast => s1.endCoast i x imp absent
    | _ => s1
  let at_ : Rat := ((s.tb.hStart : Nat) : Rat) * 1000 / (unitsPerNs : Nat)
  s2.modChan i fun y => (y.mark t at_ absent).turn t x.pred (!imp && !absent && decide (c.st = .locked ∨ c.st = .pullin))

/-- COAST counts on through a quench (rule R581). -/
def State.quenchHeat (s : State) : State :=
  { s with chans := s.chans.map fun (e : Nat × Chan) => if e.2.st = .coast then (e.1, { e.2 with coast := e.2.coast + 1 }) else e }

/-- At a quench every LOCKED channel enters COAST and every PULLIN channel stops (rule R573). -/
def State.quenchChans (s : State) : State :=
  s.chans.foldl (fun s e => if e.2.st = .locked then s.chanTo e.1 .coast else s) s

/-- At the end of recovery a channel that was in PULLIN restarts its stage, coupled channels are scalar and pending, and
a channel past its coast limit is LOST; the returns of R299 come first with the next heat (rule R581). -/
def State.recoverChans (s : State) : State :=
  { s with chans := s.chans.map fun (e : Nat × Chan) => (e.1, { (e.2.uncouple (s.tuneOf e.2)) with
      wasAbsent := decide (e.2.st = .coast) || e.2.wasAbsent, run := 0, pull := if e.2.st = .pullin then 0 else e.2.pull }) }

/-! ## Rows of a channel's timeouts (rules R299, R305) -/

/-- The billets run: no quench holds them. -/
def State.running (s : State) : Bool := !s.inReset && decide (s.fault.phase = .run)

/-- A live channel of an entry. -/
def State.hasChan (s : State) (i : Nat) : Bool := s.chans.any fun e => e.1 == i

/-- PULLIN_TIMEOUT (R299): PULLIN_TO × 10 heats in PULLIN. -/
def execPullinTimeout (idx : Fin 8192) (s : State) : Out :=
  let c := s.chan idx.val
  .next (if s.running && s.hasChan idx.val && c.st == .pullin && decide (c.pull ≥ 10 * s.rf 0x060 0x04C 11 0)
    then s.chanTo idx.val .lost else s)

/-- TO_COAST (R299): the stream is absent, or C/N0 stayed below CN0_LOSS. -/
def execToCoast (idx : Fin 8192) (s : State) : Out :=
  let c := s.chan idx.val
  .next (if s.running && s.hasChan idx.val && c.st == .locked
      && (s.streamAbsent c.prm.stream || decide (c.low ≥ s.rf 0x060 0x04C 19 12))
    then (s.chanTo idx.val .coast).modChan idx.val fun c => { c with wasAbsent := s.streamAbsent c.prm.stream } else s)

/-- COAST_LIMIT (R299): the coast count exceeds COAST_S × 1,000 heats. -/
def execCoastLimit (idx : Fin 8192) (s : State) : Out :=
  let c := s.chan idx.val
  .next (if s.running && s.hasChan idx.val && c.st == .coast && decide (c.coast > 1000 * c.prm.coastS)
    then s.chanTo idx.val .lost else s)

/-- BIT_SYNC_TIMEOUT (R305): 10 s without BIT_SYNC; the synchronisation starts again. -/
def execBitSyncTimeout (idx : Fin 8192) (s : State) : Out :=
  let c := s.chan idx.val
  .next (if s.running && s.hasChan idx.val && !c.bitSync && decide (c.syncHeats ≥ 10000)
    then s.modChan idx.val fun c => { c with syncHeats := 0, hist := [], histN := 0, signs := [], clN := 0, clBest := (0, 0) } else s)

/-! ## Vector coupling (rules R307 to R310) -/

/-- FALLBACK (R309): EXCL_HEATS consecutive failed innovation tests. -/
def execFallback (idx : Fin 8192) (s : State) : Out :=
  let i := idx.val
  let c := s.chan i
  .next (if s.running && s.hasChan i && c.coupled && decide (c.exclRun ≥ s.rf 0x061 0x040 15 8)
    then (((s.uncouple i).modChan i fun c => { c with excl := true, exclHeat := some s.heat }).count 0x061 0x050).raise 0x061 16
    else s)

/-- Scalar to vector (rule R310): the difference between the loop's rates and the prediction is kept, to decay over SWITCH_HEATS heats; the
channel's own PLL starts at the prediction. -/
def Chan.couple (c : Chan) (t : Tune) (pred : Option (Int × Int)) (n : Nat) : Chan :=
  let fd : Rat := t.sg * (c.cfreq : Rat) / 65536 - (t.fc - t.lo)
  let p := pred.getD (roundFree (fd * 65536), c.krate)
  { c with coupled := true, excl := false, ramp := n, exclRun := 0, bw := 0, vel := 0, dop := 0, accl := 0, nco := none,
           rel := fd - (p.1 : Rat) / 65536, relC := ((c.krate - p.2 : Int) : Rat) / (2 ^ 24 : Nat) }

/-- One heat of a switch's ramp: what is left decays linearly to 0. -/
def Chan.rampDown (c : Chan) : Chan :=
  if c.ramp = 0 then c
  else { c with ramp := c.ramp - 1, rel := c.rel * ((c.ramp - 1 : Nat) : Rat) / (c.ramp : Nat), relC := c.relC * ((c.ramp - 1 : Nat) : Rat) / (c.ramp : Nat) }

/-- Coupling at a boundary (rules R308 to R310): where SOLN_OK has cleared or EN is 0 all are uncoupled, with SOLN_LOST; a fit channel is
coupled and its ramp begins. -/
def State.vectorBoundary (s0 : State) (ins : List ChanIn) : State :=
  let ok := s0.rf 0x061 0x040 0 0 == 1 && s0.nav.solnOk
  let s : State := { s0 with nav := { s0.nav with vecOk := ok } }
  if !ok then
    let s1 := s.chans.foldl (fun s e => if e.2.coupled then s.uncouple e.1 else s) s
    if s0.nav.vecOk then s1.raise 0x061 17 else s1
  else
    s.chans.foldl (fun s e =>
      let c := e.2
      if c.coupled then s.modChan e.1 Chan.rampDown
      else
        let rest := match c.exclHeat with
          | some h => decide (s.heat ≥ h + 100 * s.rf 0x061 0x040 31 24)
          | none => true
        if c.prm.vec && c.st == .locked && c.frameSync && c.eph && rest then
          let pred := (ins.find? fun x => x.idx == e.1).bind (·.pred)
          let s1 := s.modChan e.1 fun c => c.couple (s.tuneOf c) pred (s.rf 0x060 0x050 31 24)
          if c.excl then s1.raise 0x061 18 else s1
        else s) s

/-! ## The BILL, TRK and VEC pages (rules R312 to R317) -/

/-- Registers of a BILL page computed from the state. -/
def viewBill (s : State) (p off : Nat) : Option Word :=
  let b := p - 0x050
  if off = 0x040 then some (BitVec.ofNat 32 (s.billetBooked b))
  else if off = 0x044 then some (BitVec.ofNat 32 (37500 - s.billetBooked b))
  else if off = 0x048 then
    some (BitVec.ofNat 32 ((s.slotsOf b).length + s.l6Of b * 65536
      + b2n (s.chans.any fun e => (e.2.mig.map fun m => m.1 == b).getD false) * 2 ^ 24
      + b2n (s.chans.any fun e => e.2.mig.isSome && e.2.billet == b) * 2 ^ 25))
  else none

/-- STATE codes of a channel. -/
def ChanSt.code : ChanSt → Nat
  | .created => 1 | .pullin => 2 | .locked => 3 | .coast => 4 | .lost => 5

/-- Channels in a state. -/
def State.inSt (s : State) (st : ChanSt) : Nat := (s.chans.filter fun e => e.2.st = st).length

/-- Registers of the TRK page computed from the state. -/
def viewTrk (s : State) (off : Nat) : Option Word :=
  let i := s.rf 0x060 0x054 12 0
  let c := s.chan i
  let has := s.hasChan i && s.isLive i
  let sel := fun (v : Word) => some (if has then v else 0)
  if off = 0x058 then sel (BitVec.ofNat 32 (c.st.code + b2n c.coupled * 8 + b2n (c.prm.vec && !c.coupled) * 16 + b2n c.impaired * 32
    + b2n c.plock * 64 + b2n c.bitSync * 128 + b2n c.secSync * 256 + b2n c.frameSync * 512 + b2n c.halfRes * 1024
    + b2n c.mig.isSome * 2048 + b2n c.excl * 4096 + b2n c.torn * 8192 + (if c.st = .pullin then c.stage else 0) * 16384
    + c.billet * 65536 + c.slot * 2 ^ 20))
  else if off = 0x05C then sel (BitVec.ofNat 32 (c.cn0 + b2n (decide (c.cn0Heats ≥ 100)) * 1024 + c.tcUse % 256 * 65536))
  else if off = 0x060 then
    let pll := if c.coupled then ((s.rf 0x060 0x040 7 0 : Nat) : Rat) / 4 else s.pllBw c c.bw
    let closed := c.st == .locked || (c.st == .pullin && c.stage == 2)
    let fll : Rat := if c.st = .pullin ∧ c.stage = 1 then s.fllBw c false else if closed && !c.plock && !c.coupled then s.fllBw c true else 0
    sel (BitVec.ofNat 32 (⌊pll * 4⌋.toNat % 256 + ⌊fll * 4⌋.toNat % 256 * 256 + (if c.coupled then 0 else ⌊c.dll * 100⌋.toNat % 65536) * 65536))
  else if off = 0x064 then sel (BitVec.ofNat 32 c.lockT)
  else if off = 0x068 then sel (BitVec.ofInt 32 c.dopp)
  else if off = 0x06C then
    sel (BitVec.ofNat 32 (min 0xFFFF c.coast + (if c.st = .coast then min 0xFFFF (roundFree ((s.uncert c).1 * 1024)).toNat else 0) * 65536))
  else if off = 0x070 then some (BitVec.ofNat 32 (s.inSt .pullin + s.inSt .locked * 65536))
  else if off = 0x074 then some (BitVec.ofNat 32 (s.inSt .coast + s.inSt .lost * 65536))
  else none

/-- Registers of the VEC page computed from the state. -/
def viewVec (s : State) (off : Nat) : Option Word :=
  if off = 0x044 then
    some (BitVec.ofNat 32 ((s.chans.filter fun e => e.2.coupled).length + b2n s.nav.solnOk * 2048
      + (s.chans.filter fun e => e.2.prm.vec && !e.2.coupled).length * 65536))
  else if off = 0x048 then some (BitVec.ofNat 32 (s.nav.innovCode % 65536 + s.nav.innovRate % 65536 * 65536))
  else if off = 0x04C then some (BitVec.ofNat 32 (min 16 s.nav.nbias))
  else none

end Sys2Proof.Machine
end

