-- ==== Sys2Proof/Machine/Crucible.lean ====
section
/-! DEFINITION. The Crucible search engine (rules R245 to R272, with the search queue of rules R139 to R141): the
commands SRCH_SUBMIT and SRCH_CANCEL, the snapshot memory, captures and their restarts, admission with aging and the
starvation floor, results and spawning. -/

namespace Sys2Proof.Machine

/-! ## SRCH_SUBMIT (rules R248, R249) -/

/-- The absolute start in nanoseconds: words 9 and 10, with bits [63:32] of the time base's seconds. -/
def State.absStart (s : State) (ws : List Word) : Nat :=
  (secOf s.tb.now / 2 ^ 32 * 2 ^ 32 + (ws.getD 9 0).toNat) * 1000000000 + fld (ws.getD 10 0) 29 0

/-- The argument of SRCH_SUBMIT that fails its check (rule R248): the word's index. -/
def srchBad (e : JEntry) : Option Nat :=
  let code := fld (e.w 3) 7 0
  let g := jSig e.words
  let tc := jTc e.words
  let spawn := (e.w 3).getLsbD 26
  let abs := (e.w 3).getLsbD 27
  let req := fld (e.w 11) 14 0
  badWord e
    [(3, 0x1FFFFFFF), (4, 0x1FFFFF), (5, 0xFFFFFFFF), (6, 0xFFFFF), (7, 0xFFFFFF), (8, 0xFFFFFFFF),
     (9, if abs then 0xFFFFFFFF else 0), (10, if abs then 0x3FFFFFFF else 0), (11, 0xF7FFF), (12, if spawn then 0x3FF else 0)]
    [(3, g.search && prnOk code (fld (e.w 3) 15 8) && decide (fld (e.w 3) 21 16 ≤ 39)),
     (4, decide (g.tp ≤ tc) && tc % g.tp == 0 && decide (tc ≤ (if g.searchPilot then 200 else 20))),
     (4, decide (1 ≤ jK e.words ∧ jK e.words ≤ 4096)),
     (6, decide (fld (e.w 6) 19 0 ≤ 1000000) && decide ((e.w 5).toInt.natAbs + 100 * fld (e.w 6) 19 0 ≤ 80000000)),
     (7, decide (fld (e.w 7) 23 0 < 64 * g.len)),
     (8, fld (e.w 8) 31 16 == 0 || (tc != g.tp && jHasSec code (fld (e.w 3) 15 8))),
     (10, decide (fld (e.w 10) 29 0 ≤ 999999999)),
     (11, if jStreamMode e.words then req == 0 else req == 0 || decide (16 ≤ req ∧ req ≤ 30000)),
     (11, decide (3 ≤ fld (e.w 11) 19 16 ∧ fld (e.w 11) 19 16 ≤ 12)),
     (12, !spawn || decide (3 ≤ fld (e.w 12) 3 0 ∧ fld (e.w 12) 3 0 ≤ 15))]

/-- A stream has a nominal rate for the tests of rules R246 and R276: mapped, and its lane's NOM_FCLK applied is not 0. -/
def State.rateKnown (s : State) (st : Nat) : Bool :=
  s.streamRate st != 0 && ((s.bandOf st).map fun x => s.reg (lanePage x.1) 0x044 != 0).getD false

/-- The refusals of rule R249: status and detail. -/
def State.srchRefused (s : State) (e : JEntry) : Option (Nat × Nat) :=
  match srchBad e with
  | some n => some (stBAD_ARG, n)
  | none =>
    let ws := e.words
    let st := fld (e.w 3) 21 16
    let r := s.streamRate st
    let start := ofNs (s.absStart ws)
    if jN ws > 32768 ∨ (s.rateKnown st ∧ ((jN ws * 1000 : Nat) : Rat) / (jTp ws : Nat) > r) ∨ !s.fits (fld (e.w 3) 7 0) (jPrn ws) st then
      some (stBAD_ARG, 3)
    else if jD ws > 4095 then some (stBAD_ARG, 6)
    else if !jStreamMode ws && decide (jN ws * jP ws * jK ws > 4718592) then some (stBAD_ARG, 4)
    else if jStreamMode ws && decide (jN ws * jD ws > 262144) then some (stBAD_ARG, 4)
    else if jStreamMode ws && decide (jReq ws > 3750) then some (stBAD_ARG, 4)
    else if (e.w 3).getLsbD 27 && decide (start < s.tb.now ∨ s.tb.now + ofNs 60000000000 < start) then some (stBAD_ARG, 9)
    else if !s.streamQual st || (s.streamLo st).isNone then some (stNOT_QUALIFIED, 3)
    else none

/-! ## The jobs and the snapshot memory (rules R247, R252) -/

/-- A job's entry exists. -/
def State.hasJob (s : State) (i : Nat) : Bool := s.jobs.any fun e => e.1 == i

/-- Change a job that exists. -/
def State.modJob (s : State) (i : Nat) (f : Job → Job) : State := if s.hasJob i then s.setJob i (f (s.job i)) else s

/-- A job holds snapshot memory. -/
def Job.holds (j : Job) : Bool := j.phase != .waitMem && j.phase != .done

/-- Snapshot words reserved: each snapshot once. -/
def State.snapUsed (s : State) : Nat :=
  (((s.jobs.filter fun e => e.2.holds).map fun e => (e.2.snap, e.2.snapWords)).dedup).foldl (fun n x => n + x.2) 0

/-- The mark of SNAP_HWM follows SNAP_USED up (rule R270). -/
def State.snapMark (s : State) : State := s.setRf 0x041 0x050 20 0 (max (s.rf 0x041 0x050 20 0) s.snapUsed)

/-- The start instant of a job as a time of the time base, where it is known yet. -/
def State.startInst (s : State) (j : Job) : Option Nat :=
  match j.start with
  | some t => some t
  | none => if j.startHeat = s.heat + 1 then some s.tb.hEnd else if j.startHeat = s.heat then some s.tb.hStart else none

/-- Two SNAP jobs share a snapshot (rule R247). -/
def State.sharing (s : State) (a b : Job) : Bool :=
  !jStreamMode a.words && !jStreamMode b.words && a.stream == b.stream && (jSig a.words).freq (jPrn a.words) == (jSig b.words).freq (jPrn b.words)
    && jN a.words == jN b.words && jTp a.words == jTp b.words && jP a.words * jK a.words == jP b.words * jK b.words
    && (s.startInst a).isSome && s.startInst a == s.startInst b

/-- Reserve a job's snapshot (rule R252): shared with a job that is still to capture the same samples, or new; `none`
where memory has no room. `first` is the heat whose starting boundary is a relative start. -/
def State.reserve (s : State) (i first : Nat) : Option State :=
  let j := { s.job i with startHeat := first }
  match s.jobs.find? fun e => e.1 != i && e.2.phase == .armed && s.sharing j e.2 with
  | some e => some ((s.setJob i { j with phase := .armed, snap := e.2.snap, snapWords := e.2.snapWords }).snapMark)
  | none =>
    if s.snapUsed + jWords j.words > snapCap then none
    else
      let s1 := s.setJob i { j with phase := .armed, snap := s.nextSnap, snapWords := jWords j.words }
      some (({ s1 with nextSnap := s.nextSnap + 1 }).setSnap s.nextSnap { runs := s.allocRuns (jWords j.words) }).snapMark

/-- Snapshots that no job holds any more are released (rule R252). -/
def State.freeSnaps (s : State) : State :=
  { s with snaps := s.snaps.filter fun e => s.jobs.any fun j => j.2.snap = e.1 && j.2.holds }

/-! ## Admission (rules R139 to R141, R253) -/

/-- A job waits in the search queue: not booked and not ended. -/
def Job.queued (j : Job) : Bool := j.booked == 0 && j.phase != .done

/-- A waiting job is eligible for admission: a SNAP job once CAPTURED, a STREAM job at once. -/
def Job.eligible (j : Job) : Bool := j.queued && (jStreamMode j.words || j.phase == .captured) && !j.cancelled && !j.torn

/-- The older of two jobs. -/
def olderJob (b : Option (Nat × Job)) (e : Nat × Job) : Option (Nat × Job) :=
  match b with
  | none => some e
  | some x => if e.2.order < x.2.order then some e else b

/-- The floor job (rule R141): the oldest eligible job of effective priority 7. -/
def State.findFloor (s : State) : Option Nat :=
  ((s.jobs.filter fun e => e.2.eligible && e.2.prio == 7).foldl olderJob none).map (·.1)

/-- Bring the floor job up to date; FLOOR_SET is raised for a new one. -/
def State.refreshFloor (s : State) : State :=
  let f := s.findFloor
  if f = s.floorJob then s
  else if f.isSome then ({ s with floorJob := f }).raise 0x041 16 else { s with floorJob := f }

/-- Book a job's grains; a captured one goes on to process. -/
def State.bookJob (s : State) (i amt : Nat) : State :=
  (s.book 2 amt (.entry i) (s.job i).seq).modJob i fun j => { j with
    booked := amt, belowReq := j.belowReq || (!jStreamMode j.words && decide (amt < jReq j.words)),
    phase := if j.phase = .captured then .processing else j.phase }

/-- The next job in order of effective priority and then age whose booking fits (rule R140). -/
def State.nextAdmit (s : State) : Option Nat :=
  (((s.jobs.filter fun e => e.2.eligible && decide (jReq e.2.words ≤ s.poolFree 2)).foldl
    (fun (b : Option (Nat × Job)) e => match b with
      | none => some e
      | some x => if e.2.prio > x.2.prio ∨ (e.2.prio = x.2.prio ∧ e.2.order < x.2.order) then some e else b) none)).map (·.1)

/-- THE ADMISSIONS OF A BOUNDARY (rules R140, R141). -/
def State.startJobs (fuel : Nat) (s : State) : State :=
  match fuel with
  | 0 => s
  | fuel + 1 =>
    let s1 := s.refreshFloor
    match s1.floorJob with
    | some i =>
      if s1.poolFree 2 ≥ 3750 then (s1.bookJob i (min (jReq (s1.job i).words) (s1.poolFree 2))).startJobs fuel else s1
    | none =>
      match s1.nextAdmit with
      | some i => (s1.bookJob i (jReq (s1.job i).words)).startJobs fuel
      | none => s1

/-- The job that a SRCH_SUBMIT asks for. -/
def State.newJob (s : State) (e : JEntry) : Job :=
  { words := e.words, seq := e.seq, prio := fld (e.w 3) 24 22, order := s.jobSeq,
    start := if (e.w 3).getLsbD 27 then some (ofNs (s.absStart e.words)) else none,
    left := jTotal e.words }

/-- Take back the job and the entry of a SRCH_SUBMIT that fails. -/
def State.undoJob (s : State) (i : Nat) : State := ({ s with jobs := Tab.del s.jobs i } : State).freeNow i

/-- SRCH_SUBMIT with NOWAIT: snapshot memory and grains at once, or the job fails. -/
def State.submitNow (s : State) (e : JEntry) (i : Nat) : State :=
  if s.floorJob.isSome ∨ s.poolFree 2 < jReq e.words then
    (s.undoJob i).finish e stNO_BUDGET 2 (s.poolFree 2) e.named (amtWord 2 (jReq e.words)) 0
  else match s.reserve i (s.heat + 1) with
    | none => (s.undoJob i).finish e stBUSY 2 0 e.named 0 0
    | some s1 => (s1.bookJob i (jReq e.words)).done e 2 (jTotal e.words) (s1.handleOf i)

/-- Snapshot memory at step 2 (rules R252, R258): with room the job is ARMED, else it stays in WAIT_MEM. -/
def State.tryReserve (s : State) (i : Nat) : State := (s.reserve i (s.heat + 1)).getD s

/-- SRCH_SUBMIT (rules R248, R249, R252): step 1 checks and allocates, step 2 queues, or books at once with NOWAIT. -/
def stepSrchSubmit (s : State) (e : JEntry) : State :=
  match s.srchRefused e with
  | some (st, d) => s.refuse e st 1 d
  | none =>
    match s.alloc 2 true false with
    | (none, s1) => s1.refuse e stNO_HANDLE 1 0
    | (some i, s1) =>
      let s2 := { s1.setJob i (s.newJob e) with jobSeq := s.jobSeq + 1 }
      if (e.w 0).getLsbD 24 then s2.submitNow e i
      else (s2.tryReserve i).refreshFloor.finish e stOK 2 (jTotal e.words) ((s2.tryReserve i).handleOf i) 0 0

/-! ## Captures (rules R255 to R257) -/

/-- A stream delivers real samples: it is not absent and no lane of it is being filled. -/
def State.streamReal (s : State) (st : Nat) : Bool :=
  let lanes := if st < 32 then (s.streamLane st).toList
    else ((s.groupOut st).map fun e => e.2.members.filterMap fun k => (s.streamAt (e.2.streams.getD k 0)).map (·.1)).getD []
  !s.streamAbsent st && !lanes.any fun n => (s.lane n).fillRun

/-- A snapshot starts to fill anew. -/
def State.resetSnap (s : State) (n : Nat) : State := s.setSnap n { s.snap n with hist := [], count := 0 }

/-- A capture is discarded and will restart (rules R256, R257). `imp` tells an impairment; the job ends once its restarts
for impairments would exceed RESTART_MAX. -/
def State.restartJob (s : State) (i : Nat) (imp : Bool) : State :=
  let j := s.job i
  if imp && decide (j.impRestarts + 1 > s.rf 0x041 0x040 3 0) then (s.modJob i fun j => { j with nq := true }).raise 0x041 18
  else
    (((s.modJob i fun j => { j with
      phase := .armed, restarts := j.restarts + 1, impRestarts := j.impRestarts + b2n imp, waitReal := j.waitReal || imp,
      start := none, cond := 0, capAt := none, spoilt := false, coh := [], stat := [], inp := [], pow := 0, heats := 0 }).resetSnap j.snap).count 0x041 0x064).raise 0x041 17

/-- A step or re-epoch applies at a boundary (rule R257): captures running or to come carry RETIMED and wait for the end
of the alignment heat; a start instant that the correction passed is reached. -/
def State.retimeJobs (s : State) : State :=
  s.jobs.foldl (fun s e =>
    let j := e.2
    if j.phase = .waitMem ∨ j.phase = .armed ∨ j.capturing then
      let s1 := if j.capturing then s.restartJob e.1 false else s
      s1.modJob e.1 fun j => { j with retimed := true, holdAlign := true }
    else s) s

/-- A job is ready to start its capture: armed, released, its instant reached, and for STREAM booked (rule R255). -/
def State.startDue (s : State) (j : Job) : Bool :=
  j.phase == .armed && !j.holdAlign && !j.waitReal && !j.cancelled && !j.torn && !j.nq
  && (match j.start with | some t => decide (t ≤ s.tb.now) | none => decide (j.startHeat ≤ s.heat))
  && (!jStreamMode j.words || j.booked != 0) && s.running

/-- The start instant of a capture that starts: for STREAM not before the boundary of the job's admission (rule R255). -/
def State.startAt (s : State) (j : Job) : Nat :=
  match j.start with
  | some t => if jStreamMode j.words then max t s.tb.hStart else t
  | none => s.tb.hStart

/-- CAPTURE_START (R255): every job sharing the snapshot starts; the first sample with a stamp at or after the start is to be the first
stored one. -/
def execCaptureStart (idx : Fin 8192) (s : State) : Out :=
  let j := s.job idx.val
  if s.hasJob idx.val && s.startDue j then
    let t := s.startAt j
    let s1 := s.resetSnap j.snap
    .next { s1 with jobs := s1.jobs.map fun (e : Nat × Job) =>
      if e.2.snap = j.snap ∧ e.2.phase = .armed then
        (e.1, { e.2 with phase := if jStreamMode e.2.words then .processing else .capturing, capEl := s.el - (s.tb.now - t),
                         start := some t, capAt := none, spoilt := false, cond := 0, heats := 0, shift := 0,
                         coh := [], stat := [], inp := [], pow := 0, seen := 0 })
      else e }
  else .next s

/-- CAPTURED (R258): the last period of a SNAP capture is stored, unimpaired. -/
def execCaptured (idx : Fin 8192) (dt : Nat) (s : State) : Out :=
  let s1 := s.after dt
  let j := s1.job idx.val
  .next (if s1.hasJob idx.val && j.phase == .capturing && decide ((s1.snap j.snap).count ≥ jCount j.words) && !j.spoilt && s1.running then
      ((s1.capsOf j.snap).foldl (fun s i => s.modJob i fun j => { j with phase := .captured }) s1).refreshFloor
    else s1)

/-- AGING_STEP (R139): a job not yet booked has waited AGE_HEATS heats since its effective priority last rose. -/
def execAgingStep (idx : Fin 8192) (s : State) : Out :=
  let j := s.job idx.val
  .next (if s.hasJob idx.val && j.queued && decide (j.prio < 7) && decide (j.ageHeats ≥ s.rf 0x001 0x06C 11 0)
    then (s.modJob idx.val fun j => { j with prio := j.prio + 1, ageHeats := 0 }).refreshFloor else s)

/-! ## Results (rules R261 to R265) -/

/-- A number in bits [lo+w−1:lo] of a native word. -/
def at_ (lo w x : Nat) : Nat := x % 2 ^ w * 2 ^ lo

/-- A peak word (rule R265). -/
def peakWord (p : Peak) (len : Nat) (spawned : Bool) : Nat :=
  at_ 0 24 (p.code % max 1 (64 * len)) + at_ 24 24 (BitVec.ofInt 24 p.dopp).toNat + at_ 48 12 (BitVec.ofInt 12 p.snr).toNat + at_ 60 10 p.cn0
    + at_ 70 1 (b2n p.det) + at_ 71 1 (b2n spawned)

/-- The ring of a page with RUN and LOC in its control register works (rules R499, R612). -/
def State.ringOn (s : State) (p ctl run loc : Nat) : Bool :=
  !s.inReset && s.rf p ctl run run == 1 && (s.rf p ctl loc loc == 1 || s.host.dma)

/-- The bytes of native words, packed (rule R11). -/
def packNat (ws : List Native) : List Byte :=
  ws.flatMap fun w => (List.range 9).map fun i => BitVec.ofNat 8 (w.toNat >>> (8 * i))

/-- Write bytes into host memory in 32-bit words from a 4-byte-aligned address; the last word is filled with zeros. -/
def State.putHostBytes (s : State) (base : Nat) (l : List Byte) : State :=
  (List.range (ceilDiv l.length 4)).foldl (fun s i =>
    s.setHm (base + 4 * i) (BitVec.ofNat 32 ((List.range 4).foldl (fun a k => a + (l.getD (4 * i + k) 0).toNat * 2 ^ (8 * k)) 0))) s

/-- Write native words into exchange memory. -/
def State.putExWords (s : State) (base : Nat) (l : List Native) : State :=
  (List.range l.length).foldl (fun s i => s.setEx (base + i) (l.getD i 0)) s

/-- The result ring is full (rule R263). -/
def State.rrFull (s : State) : Bool :=
  (s.rf 0x043 0x054 11 0 + 1) % 2 ^ s.rf 0x043 0x04C 3 0 == s.rf 0x043 0x050 11 0 % 2 ^ s.rf 0x043 0x04C 3 0

/-- Write one result record: PHASE goes into word 1, and inverts when the tail wraps. -/
def State.putResult (s : State) (l : List Native) : State :=
  let loc := s.rf 0x043 0x040 1 1 == 1
  let t := s.rf 0x043 0x054 11 0
  let base := s.ringBase 0x043 0x044 0x048
  let l1 := l.set 1 ((l.getD 1 0) ||| BitVec.ofNat 72 (b2n s.rrPhase * 2 ^ 60))
  let s1 := if loc then s.putExWords (base + 16 * t) l1
    else s.putHostBytes (base + 160 * t) (packNat l1 ++ List.replicate 16 0)
  let t2 := (t + 1) % 2 ^ s.rf 0x043 0x04C 3 0
  ({ s1.setReg 0x043 0x054 (BitVec.ofNat 32 t2) with rrPhase := if t2 = 0 then !s.rrPhase else s.rrPhase }).raise 0x043 16

/-- Finished results that wait, in the order they ended. -/
def State.heldResults (s : State) : List Nat :=
  let l := s.jobs.filter fun e => e.2.result.isSome && e.2.written.isNone
  (sortNat (l.map fun e => e.2.doneSeq)).filterMap fun q => (l.find? fun e => e.2.doneSeq == q).map (·.1)

/-- Held results enter the ring as space appears (rule R263). -/
def State.flushList (s : State) (l : List Nat) : State :=
  match l with
  | [] => s
  | i :: rest =>
    if s.ringOn 0x043 0x040 0 1 && !s.rrFull then
      ((s.putResult ((s.job i).result.getD [])).modJob i fun j => { j with written := some s.heat }).flushList rest
    else s

/-- Write what is held, as far as it goes; a quench holds results until recovery (rules R574, R578). -/
def State.flushResults (s : State) : State := if s.fault.phase = QPhase.quenched then s else s.flushList s.heldResults

/-- Fold a floor into the stream's (rule R261); the answer tells INTERFERED. -/
def State.foldFloor (s : State) (st : Nat) (floor : Int) : Bool × State :=
  let v := s.reg 0x042 (0x040 + 4 * st)
  let fs := sfld v 15 0
  let valid := fld v 24 24 == 1
  let intf := valid && decide ((floor - fs).natAbs > 10 * s.rf 0x041 0x040 15 8)
  let tau := s.rf 0x041 0x040 7 4
  let fs2 := if valid then fs + roundFree (((floor - fs : Int) : Rat) / (2 ^ tau : Nat)) else floor
  let w := BitVec.ofNat 32 ((BitVec.ofInt 16 fs2).toNat + min 255 (fld v 23 16 + 1) * 65536 + 2 ^ 24 + b2n intf * 2 ^ 25)
  let s1 := s.setReg 0x042 (0x040 + 4 * st) w
  (intf, if intf then s1.raise 0x042 16 else s1)

/-- The spawn of a job that ended with OK (rule R266): status, entry, state. -/
def State.spawn (s : State) (j : Job) (peaks : List Peak) : Nat × Option Nat × State :=
  let ws := j.words
  if !(ws.getD 3 0).getLsbD 26 then (0xFF, none, s)
  else match peaks with
    | [] => (0xFD, none, s)
    | p :: _ =>
      if !p.det then (0xFD, none, s)
      else if s.streamAbsent j.stream then (0x0D, none, s)
      else if s.chans.any fun e => s.isLive e.1 && e.2.prm.signal == fld (ws.getD 3 0) 7 0 && e.2.prm.prn == jPrn ws
          && e.2.prm.stream == j.stream then (0xFE, none, s)
      else
        let g := jSig ws
        let dopp := p.dopp * 10
        let at_ : Rat := (j.capAt.getD 0 + j.shift) / 1000
        let ref := (roundFree at_).toNat
        let ph := roundFree ((p.code : Rat) + 64 * (g.chips : Rat) * (1 + (dopp : Rat) / 1000 / (g.freq (jPrn ws) : Int)) * ((ref : Rat) - at_) / 10 ^ 9)
        let prm := { s.defPrm (fld (ws.getD 3 0) 7 0) (jPrn ws) j.stream (fld (ws.getD 12 0) 3 0) (fld (ws.getD 12 0) 9 4) dopp
          (ph % (64 * g.len : Nat)).toNat with refSec := ref / 1000000000 % 2 ^ 32, refNs := ref % 1000000000 }
        s.makeChan prm 1 true j.seq

/-- What a job found (rules R259 to R262): FLOOR and THRESH in 0.01 dB, whether the stream's floor was the larger, the peaks, and the
candidate cells tested. -/
structure Found where
  floor : Int := 0
  thresh : Int := 0
  byStream : Bool := false
  peaks : List Peak := []
  cells : Nat := 0
  deriving DecidableEq, Repr

/-- The stored samples of period p of a SNAP job. -/
def State.periodOf (s : State) (j : Job) (p : Nat) : List (Int × Int) :=
  (List.range (jN j.words)).map fun k => s.getSample j.snap (p * jN j.words + k)

/-- The measured power per sample of a job's capture. -/
def State.capPower (s : State) (j : Job) : Rat :=
  (if jStreamMode j.words then j.pow
   else (List.range (jCount j.words)).foldl (fun a k => a + (cxOf (s.getSample j.snap k)).norm2) 0) / (max 1 (jCount j.words) : Nat)

/-- The grid of a job that ended, without the cells that overruns dropped (rule R267). -/
def State.gridOf (s : State) (j : Job) : List Cell :=
  let ws := j.words
  let neg := (s.jobTune ws).neg
  ((jGrid ws).filter fun c => !j.dropped.any fun d => decide (d.1 ≤ cellKey ws c.1 c.2 ∧ cellKey ws c.1 c.2 < d.2)).map fun c =>
    (c.1, c.2, if jStreamMode ws then Tab.get (fun _ => 0) j.stat (cellKey ws c.1 c.2) else cellStat ws neg (s.periodOf j) c.1 c.2)

/-- DETECTION (rules R259, R260, R262): with fewer than 16,384 cells the larger of F and the stream's floor sets the threshold. -/
def State.detection (s : State) (j : Job) : Found :=
  let ws := j.words
  let l := s.gridOf j
  let f := floorOf ws l
  let white := whiteOf ws (s.capPower j)
  let v := s.reg 0x042 (0x040 + 4 * j.stream)
  let fs := white * pow10 ((sfld v 15 0 : Int) / 1000)
  let up := decide (jN ws * jD ws < 16384) && fld v 24 24 == 1 && decide (fs > f)
  let a := Config.alpha (jK ws) (fld (ws.getD 11 0) 19 16)
  let cand := l.filter fun c => candidate ws c.2.1
  { floor := Config.decibel 100 (f / white), thresh := Config.decibel 100 a, byStream := up, cells := cand.length,
    peaks := (peakCells 8 ws cand).map (peakOf ws l f (a * (jK ws : Nat) * (if up then fs else f))) }

/-- A JOB ENDS at a boundary (rules R258, R264 to R266): its record is formed, its booking released, its entry DYING. -/
def State.endJob (s : State) (i status : Nat) : State :=
  let j := s.job i
  let ok := status == stOK
  let x : Found := if ok then s.detection j else {}
  let f := if ok then s.foldFloor j.stream x.floor else (false, s)
  let sp := if ok then f.2.spawn j x.peaks else (0xFF, none, f.2)
  let len := (jSig j.words).len
  let spawned := sp.1 == stOK && sp.2.1.isSome
  let pk := (List.range 8).map fun k => BitVec.ofNat 72 (match x.peaks[k]? with
    | some p => peakWord p len (spawned && k == 0)
    | none => 0)
  let ps := ⌊j.capAt.getD 0⌋.toNat
  let ns := ps / 1000
  let w1 := at_ 0 32 s.heat + at_ 32 16 s.tb.epoch + at_ 48 4 (x.peaks.filter (·.det)).length + at_ 52 4 x.peaks.length
    + at_ 56 4 (min 15 j.restarts) + at_ 61 1 (b2n j.belowReq) + at_ 62 1 (b2n j.retimed) + at_ 63 1 (b2n j.overrun)
    + at_ 64 1 (b2n f.1) + at_ 65 1 (b2n x.byStream) + at_ 66 3 j.cond + at_ 69 1 (b2n (jStreamMode j.words))
  let w12 := at_ 0 32 (match sp.2.1 with | some c => (sp.2.2.handleOf c).toNat | none => 0) + at_ 32 8 sp.1 + at_ 40 24 j.heats
  let w13 := if ok then (BitVec.ofInt 16 x.floor).toNat + at_ 16 16 (BitVec.ofInt 16 x.thresh).toNat + at_ 32 32 x.cells else 0
  let rec_ : List Native :=
    [BitVec.ofNat 72 (at_ 0 32 (s.handleOf i).toNat + at_ 32 32 j.seq.toNat + at_ 64 8 status), BitVec.ofNat 72 w1,
     BitVec.ofNat 72 (at_ 0 64 (ns / 1000000000)),
     BitVec.ofNat 72 (at_ 0 30 (ns % 1000000000) + at_ 32 16 (ps % 1000 * 65536 / 1000) + at_ 48 15 j.booked)]
    ++ pk ++ [BitVec.ofNat 72 w12, BitVec.ofNat 72 w13, 0, 0]
  let s0 := sp.2.2.dying i
  let s1 := if s.fault.phase = QPhase.quenched then s0 else s0.releaseAll (.entry i)
  let s2 := ({ s1.setJob i { j with phase := .done, booked := 0, result := some rec_, doneSeq := s1.jobSeq, coh := [], stat := [], inp := [] } with
    jobSeq := s1.jobSeq + 1 } : State).freeSnaps
  let s3 := s2.flushResults
  if (s3.job i).written.isNone then s3.raise 0x043 17 else s3

/-! ## The boundary (rules R252, R258, R263) -/

/-- Cells that a STREAM job has processed: every period that is stored whole (rule R251). -/
def State.streamCells (s : State) (j : Job) : Nat := (s.snap j.snap).count / jN j.words * (jN j.words * jD j.words)

/-- What a heat has done for a job that was processing (rule R251); `dropped` are the cells that the Crucible dropped, as intervals of bin × N +
delay cell (rule R267). -/
def State.workJob (s : State) (i : Nat) (ovr : Bool) (dropped : List (Nat × Nat)) : State :=
  let j := s.job i
  if j.phase = .processing then
    let stream := jStreamMode j.words
    let all := if stream then s.streamCells j else 1024 * min j.booked j.left
    let lost := if ovr then dropped.foldl (fun a d => a + (d.2 - d.1)) 0 else 0
    let whole := !stream || decide (s.el ≥ j.capEl + ofNs (1000000 * (j.heats + 1)))
    { s.modJob i fun j => { j with
        heats := if whole then j.heats + 1 else j.heats,
        left := if stream then j.left else j.left - j.booked, seen := if stream then all else j.seen,
        overrun := j.overrun || ovr, dropped := if ovr then j.dropped ++ dropped else j.dropped } with
      cells := s.cells + ((if stream then all - j.seen else all) - lost) }
  else s

/-- The status with which a job ends at this boundary, if it does. -/
def State.jobEnd (s : State) (j : Job) : Option Nat :=
  if j.phase = .done then none
  else if j.cancelled then some stCANCELLED
  else if j.torn then some stTORN
  else if j.nq then some stNOT_QUALIFIED
  else if (j.phase = .armed ∨ j.phase = .waitMem ∨ j.capturing) ∧ s.streamAbsent j.stream then some stNOT_QUALIFIED
  else if j.phase = .processing ∧ (if jStreamMode j.words then s.el ≥ j.capEl + ofNs (1000000 * jMs j.words) else j.left = 0) then some stOK
  else none

/-- The impairments of the heat that ends (rule R256): captures that they spoilt restart. -/
def State.impairJobs (s : State) : State :=
  s.jobs.foldl (fun s e => if e.2.capturing && e.2.spoilt && !e.2.cancelled && !e.2.torn then s.restartJob e.1 true else s) s

/-- A job that holds its booking processes from the boundary after its capture (rule R258). -/
def State.beginJobs (s : State) : State :=
  { s with jobs := s.jobs.map fun (e : Nat × Job) =>
      if e.2.phase = .captured ∧ e.2.booked ≠ 0 then (e.1, { e.2 with phase := .processing }) else e }

/-- A STREAM job at its end stores what its last period still lacks (rule R251). -/
def State.closeStream (s : State) (i : Nat) : State :=
  let j := s.job i
  if jStreamMode j.words ∧ j.phase = .processing ∧ s.el ≥ j.capEl + ofNs (1000000 * jMs j.words) then
    (List.range (jCount j.words - (s.snap j.snap).count)).foldl (fun s _ =>
      let x := s.snap j.snap
      let a := j.capAt.getD 0
      let ts := match x.hist with | u :: v :: _ => u.1 - v.1 | _ => 1
      s.storeNext i (s.resample j.words x.hist a (a + (x.count : Rat) * (jTp j.words : Nat) * 1000000000 / (jN j.words : Nat)) ts)) s
  else s

/-- WAIT_MEM jobs reserve in the order they were submitted; one that does not fit holds back those behind it (rule
R252). -/
def State.reserveAll (s : State) (l : List Nat) : State :=
  match l with
  | [] => s
  | i :: rest =>
    match s.reserve i s.heat with
    | some s1 => s1.reserveAll rest
    | none => s

/-- Jobs in WAIT_MEM in the order of their submission. -/
def State.waitMem (s : State) : List Nat :=
  let l := s.jobs.filter fun e => e.2.phase == .waitMem
  (sortNat (l.map fun e => e.2.order)).filterMap fun q => (l.find? fun e => e.2.order == q).map (·.1)

/-- Captures that may start from this boundary on (rules R256, R257): after real samples came back, and after an
alignment heat has ended. -/
def State.releaseStarts (s : State) (aligned : Bool) : State :=
  { s with jobs := s.jobs.map fun (e : Nat × Job) =>
      let j := e.2
      let real := j.waitReal && s.streamReal j.stream
      let al := j.holdAlign && aligned
      let passed := match j.start with | some t => decide (t ≤ s.tb.now) | none => true
      if j.phase = .armed ∧ (real ∨ al) then
        (e.1, { j with waitReal := j.waitReal && !real, holdAlign := j.holdAlign && !al,
                       start := if passed then none else j.start, startHeat := s.heat })
      else if al then (e.1, { j with holdAlign := false, start := if passed then none else j.start })
      else e }

/-- A heat of waiting (rule R139). -/
def State.ageJobs (s : State) : State :=
  { s with jobs := s.jobs.map fun (e : Nat × Job) => if e.2.queued then (e.1, { e.2 with ageHeats := e.2.ageHeats + 1 }) else e }

/-- Entries of jobs whose record was written before this boundary are freed (rule R263). -/
def State.freeJobs (s : State) : State :=
  (s.jobs.filter fun e => match e.2.written with | some h => decide (h < s.heat) | none => false).foldl
    (fun s e =>
      let s1 : State := { s with jobs := Tab.del s.jobs e.1 }
      if e.1 < 8192 then s1.freeNow e.1 else s1) s

/-- Recovery frees the entries of ended jobs (rule R574); a record still unwritten is kept under a key of its own. -/
def State.freeEnded (s : State) : State :=
  (s.jobs.filter fun e => e.2.phase = .done ∧ e.1 < 8192).foldl (fun s e =>
    let s1 : State := { s with jobs := Tab.del s.jobs e.1 }
    let s2 := (s1.releaseAll (.entry e.1)).freeNow e.1
    if e.2.written.isNone then s2.setJob (8192 + e.2.doneSeq) e.2 else s2) s

/-- SRCH_CANCEL at its boundary: the job ends CANCELLED and the command completes. -/
def endCancel (s : State) (e : JEntry) : State := s.finish e stOK 3 0 e.named 0 0

/-- THE CRUCIBLE AT A BOUNDARY, the heat number risen: `ovr` that its work on the heat that ended is dropped in part, `aligned` that an
alignment heat ended, `ret` that a step or re-epoch applies (rule R257). -/
def State.crucible (s : State) (ins : List JobIn) (ovr aligned ret : Bool) : State :=
  let s1 := s.freeJobs
  let ids := s1.jobs.map (·.1)
  let s2 := (ids.foldl (fun s i => (s.closeStream i).workJob i ovr (((ins.find? fun x => x.idx == i).map (·.dropped)).getD [])) s1).impairJobs
  let s3 := ids.foldl (fun s i => match s.jobEnd (s.job i) with
    | some st => s.endJob i st
    | none => s) (if ret then s2.retimeJobs else s2)
  let s4 := (s3.releaseStarts aligned).beginJobs
  let s5 := s4.reserveAll s4.waitMem
  (s5.startJobs (s5.jobs.length + 1)).ageJobs.refreshFloor

/-- At a quench every live job ends TORN in the torn heat, and no spawn takes place (rules R267, R574). -/
def State.quenchJobs (s : State) : State :=
  (s.jobs.foldl (fun s e => if e.2.phase = .done then s else s.endJob e.1 stTORN) s).refreshFloor

/-- The snapshot that holds a word of the snapshot memory. -/
def State.snapAt (s : State) (a : Nat) : Option Nat :=
  (s.snaps.find? fun e => e.2.runs.any fun r => decide (r.1 ≤ a ∧ a < r.1 + r.2)).map (·.1)

/-- An uncorrectable error in a word of the snapshot memory tears every job that uses the snapshot or accumulators there (rules R258, R267). -/
def State.tearSnap (s : State) (a : Nat) : State :=
  match s.snapAt a with
  | none => s
  | some n => { s with jobs := s.jobs.map fun (e : Nat × Job) => if e.2.snap = n ∧ e.2.holds then (e.1, { e.2 with torn := true }) else e }

/-! ## The CRUC pages (rules R269 to R272) -/

/-- PHASE codes. -/
def JobPhase.code : JobPhase → Nat
  | .waitMem => 1 | .armed => 2 | .capturing => 3 | .captured => 4 | .processing => 5 | .done => 6

/-- Registers of the CRUC0 page computed from the state. -/
def viewCruc0 (s : State) (off : Nat) : Option Word :=
  let i := s.rf 0x041 0x058 12 0
  let j := s.job i
  if off = 0x044 then
    some (BitVec.ofNat 32 ((s.jobs.filter fun e => e.2.queued).length + (s.jobs.filter fun e => e.2.booked != 0).length * 65536))
  else if off = 0x048 then some (BitVec.ofNat 32 (s.booked 2))
  else if off = 0x04C then some (BitVec.ofNat 32 s.snapUsed)
  else if off = 0x054 then some ((s.floorJob.map s.handleOf).getD 0)
  else if off = 0x05C then
    some (if s.hasJob i then BitVec.ofNat 32 (j.phase.code + b2n (j.booked != 0) * 8 + j.prio * 16 + b2n (s.floorJob == some i) * 128
      + min 15 j.restarts * 256 + b2n (j.result.isSome && j.written.isNone) * 4096 + j.booked * 65536) else 0)
  else if off = 0x068 then some (BitVec.ofNat 32 s.cells)
  else none

/-- PG_STAT block bits of the CRUC0 page. -/
def statCruc0 (s : State) : Word :=
  BitVec.ofNat 32 (b2n s.floorJob.isSome * 256 + b2n (s.jobs.any fun e => e.2.phase == .waitMem) * 512)

/-- Registers of the CRUC2 page computed from the state. -/
def viewCruc2 (s : State) (off : Nat) : Option Word :=
  if off = 0x058 then some (BitVec.ofNat 32 s.heldResults.length) else none

/-- PG_STAT block bits of the CRUC2 page. -/
def statCruc2 (s : State) : Word :=
  BitVec.ofNat 32 (s.rf 0x043 0x040 0 0 * 256 + b2n s.rrFull * 512 + b2n s.rrPhase * 1024)

/-- Refusals of writes to the result ring's registers (rules R272, R612). -/
def violCruc2 (s : State) (off : Nat) (v : Word) : Viol :=
  ringViol s 0x043 0x040 0 1 [(0x044, 0x048, 32, 16)] [(0x044, 0), (0x048, 0), (0x04C, 0)] off v ++
  (if off = 0x050 ∧ fld v 11 0 ≥ 2 ^ s.rf 0x043 0x04C 3 0 then [(0, 0x05)] else [])

/-- CELLS_LO (R269): a read returns bits [31:0] and latches CELLS_HI. -/
def execCellsLo (s : State) : Out :=
  .next (s.readRow (BitVec.ofNat 32 s.cells) fun s => s.setReg 0x041 0x06C (BitVec.ofNat 32 (s.cells / 2 ^ 32)))

end Sys2Proof.Machine
end

