-- ==== Sys2Proof/Machine/Comb.lean ====
section
/-! DEFINITION. The spatial combiner (rules R230 to R240, R243, R244): its commands, the states of a group, splits and
rejoins at heat boundaries, and the COMB page. -/

namespace Sys2Proof.Machine

/-- Offset of register o of group g on the COMB page (rule R243). -/
def grpOff (g o : Nat) : Nat := 0x040 + 0x40 * g + o

/-! ## COMB_CREATE (rules R230, R231) -/

/-- STREAMk and ELEM_DELAYk of the arguments. -/
def combStream (e : JEntry) (k : Nat) : Nat := fld (e.w (4 + k / 4)) (8 * (k % 4) + 7) (8 * (k % 4))
def combDelay (e : JEntry) (k : Nat) : Int := (e.w (6 + k)).toInt
def combN (e : JEntry) : Nat := fld (e.w 3) 10 8 + 1
def combRef (e : JEntry) : Nat := fld (e.w 3) 14 12

/-- The argument of COMB_CREATE that fails its check: the word's index. -/
def State.combBad (s : State) (e : JEntry) : Option Nat :=
  let n := combN e
  let out := fld (e.w 3) 7 0
  let streamOk := fun (k : Nat) =>
    if k < n then decide (combStream e k < 32) && (List.range k).all fun j => combStream e j != combStream e k
    else combStream e k == 0xFF
  badWord e
    ([(3, 0xF7FF), (4, 0xFFFFFFFF), (5, 0xFFFFFFFF), (14, 0xFFFF)] ++ (List.range 8).map fun k => (6 + k, 0xFFFFFFFF))
    ([(3, decide (32 ≤ out ∧ out ≤ 39) && (s.groupOut out).isNone), (3, decide (2 ≤ n)), (3, decide (combRef e < n)),
      (4, (List.range 4).all streamOk), (5, (List.range 4).all fun k => streamOk (k + 4)),
      (14, decide (1 ≤ fld (e.w 14) 7 0)), (14, decide (10 ≤ fld (e.w 14) 15 8 ∧ fld (e.w 14) 15 8 ≤ 60))] ++
     (List.range 8).map fun k =>
       (6 + k, decide ((combDelay e k).natAbs ≤ 50000) && ((k != combRef e && decide (k < n)) || combDelay e k == 0)))

/-- The total member rate of the live groups in samples per second. -/
def State.combLoad (s : State) : Rat :=
  s.liveGroups.foldl (fun a e => e.2.streams.foldl (fun a st => a + s.physRate st) a) 0

/-- The refusals of step 1 (rule R231): status and detail. -/
def State.combRefused (s : State) (e : JEntry) : Option (Nat × Nat) :=
  match s.combBad e with
  | some n => some (stBAD_ARG, n)
  | none =>
    let ks := List.range (combN e)
    match ks.find? fun k => s.liveGroups.any fun g => g.2.streams.contains (combStream e k) with
    | some k => some (stBUSY, k)
    | none =>
      let r := fun (k : Nat) => s.physRate (combStream e k)
      match ks.find? fun k => r k ≠ r 0 ∨ r k > 100000000 with
      | some k => some (stBAD_ARG, k)
      | none => if s.combLoad + ks.foldl (fun a k => a + r k) 0 > 2400000000 then some (stBUSY, 0) else none

/-- Step 2 (rule R231): the first member whose lane is not fit. -/
def State.combUnfit (s : State) (e : JEntry) : Option Nat :=
  let lane := fun (k : Nat) => (s.streamAt (combStream e k)).map (·.1)
  (List.range (combN e)).find? fun k =>
    match lane k, lane 0 with
    | some a, some b =>
      !((s.lane a).st == .qualified && s.rf (lanePage a) 0x064 3 3 == 1
        && s.rf (lanePage a) 0x064 2 0 == s.rf (lanePage b) 0x064 2 0 && s.ccOk a)
    | _, _ => true

/-- The lowest free group number (log entry 17). -/
def State.freeGroup (s : State) : Nat := ((List.range 8).find? fun g => (s.group g).n == 0).getD 0

/-- Steps 1 and 2 of COMB_CREATE. -/
def stepCombCreate (s : State) (e : JEntry) : State :=
  match s.combRefused e with
  | some (st, d) => s.refuse e st 1 d
  | none =>
    match s.alloc 7 true false with
    | (none, s1) => s1.refuse e stNO_HANDLE 1 0
    | (some i, s1) =>
      match s1.combUnfit e with
      | some k => (s1.freeNow i).refuse e stNOT_QUALIFIED 2 k
      | none =>
        let g := s1.freeGroup
        let s2 := s1.setGroup g {
          entry := i, out := fld (e.w 3) 7 0, n := combN e, ref := combRef e, act := combRef e, rejoin := (e.w 3).getLsbD 15,
          streams := (List.range (combN e)).map (combStream e), delays := (List.range (combN e)).map (combDelay e),
          loadDb := fld (e.w 14) 15 8, members := List.range (combN e) }
        (s2.jmod e.seq fun y => { y with handle := s2.handleOf i, arg := g }).jstep e.seq 2 (s.heat + 1)

/-- Write GRP_CTL.W_TAU, in both copies. -/
def State.setWTau (s : State) (g x : Nat) : State :=
  (s.setRf 0x040 (grpOff g 0) 23 16 x).setShad 0x040 (grpOff g 0) (setFld (s.shad 0x040 (grpOff g 0)) 23 16 x)

/-- Step 3 at a boundary: the group starts aligning, with GD_REF from the reference lane's DELAYj. -/
def formGroup (s : State) (e : JEntry) : State :=
  let g := e.arg
  let x := s.group g
  let gd := match s.streamAt (x.streams.getD x.ref 0) with
    | some (n, j) => (s.reg (lanePage n) (0x068 + 4 * j)).toInt
    | none => 0
  ((s.setWTau g (fld (e.w 14) 7 0)).modGroup g fun x => { x with
    st := .forming, gdRef := gd, weights := [(x.act, ⟨1, 0⟩)] }).jstep e.seq 3 (s.heat + 1)

/-- Step 4, one heat later: the first weights apply and the command completes; its state follows from its members. -/
def firstWeights (s : State) (e : JEntry) : State :=
  let s1 := if (s.group e.arg).st = .forming then s.modGroup e.arg fun x => { x with st := .active } else s
  (s1.raise 0x040 16).done e 4 0 (s1.handleOf (s1.group e.arg).entry)

/-! ## COMB_DESTROY (rule R240) -/

/-- Live channels and search jobs on a combined stream. -/
def State.combUsers (s : State) (out : Nat) : Nat :=
  (s.chans.filter fun e => e.2.prm.stream = out && s.isLive e.1).length
  + (s.jobs.filter fun e => e.2.stream = out && s.isLive e.1).length

/-- The group of an entry. -/
def State.groupOf (s : State) (i : Nat) : Option (Nat × Group) := s.liveGroups.find? fun e => e.2.entry == i

/-- Step 1 of COMB_DESTROY. -/
def stepCombDestroy (s : State) (e : JEntry) : State :=
  match s.groupOf e.idx with
  | none => (s.dying e.idx).jstep e.seq 1 (s.heat + 1)
  | some (_, g) =>
    let u := s.combUsers g.out
    if u ≠ 0 then s.refuse e stBUSY 1 u else (s.dying e.idx).jstep e.seq 1 (s.heat + 1)

/-- A group is removed. -/
def State.dropGroup (s : State) (i : Nat) : State :=
  match s.groupOf i with
  | none => s
  | some (g, _) => (s.setGroup g {}).setWTau g 0

/-! ## Heats (rules R233, R237 to R239) -/

/-- The acting reference's DG_TAU_LOG2 (rule R234; log entry 86). -/
def State.groupTau (s : State) (x : Group) : Nat := fld (s.cr (x.streams.getD x.act 0) 0x04) 31 28

/-- The weights, SUPPR and gain of every group at the end of a heat (rules R233, R234). -/
def State.weighAll (s : State) : State :=
  (List.range 8).foldl (fun s g =>
    let x := s.group g
    let f := fun (hi lo : Nat) => s.rf 0x040 (grpOff g 0) hi lo
    if x.works then s.setGroup g (x.endHeat (f 0 0 == 1) (f 23 16) (f 15 8) (s.groupTau x)) else s) s

/-- The lane of a member. -/
def State.memberLane (s : State) (x : Group) (k : Nat) : Option Nat := (s.streamAt (x.streams.getD k 0)).map (·.1)

/-- Lost members come back (rule R239): with weight 0 beside an acting reference that stays. From ABSENT the old acting reference goes on where
it is among them, else the lowest of them (log entry 86). -/
def Group.back (x : Group) (back : List Nat) : Group :=
  let all := (List.range x.n).filter fun k => x.members.contains k || back.contains k
  let act := if x.members.isEmpty && !back.contains x.act then all.headD x.act else x.act
  ({ x with members := all, act := act, jump := true, st := if x.st = .forming then .forming else memSt all.length,
            weights := if x.members.isEmpty then [(act, ⟨1, 0⟩)] else x.weights } : Group).regrid x.gridEl

/-- Captures on a combined stream that splits or rejoins are impaired (rule R256). -/
def State.spoilOn (s : State) (out : Nat) : State :=
  { s with jobs := s.jobs.map fun (e : Nat × Job) =>
      if e.2.stream = out ∧ e.2.capturing ∧ e.2.capAt.isSome then (e.1, { e.2 with spoilt := true }) else e }

/-- A group at a boundary: the split, then the rejoins (rules R238 to R240); members that come back wait for a boundary that leaves an acting
reference. A group whose COMB_DESTROY removes it here is left. -/
def State.combGroup (s : State) (g : Nat) : State :=
  let x := { s.group g with splitDue := [], jump := false }
  if x.st = .free ∨ s.isLive x.entry = false then s
  else
    let fell := fun (k : Nat) => match s.memberLane x k with | some n => (s.lane n).ccLost || !s.ccOk n | none => true
    let lost := x.members.filter fell
    let y := if lost.isEmpty then x else x.split lost
    let back := if x.rejoin && (lost.isEmpty || !y.members.isEmpty) then (List.range x.n).filter fun k =>
      !x.members.contains k && (match s.memberLane x k with | some n => s.ccOk n | none => false) else []
    let z := if back.isEmpty then y else y.back back
    let s1 := s.setGroup g z
    let s2 := if lost.isEmpty then s1 else
      ((s1.count 0x040 (grpOff g 0x20)).setReg 0x040 (grpOff g 0x24) (BitVec.ofNat 32 s.heat)).raise 0x040 17
    let s3 := if !lost.isEmpty && x.st == .single then s2.raise 0x040 19 else s2
    let s4 := if lost.isEmpty && back.isEmpty then s3 else s3.spoilOn x.out
    if back.isEmpty then s4 else s4.raise 0x040 18

/-- THE COMBINER AT A BOUNDARY. -/
def State.combBoundary (s : State) : State := (List.range 8).foldl State.combGroup s

/-- Channels on a combined stream that split at this boundary are marked for the heat that begins (rule R238). -/
def State.markSplits (s : State) : State :=
  { s with chans := s.chans.map fun (e : Nat × Chan) =>
      (e.1, { e.2 with split := ((s.groupOut e.2.prm.stream).map fun x => !x.2.splitDue.isEmpty).getD false }) }

/-! ## The COMB page (rules R243, R244) -/

/-- State codes. -/
def GrpSt.code : GrpSt → Nat
  | .free => 0 | .forming => 1 | .active => 2 | .single => 3 | .absent => 4

/-- A weight part in 2^−12, 16 bits. -/
def wPart (x : Rat) : Nat := (BitVec.ofInt 16 (clampInt (-32768) 32767 (roundFree (x * 4096)))).toNat

/-- Registers of the COMB page computed from the state. -/
def viewComb (s : State) (off : Nat) : Option Word :=
  if off = 0x240 then some (BitVec.ofNat 32 (⌈s.combLoad / 1000000⌉.toNat % 4096))
  else
    let g := (off - 0x040) / 0x40
    let o := (off - 0x040) % 0x40
    let x := s.group g
    let k := s.rf 0x040 (grpOff g 0x10) 2 0
    let live := x.st != .free
    if o = 0x04 then
      some (if live then BitVec.ofNat 32 (x.st.code + x.act * 16 + (x.members.foldl (fun a k => a + 2 ^ k) 0) * 256
        + x.suppr % 256 * 65536 + x.out * 2 ^ 24) else 0)
    else if o = 0x08 then some (if live then s.handleOf x.entry else 0)
    else if o = 0x0C then some (BitVec.ofInt 32 x.gdRef)
    else if o = 0x14 then some (BitVec.ofNat 32 (wPart (x.weight k).re + wPart (x.weight k).im * 65536))
    else if o = 0x18 then some (BitVec.ofInt 32 (x.delays.getD k 0))
    else if o = 0x1C then some (if k < x.n then BitVec.ofNat 32 (x.streams.getD k 0 % 32 + 256) else 0)
    else none

/-- W_TAU is 0 while a group is FREE, and is not 0 otherwise (rule R244). -/
def violComb (s : State) (off : Nat) (v : Word) : Viol :=
  let g := (off - 0x040) / 0x40
  if off < 0x240 ∧ (off - 0x040) % 0x40 = 0 ∧ decide ((s.group g).st = .free) ≠ decide (fld v 23 16 = 0) then [(16, 0x05)] else []

end Sys2Proof.Machine
end

