-- ==== Sys2Proof/Machine/Uart.lean ====
section
/-! DEFINITION. The UARTs (rules R506 to R516, R520, R521): reception of a character, breaks and dead lines, the FIFOs,
and transmission. -/

namespace Sys2Proof.Machine

/-- The page of a UART. -/
def uartPage (n : Nat) : Nat := 0x0B1 + n

/-- A UART. -/
def State.uart (s : State) (n : Nat) : Uart := Tab.get (fun _ => {}) s.uarts n

/-- Write a UART. -/
def State.setUart (s : State) (n : Nat) (x : Uart) : State := { s with uarts := Tab.set (fun _ => {}) s.uarts n x }

/-- Change a UART. -/
def State.modUart (s : State) (n : Nat) (f : Uart → Uart) : State := s.setUart n (f (s.uart n))

/-- DEV.STRAPS.RECOVERY gives UART0 to the update path (rule R506). -/
def State.recoveryStrap (s : State) : Bool := s.rf 0x000 0x050 3 3 == 1

/-- UART n belongs to the update path. -/
def State.uartAssay (s : State) (n : Nat) : Bool := n == 0 && s.recoveryStrap

/-- A live subscription names UART n (rule R325, DEST 2 to 4). -/
def State.subsOn (s : State) (n : Nat) : Bool :=
  s.subs.any fun e => (s.ent e.1).st != .free && fld (e.2.words.getD 3 0) 7 4 == 2 + n

/-- CFG applied on UART n. -/
def State.uartCfg (s : State) (n : Nat) : Word := s.reg (uartPage n) 0x040

/-- F of a format: start, data, parity and first stop bit (rules R507, R510). -/
def uartF (cfg : Word) : Nat := 2 + (if cfg.getLsbD 0 then 7 else 8) + b2n (fld cfg 2 1 != 0)

/-- A full character with the second stop bit, in bits. -/
def uartBits (cfg : Word) : Nat := uartF cfg + b2n (cfg.getLsbD 3)

/-- The number of ones of a byte. -/
def ones (b : Byte) : Nat := (List.range 8).foldl (fun a i => a + b2n (b.getLsbD i)) 0

/-- The bits of a character on the line (rule R507): start, data least significant first, parity and stop bits. -/
def uartFrame (cfg : Word) (c : Byte) : List Bool :=
  let par := fld cfg 2 1
  [false] ++ (List.range (if cfg.getLsbD 0 then 7 else 8)).map (fun i => c.getLsbD i)
    ++ (if par = 0 then [] else [(ones c + b2n (par != 1)) % 2 == 1]) ++ [true] ++ (if cfg.getLsbD 3 then [true] else [])

/-- UnTXD rests at mark: no character is being sent (rule R515). -/
def State.txdMark (s : State) (n : Nat) : Bool := (s.uart n).sending.isNone

/-- Time units of a number of bits at the applied rate. -/
def State.bitUnits (s : State) (n bits : Nat) : Nat := bits * ofNs 1000000000 / max 1 (s.rf (uartPage n) 0x044 22 0)

/-- INC for a rate (rule R508). -/
def uartInc (rate : Nat) : Nat := (2 * 16 * rate * 2 ^ 32 + 250000000) / 500000000

/-- The level events of a UART page (rule R520): RX_THR and TX_THR while their levels hold. -/
def levelUart (s : State) (p : Nat) : Word :=
  let u := s.uart (p - 0x0B1)
  BitVec.ofNat 32 ((if u.rx.length ≥ s.rf p 0x04C 7 0 then 2 ^ 16 else 0) + (if u.tx.length ≤ s.rf p 0x04C 15 8 then 2 ^ 17 else 0))

/-- Raise what the levels hold. -/
def State.uartLevels (s : State) (n : Nat) : State :=
  let p := uartPage n
  let w := levelUart s p
  let new := w &&& ~~~(s.reg p 0x014)
  let s1 := if new.getLsbD 16 then s.raise p 16 else s
  if new.getLsbD 17 then s1.raise p 17 else s1

/-! ## Transmission (rules R506, R507, R514 to R516) -/

/-- Start the next byte where one waits and nothing holds it. -/
def State.uartKick (s : State) (n : Nat) : State :=
  let u := s.uart n
  let cfg := s.uartCfg n
  if s.inReset || !s.enabled (uartPage n) || u.sending.isSome || (cfg.getLsbD 4 && u.ctsHigh) then s
  else match u.tx with
    | [] => s
    | b :: rest =>
      let c := if cfg.getLsbD 0 then b &&& 0x7F else b
      ((s.setUart n { u with tx := rest, sending := some c, inForce := cfg }).emit (.uartChar n c (uartFrame cfg c))).uartLevels n

/-- Bytes enter the transmit FIFO. -/
def State.uartPush (s : State) (n : Nat) (l : List Byte) : State :=
  (s.modUart n fun u => { u with tx := u.tx ++ l }).uartKick n

/-- A message finds room for the whole of it (rules R329, R513). -/
def State.uartRoom (s : State) (n len : Nat) : Bool := decide ((s.uart n).tx.length + len ≤ 256)

/-- CHARACTER_SENT (R507): the character in transmission ends after `dt` ticks; the next byte starts. -/
def execCharacterSent (uart : Fin 3) (dt : Nat) (s : State) : Out :=
  let s1 := s.after dt
  .next (if (s1.uart uart.val).sending.isSome then (s1.modUart uart.val fun u => { u with sending := none }).uartKick uart.val
         else s1)

/-- CTS (R514): UnCTS_N changes. -/
def execCts (uart : Fin 3) (high : Bool) (s : State) : Out :=
  .next (if s.inReset then s else (s.modUart uart.val fun u => { u with ctsHigh := high }).uartKick uart.val)

/-- A refusal of a TXDATA write (rules R506, R516). -/
def violUart (s : State) (p off : Nat) : Viol :=
  let n := p - 0x0B1
  if off = 0x058 ∧ (s.subsOn n ∨ s.uartAssay n ∨ (s.uart n).tx.length ≥ 256) then [(0, 0x07)] else []

/-- A taken TXDATA write queues its byte. -/
def takenUart (p off : Nat) (v : Word) (s : State) : State :=
  let n := p - 0x0B1
  if off = 0x058 then s.uartPush n [v.setWidth 8]
  else if off = 0x04C then s.uartLevels n
  else s

/-! ## Reception (rules R509 to R513) -/

/-- The receiver of UART n works: enabled and armed. -/
def State.uartRxOn (s : State) (n : Nat) : Bool :=
  let u := s.uart n
  !s.inReset && s.enabled (uartPage n) && !u.lineDead && !u.inBreak && !s.uartAssay n

/-- A break (rule R511). -/
def State.uartBreak (s : State) (n : Nat) : State :=
  ((s.modUart n fun u => { u with inBreak := true }).count (uartPage n) 0x06C).raise (uartPage n) 20

/-- A received character enters the FIFO, or the parser of correction input (rules R506, R513). -/
def State.uartEnter (s : State) (n : Nat) (c : Byte) (pe fe : Bool) : State :=
  let p := uartPage n
  let s0 := if pe || fe then s.raise p 23 else s
  if (s.uartCfg n).getLsbD 6 then s0.modUart n fun u => { u with parse := u.parse ++ [c] }
  else if (s.uart n).rx.length ≥ 256 then (s.count p 0x068).raise p 19
  else (s0.modUart n fun u => { u with rx := u.rx ++ [(c, pe, fe)] }).uartLevels n

/-- The majority value of bit b of a character: of its samples at ticks 7, 8 and 9 (rule R509). -/
def uartBit (ticks : List Bool) (b : Nat) : Bool :=
  decide (b2n (ticks.getD (16 * b + 7) true) + b2n (ticks.getD (16 * b + 8) true) + b2n (ticks.getD (16 * b + 9) true) ≥ 2)

/-- The data bits of a character in a format. -/
def uartData (cfg : Word) (ticks : List Bool) : Byte :=
  BitVec.ofNat 8 ((List.range (if cfg.getLsbD 0 then 7 else 8)).foldl (fun a i => a + b2n (uartBit ticks (i + 1)) * 2 ^ i) 0)

/-- CHARACTER (R509): the line's samples at the ticks from sample 0 of a start bit on, 16 to a bit (log entry 97), after `dt` ticks of
0.8 ns; `idle` samples before it were high. Sample 0 may be tick 9 of the stop bit before (rule R510); after a framing error the receiver is
not armed before one high sample (rule R511). `began` tells that the character began before the last commit, whose old
format it then has (rule R516). -/
def execCharacter (uart : Fin 3) (dt idle : Nat) (ticks : List Bool) (began : Bool) (s : State) : Out :=
  let n := uart.val
  let p := uartPage n
  let s1 := s.after dt
  if !s1.uartRxOn n || ((s1.uart n).feWait && idle == 0) || uartBit ticks 0 then .next s1
  else
    let cfg := if began then (s1.uart n).rxOld else s1.uartCfg n
    let c := uartData cfg ticks
    let par := fld cfg 2 1
    let parity := uartBit ticks (uartF cfg - 2)
    let stop := uartBit ticks (uartF cfg - 1)
    let s2 := s1.modUart n fun u => { u with lastEl := s1.el, idleDone := false, feWait := !stop }
    if c == 0 && (par == 0 || !parity) && !stop then .next (s2.uartBreak n)
    else
      let pe := par != 0 && (ones c + b2n parity) % 2 != (if par = 1 then 0 else 1)
      let s3 := if pe then s2.count p 0x060 else s2
      .next ((if stop then s3 else s3.count p 0x064).uartEnter n c pe !stop)

/-- BREAK (R511): a character that is low throughout. -/
def execBreak (uart : Fin 3) (dt : Nat) (s : State) : Out :=
  let s1 := s.after dt
  .next (if s1.uartRxOn uart.val then s1.uartBreak uart.val else s1)

/-- BREAK_END (R511, R512): UnRXD has been high for so many sample ticks: 8 end a break, a full character time a dead
line. -/
def execBreakEnd (uart : Fin 3) (dt ticks : Nat) (s : State) : Out :=
  let n := uart.val
  let s1 := s.after dt
  let u := s1.uart n
  .next (if (u.lineDead && decide (ticks ≥ 16 * uartBits (s1.uartCfg n))) || (u.inBreak && !u.lineDead && decide (ticks ≥ 8))
    then (s1.modUart n fun u => { u with lineDead := false, inBreak := false, feWait := false }).raise (uartPage n) 21 else s1)

/-- LINE_DEAD (R512): UnRXD has been low for so many ticks of 0.8 ns since its falling edge. -/
def execLineDead (uart : Fin 3) (dt low : Nat) (s : State) : Out :=
  let n := uart.val
  let p := uartPage n
  let s1 := s.after dt
  .next (if !s1.inReset && s1.enabled p && !(s1.uart n).lineDead && !s1.uartAssay n
      && decide (low * tickUnits ≥ ofNs (1000000 * s1.rf p 0x048 13 0))
    then (s1.modUart n fun u => { u with lineDead := true }).raise p 22 else s1)

/-- RX_IDLE (R513): the receive FIFO holds a character and none has arrived for 4 character times. -/
def execRxIdle (uart : Fin 3) (dt : Nat) (s : State) : Out :=
  let n := uart.val
  let s1 := s.after dt
  let u := s1.uart n
  .next (if !s1.inReset && !u.rx.isEmpty && !u.idleDone && decide (s1.el ≥ u.lastEl + s1.bitUnits n (4 * uartBits (s1.uartCfg n)))
    then (s1.modUart n fun u => { u with idleDone := true }).raise (uartPage n) 18 else s1)

/-- The word a read of RXDATA answers (rule R521). -/
def State.rxWord (s : State) (n : Nat) : Word :=
  if (s.uartCfg n).getLsbD 6 then 0
  else match (s.uart n).rx with
    | [] => 0
    | (c, pe, fe) :: _ => BitVec.ofNat 32 (c.toNat + b2n pe * 256 + b2n fe * 512 + 1024)

/-- A read of RXDATA removes the oldest character. -/
def State.rxPop (s : State) (n : Nat) : State :=
  if (s.uartCfg n).getLsbD 6 then s else (s.modUart n fun u => { u with rx := u.rx.tail })

/-- RXDATA (R513). -/
def execRxdata (uart : Fin 3) (s : State) : Out :=
  .next (s.readRow (s.rxWord uart.val) fun s => s.rxPop uart.val)

/-! ## The UART pages (rules R516, R520, R521) -/

/-- UnRTS_N (rule R514). -/
def State.rts (s : State) (n : Nat) : Bool := (s.uartCfg n).getLsbD 5 && decide ((s.uart n).rx.length ≥ 224)

/-- Registers of a UART page computed from the state. -/
def viewUart (s : State) (p off : Nat) : Option Word :=
  let n := p - 0x0B1
  let u := s.uart n
  if off = 0x050 then
    some (BitVec.ofNat 32 (u.rx.length + u.tx.length * 65536 + b2n u.lineDead * 2 ^ 25 + b2n u.inBreak * 2 ^ 26
      + b2n (!u.ctsHigh) * 2 ^ 27 + b2n (s.uartAssay n) * 2 ^ 28))
  else if off = 0x054 then some (s.rxWord n)
  else if off = 0x05C then some (BitVec.ofNat 32 (uartInc (s.rf p 0x044 22 0)))
  else none

/-- A commit of USE 1 is refused while a live subscription names the UART. -/
def checkUart (new : State) (p : Nat) : Bool := !((new.uartCfg (p - 0x0B1)).getLsbD 6 && new.subsOn (p - 0x0B1))

/-- What a commit does: a character in reception keeps the old format; a byte may start. -/
def appliedUart (old : State) (p : Nat) (s : State) : State :=
  (s.modUart (p - 0x0B1) fun u => { u with rxOld := old.uartCfg (p - 0x0B1) }).uartKick (p - 0x0B1)

/-- A soft reset of a UART page. -/
def resetUart (s : State) (p : Nat) : State := s.setUart (p - 0x0B1) { ctsHigh := (s.uart (p - 0x0B1)).ctsHigh }

end Sys2Proof.Machine
end

