-- ==== Sys2Proof/Machine/Meas.lean ====
section
/-! DEFINITION. Measurement records and output subscriptions (rules R318 to R329, R340, R341, R352, R353). -/

namespace Sys2Proof.Machine

/-! ## SUBSCRIBE (rules R325, R328) -/

def subKind (ws : List Word) : Nat := fld (ws.getD 3 0) 3 0
def subDest (ws : List Word) : Nat := fld (ws.getD 3 0) 7 4
def subRate (ws : List Word) : Nat := fld (ws.getD 3 0) 17 8
def subLog (ws : List Word) : Nat := fld (ws.getD 10 0) 4 0

/-- The output records a subscription books (rule R328). -/
def subMax (ws : List Word) : Nat := if subKind ws ≤ 2 then fld (ws.getD 10 0) 28 16 else 1

/-- Records, rather than bytes, go out. -/
def subRec (ws : List Word) : Bool := decide (subKind ws ≤ 2)

/-- The argument of SUBSCRIBE that fails its check: the word's index. -/
def subBad (e : JEntry) : Option Nat :=
  let ws := e.words
  let k := subKind ws
  let d := subDest ws
  let r := subRate ws
  let mx := fld (e.w 10) 28 16
  let base := (e.w 8).toNat + (e.w 9).toNat * 2 ^ 32
  let full : Word := 0xFFFFFFFF
  let sel : Word := if k = 1 then (if e.w 7 ≠ 0 then 0xFFFF else 0x7F) else if k = 3 then 0xFF else if k = 4 then 0x3FF else 0
  badWord e
    [(3, 0x3FFFF), (4, sel), (5, if k = 1 then full else 0), (6, if k = 1 then 0xFF else 0), (7, if k = 1 then full else 0),
     (8, if d ≤ 1 then full else 0), (9, if d = 0 then full else 0), (10, 0x1FFF001F)]
    [(3, decide (1 ≤ k ∧ k ≤ 4)), (3, decide (d ≤ 4) && (decide (d ≤ 1) || decide (3 ≤ k))),
     (3, decide (1 ≤ r) && 1000 % r == 0 && decide (r ≤ (if k = 1 then 1000 else if k = 2 then 100 else 10))),
     (8, d != 0 || !subRec ws || base % 16 == 0), (8, d != 1 || (decide (base < 65536) && (!subRec ws || base % 8 == 0))),
     (10, if d ≥ 2 then subLog ws == 0 else if subRec ws then decide (4 ≤ subLog ws ∧ subLog ws ≤ 14)
          else decide (8 ≤ subLog ws ∧ subLog ws ≤ 20)),
     (10, if k = 1 then decide (1 ≤ mx ∧ mx ≤ 4096) else if k = 2 then mx == 1 else mx == 0)]

/-- Live subscriptions with their entries. -/
def State.liveSubs (s : State) : List (Nat × Sub) := s.subs.filter fun e => (s.ent e.1).st != .free

/-- The other refusals of SUBSCRIBE: status and detail. -/
def State.subRefused (s : State) (e : JEntry) : Option (Nat × Nat) :=
  match subBad e with
  | some n => some (stBAD_ARG, n)
  | none =>
    let h := e.w 7
    let c := s.ent (hIdx h)
    let fast := (s.liveSubs.filter fun x => decide (subRate x.2.words > 100)).foldl (fun n x => n + subMax x.2.words) 0
    if h ≠ 0 ∧ (c.st ≠ .live ∨ (c.cls ≠ 1 ∧ c.cls ≠ 15) ∨ c.cls ≠ hCls h ∨ c.gen ≠ hGen h ∨ hGen h = 0) then some (stSTALE, 7)
    else if subRate e.words > 100 ∧ fast + subMax e.words > 64 then some (stBUSY, 10)
    else if subDest e.words ≥ 2 ∧ (s.uartCfg (subDest e.words - 2)).getLsbD 6 = true then some (stBUSY, 3)
    else none

/-- The lowest free slot of the MEAS page (log entry 17). -/
def State.freeSub (s : State) : Nat := ((List.range 64).find? fun t => !s.subs.any fun e => e.2.slot == t).getD 0

/-- The counters of a slot: drops, truncations and wraps, kept beside the window. -/
def dropAddr (slot : Nat) : Nat := 0x100200 + slot
def truncAddr (slot : Nat) : Nat := 0x100240 + slot
def wrapAddr (slot : Nat) : Nat := 0x100280 + slot

/-- A subscription. -/
def State.sub (s : State) (i : Nat) : Sub := Tab.get (fun _ => {}) s.subs i

/-- Write a subscription. -/
def State.setSub (s : State) (i : Nat) (x : Sub) : State := { s with subs := Tab.ins s.subs i x }

/-- Change a subscription that exists. -/
def State.modSub (s : State) (i : Nat) (f : Sub → Sub) : State :=
  if s.subs.any fun e => e.1 == i then s.setSub i (f (s.sub i)) else s

/-- Steps 1 and 2 of SUBSCRIBE: book and allocate. -/
def stepSubscribe (s : State) (e : JEntry) : State :=
  match s.subRefused e with
  | some (st, d) => s.refuse e st 1 d
  | none =>
    let amt := subMax e.words
    if s.poolFree 5 < amt then s.refuseBudget e 5 amt (s.poolFree 5) false
    else
      match (s.book 5 amt (.cmd e.seq) e.seq).alloc 6 true false with
      | (none, s1) => s1.refuse e stNO_HANDLE 2 0
      | (some i, s1) =>
        let t := s1.freeSub
        let s2 := (s1.chown (.cmd e.seq) (.entry i)).setSub i { words := e.words, slot := t }
        let s3 := ((s2.setReg 0x070 (0x400 + 8 * t) 0).setReg 0x070 (0x404 + 8 * t) 0).setRegAtSlot (wrapAddr t) 0
        (s3.jmod e.seq fun y => { y with handle := s3.handleOf i, arg := i }).jstep e.seq 2 (s.heat + 1)

/-- Step 3 at the boundary: the subscription attaches; the detail word holds its slot. -/
def attachSub (s : State) (e : JEntry) : State :=
  (s.modSub e.arg fun x => { x with attached := true }).done e 3 (s.sub e.arg).slot (s.handleOf e.arg)

/-! ## Writing records and bytes (rules R318, R325, R329) -/

/-- Write one byte of host memory. -/
def State.setHmByte (s : State) (a : Nat) (b : Byte) : State :=
  let w := s.hm (a / 4 * 4)
  s.setHm (a / 4 * 4) (setFld w (8 * (a % 4) + 7) (8 * (a % 4)) b.toNat)

/-- One more drop of a slot (rule R329). -/
def State.subDrop (s : State) (slot : Nat) : State :=
  (s.setRegAtSlot (dropAddr slot) (cntUp (s.regAtSlot (dropAddr slot)))).raise 0x070 17

/-- Index registers of a slot. -/
def State.subHead (s : State) (t : Nat) : Nat := s.rf 0x070 (0x400 + 8 * t) 19 0
def State.subTail (s : State) (t : Nat) : Nat := s.rf 0x070 (0x404 + 8 * t) 19 0

/-- The ring of a subscription can be written at all: memory requests are permitted for host memory (rule R499), and a DMA
fault has not stopped it (rule R500). -/
def State.subOpen (s : State) (x : Sub) : Bool := !x.faulted && (subDest x.words == 1 || s.host.dma)

/-- Base of a subscription's ring. -/
def Sub.base (x : Sub) : Nat := (x.words.getD 8 0).toNat + (x.words.getD 9 0).toNat * 2 ^ 32

/-- Write a record of 8 native words into its ring, or drop it (rules R318, R329). -/
def State.subWrite (s : State) (x : Sub) (l : List Native) : State :=
  let n := 2 ^ subLog x.words
  let t := s.subTail x.slot
  if !s.subOpen x || (t + 1) % n == s.subHead x.slot % n then s.subDrop x.slot
  else
    let s1 := if subDest x.words = 1 then s.putExWords (x.base + 8 * t) l
      else s.putHostBytes (x.base + 80 * t) (packNat l ++ List.replicate 8 0)
    (s1.setReg 0x070 (0x404 + 8 * x.slot) (BitVec.ofNat 32 ((t + 1) % n))).raise 0x070 16

/-- Write a sentence or message whole, or drop it (rules R325, R329): into a byte ring, or a UART's transmit FIFO. A quench
stops subscription output on the UARTs (rule R575). -/
def State.subBytes (s : State) (x : Sub) (l : List Byte) : State :=
  let d := subDest x.words
  if d ≥ 2 then
    (if s.uartRoom (d - 2) l.length && s.enabled (uartPage (d - 2)) && decide (s.fault.phase = .run) then
      (s.uartPush (d - 2) l).raise 0x070 16
     else s.subDrop x.slot)
  else
    let n := 2 ^ subLog x.words
    let t := s.subTail x.slot
    let room := (s.subHead x.slot + n - 1 - t) % n
    if !s.subOpen x || decide (room < l.length) then s.subDrop x.slot
    else
      let s1 := (List.range l.length).foldl (fun s i =>
        if d = 1 then s.setExByte x.base ((t + i) % n) (l.getD i 0) else s.setHmByte (x.base + (t + i) % n) (l.getD i 0)) s
      (s1.setReg 0x070 (0x404 + 8 * x.slot) (BitVec.ofNat 32 ((t + l.length) % n))).raise 0x070 16

/-- One more record formed: SEQ counts on, and its wrap raises WRAP (rule R326). -/
def State.subSeq (s : State) (i : Nat) : State :=
  let x := s.sub i
  if x.seq = 0xFFFFFFFF then
    ((s.modSub i fun x => { x with seq := 0, wraps := x.wraps + 1 }).setRegAtSlot (wrapAddr x.slot)
      (BitVec.ofNat 32 (min 0xFFFF ((s.regAtSlot (wrapAddr x.slot)).toNat + 1)))).raise 0x070 18
  else s.modSub i fun x => { x with seq := x.seq + 1 }

/-! ## Raw records (rules R319 to R323) -/

/-- The period of the secondary or overlay code in ms (rule R273). -/
def secMs (code prn : Nat) : Nat :=
  match code with
  | 0x02 | 0x31 | 0x41 => 18000
  | 0x03 | 0x42 => 1500
  | 0x04 | 0x43 | 0x61 => 20
  | 0x12 => 10
  | 0x20 | 0x21 | 0x22 | 0x23 | 0x24 | 0x32 => 100
  | _ => symMs code prn

/-- AMB of a channel for a pseudorange (rule R322). -/
def State.ambOf (s : State) (c : Chan) (pr : Int) : Nat :=
  if c.frameSync then (if s.tb.stepped && decide (0 ≤ pr ∧ pr < 2 ^ 48) then 0 else 1)
  else if c.bitSync || c.secSync then 2 else 3

/-- The period in ms of an ambiguity. -/
def ambMs (c : Chan) (amb : Nat) : Nat :=
  if amb = 1 then 1000
  else if amb = 2 then (if c.secSync then secMs c.prm.signal c.prm.prn else symMs c.prm.signal c.prm.prn)
  else ((sigOf c.prm.signal).map (·.tp)).getD 1

/-- The offset in ms that places a system's time on the time base's TAI-like scale (rule R321). -/
def State.taiOff (s : State) (code : Nat) : Int :=
  if 0x10 ≤ code ∧ code < 0x20 then (s.ptp.utc - 10800) * 1000
  else if 0x30 ≤ code ∧ code < 0x40 then 33000
  else 19000

/-- The transmit time in ms of what is received at the heat's end (rule R321): from the time of week once the frame is known, else within a
secondary code, a symbol or a period. -/
def State.txMs (s : State) (c : Chan) : Rat :=
  let start : Int :=
    if c.frameSync then c.txMs
    else if c.secSync then ((c.secOff * c.sig.tp : Nat) : Int)
    else if c.bitSync then ((c.symOff * c.sig.tp : Nat) : Int)
    else 0
  (start : Rat) + c.endPh + (s.taiOff c.prm.signal : Int)

/-- c × (t_rx − t_tx) in 2^−10 m for an instant in ns (rule R321). -/
def State.rangeOf (s : State) (c : Chan) (ns : Nat) : Int :=
  roundFree ((299792458 * 1024 : Nat) * ((ns : Rat) / 1000000 - s.txMs c) / 1000)

/-- PR in 2^−10 m: complete, or from 0 up to c times the period (rules R321, R322). -/
def prOf (c : Chan) (amb : Nat) (pr : Int) : Nat :=
  if amb = 0 then pr.toNat
  else
    let p : Rat := (299792458 * 1024 * ambMs c amb : Nat) / 1000
    (⌊(pr : Rat) - p * ⌊(pr : Rat) / p⌋⌋).toNat

/-- The state that AUTH shows for a Galileo satellite (rules R342, R345). -/
def SatAuth.show (a : SatAuth) : Nat := if a.adkd0 = 3 ∨ a.adkd12 = 3 then 3 else if a.bits ≥ 80 then 2 else 1

/-- A signal is Galileo's. -/
def isGal (code : Nat) : Bool := decide (0x20 ≤ code ∧ code ≤ 0x24)

/-- AUTH of a channel. -/
def State.authOf (s : State) (c : Chan) : Nat :=
  if isGal c.prm.signal then (Tab.get (fun _ => {}) s.auth.sats c.prm.prn : SatAuth).show else 0

/-- A deviation in its field: 0xFFFF where it does not fit. -/
def stdFld (x : Int) : Nat := if x < 0 then 0 else min 0xFFFF x.toNat

/-- A raw record (rule R319) at an instant in ns, with the flags gathered. -/
def State.rawRecord (s : State) (seq i : Nat) (ns flags : Nat) : List Native :=
  let c := s.chan i
  let pr := s.rangeOf c ns
  let amb := s.ambOf c pr
  let g := (sigOf c.prm.signal).getD sigNone
  let u := s.uncert c
  let m : Rat := u.1 * 299792458 / (max 1 g.chips : Nat)
  let coast := c.st == .coast
  let std := fun (k : Nat) (x : Rat) => stdFld (if coast then roundFree x else (c.std.getD k 0 : Nat))
  let cyc : Rat := m * (g.freq c.prm.prn) / 299792458
  let w7 := c.st.code + Nat.land flags 0x27E0F8 + b2n c.plock * 2 ^ 8 + b2n c.bitSync * 2 ^ 9 + b2n c.secSync * 2 ^ 10
    + b2n c.frameSync * 2 ^ 11 + b2n c.coupled * 2 ^ 12 + s.authOf c * 2 ^ 19 + (if c.aoaValid then c.rho % 256 else 0) * 2 ^ 22
  [BitVec.ofNat 72 (at_ 0 32 seq + at_ 32 32 (s.handleOf i).toNat + at_ 64 4 1),
   BitVec.ofNat 72 (at_ 0 64 (s.heat - 1) + at_ 64 8 c.prm.signal),
   BitVec.ofNat 72 (at_ 0 32 (ns / 1000000000) + at_ 32 30 (ns % 1000000000)),
   BitVec.ofNat 72 (at_ 0 48 (prOf c amb pr) + at_ 48 16 (std 0 (m * 100)) + at_ 64 2 amb),
   BitVec.ofNat 72 ((BitVec.ofInt 48 (roundFree (c.endCp * 65536))).toNat + at_ 48 16 (std 1 (cyc * 4096))),
   BitVec.ofNat 72 ((BitVec.ofInt 32 c.dopp).toNat + at_ 32 16 (std 2 (u.2 * 1000)) + at_ 48 10 c.cn0),
   BitVec.ofNat 72 (at_ 0 32 c.lockT + at_ 32 8 c.prm.prn + at_ 40 6 c.prm.stream + at_ 48 16 s.tb.epoch + at_ 64 8 c.tcUse),
   BitVec.ofNat 72 w7]

/-- The constellation bit of a signal in SELECT (rule R325). -/
def selBit (code : Nat) : Nat :=
  if code < 0x10 then 0 else if code < 0x20 then 1 else if code < 0x30 then 2 else if code < 0x40 then 3
  else if code < 0x50 then 4 else if code < 0x60 then 5 else 6

/-- A channel belongs to a raw subscription (rules R320, R325). -/
def State.subTakes (s : State) (x : Sub) (i : Nat) (c : Chan) : Bool :=
  (c.st == .locked || c.st == .coast) &&
  (if x.words.getD 7 0 ≠ 0 then s.handleOf i == x.words.getD 7 0
   else
    let sel := fld (x.words.getD 4 0) 15 0
    let ss := (x.words.getD 5 0).toNat + fld (x.words.getD 6 0) 7 0 * 2 ^ 32
    (sel == 0 || sel.testBit (selBit c.prm.signal)) && (ss == 0 || ss.testBit c.prm.stream))

/-- Flags since the previous record of a channel in a subscription, all since its start for the first (rule R320); an
entry of `acc` carries 2^32 beside the flags. -/
def Sub.flagsOf (x : Sub) (i : Nat) (c : Chan) : Nat :=
  let a := Tab.get (fun _ => 0) x.acc i
  if a ≥ 2 ^ 32 then a - 2 ^ 32 else c.flags

/-- Form the raw records of an instant (rules R319, R328); they are written by the boundary ending heat N + 2. -/
def State.formRaw (s : State) (i : Nat) (ns : Nat) : State :=
  let x := s.sub i
  let hit := s.chans.filter fun e => s.subTakes x e.1 e.2
  let n := subMax x.words
  let s1 := (hit.take n).foldl (fun s e =>
    (s.modSub i fun y => { y with
      owed := y.owed ++ [(s.heat + 2, s.rawRecord y.seq e.1 ns (y.flagsOf e.1 e.2))],
      acc := Tab.ins y.acc e.1 (2 ^ 32) }).subSeq i) s
  (List.range (hit.length - n)).foldl (fun s _ =>
    (s.setRegAtSlot (truncAddr x.slot) (cntUp (s.regAtSlot (truncAddr x.slot)))).raise 0x070 19) s1

/-! ## PVT records and text (rules R324, R340, R341) -/

/-- A number limited to a signed field, as its bits. -/
def satBits (w : Nat) (x : Int) : Nat := (BitVec.ofInt w (clampInt (-(2 ^ (w - 1) : Int)) ((2 ^ (w - 1) : Int) - 1) x)).toNat

/-- A PVT record (rule R324). -/
def State.pvtRecord (s : State) (i ns : Nat) (ret : Bool) : List Native :=
  let v := s.sol
  let z := v.fix == 0
  let p := fun (l : List Int) (k w : Nat) => if z then 0 else (BitVec.ofInt w (l.getD k 0)).toNat
  [BitVec.ofNat 72 (at_ 0 32 (s.sub i).seq + at_ 32 32 (s.handleOf i).toNat + at_ 64 4 2),
   BitVec.ofNat 72 (at_ 0 64 (s.heat - 1) + at_ 64 8 v.nsv),
   BitVec.ofNat 72 (at_ 0 32 (ns / 1000000000) + at_ 32 30 (ns % 1000000000)),
   BitVec.ofNat 72 (p v.pos 0 36 + p v.pos 1 36 * 2 ^ 36),
   BitVec.ofNat 72 (p v.pos 2 36 + p v.vel 0 24 * 2 ^ 36),
   BitVec.ofNat 72 (p v.vel 1 24 + p v.vel 2 24 * 2 ^ 24
     + (if z then 0 else at_ 48 12 (min 4095 v.hStd) + at_ 60 12 (min 4095 v.vStd))),
   BitVec.ofNat 72 (if z then 0 else satBits 48 v.tbOff + at_ 48 16 (min 0xFFFF v.timeStd)),
   BitVec.ofNat 72 (satBits 32 v.drift + at_ 32 3 v.fix + at_ 35 3 v.tref + at_ 38 2 s.nav.level + at_ 40 1 (b2n v.torn)
     + at_ 41 1 (b2n v.raim) + at_ 42 1 (b2n v.sbas) + at_ 43 1 (b2n v.dgnss) + at_ 44 1 (b2n v.auth) + at_ 45 16 s.tb.epoch
     + at_ 61 1 (b2n ret))]

/-- Form the record or the sentences of an instant for a PVT, NMEA or RTCM subscription: sentences and messages enabled in
SELECT, in the order of their bits, 1005 only for a fixed position (rules R340, R341). They are written by the boundary
ending heat N + 10. -/
def State.formSol (s : State) (i : Nat) (text : List (Nat × Nat × List Byte)) (ns : Nat) : State :=
  let x := s.sub i
  if subKind x.words = 2 then
    ((s.modSub i fun y => { y with owed := y.owed ++ [(s.heat + 10, s.pvtRecord i ns y.retimed)], retimed := false })).subSeq i
  else
    let fixed := s.rf 0x071 0x040 1 0 == 2 || (s.rf 0x071 0x040 1 0 == 3 && s.nav.survSt == 2)
    let mine := text.filter fun t => t.1 == x.slot && (x.words.getD 4 0).getLsbD t.2.1
      && (subKind x.words == 3 || t.2.1 != 7 || fixed)
    (List.range 16).foldl (fun s b => (mine.filter fun t => t.2.1 == b).foldl (fun s t =>
      (s.modSub i fun y => { y with owed := y.owed ++ [(s.heat + 10, t.2.2.map fun c => c.setWidth 72)] }).subSeq i) s) s

/-! ## A boundary (rules R320, R327) -/

/-- The conditioning status of a stream's blocks over the heat (rule R229), of the members' for a combined one. -/
def State.heatCond (s : State) (st : Nat) : Nat :=
  (if st < 32 then (s.chain st).hstat
   else ((s.groupOut st).map fun e => e.2.members.foldl (fun a k => Nat.lor a (s.chain (e.2.streams.getD k 0)).hstat) 0).getD 0) % 8

/-- The flags a heat gives a channel (rule R319, word 7): `torn` that the heat was torn, `ret` that a step or re-epoch
applied. -/
def State.heatFlags (s : State) (c : Chan) (torn ret : Bool) : Nat :=
  b2n c.impaired * 8 + b2n (torn || c.torn) * 16 + b2n c.overrun * 32 + b2n c.slip * 64 + b2n c.halfRes * 128
    + b2n ret * 2 ^ 13 + s.heatCond c.prm.stream * 2 ^ 14 + b2n c.aoaValid * 2 ^ 17 + b2n c.aoaBad * 2 ^ 18 + b2n c.eph * 2 ^ 21

/-- Gather the flags of the heat that ended for every channel and subscription; SLIP is taken into the record. -/
def State.gather (s : State) (torn ret : Bool) : State :=
  let fl := fun (i : Nat) => s.heatFlags (s.chan i) torn ret
  let s1 : State := { s with
    chans := s.chans.map fun (e : Nat × Chan) => (e.1, { e.2 with flags := Nat.lor e.2.flags (fl e.1), slip := false }),
    subs := s.subs.map fun (e : Nat × Sub) => (e.1, { e.2 with
      acc := (e.2.acc.filter fun a => s.hasChan a.1).map fun (a : Nat × Nat) => (a.1, Nat.lor a.2 (fl a.1)),
      retimed := e.2.retimed || ret }) }
  s1

/-- Write the records due at this boundary. -/
def State.writeOwed (s : State) (i : Nat) : State :=
  let x := s.sub i
  let due := x.owed.filter fun o => decide (o.1 ≤ s.heat)
  due.foldl (fun s o => if subRec x.words then s.subWrite (s.sub i) o.2
      else s.subBytes (s.sub i) (o.2.map fun c => c.setWidth 8))
    (s.modSub i fun x => { x with owed := x.owed.filter fun o => decide (s.heat < o.1) })

/-- A subscription has an instant at a time in ms (rule R327). -/
def subDue (x : Sub) (ms : Nat) : Bool := x.attached && ms % (1000 / max 1 (subRate x.words)) == 0

/-- THE RECORDS OF AN INSTANT, at a time of whole milliseconds; none is formed while quenched (rule R574). -/
def State.formAll (s : State) (h : HeatIn) (ms : Nat) : State :=
  s.liveSubs.foldl (fun s e =>
    if !subDue e.2 ms || !s.isLive e.1 then s
    else if subKind e.2.words = 1 then s.formRaw e.1 (ms * 1000000)
    else s.formSol e.1 h.text (ms * 1000000)) s

/-- Write what is owed. -/
def State.writeAll (s : State) : State := s.subs.foldl (fun s e => s.writeOwed e.1) s

/-- UNSUBSCRIBE at its boundary: what waits is dropped and counted (rule R351). -/
def State.dropSub (s : State) (i : Nat) : State :=
  let x := s.sub i
  let s1 := x.owed.foldl (fun s _ => s.subDrop x.slot) s
  { s1 with subs := Tab.del s1.subs i }

/-! ## The MEAS page (rules R352, R353) -/

/-- The subscription of a slot, with its entry. -/
def State.subAt (s : State) (t : Nat) : Option (Nat × Sub) := s.liveSubs.find? fun e => e.2.slot == t

/-- Registers of the MEAS page computed from the state. -/
def viewMeas (s : State) (off : Nat) : Option Word :=
  let t := s.rf 0x070 0x040 5 0
  let x := s.subAt t
  if off = 0x044 then
    some ((x.map fun e => BitVec.ofNat 32 (fld (e.2.words.getD 3 0) 17 0 + subLog e.2.words * 2 ^ 18)).getD 0)
  else if off = 0x048 then some ((x.map fun e => s.handleOf e.1).getD 0)
  else if off = 0x04C then some ((x.map fun e => BitVec.ofNat 32 e.2.seq).getD 0)
  else if off = 0x050 then some (s.regAtSlot (wrapAddr t))
  else if off = 0x054 then some (s.regAtSlot (dropAddr t))
  else if off = 0x058 then some (s.regAtSlot (truncAddr t))
  else none

/-- Refusals of index writes: a value at or above the ring's size. -/
def violMeas (s : State) (off : Nat) (v : Word) : Viol :=
  if 0x400 ≤ off ∧ off < 0x600 ∧ off % 8 = 0 then
    let log := ((s.subAt ((off - 0x400) / 8)).map fun e => subLog e.2.words).getD 0
    if fld v 19 0 ≥ 2 ^ log then [(0, 0x05)] else []
  else []

/-- A taken write: CLR of a slot's counters; a head index, which also ends the full state of a DMA fault (rule R500). -/
def takenMeas (off : Nat) (v : Word) (s : State) : State :=
  let t := s.rf 0x070 0x040 5 0
  if off = 0x054 ∧ v.getLsbD 31 then s.setRegAtSlot (dropAddr t) 0
  else if off = 0x058 ∧ v.getLsbD 31 then s.setRegAtSlot (truncAddr t) 0
  else if 0x400 ≤ off ∧ off % 8 = 0 then
    match s.subAt ((off - 0x400) / 8) with
    | some (i, _) => s.modSub i fun x => { x with faulted := false }
    | none => s
  else s

end Sys2Proof.Machine
end

