-- ==== Sys2Proof/Machine/Nav.lean ====
section
/-! DEFINITION. The navigation engine's states, corrections in, the angle-of-arrival checks and the threat indicators
(rules R330 to R339, R346 to R350, R354, R355), and the Galileo authentication (rules R342 to R345, R356, R357). What the
signals alone decide comes in as operands (log entry 10). -/

namespace Sys2Proof.Machine

/-- NAV.CFG. -/
def State.navCfg (s : State) : Word := s.reg 0x071 0x040
def State.navMode (s : State) : Nat := fld s.navCfg 1 0

/-- Change the engine's record. -/
def State.modNav (s : State) (f : Nav → Nav) : State := { s with nav := f s.nav }

/-! ## Corrections in (rules R337 to R339) -/

/-- The byte index registers of the correction ring. -/
def State.ciHead (s : State) : Nat := s.rf 0x071 0x08C 19 0
def State.ciTail (s : State) : Nat := s.rf 0x071 0x090 19 0

/-- The Malith consumes the bytes that the host has produced (rules R337, R499). -/
def State.ciTake (s : State) : State :=
  if !s.ringOn 0x071 0x080 0 1 then s
  else
    let n := 2 ^ s.rf 0x071 0x080 6 2
    let len := (s.ciTail + n - s.ciHead % n) % n
    let base := s.ringBase 0x071 0x084 0x088
    let loc := s.rf 0x071 0x080 1 1 == 1
    let bytes := (List.range len).map fun i =>
      let k := (s.ciHead + i) % n
      if loc then s.exByte base k else BitVec.ofNat 8 ((s.hm ((base + k) / 4 * 4)).toNat >>> (8 * ((base + k) % 4)))
    let met := if loc && decide (0 < len) then s.meetEx (base + s.ciHead % n / 8) ((s.ciHead % n + len - 1) / 8 - s.ciHead % n / 8 + 1) else s
    (met.modNav fun v => { v with ciBuf := v.ciBuf ++ bytes }).setReg 0x071 0x08C (BitVec.ofNat 32 (s.ciTail % n))

/-- Drop bytes up to the next preamble 0xD3. -/
def hunt (l : List Byte) : List Byte := l.dropWhile fun b => b != 0xD3

/-- The first frame of some bytes (rule R337): its length where it is complete. -/
def rtcmLen (l : List Byte) : Option Nat :=
  match l with
  | _ :: a :: b :: _ =>
    let n := (a.toNat % 4) * 256 + b.toNat + 6
    if l.length ≥ n then some n else none
  | _ => none

/-- The frame's CRC-24Q is right. -/
def rtcmGood (l : List Byte) (n : Nat) : Bool :=
  crc24 (l.take (n - 3)) == (l.getD (n - 3) 0).toNat * 65536 + (l.getD (n - 2) 0).toNat * 256 + (l.getD (n - 1) 0).toNat

/-- The message number of a frame. -/
def rtcmType (l : List Byte) : Nat := (l.getD 3 0).toNat * 16 + (l.getD 4 0).toNat / 16

/-- What the engine makes of a message (rule R338). -/
def State.rtcmUse (s : State) (t : Nat) : State :=
  if t = 1005 ∨ t = 1006 then s.modNav fun v => { v with baseOk := true }
  else if [1074, 1084, 1094, 1104, 1114, 1124, 1134].any fun b => decide (b ≤ t ∧ t ≤ b + 3) then
    s.modNav fun v => { v with baseEl := some s.el }
  else if [1019, 1020, 1041, 1042, 1044, 1045, 1046, 1230].contains t then s
  else s.modNav fun v => { v with ignored := min 0xFFFF (v.ignored + 1) }

/-- The bytes waiting at a source: UART 0 to 2 in use for corrections, or the ring (3). -/
def State.rtcmBytes (s : State) (src : Nat) : List Byte := if src < 3 then (s.uart src).parse else s.nav.ciBuf

/-- Set them. -/
def State.setRtcm (s : State) (src : Nat) (l : List Byte) : State :=
  if src < 3 then s.modUart src fun u => { u with parse := l } else s.modNav fun v => { v with ciBuf := l }

/-- RTCM_FRAME (R337): the parser of a source takes the frame at the front of its bytes, once complete: a good one is
counted and used; after a bad one it hunts for the next preamble behind it. -/
def execRtcmFrame (src : Fin 4) (s : State) : Out :=
  let l := hunt (s.rtcmBytes src.val)
  .next (if s.inReset then s else match rtcmLen l with
    | none => s.setRtcm src.val l
    | some n =>
      if rtcmGood l n then ((s.setRtcm src.val (l.drop n)).count 0x071 0x078).rtcmUse (rtcmType l)
      else ((s.setRtcm src.val (hunt l.tail)).count 0x071 0x07C).raise 0x071 20)

/-- Age of the base epoch in s. -/
def State.baseAge (s : State) : Nat := match s.nav.baseEl with | some t => (s.el - t) / ofNs 1000000000 | none => 0

/-- Differential corrections apply (rule R339). -/
def State.dgnssOn (s : State) : Bool :=
  s.navCfg.getLsbD 13 && s.nav.baseOk && s.nav.baseEl.isSome && decide (s.baseAge ≤ fld s.navCfg 24 18)

/-- SBAS corrections apply. -/
def State.sbasOn (s : State) : Bool :=
  s.navCfg.getLsbD 12 && !s.dgnssOn && s.chans.any fun e => decide (0x60 ≤ e.2.prm.signal) && e.2.frameSync

/-! ## Solutions (rules R330 to R336) -/

/-- The position is taken as fixed: MODE 2, or MODE 3 after the survey. -/
def State.navFixed (s : State) : Bool := s.navMode == 2 || (s.navMode == 3 && s.nav.survSt == 2)

/-- Two or more of the spoofing indicators, one of the level-2 ones, and so on (rule R350). -/
def levelOf (ind : BitVec 9) : Nat :=
  let k := b2n (ind.getLsbD 2) + b2n (ind.getLsbD 3) + b2n (ind.getLsbD 4) + b2n (ind.getLsbD 5) + b2n (ind.getLsbD 6)
  if k ≥ 2 then 3
  else if k ≥ 1 || ind.getLsbD 7 || ind.getLsbD 8 then 2
  else if ind.getLsbD 0 || ind.getLsbD 1 then 1 else 0

/-- Change the indicators: THREAT_UP at a set, THREAT_LATCH, and THREAT_CLEAR when LEVEL returns to 0 (rules R349, R354). -/
def State.setInd (s : State) (bit : Nat) (on : Bool) : State :=
  let m : BitVec 9 := BitVec.ofNat 9 (2 ^ bit)
  let ind := if on then s.nav.ind ||| m else s.nav.ind &&& ~~~m
  let lv := levelOf ind
  let s1 := s.modNav fun v => { v with ind := ind, level := lv }
  let s2 := if on && !s.nav.ind.getLsbD bit then (s1.setReg 0x071 0x070 (s1.reg 0x071 0x070 ||| m.setWidth 32)).raise 0x071 18 else s1
  if lv = 0 ∧ s.nav.level ≠ 0 then s2.raise 0x071 19 else s2

/-- At level 3 with SPOOF_ACT the engine withholds its time solution (rule R350). -/
def State.spoofed (s : State) : Bool := decide (s.nav.level = 3) && s.navCfg.getLsbD 16

/-- A condition of an indicator is seen or not: it sets once held for `need` looks in a row; `gone` keeps the elapsed time
at which it last held. -/
def State.look (s : State) (bit need : Nat) (cond : Bool) : State :=
  if cond then
    let n := Tab.get (fun _ => 0) s.nav.held bit + 1
    let s1 := s.modNav fun v => { v with
      held := Tab.set (fun _ => 0) v.held bit n, gone := Tab.set (fun _ => 0) v.gone bit s.el }
    if n ≥ need ∧ s.nav.ind.getLsbD bit = false then s1.setInd bit true else s1
  else s.modNav fun v => { v with held := Tab.set (fun _ => 0) v.held bit 0 }

/-- The survey takes a solution (rule R333). -/
def State.survey (s : State) (x : NavIn) : State :=
  if s.navMode ≠ 3 then s.modNav fun v => { v with survSt := 0, survS := 0, survStd := 0 }
  else if s.nav.survSt = 2 then s
  else if s.nav.level = 3 then s.modNav fun v => { v with survSt := 3, survS := 0, survStd := 0 }
  else
    let s1 := s.modNav fun v =>
      let from_ := if v.survSt = 1 then v.survEl else s.el
      { v with survSt := 1, survStd := min 0xFFFF x.survStd, survEl := from_, survS := (s.el - from_) / ofNs 1000000000 }
    let cfg := s.reg 0x071 0x044
    if s1.nav.survS ≥ fld cfg 15 0 ∧ x.survStd ≤ fld cfg 31 16 then s1.modNav fun v => { v with survSt := 2, survEnd := some x.survPos } else s1

/-- The survey's end after the commits of its boundary (rules R333, R351): the mean goes to FIXED_X, FIXED_Y and FIXED_Z, shadow and
applied; a commit of MODE has taken it away. -/
def State.surveyEnd (s : State) : State :=
  match s.nav.survEnd with
  | none => s
  | some pos =>
    let put := fun (t : State) (k : Nat) =>
      let w := BitVec.ofInt 32 (pos.getD k 0)
      (t.setReg 0x071 (0x048 + 4 * k) w).setShad 0x071 (0x048 + 4 * k) w
    ((put (put (put s 0) 1) 2).modNav fun v => { v with survEnd := none }).raise 0x071 17

/-- FIX of a solution (rules R331, R332): satellites needed are 1 for a fixed position and 4 otherwise, and one more for each
inter-system bias. -/
def State.fixOf (s : State) (x : NavIn) : Nat :=
  if !x.found || decide (x.nsv < (if s.navFixed then 1 else 4) + x.nbias) then 0
  else if s.navFixed then 1
  else if s.dgnssOn then 4
  else if s.sbasOn then 3
  else 2

/-- SOLN_OK (rules R336, R350). -/
def State.solnOkNow (s : State) : Bool :=
  let v := s.sol
  v.have_ && ((decide (2 ≤ v.fix ∧ 5 ≤ v.nsv) && decide (v.hStd ≤ 1000 ∧ v.vStd ≤ 2000)) || decide (v.fix = 1 ∧ 2 ≤ v.nsv))
    && !v.raim && decide (s.nav.level < 3)

/-- The disciplining logic takes a solution as a measurement (rule R370, SRC 0). -/
def State.solMeas (s : State) : State :=
  let v := s.sol
  if s.discSrc = 0 ∧ 1 ≤ v.fix ∧ v.timeStd ≤ 100 * s.rf 0x081 0x04C 31 16 ∧ v.torn = false ∧ s.spoofed = false then
    s.discMeas ((v.tbOff : Rat) / 65536 / 1000000000) (((v.timeStd : Rat) / 100000000000) * ((v.timeStd : Rat) / 100000000000))
  else s

/-- The engine may use a Galileo satellite's data, or any other's, under AUTH_REQ (rule R345). -/
def State.authAllows (s : State) (c : Chan) : Bool :=
  match fld s.navCfg 15 14 with
  | 0 => s.authOf c != 3
  | 1 => !isGal c.prm.signal || s.authOf c == 2
  | _ => isGal c.prm.signal && s.authOf c == 2

/-- A satellite: constellation and PRN. -/
def satOf (c : Chan) : Nat × Nat := (selBit c.prm.signal, c.prm.prn)

/-- The channels that a solution may use (rules R330, R345, R350), elevations aside. -/
def State.navChans (s : State) : List (Nat × Chan) :=
  s.chans.filter fun e => e.2.st == .locked && e.2.frameSync && e.2.eph && s.authAllows e.2 && !(s.spoofed && e.2.aoaBad)

/-- Satellites that a solution may use. -/
def State.navSats (s : State) : Nat := ((s.navChans).map fun e => satOf e.2).dedup.length

/-- A SOLUTION (rules R330 to R336, R349): `torn` that the heat was torn. It uses no more satellites than there are to use. -/
def State.solution (s : State) (x0 : NavIn) (torn : Bool) : State :=
  let x := { x0 with nsv := min x0.nsv s.navSats,
                     auth := x0.auth || (s.navChans.all fun e => !isGal e.2.prm.signal || s.authOf e.2 == 2) }
  let fix := s.fixOf x
  let z := fix == 0
  let fixed := s.navFixed
  let fpos := (List.range 3).map fun k => (s.reg 0x071 (0x048 + 4 * k)).toInt * 10
  let v : NavSol := {
    have_ := true, fix := fix, nsv := x.nsv, pos := if z then [0, 0, 0] else if fixed then fpos else x.pos,
    vel := if z || decide (s.navMode ≠ 0) then [0, 0, 0] else x.vel, hStd := if z then 0 else x.hStd, vStd := if z then 0 else x.vStd,
    tbOff := if z then 0 else x.tbOff, timeStd := if z then 0 else x.timeStd, drift := x.drift, tref := fld s.navCfg 4 2,
    raim := x.raimFail, sbas := !z && s.sbasOn, dgnss := !z && s.dgnssOn, auth := x.auth, torn := torn, el := s.el }
  let s1 := { s with sol := v }
  let s2 := if fix ≠ s.sol.fix then s1.raise 0x071 16 else s1
  let s3 := s2.survey x
  let s4 := (s3.look 5 3 (decide (x.clkJump > s3.rf 0x071 0x058 15 0) && !z)).look 7 3 x.raimFail
  let s5 := (s4.modNav fun n => { n with innovCode := x.innovCode, innovRate := x.innovRate, nbias := x.nbias }).solMeas
  if s5.navCfg.getLsbD 11 && decide (1 ≤ fix) && decide (x.timeStd < 100000) then s5.autoStep else s5

/-- The engine at a boundary: the solution if there is one, the indicators that a heat shows, SOLN_OK; at level 3 with
SPOOF_ACT the loop holds over. -/
def State.navBoundary (s : State) (x : Option NavIn) (torn : Bool) : State :=
  let s0 := match x with | some x => s.solution x torn | none => s
  let carried := (s0.chans.map fun e => e.2.prm.stream).dedup
  let jam := (s0.liveGroups.any fun e => e.2.st != .free && decide (e.2.suppr ≥ s0.rf 0x071 0x058 31 24))
    || carried.any fun st => (s0.streamCond st).testBit 2
  let intf := carried.any fun st => fld (s0.reg 0x042 (0x040 + 4 * st)) 25 25 == 1
  let hot := ((s0.chans.filter fun e => (e.2.st == .locked) && decide (e.2.prm.signal < 0x60) && decide (e.2.cn0 > s0.rf 0x071 0x054 25 16)).map
    fun e => (selBit e.2.prm.signal, e.2.prm.prn)).dedup.length
  let s1 := (((s0.look 0 1000 jam).look 1 1 intf).look 2 5000 (decide (hot ≥ 2))).look 3 1 (s0.chans.any fun e => e.2.aoaBad)
  let s2 := ((s1.look 4 1 s1.nav.common).look 6 1 s1.nav.authBad).look 8 10 (decide (s1.nav.innovCode > 3000))
  let s3 := s2.modNav fun v => { v with authBad := false }
  let s4 := s3.modNav fun v => { v with solnOk := s3.solnOkNow }
  if s4.spoofed && s4.discSrc == 0 then s4.toHoldover else s4

/-- THREAT_CLEAR (R349): an indicator's condition has been absent for CLEAR_S seconds. -/
def execThreatClear (bit : Fin 9) (s : State) : Out :=
  let b := bit.val
  .next (if s.nav.ind.getLsbD b && Tab.get (fun _ => 0) s.nav.held b == 0
      && decide (s.el ≥ Tab.get (fun _ => 0) s.nav.gone b + ofNs (1000000000 * s.rf 0x071 0x058 23 16))
    then s.setInd b false else s)

/-! ## Angle of arrival (rules R346 to R348) -/

/-- Every element of a group but the reference has a position (log entry 18). -/
def State.arrSet (s : State) (g : Nat) (x : Group) : Bool :=
  (List.range x.n).all fun k => k == x.ref || (List.range 3).any fun a => s.regAtSlot (arrAddr g k a) != 0

/-- Calibrations end where a member's front-end leaves READY, or a group splits, rejoins or goes (rule R347); AOA_VALID
then clears on its channels (rule R351). -/
def State.calBoundary (s : State) : State :=
  (List.range 8).foldl (fun s g =>
    let x := s.group g
    let bad := x.st == .free || x.jump || x.members.any fun k => !s.feReady (x.streams.getD k 0)
    if bad && (Tab.get (fun _ => 0) s.nav.calSec g != 0 || s.nav.calOk.getLsbD g) then
      let s1 := s.modNav fun v => { v with
        calOk := v.calOk &&& ~~~(BitVec.ofNat 8 (2 ^ g)), calSec := Tab.set (fun _ => 0) v.calSec g 0,
        bias := v.bias.filter fun b => b.1 / 8 != g }
      { s1 with chans := s1.chans.map fun (e : Nat × Chan) =>
          if e.2.prm.stream = x.out ∧ e.2.aoaValid = true then (e.1, { e.2 with aoaValid := false, aoaEl := s.el }) else e }
    else s) s

/-- One evaluation of a channel on a calibrated group; `rho` in 1/256. -/
def Chan.aoa (c : Chan) (rho : Rat) (lim : Nat) : Chan :=
  let low := decide (rho < lim)
  let run := if low == c.aoaBad then 0 else c.aoaRun + 1
  { c with aoaValid := true, rho := min 255 ⌊rho⌋.toNat, aoaBad := if run ≥ 5 then !c.aoaBad else c.aoaBad, aoaRun := if run ≥ 5 then 0 else run }

/-- AOA_BAD of a channel that is not tested keeps its value until CLEAR_S expires (rule R351). -/
def Chan.aoaHold (c : Chan) (s : State) : Chan :=
  if c.aoaBad && decide (s.el ≥ c.aoaEl + ofNs (1000000000 * s.rf 0x071 0x058 23 16)) then { c with aoaBad := false, aoaRun := 0 } else c

/-- A component of an element's position in mm, east, north and up from the designated reference. -/
def State.elemPos (s : State) (g k axis : Nat) : Int := (s.regAtSlot (arrAddr g k axis)).toInt

/-- a_k of a satellite whose line of sight is (east, north, up) in 2^−30 (rule R346). -/
def State.steer (s : State) (g : Nat) (x : Group) (c : Chan) (u : Int × Int × Int) (k : Nat) : Cx :=
  if k = x.ref then ⟨1, 0⟩
  else
    let dot : Int := s.elemPos g k 0 * u.1 + s.elemPos g k 1 * u.2.1 + s.elemPos g k 2 * u.2.2
    (cis (phaseOf ((dot : Rat) / (2 ^ 30 * 1000 : Nat) * (c.sig.freq c.prm.prn) / 299792458))).unit

/-- A member's phase bias in cycles. -/
def State.biasOf (s : State) (g k : Nat) : Rat := Tab.get (fun _ => 0) s.nav.bias (8 * g + k)

/-- m_k of a channel (rule R346). -/
def State.measured (s : State) (g : Nat) (c : Chan) (k : Nat) : Cx :=
  (((Tab.get (fun _ => ({} : Cx)) c.aoaSum k).mul (wipe (phaseOf (s.biasOf g k))))).unit

/-- The members that a channel has element taps on. -/
def Group.tapsOf (x : Group) (c : Chan) : List Nat := x.members.filter fun k => c.els.contains k

/-- ρ of a channel in 1/256 (rule R348). -/
def State.rhoOf (s : State) (g : Nat) (x : Group) (c : Chan) (u : Int × Int × Int) : Rat :=
  let ks := x.tapsOf c
  256 * (ks.foldl (fun (a : Cx) k => a.add ((s.steer g x c u k).conj.mul (s.measured g c k))) {}).abs / (max 1 ks.length : Nat)

/-- |m_i^H m_j| / N of two channels on a group, in 1/256 (rule R348). -/
def State.pairOf (s : State) (g : Nat) (x : Group) (a b : Chan) : Rat :=
  let ks := (x.tapsOf a).filter fun k => b.els.contains k
  256 * (ks.foldl (fun (t : Cx) k => t.add ((s.measured g a k).conj.mul (s.measured g b k))) {}).abs / (max 1 ks.length : Nat)

/-- The EPROMPT channels of a group that are LOCKED. -/
def State.aoaChans (s : State) (x : Group) : List (Nat × Chan) :=
  s.chans.filter fun e => e.2.prm.eprompt && e.2.prm.stream == x.out && e.2.st == .locked

/-- One second of learning on a group (rule R347): each bias moves by 1/600 of the argument of the mean of m_k × conj(a_k) over the channels
with a line of sight; the reference's stays 0. Seconds with at least 6 satellites count towards CAL_OK. -/
def State.learnBias (s : State) (los : List (Nat × Int × Int × Int)) (g : Nat) : State :=
  let x := s.group g
  let sats := ((s.aoaChans x).map fun e => satOf e.2).dedup.length
  let learn := s.nav.level == 0 && (s.sol.fix == 1 || s.nav.solnOk)
  if x.st = .free ∨ x.members.length < 3 ∨ s.arrSet g x = false ∨ learn = false then s
  else
    let n := Tab.get (fun _ => 0) s.nav.calSec g + b2n (decide (6 ≤ sats))
    let sum := fun (k : Nat) => (s.aoaChans x).foldl (fun (a : Cx) e => match los.find? fun l => l.1 == e.1 with
      | some l => if e.2.els.contains k then a.add ((s.measured g e.2 k).mul (s.steer g x e.2 l.2 k).conj) else a
      | none => a) {}
    let step := fun (k : Nat) => if k = x.ref ∨ sum k = {} then 0 else Config.atan2 (sum k).im (sum k).re / 600
    s.modNav fun v => { v with
      calSec := Tab.set (fun _ => 0) v.calSec g n,
      calOk := if n ≥ 60 then v.calOk ||| BitVec.ofNat 8 (2 ^ g) else v.calOk,
      bias := x.members.foldl (fun t k => Tab.set (fun _ => 0) t (8 * g + k) (s.biasOf g k + step k)) v.bias }

/-- The median over all pairs of channels of different satellites that a group's test is valid on, in 1/256 (rule R348). -/
def State.pairMedian (s : State) : Rat :=
  let valid := s.chans.filter fun e => e.2.aoaValid
  medianRat (valid.flatMap fun a => (valid.filter fun b => decide (a.1 < b.1) && a.2.prm.stream == b.2.prm.stream && satOf a.2 != satOf b.2).filterMap fun b =>
    (s.groupOut a.2.prm.stream).map fun e => s.pairOf e.1 e.2 a.2 b.2)

/-- AOA_EVALUATION (R348): once per second, from the sums of the second, with the lines of sight that the engine has from the ephemerides and
the position: entry index and east, north and up in 2^−30. -/
def execAoaEvaluation (los : List (Nat × Int × Int × Int)) (s : State) : Out :=
  if s.inReset || !decide (s.fault.phase = .run) then .next s
  else
    let s1 := (List.range 8).foldl (fun s g => s.learnBias los g) s
    let lim := s.rf 0x071 0x054 7 0
    let test := fun (i : Nat) (c : Chan) =>
      match s1.groupOut c.prm.stream with
      | some (g, x) =>
        if c.prm.eprompt && s1.nav.calOk.getLsbD g then
          (match los.find? fun l => l.1 == i with
           | some l => c.aoa (s1.rhoOf g x c l.2) lim
           | none => c)
        else c.aoaHold s1
      | none => c.aoaHold s1
    let s2 : State := { s1 with chans := s1.chans.map fun (e : Nat × Chan) => (e.1, test e.1 e.2) }
    let valid := ((s2.chans.filter fun e => e.2.aoaValid).map fun e => satOf e.2).dedup.length
    let s3 := s2.modNav fun v => { v with common := decide (valid ≥ 4) && decide (s2.pairMedian ≥ (s.rf 0x071 0x054 15 8 : Nat)) }
    .next { s3 with chans := s3.chans.map fun (e : Nat × Chan) => (e.1, { e.2 with aoaSum := [] }) }

/-! ## The NAV page (rules R354, R355) -/

/-- Registers of the NAV page computed from the state. -/
def viewNav (s : State) (off : Nat) : Option Word :=
  let v := s.nav
  if off = 0x05C then
    some (BitVec.ofNat 32 (s.sol.fix + s.sol.nsv % 256 * 8 + b2n v.solnOk * 2048 + b2n s.sol.raim * 4096 + v.survSt * 8192))
  else if off = 0x060 then some (BitVec.ofNat 32 (min 0xFFFF s.sol.hStd + min 0xFFFF s.sol.vStd * 65536))
  else if off = 0x064 then some (BitVec.ofNat 32 (min 0xFFFF s.sol.timeStd))
  else if off = 0x068 then some (BitVec.ofNat 32 (min 0xFFFF v.survS + min 0xFFFF v.survStd * 65536))
  else if off = 0x06C then some (BitVec.ofNat 32 (v.ind.toNat + v.level * 512))
  else if off = 0x074 then
    some (BitVec.ofNat 32 (b2n v.baseOk + b2n s.dgnssOn * 2 + b2n s.sbasOn * 4 + min 0xFF s.baseAge * 256 + v.ignored * 65536))
  else if off = 0x0A4 then
    some (BitVec.ofNat 32 (v.calOk.toNat
      + (roundFree (65536 * s.biasOf (s.rf 0x071 0x094 2 0) (s.rf 0x071 0x094 6 4)) % 65536).toNat * 65536))
  else none

/-- Refusals of writes to the correction ring's registers (rules R354, R355, R612). -/
def violNav (s : State) (off : Nat) (v : Word) : Viol :=
  ringViol s 0x071 0x080 0 1 [(0x084, 0x088, 1, 1)] [(0x084, 0), (0x088, 0)] off v ++
  (if off = 0x080 ∧ s.rf 0x071 0x080 0 0 = 1 ∧ fld v 6 2 ≠ s.rf 0x071 0x080 6 2 then [(2, 0x07)] else []) ++
  (if off = 0x090 ∧ fld v 19 0 ≥ 2 ^ s.rf 0x071 0x080 6 2 then [(0, 0x05)] else [])

/-- A commit of MODE restarts a survey in progress (rules R333, R351): one that changes MODE (log entry 95). -/
def appliedNav (old s : State) : State :=
  if s.navMode ≠ old.navMode then s.modNav fun v => { v with survSt := 0, survS := 0, survStd := 0, survEnd := none } else s

/-! ## Authentication (rules R342 to R345) -/

/-- Change OSNMA's record. -/
def State.modAuth (s : State) (f : Auth → Auth) : State := { s with auth := f s.auth }

/-- STAT.TIME_OK (rule R343). -/
def State.authTime (s : State) : Bool :=
  if s.sol.have_ && decide (1 ≤ s.sol.fix) then decide (s.sol.timeStd < 100000)
  else s.bk.rtcValid && decide (s.rtcUnc ≤ 1000000 * s.rf 0x072 0x040 15 8)

/-- The data of a satellite. -/
def State.sat (s : State) (prn : Nat) : SatAuth := Tab.get (fun _ => {}) s.auth.sats prn

/-- Write it. -/
def State.setSat (s : State) (prn : Nat) (a : SatAuth) : State :=
  s.modAuth fun v => { v with sats := Tab.set (fun _ => {}) v.sats prn a }

/-- The state of one kind of data set in a satellite's record. -/
def SatAuth.setAdkd (a : SatAuth) (adkd x : Nat) : SatAuth :=
  if adkd = 4 then { a with adkd4 := x } else if adkd = 12 then { a with adkd12 := x } else { a with adkd0 := x }

/-- Data that fails (rule R345): FAIL, AUTH_FAIL raised and seen by the threat indicators. -/
def State.satFail (s : State) (prn adkd : Nat) : State :=
  ((s.setSat prn ((s.sat prn).setAdkd adkd 3)).modNav fun v => { v with authBad := true }).raise 0x072 17

/-- A tag is verified (rules R342, R345). -/
def State.tag (s : State) (prn adkd bits : Nat) (ok : Bool) : State :=
  if ok then
    let a := s.sat prn
    let b := min 255 (a.bits + bits)
    let a1 := if a.adkd0 = 3 ∧ adkd ≠ 4 ∧ adkd ≠ 12 then a else { a with bits := b }.setAdkd adkd (if b ≥ 80 then 2 else 1)
    (s.setSat prn a1).count 0x072 0x074
  else (s.satFail prn adkd).count 0x072 0x078

/-- A tag arrives: verified while the time is known, kept for up to 300 s otherwise; pending under an unsupported root. -/
def State.tagIn (s : State) (t : TagIn) : State :=
  if s.auth.unsupported then s.setSat t.prn ((s.sat t.prn).setAdkd t.adkd 1)
  else if s.authTime then s.tag t.prn t.adkd t.bits t.ok
  else s.modAuth fun v => { v with kept := v.kept ++ [(t.prn, t.adkd, t.bits, t.ok, s.el)] }

/-- Kept tags are verified once the time is known; those older than 300 s are lost. -/
def State.keptTags (s : State) : State :=
  let fresh := s.auth.kept.filter fun k => decide (s.el ≤ k.2.2.2.2 + ofNs 300000000000)
  if s.authTime then
    fresh.foldl (fun s k => s.tag k.1 k.2.1 k.2.2.1 k.2.2.2.1) (s.modAuth fun v => { v with kept := [] })
  else s.modAuth fun v => { v with kept := fresh }

/-- What a page's answered requests show, in the order of rule R342. -/
def State.inavApply (s : State) (x : InavIn) : State :=
  let s1 : State := match x.pkr with
    | some true => (s.modAuth fun v => { v with pk := 2 }).raise 0x072 19
    | some false => s.modAuth fun v => { v with pk := 3 }
    | none => s
  let s2 : State := match x.root with
    | some (ok, uns) =>
      if s1.auth.pk ≠ 2 then s1.modAuth fun v => { v with root := 1 }
      else if ok then (s1.modAuth fun v => { v with root := 2, unsupported := uns }).raise 0x072 16
      else s1.modAuth fun v => { v with root := 3 }
    | none => s1
  let keyOk := x.key != some false
  if s2.auth.root ≠ 2 then s2
  else if keyOk then x.tags.foldl State.tagIn s2.keptTags
  else
    let s3 := ((s2.count 0x072 0x07C).raise 0x072 17).modNav fun v => { v with authBad := true }
    x.tags.foldl (fun s t => s.satFail t.prn t.adkd) s3

/-- INAV_PAGE (R342, R344): a page of a satellite arrives; while its requests are unanswered, its data stays PENDING. -/
def execInavPage (prn : Nat) (x : InavIn) (s : State) : Out :=
  if s.inReset || !(s.reg 0x072 0x040).getLsbD 0 || !decide (s.fault.phase = .run) then .next s
  else
    let s0 := if x.newData then s.setSat prn { adkd0 := 1, adkd12 := 1, adkd4 := (s.sat prn).adkd4 } else s
    if !x.answered then
      .next (s0.modAuth fun v => { v with reqEl := some (v.reqEl.getD s.el), pk := if x.pkr.isSome ∧ v.pk ≠ 2 then 1 else v.pk })
    else
      .next ((s0.modAuth fun v => { v with
        reqEl := none, stall := false, done := (v.done + x.reqs) % 65536, worst := max v.worst (min 0xFFFF x.ms) }).inavApply x)

/-- CRYPTO_STALL (R344): a request stays unanswered for REQ_TO. -/
def execCryptoStall (dt : Nat) (s : State) : Out :=
  let s1 := s.after dt
  .next (match s1.auth.reqEl with
    | some t =>
      if !s1.auth.stall && decide (s1.el ≥ t + ofNs (10000000 * s1.rf 0x072 0x040 23 16))
      then (s1.modAuth fun v => { v with stall := true }).raise 0x072 18 else s1
    | none => s1)

/-- A commit that names a preloaded DSM-PKR puts it forward for its check (rule R342). -/
def appliedAuth (old s : State) : State :=
  if s.reg 0x072 0x068 ≠ old.reg 0x072 0x068 ∧ s.rf 0x072 0x068 15 0 ≠ 0 ∧ s.auth.pk ≠ 2 then s.modAuth fun v => { v with pk := 1 } else s

/-- Registers of the AUTH page computed from the state. -/
def viewAuth (s : State) (off : Nat) : Option Word :=
  let a := s.sat (s.rf 0x072 0x06C 5 0)
  if off = 0x044 then
    some (BitVec.ofNat 32 (s.auth.pk + s.auth.root * 4 + b2n s.auth.unsupported * 16 + b2n s.auth.stall * 32 + b2n s.authTime * 64
      + (s.auth.sats.filter fun e => e.2.show == 2).length * 256))
  else if off = 0x070 then some (BitVec.ofNat 32 (a.adkd0 + a.adkd4 * 4 + a.adkd12 * 16 + a.bits * 256))
  else if off = 0x080 then some (BitVec.ofNat 32 (s.auth.done + s.auth.worst * 65536))
  else none

end Sys2Proof.Machine
end

