-- ==== Sys2Proof/Machine/Eth.lean ====
section
/-! DEFINITION. The network time ports (chapter 11): links, stamps, PTP messages, the choice of port states, slave
measurements, unicast negotiation, ESMC, and the ETH and PTPX pages. The best
master comparison is that of IEEE 1588-2019, which rules R416 and R418 name (log entry 20). Times of messages are in
nanoseconds. -/

namespace Sys2Proof.Machine

/-! ## Ports -/

/-- The page of port n. -/
def ethPage (n : Nat) : Nat := 0x090 + n

/-- Port n. -/
def State.port (s : State) (n : Nat) : EthPort := Tab.get (fun _ => {}) s.eth n

/-- Change port n. -/
def State.modPort (s : State) (n : Nat) (f : EthPort → EthPort) : State :=
  { s with eth := Tab.set (fun _ => {}) s.eth n (f (s.port n)) }

/-- Change the record of the PTP clock. -/
def State.modPtp (s : State) (f : PtpInst → PtpInst) : State := { s with ptp := f s.ptp }

def State.ethMode (s : State) (n : Nat) : Nat := s.rf (ethPage n) 0x040 2 0

/-- The port is off: MODE 0, or PG_CTL.EN 0, which stops it as OFF does (log entry 20). -/
def State.ethOff (s : State) (n : Nat) : Bool := s.ethMode n == 0 || !s.enabled (ethPage n)

/-- The transmitter sits at electrical idle (rule R432). -/
def State.txIdle (s : State) (n : Nat) : Bool := s.inReset || s.ethOff n

/-- The line rate of a mode in kBd and its coding, 8b/10b or 64b/66b as data bits (rule R403). -/
def lineOf (mode : Nat) : Nat × Nat :=
  if mode = 1 ∨ mode = 4 then (1250000, 8) else if mode = 2 then (3125000, 8) else if mode = 3 then (10312500, 64) else (0, 0)
def State.ptpCfg (s : State) (n : Nat) : Word := s.reg (ethPage n) 0x07C
def State.ptpRole (s : State) (n : Nat) : Nat := fld (s.ptpCfg n) 1 0
def State.p2p (s : State) (n : Nat) : Bool := (s.ptpCfg n).getLsbD 2
def State.unicast (s : State) (n : Nat) : Bool := (s.ptpCfg n).getLsbD 6
def State.logSync (s : State) (n : Nat) : Int := sfld (s.ptpCfg n) 11 8
def State.logAnn (s : State) (n : Nat) : Int := sfld (s.ptpCfg n) 15 12
def State.logDreq (s : State) (n : Nat) : Int := sfld (s.ptpCfg n) 19 16

/-- The clockIdentity: DEV.UID (rule R418). -/
def State.clockId (s : State) : Nat := s.fuse 895 832

/-- PTP port state codes (rule R435). -/
def psINIT : Nat := 1
def psFAULTY : Nat := 2
def psDISABLED : Nat := 3
def psLISTENING : Nat := 4
def psPREMASTER : Nat := 5
def psMASTER : Nat := 6
def psPASSIVE : Nat := 7
def psUNCAL : Nat := 8
def psSLAVE : Nat := 9

/-- A quench is in force or recovery from it runs: port states and grants are frozen, slaves do not measure, host queues
stop (rule R432). -/
def State.halted (s : State) : Bool := s.fault.phase != QPhase.run

/-- Ports send no PTP: in a quench with HEALTHY 0 (rule R432). -/
def State.ptpMute (s : State) : Bool := s.inReset || (s.halted && !s.tb.healthy)

/-- 2 to a signed power of seconds, in time units (rule R415). -/
def logUnits (l : Int) : Nat := if l < 0 then ofNs 1000000000 / 2 ^ l.natAbs else ofNs 1000000000 * 2 ^ l.natAbs

/-! ## Timestamps (rules R407, R408) -/

/-- To the nearest 0.25 ns, halves up. -/
def quarterNs (x : Rat) : Rat := (⌊4 * x + 1 / 2⌋ : Rat) / 4

/-- The time base in ns. -/
def State.nowNs (s : State) : Rat := (s.tb.now : Rat) / (unitsPerNs : Nat)

/-- A latency register in ps as ns. -/
def State.latNs (s : State) (n off : Nat) : Rat := ((s.reg (ethPage n) off).toInt : Rat) / 1000

/-- The PHY's latency for the resolved speed, in SGMII mode: bits hi to lo of PHY_LATs. -/
def State.phyNs (s : State) (n hi lo : Nat) : Rat :=
  if s.ethMode n = 4 then (s.rf (ethPage n) (0x070 + 4 * (s.port n).speed) hi lo : Rat) / 4 else 0

/-- The ingress stamp of a frame that the PCS latches now, `own` being the receive path delay of the Malith. -/
def State.ingress (s : State) (n : Nat) (own : Int) : Rat :=
  quarterNs (s.nowNs - (own : Rat) / 65536 - s.latNs n 0x068 - s.phyNs n 15 0)

/-- The egress stamp, `own` being the transmit path delay. -/
def State.egress (s : State) (n : Nat) (own : Int) : Rat :=
  quarterNs (s.nowNs + (own : Rat) / 65536 + s.latNs n 0x064 + s.phyNs n 31 16)

/-- A time in ns as quarter nanoseconds. -/
def quarters (x : Rat) : Int := ⌊4 * x⌋

/-! ## Port states (rules R406, R418, R420) -/

/-- A port's state changes: PSTATE_CHANGE; SLAVE_CHANGE where it enters or leaves SLAVE (rule R420). -/
def State.setPs (s : State) (n ps : Nat) : State :=
  let old := (s.port n).ps
  if old = ps then s
  else
    let s1 := (s.modPort n fun p => { p with ps := ps }).raise (ethPage n) 17
    if ps = psSLAVE then (s1.modPtp fun t => { t with slave := some n }).raise 0x094 16
    else if old = psSLAVE then (s1.modPtp fun t => { t with slave := none }).raise 0x094 16
    else s1

/-- Forget exchanges in progress. -/
def State.dropExch (s : State) (n : Nat) : State :=
  s.modPort n fun p => { p with sync := none, dreq := none, pdreq := none }

/-- How the port sends a PTP message of a type (rules R411 to R413): event messages are types 0 to 3; the UDP checksum of
a one-step port's messages over IPv4 is 0, and over IPv6 two bytes end the payload. -/
def State.ptpVia (s : State) (n typ : Nat) : PtpVia :=
  let c := s.ptpCfg n
  let m := s.reg (ethPage n) 0x040
  let tr := fld c 5 4
  { transport := tr,
    mac := if tr = 0 then (if c.getLsbD 7 then 0x0180C200000E else 0x011B19000000) else 0,
    udp := if tr = 0 then 0 else if typ < 4 then 319 else 320,
    tag := if m.getLsbD 4 then some (fld m 19 8, fld m 7 5) else none,
    domain := s.rf 0x094 0x040 15 8,
    sum0 := tr == 1 && !c.getLsbD 3,
    tail := if tr = 2 then 2 else 0 }

/-- A port sends a PTP message. -/
def State.sendPtp (s : State) (n typ seq : Nat) (f : List Int) : State := s.emit (.ptp n typ seq f (s.ptpVia n typ))

/-- A unicast request, as sent (rules R423, R424): REQUEST_UNICAST_TRANSMISSION to an address. -/
def State.sendRequest (s : State) (n who typ : Nat) (l : Int) : State :=
  if s.ptpMute then s
  else s.sendPtp n 0xC who [4, typ, l, (s.port n).umtDur]

/-- Ask for a grant: the request goes out and is remembered. -/
def State.askGrant (s : State) (n who typ : Nat) (l : Int) : State :=
  if (s.port n).mine.any fun g => g.who == who && g.typ == typ then s
  else (s.modPort n fun p => { p with mine := p.mine ++ [{ who := who, typ := typ, log2 := l, askEl := some s.el }] }).sendRequest n who typ l

/-- Entry to LISTENING: the Announce timeout starts; in the unicast slave role, Announce is requested of every entry of
the unicast master table (rule R424). -/
def State.toListening (s : State) (n : Nat) : State :=
  let s1 := ((s.setPs n psLISTENING).modPort n fun p => { p with annEl := s.el, parent := 0 }).dropExch n
  if s.unicast n && s.ptpRole n != 2 then
    ((s1.port n).umt.foldl (fun s e => s.askGrant n e.2 0xB (s.logAnn n)) s1)
  else s1

/-- The link drops (rule R406): FAULTY, unless the port is DISABLED. -/
def State.linkDrop (s : State) (n : Nat) : State :=
  if (s.port n).link then
    let s1 := (s.modPort n fun p => { p with link := false, speed := 0, anDone := false, foreign := [], parent := 0 }).raise (ethPage n) 16
    (if (s.port n).ps = psDISABLED then s1 else s1.setPs n psFAULTY).dropExch n
  else s

/-! ## The best master (rules R416, R418, R419) -/

/-- What two clocks are compared by: the qualities in order, the grandmaster, steps removed and the sender. -/
structure Rank where
  q : List Nat
  gm : Nat
  steps : Nat
  src : Nat
  deriving DecidableEq, Repr

/-- Lexicographic order. -/
def lexLt : List Nat → List Nat → Bool
  | [], _ => false
  | _ :: _, [] => false
  | a :: l, b :: m => decide (a < b) || (a == b && lexLt l m)

/-- One clock is better than another: by quality and grandmaster identity, and of one grandmaster by steps removed and
the sender. -/
def Rank.better (a b : Rank) : Bool :=
  if a.gm = b.gm then lexLt [a.steps, a.src] [b.steps, b.src] else lexLt (a.q ++ [a.gm]) (b.q ++ [b.gm])

/-- The alternate comparison of the telecom profiles is in force (rule R416). -/
def State.altBmca (s : State) : Bool := let p := s.rf 0x094 0x040 2 0; p == 1 || p == 2

/-- Rank of a foreign master. -/
def State.rankOf (s : State) (f : Foreign) : Rank :=
  { q := if s.altBmca then [f.ann.cls, f.ann.acc, f.ann.var, f.ann.prio2, f.lprio]
         else [f.ann.prio1, f.ann.cls, f.ann.acc, f.ann.var, f.ann.prio2],
    gm := f.ann.gm, steps := f.ann.steps, src := f.src }

/-- The class of the local clock without a slave port (rule R419), with its timeSource: the first row that applies. -/
def State.localClass (s : State) : Nat × Nat :=
  let locked := decide (s.disc.st = .locked)
  let hold := decide (s.disc.st = .holdover)
  let src := s.discSrc
  let unc := s.disc.holdUnc
  let spec := (s.reg 0x094 0x048).toNat
  if locked && (src == 0 || src == 2) && decide (s.nav.level < 3) then (s.rf 0x094 0x044 7 0, 0x20)
  else if (hold || (locked && s.nav.level == 3)) && decide (unc ≤ spec) then (s.rf 0x094 0x044 15 8, 0xA0)
  else if hold then (s.rf 0x094 0x044 23 16, 0xA0)
  else (s.rf 0x094 0x044 31 24, 0xA0)

/-- Bounds of the enumerated clockAccuracy values from 0x17 on, in ps (IEEE 1588-2019, log entry 20). -/
def accBounds : List Nat :=
  [1, 2, 10, 25, 100, 250, 1000, 2500, 10000, 25000, 100000, 250000, 1000000, 2500000, 10000000, 25000000, 100000000,
   250000000, 1000000000, 2500000000, 10000000000, 25000000000, 100000000000, 250000000000, 1000000000000, 10000000000000]

/-- The smallest clockAccuracy that bounds a number of ps; 0x31 beyond them all. -/
def accuracyOf (ps : Nat) : Nat := 0x17 + ((accBounds.findIdx? fun b => decide (ps ≤ b)).getD 26)

/-- 256 times the binary logarithm of a positive number, rounded down. -/
def log2x256 (q : Rat) : Int :=
  let a := q.num.natAbs ^ 256
  let b := q.den ^ 256
  if b ≤ a then (Nat.log2 (a / b) : Int) else -(Nat.log2 (ceilDiv b a - 1) + 1 : Nat)

/-- offsetScaledLogVariance as IEEE 1588-2019 sets it out (log entry 20): of a third of τ² times the Allan variance. -/
def scaledLogVar (v : Rat) : Nat := if v ≤ 0 then 0 else (min 0xFFFE (max 0 (log2x256 v + 0x8000))).toNat

/-- The Allan deviation entry nearest the Sync interval of the first port that is not DISABLED (log entry 20). -/
def State.varEntry (s : State) : Nat :=
  let n := ((List.range 4).find? fun n => (s.port n).ps != psDISABLED).getD 0
  (s.logSync n).toNat

/-- The variance of the local clock (rule R419). -/
def State.clockVar (s : State) : Nat :=
  let k := s.varEntry
  if s.disc.adevOk k then scaledLogVar (((4 ^ k : Nat) : Rat) / 3 * allanVar s.disc.phHist k) else 0xFFFF

/-- The bound on the time error in ps, where rule R419 gives one: twice TIME_STD when LOCKED, twice HOLD_UNC in
holdover. -/
def State.timeBound (s : State) : Option Nat :=
  if s.disc.st = .locked then some (2 * s.sol.timeStd * 10)
  else if s.disc.st = .holdover then some (2 * s.disc.holdUnc * 1000)
  else none

/-- Rank of the local clock. -/
def State.localRank (s : State) : Rank :=
  let c := s.localClass.1
  let a := match s.timeBound with | some b => accuracyOf b | none => 0xFE
  let p2 := s.rf 0x094 0x040 31 24
  { q := if s.altBmca then [c, a, s.ptp.var, p2, 128] else [s.rf 0x094 0x040 23 16, c, a, s.ptp.var, p2],
    gm := s.clockId, steps := 0, src := s.clockId * 65536 }

/-- The better of two foreign masters. -/
def State.pick (s : State) (b : Option Foreign) (f : Foreign) : Option Foreign :=
  match b with
  | none => some f
  | some g => if (s.rankOf f).better (s.rankOf g) then some f else some g

/-- The best foreign master of a port that may be a slave. -/
def State.bestOn (s : State) (n : Nat) : Option Foreign := (s.port n).foreign.foldl s.pick none

/-- The best foreign master of all ports, with its port; a port that may not be a slave offers none (rule R418). -/
def State.bestAll (s : State) : Option (Nat × Foreign) :=
  (List.range 4).foldl (fun b n =>
    if s.ptpRole n = 0 ∨ s.ptpRole n = 2 then b
    else match s.bestOn n with
      | none => b
      | some f => match b with
        | none => some (n, f)
        | some g => if (s.rankOf f).better (s.rankOf g.2) then some (n, f) else b) none

/-- The port decides to be master: through PRE_MASTER, at once where its clock is the best known (log entry 20). -/
def State.toMaster (s : State) (n : Nat) (now_ : Bool) : State :=
  if (s.port n).ps = psMASTER then s
  else if now_ then (s.setPs n psMASTER).modPort n fun p => { p with parent := 0 }
  else if (s.port n).ps = psPREMASTER then s
  else (s.setPs n psPREMASTER).modPort n fun p => { p with qualEl := s.el, parent := 0 }

/-- The port follows a foreign master: UNCALIBRATED until its first measured exchange, and in unicast service Sync and
Delay_Resp are requested of the parent (rule R424). -/
def State.toSlave (s : State) (n : Nat) (f : Foreign) : State :=
  let p := s.port n
  if (p.ps = psSLAVE ∨ p.ps = psUNCAL) ∧ p.parent = f.src then s
  else
    let s1 := ((s.setPs n psUNCAL).modPort n fun p => { p with parent := f.src, annEl := f.el, paths := [] }).dropExch n
    if s.unicast n then ((s1.askGrant n f.who 0x0 (s.logSync n)).askGrant n f.who 0x9 (s.logDreq n)) else s1

/-- THE STATE DECISION for one port (rule R418). `late` says its Announce timeout has passed. -/
def State.bmcaPort (s : State) (n : Nat) (late : Bool) : State :=
  let p := s.port n
  if p.ps = psDISABLED ∨ p.ps = psFAULTY ∨ p.ps = psINIT then s
  else
    let d0 := s.localRank
    let mine := s.bestOn n
    let beats := match mine with | none => true | some f => d0.better (s.rankOf f)
    let waits := mine.isNone && p.ps == psLISTENING && !late
    if s.ptpRole n = 2 then
      (if waits then s else if beats then s.toMaster n true else if p.ps = psLISTENING then s else s.toListening n)
    else
      let all := s.bestAll
      let best0 := match all with | none => true | some f => d0.better (s.rankOf f.2)
      let mst (s : State) (b : Bool) : State :=
        if s.ptpRole n = 3 then (if p.ps = psLISTENING then s else s.toListening n) else s.toMaster n b
      if waits then s
      else if s.localClass.1 ≤ 127 then
        (if beats then mst s true else s.setPs n psPASSIVE)
      else if best0 then mst s true
      else match all with
        | none => mst s true
        | some g =>
          if g.1 = n then s.toSlave n g.2
          else match mine with
            | none => mst s false
            | some f => if f.ann.gm = g.2.ann.gm then s.setPs n psPASSIVE else mst s false

/-- The parent's Announce, while a port follows one. -/
def State.parentOf (s : State) : Option Foreign :=
  match (List.range 4).find? fun n => (s.port n).ps == psSLAVE || (s.port n).ps == psUNCAL with
  | none => none
  | some n => (s.port n).foreign.find? fun f => f.src == (s.port n).parent

/-- THE LOCAL CLOCK'S QUALITY (rule R419): class, accuracy, source, steps and grandmaster; a change of clockClass raises
CLASS_CHANGE, one of grandmaster GM_CHANGE. -/
def State.ptpEval (s : State) : State :=
  let par := if s.ptp.slave.isSome then s.parentOf else none
  let loc := s.localClass
  let cls := match par with | some f => f.ann.cls | none => loc.1
  let src := if s.ptp.slave.isSome then 0x40 else loc.2
  let acc := match s.timeBound with | some b => accuracyOf b | none => 0xFE
  let gm := match par with | some f => f.ann.gm | none => s.clockId
  let st := match par with | some f => min 255 (f.ann.steps + 1) | none => 0
  let tr := decide (cls = s.rf 0x094 0x044 7 0) || decide (cls = s.rf 0x094 0x044 15 8)
  let s1 := s.modPtp fun t => { t with cls := cls, acc := acc, tsrc := src, steps := st, gm := gm, trace := tr }
  let s2 := if cls = s.ptp.cls then s1 else s1.raise 0x094 18
  if gm = s.ptp.gm then s2 else s2.raise 0x094 17

/-- Every port decides again, unless the quench froze the states (rules R418, R432), and the clock's quality follows. -/
def State.bmca (s : State) : State :=
  if s.halted then s else ((List.range 4).foldl (fun s n => s.bmcaPort n false) s).ptpEval

/-! ## Links (rules R403 to R408) -/

/-- LINK_UP (R406): the port goes to INITIALIZING and then to LISTENING; a port of ROLE 0 stays DISABLED (rule R418).
`an` tells that auto-negotiation completed, `speed` the PHY's link word. -/
def execLinkUp (port : Fin 4) (dt : Nat) (an : Bool) (speed : Fin 3) (s0 : State) : Out :=
  let s := s0.after dt
  let n := port.val
  .next (if s.txIdle n || (s.port n).link then s
  else
    let m := s.ethMode n
    let s1 := (s.modPort n fun p => { p with
      link := true, speed := if m = 4 then speed.val else 0,
      anDone := an && m == 1 && (s.reg (ethPage n) 0x040).getLsbD 3 }).raise (ethPage n) 16
    if s.ptpRole n = 0 then s1 else ((s1.setPs n psINIT).toListening n))

/-- LINK_DOWN (R406). -/
def execLinkDown (port : Fin 4) (dt : Nat) (s : State) : Out :=
  let s1 := s.after dt
  .next (if s1.inReset then s1 else ((s1.linkDrop port.val).ptpEval))

/-- SGMII_LINK_WORD (R408): the PHY latencies of the new speed hold from the next frame, and an exchange that spans the
change is not used (rule R433). -/
def execSgmiiLinkWord (port : Fin 4) (dt : Nat) (speed : Fin 3) (s : State) : Out :=
  let s1 := s.after dt
  let n := port.val
  .next (if s1.inReset || s1.ethMode n != 4 || !(s1.port n).link || (s1.port n).speed == speed.val then s1
  else (s1.modPort n fun p => { p with speed := speed.val }).dropExch n)

/-! ## The host receive queue (rules R430, R431) -/

def State.hqCtl (s : State) (n : Nat) : Word := s.reg (ethPage n) 0x0A0
def State.hqLoc (s : State) (n : Nat) : Bool := (s.hqCtl n).getLsbD 1
def State.hqRun (s : State) (n : Nat) : Bool :=
  (s.hqCtl n).getLsbD 0 && !s.halted && (s.hqLoc n || s.host.dma)
def State.rxqSize (s : State) (n : Nat) : Nat := 2 ^ fld (s.hqCtl n) 7 4
def State.txqSize (s : State) (n : Nat) : Nat := 2 ^ fld (s.hqCtl n) 11 8

/-- The base of slot i of a ring: 2,048 bytes of host memory or 256 native words. -/
def State.hqSlot (s : State) (n lo i : Nat) : Nat :=
  s.ringBase (ethPage n) lo (lo + 4) + i * (if s.hqLoc n then 256 else 2048)

/-- Byte i of a slot. -/
def State.hqByte (s : State) (loc : Bool) (base i : Nat) : Byte :=
  if loc then s.exByte base i else BitVec.ofNat 8 ((s.hm (base + i)).toNat >>> (8 * ((base + i) % 4)))

/-- Write bytes of a slot from byte i on. -/
def State.hqPut (s : State) (loc : Bool) (base i : Nat) (l : List Byte) : State :=
  match l with
  | [] => s
  | b :: rest => (if loc then s.setExByte base i b else s.setHmByte (base + i) b).hqPut loc base (i + 1) rest

/-- The bytes of a number, least significant first. -/
def bytesLe (n x : Nat) : List Byte := (List.range n).map fun i => BitVec.ofNat 8 (x >>> (8 * i))

/-- The stamp part of a slot's header: FLAGS with TS_VALID and QNS, a zero byte, SEC, NS and EPOCH. -/
def State.hqStamp (s : State) (req : Nat) (t : Rat) : List Byte :=
  let q := (quarters t).toNat
  bytesLe 1 (req + 2 + q % 4 * 64) ++ [0] ++ bytesLe 6 (q / 4 / 1000000000) ++ bytesLe 4 (q / 4 % 1000000000)
    ++ bytesLe 2 s.tb.epoch

/-- A FRAME FOR THE HOST: placed in the receive ring with its ingress stamp, or counted in RX_DROP. -/
def State.hqRx (s : State) (n : Nat) (t : Rat) (l : List Byte) : State :=
  let p := ethPage n
  let tail := s.rf p 0x0B8 9 0
  let next := (tail + 1) % s.rxqSize n
  if !s.hqRun n || next == s.rf p 0x0B4 9 0 % s.rxqSize n then s.count p 0x0C4
  else
    let base := s.hqSlot n 0x0A4 tail
    let s1 := s.hqPut (s.hqLoc n) base 0 (bytesLe 2 l.length ++ s.hqStamp 0 t ++ l)
    (s1.setReg p 0x0B8 (BitVec.ofNat 32 next)).raise p 18

/-! ## PTP messages (rules R411 to R415) -/

/-- A PTP MESSAGE ARRIVES. One with another version or malformed counts in PTP_ERR; that, one over another transport or of another
VLAN or domain, and one the port does not handle, go to the host receive queue (rules R411, R412, R429). `f` handles it, given the ingress
stamp. -/
def State.ptpTake (s0 : State) (n : Nat) (h : PtpHdr) (f : State → Rat → Option State) : State :=
  let s := s0.after h.dt
  if s.inReset || !(s.port n).link then s
  else
    let t := s.ingress n h.own
    let m := s.reg (ethPage n) 0x040
    let host := fun (s : State) => s.hqRx n t h.frame
    if m.getLsbD 4 && h.vlan != some (fld m 19 8) then host s
    else if h.ver != 2 || decide (h.minor > 1) || !h.good then host (s.count (ethPage n) 0x0C8)
    else if h.carrier != fld (s.ptpCfg n) 5 4 || h.domain != s.rf 0x094 0x040 15 8 || s.ptpRole n == 0 then host s
    else match f s t with
      | some s1 => s1
      | none => host s

/-- The mean of the last path delays. -/
def EthPort.path (p : EthPort) : Rat := meanRat p.paths

/-- Keep a path delay among the last 16 (rule R414). -/
def State.addPath (s : State) (n : Nat) (x : Rat) : State :=
  s.modPort n fun p => { p with paths := (x :: p.paths).take 16 }

/-- The variance of the path delays kept (rule R421), in s². -/
def EthPort.pathVar (p : EthPort) : Rat :=
  meanRat (p.paths.map fun x => (x - p.path) * (x - p.path)) / 10 ^ 18

/-- AN EXCHANGE COMPLETES (rules R421, R422): x of its t2 − t1 and mean path delay; a valid one shows in OFFSET and joins
the measurements of the second. The first one calibrates the port (log entry 20). -/
def State.exchange (s : State) (n : Nat) (t21 mpd : Rat) (same : Bool) : State :=
  if s.halted then s
  else
    let p := s.port n
    let x := t21 - mpd - ((s.reg (ethPage n) 0x06C).toInt : Rat) / 1000
    let fresh := decide (s.el ≤ p.annEl + fld (s.ptpCfg n) 23 20 * logUnits (s.logAnn n))
    if p.ps = psUNCAL then s.setPs n psSLAVE
    else if p.ps = psSLAVE ∧ fresh = true ∧ 0 ≤ mpd ∧ same = true ∧ s.tb.healthy = true then
      s.modPort n fun p => { p with offset := x, second := p.second ++ [(t21, x / 10 ^ 9, p.pathVar)] }
    else s

/-- The origin time of the last Sync is known: with P2P the exchange completes (rule R421). -/
def State.syncDone (s : State) (n : Nat) : State :=
  let p := s.port n
  match p.sync with
  | some y => if s.p2p n && !p.paths.isEmpty then s.exchange n (y.t2 - y.t1) p.path (y.steps == s.steps) else s
  | none => s

/-- A port listens to a parent. -/
def EthPort.follows (p : EthPort) (src : Nat) : Bool := (p.ps == psSLAVE || p.ps == psUNCAL) && p.parent == src

/-- SYNC (R413): a slave port takes one-step and two-step Syncs of its parent; `origin` is originTimestamp in ns. -/
def execSync (port : Fin 4) (h : PtpHdr) (twoStep : Bool) (origin : Nat) (s : State) : Out :=
  let n := port.val
  .next (s.ptpTake n h fun s t =>
    if (s.port n).follows h.src then
      let y : SyncRx := { src := h.src, seq := h.seq, t2 := t, wait := twoStep, steps := s.steps,
                          t1 := (if twoStep then 0 else (origin : Rat)) + (h.corr : Rat) / 65536 }
      let s1 := s.modPort n fun p => { p with sync := some y }
      some (if twoStep then s1 else s1.syncDone n)
    else none)

/-- FOLLOW_UP (R413). -/
def execFollowUp (port : Fin 4) (h : PtpHdr) (origin : Nat) (s : State) : Out :=
  let n := port.val
  .next (s.ptpTake n h fun s _ =>
    match (s.port n).sync with
    | some y =>
      if y.wait && y.src == h.src && y.seq == h.seq && (s.port n).follows h.src then
        some ((s.modPort n fun p => { p with sync := some { y with wait := false, t1 := y.t1 + origin + (h.corr : Rat) / 65536 } }).syncDone n)
      else none
    | none => none)

/-- A grant of a message type that a partner holds. -/
def EthPort.granted (p : EthPort) (who typ : Nat) : Bool := p.uni.any fun g => g.who == who && g.typ == typ

/-- DELAY_REQ (R414): an E2E port in MASTER answers with the ingress stamp; in unicast service, a slave that holds the
grant. -/
def execDelayReq (port : Fin 4) (h : PtpHdr) (s : State) : Out :=
  let n := port.val
  .next (s.ptpTake n h fun s t =>
    if (s.port n).ps = psMASTER ∧ s.p2p n = false ∧ (s.unicast n = false ∨ (s.port n).granted h.who 0x9 = true) then
      some (if s.ptpMute then s else s.sendPtp n 0x9 h.seq [quarters t, h.corr, h.src])
    else none)

/-- DELAY_RESP (R421): an E2E slave completes its exchange; `mine` tells that it names this port's request, `recv` is t4
in 2^−16 ns. -/
def execDelayResp (port : Fin 4) (h : PtpHdr) (mine : Bool) (recv : Int) (s : State) : Out :=
  let n := port.val
  .next (s.ptpTake n h fun s _ =>
    let p := s.port n
    match p.dreq, p.sync with
    | some d, some y =>
      if mine && d.seq == h.seq && p.follows h.src && !y.wait && !s.p2p n then
        let t21 := y.t2 - y.t1
        let mpd := (t21 + ((recv : Rat) / 65536 - d.t3 - (h.corr : Rat) / 65536)) / 2
        let s1 := s.modPort n fun p => { p with dreq := none }
        some (if s.halted then s1
              else (s1.addPath n mpd).exchange n t21 mpd (y.steps == s.steps && d.steps == s.steps))
      else none
    | _, _ => none)

/-- PDELAY_REQ (R414): a P2P port not DISABLED or FAULTY answers after `turn` ticks: one-step with the turnaround time in
correctionField, two-step with the ingress stamp and a Pdelay_Resp_Follow_Up with the egress stamp. In a quench it is not
among what a port keeps sending (rule R432). -/
def execPdelayReq (port : Fin 4) (h : PtpHdr) (turn : Nat) (ownTx : Int) (s : State) : Out :=
  let n := port.val
  .next (s.ptpTake n h fun s t =>
    if s.p2p n ∧ (s.port n).ps ≠ psDISABLED ∧ (s.port n).ps ≠ psFAULTY ∧ s.halted = false then
      let s1 := s.after turn
      let t3 := s1.egress n ownTx
      some (if (s.ptpCfg n).getLsbD 3 then
        (s1.sendPtp n 0x3 h.seq [quarters t, h.corr, h.src]).sendPtp n 0xA h.seq [quarters t3, 0, h.src]
      else s1.sendPtp n 0x3 h.seq [0, h.corr + roundFree ((t3 - t) * 65536), h.src])
    else none)

/-- A peer-delay exchange completes: the mean link delay. -/
def State.peerDone (s : State) (n : Nat) (q : ReqTx) (t4 turn : Rat) : State :=
  let s1 := s.modPort n fun p => { p with pdreq := none }
  if s.halted || q.steps != s.steps then s1 else s1.addPath n (((t4 - q.t3) - turn) / 2)

/-- PDELAY_RESP (R414): `recv` is the responder's receipt time in 2^−16 ns (0 of a one-step one). -/
def execPdelayResp (port : Fin 4) (h : PtpHdr) (mine twoStep : Bool) (recv : Int) (s : State) : Out :=
  let n := port.val
  .next (s.ptpTake n h fun s t =>
    match (s.port n).pdreq with
    | some q =>
      if mine && q.seq == h.seq && s.p2p n then
        some (if twoStep then s.modPort n fun p => { p with
                pdreq := some { q with src := h.src, t4 := some t, t2p := (recv : Rat) / 65536, corr := (h.corr : Rat) / 65536 } }
              else s.peerDone n q t ((h.corr : Rat) / 65536))
      else none
    | none => none)

/-- PDELAY_RESP_FOLLOW_UP (R414): `origin` is the egress time of the response, in 2^−16 ns. -/
def execPdelayRespFollowUp (port : Fin 4) (h : PtpHdr) (mine : Bool) (origin : Int) (s : State) : Out :=
  let n := port.val
  .next (s.ptpTake n h fun s _ =>
    match (s.port n).pdreq with
    | some q => match q.t4 with
      | some t4 =>
        if mine && q.seq == h.seq && q.src == h.src then
          some (s.peerDone n q t4 ((origin : Rat) / 65536 - q.t2p + q.corr + (h.corr : Rat) / 65536))
        else none
      | none => none
    | none => none)

/-- ANNOUNCE (R418): the foreign master's data set is kept and the port states are decided again. In unicast service only
an entry of the table with a grant takes part (rule R424). -/
def execAnnounce (port : Fin 4) (h : PtpHdr) (a : AnnIn) (s : State) : Out :=
  let n := port.val
  .next (s.ptpTake n h fun s t =>
    let p := s.port n
    let held := p.mine.any fun g => g.who == h.who && g.typ == 0xB && decide (g.dur > 0)
    if p.ps = psDISABLED ∨ p.ps = psFAULTY ∨ h.src / 65536 = s.clockId ∨ a.steps ≥ 255 ∨ (s.unicast n = true ∧ held = false) then none
    else
      let lp := if s.unicast n then ((p.umt.find? fun e => e.2 == h.who).map (·.1)).getD 128 else fld (s.ptpCfg n) 31 24
      let f : Foreign := { src := h.src, who := h.who, ann := a, lprio := lp, el := s.el }
      let s1 := s.modPort n fun p => { p with
        foreign := (p.foreign.filter fun g => g.src != h.src) ++ [f],
        annEl := if p.follows h.src || p.parent == 0 then s.el else p.annEl }
      let s2 := s1.bmca
      some (if a.atoi then s2.hqRx n t h.frame else s2))

/-! ## What the intervals send (rules R413 to R415) -/

/-- An interval of a port has passed since its last message. -/
def State.passed (s : State) (last : Nat) (l : Int) : Bool := decide (s.el ≥ last + logUnits l)

/-- The interval and last time of the messages to one partner: in multicast those of the port, in unicast the grant's. -/
def State.service (s : State) (n who typ : Nat) (l : Int) (last : Nat) : Option (Int × Nat) :=
  if s.unicast n then ((s.port n).uni.find? fun g => g.who == who && g.typ == typ).map fun g => (g.log2, g.lastEl)
  else some (l, last)

/-- Mark the message sent. -/
def State.served (s : State) (n who typ : Nat) (f : EthPort → EthPort) : State :=
  s.modPort n fun p => f { p with uni := p.uni.map fun g => if g.who = who ∧ g.typ = typ then { g with lastEl := s.el } else g }

/-- SYNC_INTERVAL (R415): a master sends a Sync: one-step with the egress stamp, in whole nanoseconds and correctionField;
two-step with 0, and a Follow_Up with the stamp (rule R413). `who` is the partner in unicast service, `own` the transmit
path delay. -/
def execSyncInterval (port : Fin 4) (dt who : Nat) (own : Int) (s0 : State) : Out :=
  let n := port.val
  let s := s0.after dt
  let p := s.port n
  .next (if s.ptpMute || p.ps != psMASTER || !p.link then s
  else match s.service n who 0x0 (s.logSync n) p.syncEl with
    | none => s
    | some v =>
      if !s.passed v.2 v.1 then s
      else
        let t := s.egress n own
        let q := p.seqSync
        let s1 := s.served n who 0x0 fun p => { p with syncEl := s.el, seqSync := (q + 1) % 65536 }
        if (s.ptpCfg n).getLsbD 3 then (s1.sendPtp n 0x0 q [0, 0, who]).sendPtp n 0x8 q [quarters t, 0, who]
        else s1.sendPtp n 0x0 q [⌊t⌋, (quarters t - 4 * ⌊t⌋) * 16384, who])

/-- The fields of an Announce: grandmaster, qualities, steps, source, UTC; under PROFILE 3 the IEEE_C37_238 TLV with the
grandmasterID and the time inaccuracy in ns (rules R416, R419). -/
def State.annFields (s : State) : List Int :=
  let t := s.ptp
  let par := if t.slave.isSome then s.parentOf else none
  let p1 := match par with | some f => f.ann.prio1 | none => s.rf 0x094 0x040 23 16
  let p2 := match par with | some f => f.ann.prio2 | none => s.rf 0x094 0x040 31 24
  let acc := match par with | some f => f.ann.acc | none => t.acc
  let var := match par with | some f => f.ann.var | none => t.var
  let inacc : Nat := if s.disc.st = .locked then ceilDiv (2 * s.sol.timeStd) 100 else 2 * s.disc.holdUnc
  [(t.gm : Int), p1, t.cls, acc, var, p2, t.steps, t.tsrc, t.utc, b2n t.utcValid + 2 * b2n t.leap59 + 4 * b2n t.leap61 + 8]
    ++ (if s.rf 0x094 0x040 2 0 = 3 then [(s.rf 0x094 0x04C 7 0 : Int), inacc] else [])

/-- ANNOUNCE_INTERVAL (R415): a port whose qualification has passed becomes MASTER, and a master sends an Announce; in
PRE_MASTER only to unicast partners (rule R423). -/
def execAnnounceInterval (port : Fin 4) (dt who : Nat) (s0 : State) : Out :=
  let n := port.val
  let sa := s0.after dt
  let p0 := sa.port n
  let s := if p0.ps = psPREMASTER ∧ sa.halted = false ∧ sa.el ≥ p0.qualEl + (sa.ptp.steps + 1) * logUnits (sa.logAnn n) then
      sa.setPs n psMASTER else sa
  let p := s.port n
  .next (if s.ptpMute || !p.link || !(p.ps == psMASTER || (p.ps == psPREMASTER && s.unicast n)) then s
  else match s.service n who 0xB (s.logAnn n) p.annTxEl with
    | none => s
    | some v =>
      if !s.passed v.2 v.1 then s
      else (s.served n who 0xB fun p => { p with annTxEl := s.el, seqAnn := (p.seqAnn + 1) % 65536 }).sendPtp
        n 0xB p.seqAnn s.annFields)

/-- DELAY_REQ_INTERVAL (R414): an E2E port in SLAVE or UNCALIBRATED sends a Delay_Req, a P2P port not DISABLED or FAULTY a
Pdelay_Req; neither is sent in a quench (rule R432). -/
def execDelayReqInterval (port : Fin 4) (dt : Nat) (own : Int) (s0 : State) : Out :=
  let n := port.val
  let s := s0.after dt
  let p := s.port n
  let peer := s.p2p n
  let on := if peer then p.ps != psDISABLED && p.ps != psFAULTY else p.ps == psSLAVE || p.ps == psUNCAL
  .next (if s.inReset || s.halted || !p.link || !on || !s.passed p.reqEl (s.logDreq n) then s
  else
    let r : ReqTx := { seq := p.seqReq, t3 := s.egress n own, steps := s.steps }
    let s1 := s.modPort n fun p => { p with
      reqEl := s.el, seqReq := (p.seqReq + 1) % 65536,
      dreq := if peer then p.dreq else some r, pdreq := if peer then some r else p.pdreq }
    s1.sendPtp n (if peer then 2 else 1) p.seqReq [])

/-- ANNOUNCE_TIMEOUT (R415): ANN_TO intervals without an Announce of the parent: the parent is forgotten and the states are
decided again; a listening port may become master. -/
def execAnnounceTimeout (port : Fin 4) (dt : Nat) (s0 : State) : Out :=
  let n := port.val
  let s := s0.after dt
  let p := s.port n
  .next (if s.inReset || s.halted || !p.link || decide (s.el < p.annEl + fld (s.ptpCfg n) 23 20 * logUnits (s.logAnn n))
      || p.ps == psDISABLED || p.ps == psFAULTY || p.ps == psMASTER || p.ps == psPREMASTER then s
  else
    let s1 := s.modPort n fun p => { p with
      foreign := p.foreign.filter (fun f => p.parent != 0 && f.src != p.parent), annEl := s.el }
    ((s1.bmcaPort n true).bmca))

/-! ## Unicast negotiation (rules R423, R424) -/

/-- Messages per second of a grant. -/
def Grant.rate (g : Grant) : Rat := if g.log2 < 0 then ((2 ^ g.log2.natAbs : Nat) : Rat) else 1 / ((2 ^ g.log2.natAbs : Nat) : Rat)

/-- The conditions of a grant (rule R423). -/
def State.mayGrant (s : State) (n who typ : Nat) (l : Int) (dur : Nat) : Bool :=
  let p := s.port n
  let rest := p.uni.filter fun g => !(g.who == who && g.typ == typ)
  let new : Grant := { who := who, typ := typ, log2 := l }
  (p.ps == psMASTER || (p.ps == psPREMASTER && typ == 0xB))
  && (if typ = 0xB then decide (-3 ≤ l ∧ l ≤ 4) else (typ == 0x0 || typ == 0x9) && decide (-7 ≤ l ∧ l ≤ 4))
  && (decide ((p.uni.map Grant.who).dedup.length < 64) || p.uni.any fun g => g.who == who)
  && decide (sumRat ((rest ++ [new]).map Grant.rate) ≤ 8192)
  && decide (dur ≥ 10)

/-- REQUEST_UNICAST_TRANSMISSION (R423): granted for at most 1,000 s, or denied with durationField 0 and counted; on
denial an older grant runs to its end (rule R433). In a quench grants are frozen and none is answered. -/
def execRequestUnicastTransmission (port : Fin 4) (h : PtpHdr) (typ : Nat) (log2 : Int) (dur : Nat) (s : State) : Out :=
  let n := port.val
  .next (s.ptpTake n h fun s _ =>
    if s.unicast n = false then none
    else if s.halted then some s
    else if s.mayGrant n h.who typ log2 dur then
      let d := min dur 1000
      let g : Grant := { who := h.who, typ := typ, log2 := log2, dur := d, endEl := s.el + ofNs (d * 1000000000) }
      let s1 := s.modPort n fun p => { p with uni := (p.uni.filter fun x => !(x.who == h.who && x.typ == typ)) ++ [g] }
      some (s1.sendPtp n 0xC h.who [5, typ, log2, d])
    else some (((s.count (ethPage n) 0x0CC).raise (ethPage n) 21).sendPtp n 0xC h.who [5, typ, log2, 0]))

/-- GRANT_UNICAST_TRANSMISSION (R424): the slave's request is granted; durationField 0 is a denial. -/
def execGrantUnicastTransmission (port : Fin 4) (h : PtpHdr) (typ : Nat) (log2 : Int) (dur : Nat) (s : State) : Out :=
  let n := port.val
  .next (s.ptpTake n h fun s _ =>
    if s.unicast n = false ∨ s.ptpRole n = 2 ∨ !(s.port n).umt.any (fun e => e.2 == h.who) then none
    else if s.halted || dur == 0 then some s
    else
      let g : Grant := { who := h.who, typ := typ, log2 := log2, dur := dur, endEl := s.el + ofNs (dur * 1000000000) }
      some (s.modPort n fun p => { p with mine := (p.mine.filter fun x => !(x.who == h.who && x.typ == typ)) ++ [g] }))

/-- A grant the port held as a slave is gone: with the Announce one, its master leaves the comparison (rule R424). -/
def State.loseGrant (s : State) (n who typ : Nat) : State :=
  let s1 := s.modPort n fun p => { p with mine := p.mine.filter fun g => !(g.who == who && g.typ == typ) }
  if typ = 0xB then (s1.modPort n fun p => { p with foreign := p.foreign.filter fun f => f.who != who }).bmca else s1

/-- CANCEL_UNICAST_TRANSMISSION (R423): a slave gives up its grant, or a master withdraws one; it is acknowledged. -/
def execCancelUnicastTransmission (port : Fin 4) (h : PtpHdr) (typ : Nat) (byMaster : Bool) (s : State) : Out :=
  let n := port.val
  .next (s.ptpTake n h fun s _ =>
    if s.unicast n = false then none
    else if s.halted then some s
    else
      let s1 := if byMaster then s.loseGrant n h.who typ
        else s.modPort n fun p => { p with uni := p.uni.filter fun g => !(g.who == h.who && g.typ == typ) }
      some (s1.sendPtp n 0xC h.who [7, typ]))

/-- ACKNOWLEDGE_CANCEL_UNICAST_TRANSMISSION (R423): the partner confirms that the grant of a message type has ended. -/
def execAcknowledgeCancelUnicastTransmission (port : Fin 4) (h : PtpHdr) (typ : Nat) (byMaster : Bool) (s : State) : Out :=
  let n := port.val
  .next (s.ptpTake n h fun s _ =>
    if s.unicast n = false then none
    else if s.halted then some s
    else some (if byMaster then s.loseGrant n h.who typ
      else s.modPort n fun p => { p with uni := p.uni.filter fun g => !(g.who == h.who && g.typ == typ) }))

/-- Change a grant the port holds as a slave. -/
def State.modMine (s : State) (n who typ : Nat) (f : Grant → Grant) : State :=
  s.modPort n fun p => { p with mine := p.mine.map fun g => if g.who = who ∧ g.typ = typ then f g else g }

/-- GRANT_RENEWAL (R424): a quarter of the duration remains. -/
def execGrantRenewal (port : Fin 4) (dt who typ : Nat) (s0 : State) : Out :=
  let n := port.val
  let s := s0.after dt
  .next (if s.inReset || s.halted then s
  else match (s.port n).mine.find? fun g => g.who == who && g.typ == typ with
    | some g =>
      if g.dur > 0 ∧ g.askEl = none ∧ s.el + ofNs (g.dur * 250000000) ≥ g.endEl then
        (s.modMine n who typ fun g => { g with askEl := some s.el, tries := 0 }).sendRequest n who typ g.log2
      else s
    | none => s)

/-- RENEWAL_RETRY (R424): no grant within 1 s; repeated at most 3 times. -/
def execRenewalRetry (port : Fin 4) (dt who typ : Nat) (s0 : State) : Out :=
  let n := port.val
  let s := s0.after dt
  .next (if s.inReset || s.halted then s
  else match (s.port n).mine.find? fun g => g.who == who && g.typ == typ with
    | some g => match g.askEl with
      | some a =>
        if g.tries < 3 ∧ s.el ≥ a + ofNs 1000000000 then
          (s.modMine n who typ fun g => { g with askEl := some s.el, tries := g.tries + 1 }).sendRequest n who typ g.log2
        else s
      | none => s
    | none => s)

/-- GRANT_LAPSE (R424): a grant reaches its end, or its renewals fail. `asMaster`: a grant to a slave. Grants lapse at
their ends in a quench too (rule R432). -/
def execGrantLapse (port : Fin 4) (dt who typ : Nat) (asMaster : Bool) (s0 : State) : Out :=
  let n := port.val
  let s := s0.after dt
  .next (if s.inReset then s
  else if asMaster then
    s.modPort n fun p => { p with uni := p.uni.filter fun g => !(g.who == who && g.typ == typ && decide (s.el ≥ g.endEl)) }
  else match (s.port n).mine.find? fun g => g.who == who && g.typ == typ with
    | some g =>
      let failed := match g.askEl with | some a => g.tries ≥ 3 && decide (s.el ≥ a + ofNs 1000000000) | none => false
      if (g.dur > 0 ∧ s.el ≥ g.endEl) ∨ failed = true then s.loseGrant n who typ else s
    | none => s)

/-! ## ESMC (rules R427, R428) -/

/-- The QL a port sends (rule R427). -/
def State.qlSent (s : State) (n : Nat) : Nat :=
  let c := s.reg (ethPage n) 0x084
  if s.discAct ≠ 0 ∧ s.disc.st = .locked then fld c 7 4
  else if s.discAct ≠ 0 ∧ s.disc.st = .holdover then fld c 11 8
  else fld c 15 12

/-- A port sends ESMC PDUs. -/
def State.esmcOn (s : State) (n : Nat) : Bool := (s.port n).link && (s.reg (ethPage n) 0x084).getLsbD 0

/-- ESMC_INFORMATION (R427): once per second. -/
def execEsmcInformation (port : Fin 4) (dt : Nat) (s0 : State) : Out :=
  let n := port.val
  let s := s0.after dt
  .next (if s.inReset || !s.esmcOn n || decide (s.el < (s.port n).esmcEl + ofNs 1000000000) then s
  else (s.modPort n fun p => { p with esmcEl := s.el, qlTx := s.qlSent n }).emit (.esmc n (s.qlSent n) false))

/-- ESMC_PDU (R428): the received SSM code; a change raises ESMC_QL. -/
def execEsmcPdu (port : Fin 4) (dt : Nat) (ql : Fin 16) (s0 : State) : Out :=
  let n := port.val
  let s := s0.after dt
  .next (if s.inReset || !(s.port n).link then s
  else
    let ch := (s.port n).qlRx != ql.val || !(s.port n).rxValid
    let s1 := s.modPort n fun p => { p with qlRx := ql.val, rxValid := true, qlEl := s.el }
    if ch then s1.raise (ethPage n) 20 else s1)

/-- ESMC_TIMEOUT (R428): no PDU for 5 s. -/
def execEsmcTimeout (port : Fin 4) (dt : Nat) (s0 : State) : Out :=
  let n := port.val
  let s := s0.after dt
  .next (if s.inReset || !(s.port n).rxValid || decide (s.el < (s.port n).qlEl + ofNs 5000000000) then s
  else (s.modPort n fun p => { p with rxValid := false }).raise (ethPage n) 20)

/-- What a heat boundary does to the ports: the clock's quality is evaluated, the UTC parameters decoded since are taken
(LEAP_PEND where leap59 or leap61 sets), and a changed QL leaves in an event PDU (rules R419, R427, R436). -/
def State.ethBoundary (s : State) (utc : Option (Int × Bool × Bool)) : State :=
  let s1 := match utc with
    | none => s
    | some u =>
      let t := s.modPtp fun t => { t with utc := u.1, utcValid := true, leap59 := u.2.1, leap61 := u.2.2 }
      if (u.2.1 && !s.ptp.leap59) || (u.2.2 && !s.ptp.leap61) then t.raise 0x094 19 else t
  let s2 := s1.modPtp fun t => { t with var := s1.clockVar }
  (List.range 4).foldl (fun s n =>
    if s.esmcOn n && (s.port n).qlTx != s.qlSent n then
      (s.modPort n fun p => { p with qlTx := s.qlSent n }).emit (.esmc n (s.qlSent n) true)
    else s) s2.ptpEval

/-! ## Host traffic (rules R429 to R431) -/

/-- The MAC address of a port. -/
def State.macOf (s : State) (n : Nat) : Nat := (s.reg (ethPage n) 0x048).toNat + s.rf (ethPage n) 0x04C 15 0 * 2 ^ 32

/-- A frame is addressed to MAC, to broadcast or to a multicast group (rule R429). -/
def State.takesFrame (s : State) (n : Nat) (l : List Byte) : Bool :=
  (l.getD 0 0).getLsbD 0 || (l.take 6).foldl (fun a b => a * 256 + b.toNat) 0 == s.macOf n

/-- HQ_RX (R430): a frame for the host; one with a bad FCS is dropped and counted in PG_ERR_CNT, and one addressed to
none of the port's addresses is not taken (rule R429). -/
def execHqRx (port : Fin 4) (dt : Nat) (own : Int) (fcs : Bool) (frame : List Byte) (s0 : State) : Out :=
  let n := port.val
  let s := s0.after dt
  .next (if s.inReset || !(s.port n).link then s
  else if !fcs then s.countErr (ethPage n)
  else if s.takesFrame n frame then s.hqRx n (s.ingress n own) frame else s)

/-- The IPv6 address of a port. -/
def State.ip6Of (s : State) (n : Nat) : Nat :=
  (List.range 4).foldl (fun a k => a + (s.reg (ethPage n) (0x054 + 4 * k)).toNat * 2 ^ (32 * k)) 0

/-- ARP (R429): a request for IP4 is answered in hardware; another goes to the host. -/
def execArp (port : Fin 4) (dt : Nat) (own : Int) (target fromMac fromIp : Nat) (frame : List Byte) (s0 : State) : Out :=
  let n := port.val
  let s := s0.after dt
  let ip := (s.reg (ethPage n) 0x050).toNat
  .next (if s.inReset || !(s.port n).link then s
  else if ip != 0 && ip == target then s.emit (.resolve n false (s.macOf n) ip fromMac fromIp)
  else s.hqRx n (s.ingress n own) frame)

/-- NEIGHBOUR_SOLICITATION (R429): the same for IP6. -/
def execNeighbourSolicitation (port : Fin 4) (dt : Nat) (own : Int) (target fromMac fromIp : Nat) (frame : List Byte) (s0 : State) : Out :=
  let n := port.val
  let s := s0.after dt
  let ip := s.ip6Of n
  .next (if s.inReset || !(s.port n).link then s
  else if ip != 0 && ip == target then s.emit (.resolve n true (s.macOf n) ip fromMac fromIp)
  else s.hqRx n (s.ingress n own) frame)

/-- A PTP message or an ESMC PDU of the port is due: it goes before a host frame (rules R431, R433). -/
def State.sendsFirst (s : State) (n : Nat) : Bool :=
  let p := s.port n
  let ptp := !s.ptpMute && ((p.ps == psMASTER &&
      (if s.unicast n then p.uni.any fun g => (g.typ == 0x0 || g.typ == 0xB) && s.passed g.lastEl g.log2
       else s.passed p.syncEl (s.logSync n) || s.passed p.annTxEl (s.logAnn n)))
    || (!s.halted && s.passed p.reqEl (s.logDreq n) &&
      (if s.p2p n then p.ps != psDISABLED && p.ps != psFAULTY else p.ps == psSLAVE || p.ps == psUNCAL)))
  ptp || (s.esmcOn n && decide (s.el ≥ p.esmcEl + ofNs 1000000000))

/-- The largest LEN of a host frame: 1,522 with a VLAN tag. -/
def frameMax (l : List Byte) : Nat := if l.getD 12 0 = 0x81 ∧ l.getD 13 0 = 0x00 then 1522 else 1518

/-- HQ_TX_DONE (R430): the frame at TXQ_HEAD is sent once no PTP message or ESMC PDU is due, its egress stamp written where TS_REQ asks for one, and the head
advances; one with LEN out of range is counted and its slot returned (rule R431). -/
def execHqTxDone (port : Fin 4) (dt : Nat) (own : Int) (s0 : State) : Out :=
  let n := port.val
  let s := s0.after dt
  let p := ethPage n
  let head := s.rf p 0x0C0 9 0
  .next (if s.inReset || !(s.port n).link || !s.hqRun n || head == s.rf p 0x0BC 9 0 || s.sendsFirst n then s
  else
    let loc := s.hqLoc n
    let base := s.hqSlot n 0x0AC head
    let len := (s.hqByte loc base 0).toNat + (s.hqByte loc base 1).toNat * 256
    let frame := (List.range (min len 1522)).map fun i => s.hqByte loc base (16 + i)
    let adv := fun (s : State) => s.setReg p 0x0C0 (BitVec.ofNat 32 ((head + 1) % s.txqSize n))
    if len < 60 ∨ len > frameMax frame then adv (s.capErr p 0x05 0)
    else
      let fl := (s.hqByte loc base 2).toNat % 2
      let met := if loc then s.meetEx base ((16 + len + 7) / 8) else s
      let s1 := if fl = 1 then met.hqPut loc base 2 (s.hqStamp 1 (s.egress n own)) else met
      (adv (s1.emit (.eth n frame))).raise p 19)

/-! ## The ETH pages (rules R434, R435) -/

/-- Registers of an ETH page computed from the state. -/
def viewEth (s : State) (p off : Nat) : Option Word :=
  let x := s.port (p - 0x090)
  if off = 0x088 then
    some (BitVec.ofNat 32 (b2n x.link + x.speed * 2 + b2n x.anDone * 8 + x.ps * 16 + (x.uni.map Grant.who).dedup.length * 2 ^ 16))
  else if off = 0x08C then some (satWord (roundFree (x.path * 100)))
  else if off = 0x090 then some (satWord (roundFree (x.offset * 100)))
  else if off = 0x094 then some (BitVec.ofNat 32 (x.parent / 65536))
  else if off = 0x098 then some (BitVec.ofNat 32 (x.parent / 65536 / 2 ^ 32))
  else if off = 0x09C then some (BitVec.ofNat 32 (x.qlRx + x.qlTx * 16 + b2n x.rxValid * 256))
  else none

/-- PG_STAT of an ETH page. -/
def statEth (s : State) (p : Nat) : Word :=
  BitVec.ofNat 32 (b2n (s.port (p - 0x090)).link * 256 + (s.port (p - 0x090)).ps * 4096)

/-- More refusals of a write to an ETH page. -/
def violEth (s : State) (p off : Nat) (v : Word) : Viol :=
  let ctl := s.reg p 0x0A0
  (if off = 0x040 ∧ v.getLsbD 4 = true ∧ ¬ (1 ≤ fld v 19 8 ∧ fld v 19 8 ≤ 4094) then [(8, 0x05)] else []) ++
  (if off = 0x0A0 ∧ ctl.getLsbD 0 = true then
    (if fld v 7 4 ≠ fld ctl 7 4 then [(4, 0x07)] else []) ++ (if fld v 11 8 ≠ fld ctl 11 8 then [(8, 0x07)] else [])
   else []) ++
  (if off = 0x0B4 ∧ fld v 9 0 ≥ s.rxqSize (p - 0x090) then [(0, 0x05)] else []) ++
  (if off = 0x0BC ∧ fld v 9 0 ≥ s.txqSize (p - 0x090) then [(0, 0x05)] else []) ++
  ringViol s p 0x0A0 0 1 [(0x0A4, 0x0A8, 64, 256), (0x0AC, 0x0B0, 64, 256)]
    [(0x0A4, 0), (0x0A8, 0), (0x0AC, 0), (0x0B0, 0)] off v

/-- The table at UMT_PTR obeys rule R425, for a transport. -/
def umtOk (s : State) (a transport : Nat) : Bool :=
  let b := fun (i : Nat) => (s.exByte a i).toNat
  let c := b 0
  decide (1 ≤ c ∧ c ≤ 4) && b 1 == 0 && decide (10 ≤ b 2 + b 3 * 256 ∧ b 2 + b 3 * 256 ≤ 1000)
  && (List.range c).all fun e =>
    let o := 4 + 20 * e
    b o == (if transport = 2 then 6 else 4) && decide (transport ≥ 1) && b (o + 1) != 0 && b (o + 2) == 0 && b (o + 3) == 0
    && (transport == 2 || (List.range 12).all fun i => b (o + 8 + i) == 0)

/-- A port lies within the profile (rule R416). -/
def profileOk (s : State) (n : Nat) : Bool :=
  let prof := s.rf 0x094 0x040 2 0
  let dom := s.rf 0x094 0x040 15 8
  let c := s.ptpCfg n
  let tr := fld c 5 4
  let ls := s.logSync n
  let la := s.logAnn n
  let ld := s.logDreq n
  if prof = 0 then !s.unicast n && decide (dom ≤ 127) && decide (-7 ≤ ls ∧ ls ≤ 1) && decide (0 ≤ la ∧ la ≤ 4) && decide (-7 ≤ ld ∧ ld ≤ 5)
  else if prof = 1 then tr == 0 && !s.p2p n && !s.unicast n && decide (24 ≤ dom ∧ dom ≤ 43) && ls == -4 && la == -3 && ld == -4
  else if prof = 2 then
    (tr == 1 || tr == 2) && !s.p2p n && s.unicast n && decide (44 ≤ dom ∧ dom ≤ 63) && decide (-7 ≤ ls ∧ ls ≤ 0)
      && decide (-3 ≤ la ∧ la ≤ 0) && decide (-7 ≤ ld ∧ ld ≤ 0)
  else tr == 0 && s.p2p n && !s.unicast n && dom == 254 && ls == 0 && la == 0 && ld == 0

/-- The commit check of an ETH page (rule R405). -/
def checkEth (old new : State) (p : Nat) : Bool :=
  let n := p - 0x090
  let m := new.ethMode n
  let tr := fld (new.ptpCfg n) 5 4
  let u := new.rf p 0x080 15 0
  (m == old.ethMode n || (old.port n).ps == psDISABLED)
  && (m == 0 || new.macOf n != 0)
  && !(tr == 1 && new.reg p 0x050 == 0) && !(tr == 2 && new.ip6Of n == 0)
  && profileOk new n && (u == 0 || umtOk new u tr)

/-- The unicast master table as copied (rule R425). -/
def umtCopy (s : State) (a : Nat) : List (Nat × Nat) :=
  (List.range (s.exByte a 0).toNat).map fun e =>
    ((s.exByte a (5 + 20 * e)).toNat, (List.range 16).foldl (fun x i => x * 256 + (s.exByte a (8 + 20 * e + i)).toNat) 0)

/-- What a commit of an ETH page does beside (rules R404, R405, R418, R424, R425): a change of mode or of a SerDes setting,
and a port that is off, drop the link; the table is copied, and Announce is requested of its entries; ROLE decides whether the port takes part. -/
def appliedEth (old : State) (p : Nat) (s : State) : State :=
  let n := p - 0x090
  let u := s.rf p 0x080 15 0
  let s1 := (if u = 0 then s else s.meetEx u ((4 + 20 * (s.exByte u 0).toNat + 7) / 8)).modPort n fun x => { x with
    umt := if u = 0 then [] else umtCopy s u, umtDur := if u = 0 then 0 else s.exNum u 2 2 }
  let s2 := if s.ethMode n ≠ old.ethMode n ∨ s.reg p 0x044 ≠ old.reg p 0x044 ∨ s.ethOff n = true then s1.linkDrop n else s1
  if s2.ptpRole n = 0 then ((s2.setPs n psDISABLED).dropExch n).ptpEval
  else if (s2.port n).ps = psDISABLED then
    (if (s2.port n).link then ((s2.setPs n psINIT).toListening n) else s2.setPs n psFAULTY)
  else
    let s3 := if s2.unicast n && s2.ptpRole n != 2 && (s2.port n).ps != psFAULTY then
        (s2.port n).umt.foldl (fun s e => s.askGrant n e.2 0xB (s.logAnn n)) s2 else s2
    s3.bmca

/-- A soft reset of an ETH page: MODE is 0 again, so the link drops and the port is DISABLED (rules R72, R432). -/
def resetEth (s : State) (p : Nat) : State :=
  let n := p - 0x090
  let s1 := (s.linkDrop n).setPs n psDISABLED
  { s1 with eth := Tab.set (fun _ => {}) s1.eth n {} }

/-! ## The PTPX page (rules R436, R437) -/

/-- Registers of the PTPX page computed from the state. -/
def viewPtpx (s : State) (off : Nat) : Option Word :=
  let t := s.ptp
  if off = 0x050 then some (BitVec.ofNat 32 s.clockId)
  else if off = 0x054 then some (BitVec.ofNat 32 (s.clockId / 2 ^ 32))
  else if off = 0x058 then some (BitVec.ofNat 32 (t.cls + t.acc * 2 ^ 8 + t.tsrc * 2 ^ 16 + t.steps * 2 ^ 24))
  else if off = 0x05C then
    some (setFld (BitVec.ofNat 32 ((b2n t.utcValid + 2 * b2n t.leap59 + 4 * b2n t.leap61 + 24 * b2n t.trace) * 2 ^ 16)) 15 0
      (BitVec.ofInt 16 t.utc).toNat)
  else if off = 0x060 then some (BitVec.ofNat 32 t.gm)
  else if off = 0x064 then some (BitVec.ofNat 32 (t.gm / 2 ^ 32))
  else if off = 0x068 then some (match t.slave with | some n => BitVec.ofNat 32 (n + 4) | none => 0)
  else none

/-- The commit check of the PTPX page (rule R417). -/
def checkPtpx (old new : State) : Bool :=
  let ch := new.rf 0x094 0x040 2 0 != old.rf 0x094 0x040 2 0 || new.rf 0x094 0x040 15 8 != old.rf 0x094 0x040 15 8
  (List.range 4).all fun n => profileOk new n && !(ch && (old.port n).ps != psDISABLED)

end Sys2Proof.Machine
end

