-- ==== Sys2Proof/Machine/HostPort.lean ====
section
/-! DEFINITION. The host port (chapter 14): the PCIe link and function, bus mastering and DMA faults, MSI-X, the
exchange-memory window, and the HOST page. The SPI target's frames, which reach every page, are in Machine/Access.lean. -/

namespace Sys2Proof.Machine

/-! ## The host island (rules R495 to R501) -/

/-- The SPI target is the host port (rule R495). -/
def State.hostSpi (s : State) : Bool := s.rf 0x000 0x050 0 0 == 1

/-- The configuration values of the PCIe function (rule R496). -/
structure PciConfig where
  vendor : Nat
  device : Nat
  revision : Nat
  classCode : Nat
  subVendor : Nat
  subsystem : Nat
  deriving DecidableEq, Repr

/-- The values the function presents: the identity of the fuses, and the stepping's revision (rule R496). -/
def State.pciConfig (s : State) : PciConfig :=
  { vendor := s.fuse 911 896, device := s.fuse 927 912, revision := s.rf 0x000 0x044 7 0, classCode := 0x118000,
    subVendor := 0x1F5C, subsystem := 1 }

/-- The BARs of the function by number, with their sizes in bytes (rule R497). -/
def pciBars : List (Nat × Nat) := [(0, 2 ^ 20), (2, 8192), (4, 2 ^ 20)]

/-- Change the host port's record. -/
def State.modHost (s : State) (f : HostSt → HostSt) : State := { s with host := f s.host }

/-- The control registers of the rings with a RUN bit in bit 0 (rule R500). -/
def ringCtls : List (Nat × Nat) :=
  [(0x003, 0x040), (0x043, 0x040), (0x071, 0x080), (0x090, 0x0A0), (0x091, 0x0A0), (0x092, 0x0A0), (0x093, 0x0A0)]

/-- Clear every ring's RUN bit, and hold subscription rings to host memory full (rules R500, R501). -/
def State.clearRuns (s : State) : State := ringCtls.foldl (fun s e => s.setRf e.1 e.2 0 0 0) s

/-- MSI-X as a reset of the function leaves it: disabled, every vector masked, nothing pending (log entry 21). -/
def State.msixReset (s : State) : State :=
  { s with msixOn := false, msixFuncMask := false, msixMask := 0xFFFFFFFF, msixPba := 0 }

/-- What a reset of the host island does (rules R501, R558): RUN bits clear, MSI-X is off, bus mastering stops. -/
def State.hostIsland (s : State) : State :=
  (s.clearRuns.msixReset).modHost fun h => { h with bme := false, dma := false, stage := 0, latch := none }

/-- FUNCTION_LEVEL_RESET (R501). -/
def execFunctionLevelReset (s : State) : Out :=
  .next (if s.inReset || s.hostSpi then s else (s.hostIsland).modHost fun h => { h with d3hot := false })

/-- D3HOT (R501): Bus Master Enable keeps its value, but the function issues no request. -/
def execD3hot (s : State) : Out :=
  .next (if s.inReset || s.hostSpi || s.host.d3hot || s.host.perst then s
  else ((s.clearRuns.msixReset).modHost fun h => { h with d3hot := true, dma := false }))

/-- D0_ENTRY (R501): the window answers again. -/
def execD0Entry (s : State) : Out :=
  .next (if s.inReset || s.hostSpi then s else s.modHost fun h => { h with d3hot := false })

/-- PERST_N (R558): only the host island resets; its link goes down. -/
def execPerstN (s : State) : Out :=
  .next (if s.inReset || s.hostSpi || s.host.perst then s
  else
    let s1 := (s.hostIsland).modHost fun h => { h with d3hot := false, perst := true }
    if s.rf 0x0B0 0x040 5 0 = 0 then s1 else (s1.setRf 0x0B0 0x040 5 0 0).raise 0x0B0 16)

/-- PERST_N_RELEASE (R559). -/
def execPerstNRelease (s : State) : Out := .next (if s.inReset then s else s.modHost fun h => { h with perst := false })

/-- PCIE_LINK_CHANGE (R518, R519): the link trains to a speed of 1 to 3 and 1 or 2 lanes, or goes down. -/
def execPcieLinkChange (up : Bool) (gen : Fin 3) (lanes : Fin 2) (s : State) : Out :=
  let v := if up then 1 + (gen.val + 1) * 2 + (lanes.val + 1) * 8 else 0
  .next (if s.inReset || s.hostSpi || s.host.perst || s.rf 0x0B0 0x040 5 0 == v then s
  else (s.setRf 0x0B0 0x040 5 0 v).raise 0x0B0 16)

/-- BUS_MASTER_ENABLE (R499): a clear stops the rings in host memory at once; they resume at the next heat boundary after
a set. -/
def execBusMasterEnable (on : Bool) (s : State) : Out :=
  .next (if s.inReset || s.hostSpi || s.host.perst then s
  else s.modHost fun h => { h with bme := on, dma := h.dma && on })

/-- Memory requests permitted at this boundary resume (rule R499). -/
def State.hostBoundary (s : State) : State :=
  s.modHost fun h => { h with dma := h.bme && !h.d3hot && !h.perst && !s.hostSpi }

/-- MSIX_MASK (R89): a vector or the function is masked or unmasked, or MSI-X enabled or disabled; a message kept in the
pending-bit array goes out when nothing masks it. -/
def execMsixMask (w : MsixWrite) (s : State) : Out :=
  .next (if s.inReset || s.hostSpi || s.host.perst then s
  else
    let s1 : State := match w with
      | .vector v m =>
        { s with msixMask := if m then s.msixMask ||| BitVec.ofNat 32 (2 ^ v.val) else s.msixMask &&& ~~~(BitVec.ofNat 32 (2 ^ v.val)) }
      | .function e m => { s with msixOn := e && !s.host.d3hot, msixFuncMask := m }
    (List.range 32).foldl (fun s v =>
      if s.msixOn && !s.msixFuncMask && !s.msixMask.getLsbD v && s.msixPba.getLsbD v then
        ({ s with msixPba := s.msixPba &&& ~~~(BitVec.ofNat 32 (2 ^ v)) }).emit (.msix v)
      else s) s1)

/-! ## DMA faults (rule R500) -/

/-- The control register of a ring of DMA_ERR.RING; `none` for a subscription. -/
def ringOf (ring : Nat) : Option (Nat × Nat) :=
  if ring = 1 ∨ ring = 2 then some (0x003, 0x040) else if ring = 3 then some (0x043, 0x040)
  else if ring = 5 then some (0x071, 0x080) else if 8 ≤ ring ∧ ring ≤ 11 then some (0x090 + (ring - 8), 0x0A0) else none

/-- LOC of that ring. -/
def State.ringLoc (s : State) (ring : Nat) : Bool :=
  match ringOf ring with
  | some e => (s.reg e.1 e.2).getLsbD 1
  | none => false

/-- The ring issues memory requests. -/
def State.ringActive (s : State) (ring slot : Nat) : Bool :=
  s.host.dma && (match ringOf ring with
    | some e => (s.reg e.1 e.2).getLsbD 0 && !s.ringLoc ring
    | none => ring == 4 && match s.subAt slot with | some e => subDest e.2.words == 0 && !e.2.faulted | none => false)

/-- DMA_FAULT (R500): captured in DMA_ERR unless it holds one, counted with code DMA_FAULT, and the ring stops; a
subscription's ring is full until its SUBs_HEAD is written. -/
def execDmaFault (ring : Fin 16) (slot : Fin 64) (kind : Fin 4) (address : BitVec 64) (s : State) : Out :=
  .next (if s.inReset || !s.ringActive ring.val slot.val then s
  else
    let held := (s.reg 0x0B0 0x048).getLsbD 31
    let s1 := if held then s
      else ((s.setReg 0x0B0 0x048 (BitVec.ofNat 32 (ring.val + (if ring.val = 4 then slot.val * 16 else 0) + kind.val * 1024 + 2 ^ 31))).setReg
        0x0B0 0x04C (BitVec.ofNat 32 address.toNat)).setReg 0x0B0 0x050 (BitVec.ofNat 32 (address.toNat / 2 ^ 32))
    let s2 := (s1.raise 0x0B0 17).capErr 0x0B0 0x40 0
    match ringOf ring.val with
    | some e => s2.setRf e.1 e.2 0 0 0
    | none => match s2.subAt slot.val with
      | some e => s2.modSub e.1 fun x => { x with faulted := true }
      | none => s2)

/-! ## The exchange-memory window (rule R498) -/

/-- A write to dword +0 or +4 reaches the staging register. -/
def State.exStage (s : State) (hi : Bool) (v : Word) : State :=
  s.modHost fun h => { h with
    stage := (if hi then BitVec.ofNat 64 (h.stage.toNat % 2 ^ 32 + v.toNat * 2 ^ 32)
      else BitVec.ofNat 64 (h.stage.toNat / 2 ^ 32 * 2 ^ 32 + v.toNat)) }

/-- A write to dword +8 writes the native word and clears the staging register. -/
def State.exWrite (s : State) (w : Nat) (v : Word) : State :=
  (s.setEx w (BitVec.ofNat 72 (s.host.stage.toNat + fld v 7 0 * 2 ^ 64))).modHost fun h => { h with stage := 0 }

/-- What a read of dword d of word w answers. -/
def State.exRead (s : State) (w d : Nat) : Word :=
  let live := (s.ex w).toNat
  let rest := match s.host.latch with
    | some l => if l.1 = w then l.2.toNat else live / 2 ^ 32
    | none => live / 2 ^ 32
  if d = 0 then BitVec.ofNat 32 live else if d = 1 then BitVec.ofNat 32 rest
  else if d = 2 then BitVec.ofNat 32 (rest / 2 ^ 32 % 256) else 0

/-- What a read latches: dword +0 the rest of its word, for the next read of each other dword. A read that takes the word from the
memory packs it, where its check bits are verified (rule R56). -/
def State.exLatch (s : State) (w d : Nat) : State :=
  let held := match s.host.latch with | some l => l.1 == w | none => false
  (if d = 0 ∨ (d < 3 ∧ held = false) then s.meet 0x003 28 w else s).modHost fun h => { h with
    latch := (if d = 0 then some (w, BitVec.ofNat 40 ((s.ex w).toNat / 2 ^ 32))
      else match h.latch with | some l => if l.1 = w then h.latch else none | none => none) }

/-- A write of one dword of the window. -/
def State.exDword (s : State) (w d : Nat) (v : Word) : State :=
  if d = 0 then s.exStage false v else if d = 1 then s.exStage true v else if d = 2 then s.exWrite w v else s

/-- EXCHANGE_STAGE_WRITE (R498). -/
def execExchangeStageWrite (hi : Bool) (v : Word) (s : State) : Out := .next (if s.winOff then s else s.exStage hi v)

/-- EXCHANGE_WORD_WRITE (R498). -/
def execExchangeWordWrite (w : BitVec 16) (v : Word) (s : State) : Out := .next (if s.winOff then s else s.exWrite w.toNat v)

/-- EXCHANGE_READ (R498): the dword at +0, +4, +8 or +0xC of a word. -/
def execExchangeRead (w : BitVec 16) (dword : Fin 4) (s : State) : Out :=
  .next (s.readRow (s.exRead w.toNat dword.val) fun s => s.exLatch w.toNat dword.val)

/-! ## The HOST page (rules R518, R519) -/

/-- Registers of the HOST page computed from the state; LINK reads 0 under the SPI strap. -/
def viewHost (s : State) (off : Nat) : Option Word :=
  if off = 0x040 then
    some (if s.hostSpi then 0
      else BitVec.ofNat 32 (s.rf 0x0B0 0x040 5 0 + b2n s.host.bme * 64 + b2n s.msixOn * 128 + b2n s.msixFuncMask * 256 + b2n s.host.d3hot * 512))
  else if off = 0x044 then some (BitVec.ofNat 32 (s.fuse 927 896))
  else none

/-- What a taken write to the HOST page does beside: VALID of DMA_ERR clears the register and the address. -/
def takenHost (off : Nat) (v : Word) (s : State) : State :=
  if off = 0x048 ∧ v.getLsbD 31 = true then ((s.setReg 0x0B0 0x048 0).setReg 0x0B0 0x04C 0).setReg 0x0B0 0x050 0 else s

end Sys2Proof.Machine
end

