-- ==== Sys2Proof/Machine/Temper.lean ====
section
/-! DEFINITION. Assay's watch over the hardware: clock monitors (rule R37), temper loops and the VDD_CORE setpoint (rules R41
to R48, R529), sensors (rules R527, R528), the scrubber (rules R52 to R57), and the SENS page. -/

namespace Sys2Proof.Machine

/-- Change Assay's record. -/
def State.modAssay (s : State) (f : AssaySt → AssaySt) : State := { s with assay := f s.assay }

/-- Assay works: out of reset, and its island is not in a watchdog reset (rules R27, R523). -/
def State.assayOn (s : State) : Bool := !s.inReset && !s.assay.inWdog

/-! ## Clock monitors (rules R37, R571) -/

/-- One monitored clock at the end of a window: beyond 5 % in three consecutive windows it is a clock fault, within in three
it is clear. Islands 0 to 18 of CLK_FAULT raise the CLOCK class; REFIN, bit 25, acts on the disciplining logic (rule R375). -/
def State.clockWindow (s : State) (bit : Nat) (ppm : Int) : State :=
  let bad := decide (ppm.natAbs > 50000)
  let b := if bad then Tab.get (fun _ => 0) s.assay.clkBad bit + 1 else 0
  let g := if bad then 0 else Tab.get (fun _ => 0) s.assay.clkGood bit + 1
  let out := Tab.get (fun _ => false) s.assay.clkOut bit
  let s1 := s.modAssay fun a => { a with
    clkBad := Tab.set (fun _ => 0) a.clkBad bit (min b 3), clkGood := Tab.set (fun _ => 0) a.clkGood bit (min g 3) }
  if !out && decide (b ≥ 3) then
    let s2 := s1.modAssay fun a => { a with clkOut := Tab.set (fun _ => false) a.clkOut bit true }
    let s3 := ((s2.setRf 0x0C0 0x064 bit bit 1).raise 0x0C0 18).logOwn 0x18 bit (BitVec.ofInt 32 ppm)
    if bit ≤ 18 then s3.raiseClass clsCLOCK bit
    else if bit = 25 then ({ s3 with tb := { s3.tb with refBad := true } }).refFault
    else s3
  else if out && decide (g ≥ 3) then
    let s2 := s1.modAssay fun a => { a with clkOut := Tab.set (fun _ => false) a.clkOut bit false }
    if bit ≤ 18 then s2.clearClass clsCLOCK bit
    else if bit = 25 then { s2 with tb := { s2.tb with refBad := false } }
    else s2
  else s1

/-- CLOCK_MONITOR_WINDOW (R37): the deviations in ppm of the monitored clocks, by bit of CLK_FAULT. -/
def execClockMonitorWindow (devs : List (Fin 26 × Int)) (s : State) : Out :=
  .next (if s.assayOn then devs.foldl (fun s d => s.clockWindow d.1.val d.2) s else s)

/-! ## Temper loops (rules R41 to R48) -/

/-- Where an island's TEMPER register is: the billet pages and CRUC0. -/
def temperReg (i : Nat) : Nat × Nat := if i = 16 then (0x041, 0x060) else (0x050 + i, 0x04C)

/-- Monitor record of an island. -/
def State.temper (s : State) (i : Nat) : Temper := Tab.get (fun _ => {}) s.assay.temper i

/-- Change it. -/
def State.modTemper (s : State) (i : Nat) (f : Temper → Temper) : State :=
  s.modAssay fun a => { a with temper := Tab.set (fun _ => {}) a.temper i (f (Tab.get (fun _ => {}) a.temper i)) }

/-- STRETCH (R42): the margin of a billet or of the Crucible falls below 4 steps. DROOP sets. -/
def execStretch (island : Fin 17) (s : State) : Out :=
  let r := temperReg island.val
  .next (if s.inReset then s
  else (s.modTemper island.val fun t => { t with now := true, any := true }).setRf r.1 r.2 26 26 1)

/-- STRETCH_END (R42): the margin stayed at 8 steps or more for 16 cycles. -/
def execStretchEnd (island : Fin 17) (s : State) : Out :=
  .next (if s.inReset then s else s.modTemper island.val fun t => { t with now := false })

/-- What a heat's monitor values do (rules R43, R48): MARGIN and STRETCH, LIMIT past 40,000 nominal cycles lost at 0.25 a
stretched cycle, and the window's minimum. -/
def State.temperHeat (s : State) (l : List TemperIn) : State :=
  l.foldl (fun s x =>
    let s1 := s.modTemper x.island fun t => { t with
      min := some (match t.min with | some m => min m x.min | none => x.min),
      any := t.any || t.now || decide (x.stretched > 0) }
    if x.island > 16 then s1
    else
      let r := temperReg x.island
      let s2 := (s1.setRf r.1 r.2 7 0 (min x.mean 255)).setRf r.1 r.2 23 16 (min (x.stretched / 1024) 255)
      let s3 := if x.stretched > 0 then s2.setRf r.1 r.2 26 26 1 else s2
      if x.stretched > 160000 then (s3.setRf r.1 r.2 27 27 1).modTemper x.island fun t => { t with any := true } else s3) s

/-- The request of an island at a window end, in mV (rule R44). -/
def Temper.request (t : Temper) : Int :=
  if t.any then 10
  else match t.min with
    | none => 0
    | some m => if m < 12 then 5 else if m > 20 then -5 else 0

/-- VREQ (rule R48). -/
def vreqCode (x : Int) : Nat := if x = 10 then 3 else if x = 5 then 2 else if x = -5 then 1 else 0

/-- The per-part floor of VDD_CORE in mV (rules R45, R525). -/
def State.floorMv (s : State) : Nat := min 860 (620 + s.fuse 935 928)

/-- Send a Vout command (rule R46). -/
def State.avsSend (s : State) (mv : Nat) : State :=
  (s.modAssay fun a => { a with setMv := mv, avsReq := some mv, avsTries := 0, avsEl := s.el }).emit (.avs mv)

/-- The new setpoint from the requests of all islands (rule R45); while the loop is off or CASAK-M halted the setpoint is
held (rules R47, R529). -/
def State.setpoint (s : State) (reqs : List Int) : State :=
  if !s.assay.loopEn || s.assayHalted then s
  else
    let up10 := reqs.any fun x => x == 10
    let up5 := reqs.any fun x => x == 5
    let alldn := !reqs.isEmpty && reqs.all fun x => x == -5
    let dn := if up10 || up5 || !alldn then 0 else s.assay.down + 1
    let step : Int := if up10 then 10 else if up5 then 5 else if dn ≥ 4 then -5 else 0
    let s1 := s.modAssay fun a => { a with down := if dn ≥ 4 then 0 else dn }
    let mv := (clampInt s.floorMv 860 ((s.assay.setMv : Int) + step)).toNat
    if mv = s.assay.setMv then s1 else s1.avsSend mv

/-- The monitored islands: the billets 0 to 15, the Crucible 16, and those without a TEMPER register: the lanes 17 to 24, the
return lane 25, the Casak cluster 26, the time base 27, the Ethernet ports 28 to 31, the host 32 and Assay 33 (rules R34, R41). -/
def monitored : List Nat := List.range 34

/-- TEMPER_WINDOW_END (R44): at the end of every window of 16 heats each island's request is evaluated, whatever Assay does;
Assay, where it works, forms the setpoint from them. `others` gives the minimum margins of the islands without a TEMPER
register; one that it leaves out holds. -/
def execTemperWindowEnd (others : List (Nat × Nat)) (s : State) : Out :=
  .next (if s.inReset || s.heat % 16 != 0 || s.heat == s.assay.winHeat then s
  else
    let s1 := others.foldl (fun s e => if e.1 > 16 then s.modTemper e.1 fun t => { t with min := some e.2 } else s) s
    let reqs := monitored.map fun i => (s1.temper i).request
    let s2 := (List.range 17).foldl (fun s i =>
      let r := temperReg i
      let t := s.temper i
      (s.setRf r.1 r.2 15 8 (min (t.min.getD 0) 255)).setRf r.1 r.2 25 24 (vreqCode t.request)) s1
    let s3 := s2.modAssay fun a => { a with
      winHeat := s.heat, temper := a.temper.map fun e => (e.1, { e.2 with min := none, any := e.2.now }) }
    if s3.assayOn then s3.setpoint reqs else s3)

/-- Whether every voltage monitor is out of FAULT and the last AVSBus command was acknowledged: the cause of a SUPPLY fault
that no monitor raised is clear (rule R571). -/
def State.supplyClear (s : State) : State :=
  let ok := s.assay.avsReq.isNone && s.rf 0x0C0 0x044 19 19 == 0
    && s.assay.sens.all fun e => decide (e.1 < 8) || e.1 == 28 || !e.2.fault
  if ok then s.clearClass clsSUPPLY 0 else s

/-- AVS_ACK (R529): the command is acknowledged, and Vout and Iout (in 0.05 A) are read back. -/
def execAvsAck (vout : Fin 1024) (iout : Fin 256) (s : State) : Out :=
  .next (match s.assay.avsReq with
    | none => s
    | some mv =>
      if !s.assayOn then s
      else
        let s1 := s.modAssay fun a => { a with avsReq := none, ackMv := mv }
        (s1.setReg 0x0C0 0x044 (BitVec.ofNat 32
          (vout.val + iout.val * 1024 + 2 ^ 18 + s.assay.avsTries * 2 ^ 20))).supplyClear)

/-- AVS_TIMEOUT (R46): no acknowledgement within 1 ms: up to three retries, then the last acknowledged setpoint is held, the
failure logged and the SUPPLY class raised. -/
def execAvsTimeout (dt : Nat) (s0 : State) : Out :=
  let s := s0.after dt
  .next (match s.assay.avsReq with
    | none => s
    | some mv =>
      if !s.assayOn || decide (s.el < s.assay.avsEl + ofNs 1000000) then s
      else if s.assay.avsTries < 3 then
        ((s.modAssay fun a => { a with avsTries := a.avsTries + 1, avsEl := s.el }).setRf 0x0C0 0x044 23 20 (s.assay.avsTries + 1)).emit (.avs mv)
      else
        let s1 := s.modAssay fun a => { a with avsReq := none, setMv := a.ackMv }
        let s2 := (s1.setRf 0x0C0 0x044 19 18 2).raise 0x0C0 16
        (s2.logOwn 0x19 3 (BitVec.ofNat 32 mv)).raiseClass clsSUPPLY 0)

/-- SUPERVISION_CHECK (R529): each second the mean of monitors 0 to 7 against the setpoint, and the output current; ten
consecutive deviations raise the SUPPLY class. -/
def execSupervisionCheck (dt : Nat) (s0 : State) : Out :=
  let s := s0.after dt
  .next (if !s.assayOn || s.assayHalted || decide (s.el < s.assay.supEl + ofNs 1000000000) then s
  else
    let sum := (List.range 8).foldl (fun a k => a + (Tab.get (fun _ => {}) s.assay.sens (8 + k)).val) (0 : Int)
    let dev := (sum - 8 * (s.assay.setMv : Int)).natAbs
    let v := if dev > 240 then s.assay.badV + 1 else 0
    let i := if s.rf 0x0C0 0x044 17 10 > 140 then s.assay.badI + 1 else 0
    let s1 := s.modAssay fun a => { a with badV := if v ≥ 10 then 0 else v, badI := if i ≥ 10 then 0 else i, supEl := s.el }
    if v ≥ 10 ∨ i ≥ 10 then s1.raiseClass clsSUPPLY 0 else s1)

/-! ## Sensors (rules R527, R528) -/

/-- One condition with debounce: it sets after `deb` consecutive samples beyond its limit and clears after as many inside the
limit less the hysteresis. -/
def debounce (on beyond inside : Bool) (run deb : Nat) : Bool × Nat :=
  if on then (if inside then (if run + 1 ≥ deb then (false, 0) else (true, run + 1)) else (true, 0))
  else (if beyond then (if run + 1 ≥ deb then (true, 0) else (false, run + 1)) else (false, 0))

/-- 0 normal, 1 WARN, 2 FAULT. -/
def Sensor.st (x : Sensor) : Nat := if x.fault then 2 else if x.warn then 1 else 0

/-- A sensor's new sample. -/
def Sensor.sample (x : Sensor) (v : Int) (wBeyond wInside fBeyond fInside low : Bool) (deb : Nat) : Sensor :=
  let w := debounce x.warn wBeyond wInside x.warnRun deb
  let f := debounce x.fault fBeyond fInside x.faultRun deb
  { val := v, warn := w.1, warnRun := w.2, fault := f.1, faultRun := f.2, low := if wBeyond then low else x.low && w.1 }

/-- Take a sample of sensor i (0 to 7 temperatures, 8 + k monitors): a change of state is logged, raised on the SENS page and
raises or clears its fault class; VBAT raises none (rule R528). -/
def State.sensed (s : State) (i : Nat) (x : Sensor) : State :=
  let old := Tab.get (fun _ => {}) s.assay.sens i
  let s1 := s.modAssay fun a => { a with sens := Tab.set (fun _ => {}) a.sens i x }
  let s2 := if i = 28 then { s1 with bk := { s1.bk with vbatLow := x.st != 0 } } else s1
  if old.st = x.st then s2
  else
    let code := if x.st = 2 then 0x11 else if x.st = 1 then 0x10 else 0x12
    let bit := (if i < 8 then 16 else 18) + (if old.st = 2 ∨ x.st = 2 then 1 else 0)
    let s3 := (s2.raise 0x0C1 bit).logOwn code i (BitVec.ofInt 32 x.val)
    if i < 8 then (if x.st = 2 then s3.raiseClass clsTHERMAL i else s3)
    else if i = 28 then s3
    else if x.st = 2 then s3.raiseClass clsSUPPLY i else if old.st = 2 then s3.clearClass clsSUPPLY i else s3

/-- The limits of monitor k in mV: offsets from the setpoint for 0 to 7 (rule R527). -/
def State.vlim (s : State) (k : Nat) : Int × Int :=
  let w := s.regAtSlot (vlimAddr k)
  let lo : Int := (fld w 11 0 : Nat)
  let hi : Int := (fld w 27 16 : Nat)
  if k < 8 then ((s.assay.setMv : Int) - lo, (s.assay.setMv : Int) + hi) else (lo, hi)

/-- The sample of a temperature sensor, in 0.25 °C. -/
def State.tempSample (s : State) (k : Nat) (v : Int) : State :=
  let warn : Int := 4 * (s.rf 0x0C1 0x0C0 7 0 : Nat)
  let flt : Int := 4 * (s.rf 0x0C1 0x0C0 15 8 : Nat)
  let hy : Int := 4 * (s.rf 0x0C1 0x0C0 23 16 : Nat)
  let x := (Tab.get (fun _ => {}) s.assay.sens k).sample v (decide (v ≥ warn)) (decide (v < warn - hy)) (decide (v ≥ flt))
    (decide (v < flt - hy)) false (s.rf 0x0C1 0x0C4 23 16)
  let s1 := if v > signed 12 (s.rf 0x0C1 0x0D0 11 0) then s.setRf 0x0C1 0x0D0 11 0 (BitVec.ofInt 12 v).toNat else s
  s1.sensed k x

/-- The sample of voltage monitor k, in mV. -/
def State.voltSample (s : State) (k : Nat) (v : Int) : State :=
  let l := s.vlim k
  let fm : Int := (s.rf 0x0C1 0x0C4 7 0 : Nat)
  let hy : Int := (s.rf 0x0C1 0x0C4 15 8 : Nat)
  let x := (Tab.get (fun _ => {}) s.assay.sens (8 + k)).sample v (decide (v < l.1 ∨ v > l.2))
    (decide (l.1 + hy ≤ v ∧ v ≤ l.2 - hy)) (decide (v < l.1 - fm ∨ v > l.2 + fm))
    (decide (l.1 - fm + hy ≤ v ∧ v ≤ l.2 + fm - hy)) (decide (v < l.1)) (s.rf 0x0C1 0x0C4 23 16)
  s.sensed (8 + k) x

/-- THERMAL is clear when every sensor reads below WARN_C − HYST_C (rule R571). -/
def State.thermalClear (s : State) : State :=
  let lim : Int := 4 * ((s.rf 0x0C1 0x0C0 7 0 : Int) - (s.rf 0x0C1 0x0C0 23 16 : Nat))
  if (List.range 8).all fun k => decide ((Tab.get (fun _ => {}) s.assay.sens k).val < lim) then
    (List.range 8).foldl (fun s k => s.clearClass clsTHERMAL k) s
  else s

/-- Registers of the SENS page computed from the state. -/
def viewSens (s : State) (off : Nat) : Option Word :=
  let show_ := fun (i : Nat) =>
    let x := Tab.get (fun _ => {}) s.assay.sens i
    BitVec.ofNat 32 ((BitVec.ofInt 12 x.val).toNat + b2n x.warn * 2 ^ 16 + b2n x.fault * 2 ^ 17 + b2n (x.low && x.st != 0) * 2 ^ 18)
  if 0x040 ≤ off ∧ off ≤ 0x0BC then some (show_ ((off - 0x040) / 4)) else none

/-- More refusals on the SENS page: the high limit not below the low one, for monitors 8 to 23. -/
def violSens (s : State) (off : Nat) (v : Word) : Viol :=
  if off = 0x0CC ∧ s.rf 0x0C1 0x0C8 4 0 ≥ 8 ∧ fld v 27 16 < fld v 11 0 then [(16, 0x05)] else []

/-- CLR of TMAX sets it to the current highest temperature. -/
def takenSens (off : Nat) (v : Word) (s : State) : State :=
  if off = 0x0D0 ∧ v.getLsbD 31 = true then
    let t := fun (k : Nat) => (Tab.get (fun _ => {}) s.assay.sens k).val
    let m := (List.range 8).foldl (fun a k => max a (t k)) (t 0)
    s.setRf 0x0C1 0x0D0 11 0 (BitVec.ofInt 12 m).toNat
  else s

/-! ## Errors in memories (rules R52 to R57) -/

/-- The page that counts the errors of a memory (rule R57). -/
def memPage (mem : Nat) : Nat :=
  if mem ≤ 8 then 0x0A0 + mem else if mem ≤ 17 then 0x0A0 + (mem - 9) else if mem ≤ 26 then 0x0A0 + (mem - 18)
  else if mem = 27 then 0x070 else if mem = 28 then 0x003 else if mem = 29 then 0x041
  else if mem ≤ 45 then 0x050 + (mem - 30) else if mem = 46 then 0x002 else if mem ≤ 50 then 0x090 + (mem - 47)
  else if mem = 52 then 0x0C2 else if mem = 54 then 0x0C5 else 0x0C0

/-- A record of 8 words at index t of a subscription's ring in exchange memory takes its TORN flag (rules R53, R320, R324), in its
word 7; a bad word 7 has none to take it. -/
def State.tornRecord (s : State) (a : Nat) : State :=
  match s.liveSubs.find? fun e => subDest e.2.words == 1 && subRec e.2.words
      && decide (e.2.base ≤ a ∧ a < e.2.base + 8 * 2 ^ subLog e.2.words) with
  | none => s
  | some e =>
    let at7 := e.2.base + 8 * ((a - e.2.base) / 8) + 7
    if at7 = a then s
    else
      let v := s.ex at7 ||| BitVec.ofNat 72 (2 ^ (if subKind e.2.words = 1 then 4 else 40))
      { s with exch := Tab.set (fun _ => 0) s.exch (at7 % 0x10000) v }

/-- The object that owns an uncorrectable word is torn (rule R53): a record in a ring, a channel (which is then LOST, rule R299), the
jobs of a snapshot, a handle-table entry. A channel in migration owns both of its slots, and its migration is cancelled (rule
R291). The other memories hold no object whose place in them the spec gives (log entry 91). -/
def State.tornOwner (s : State) (mem a : Nat) : State :=
  if mem = 28 then s.tornRecord a
  else if mem = 29 then s.tearSnap a
  else if 30 ≤ mem ∧ mem ≤ 45 then
    match s.chans.find? fun e => e.2.st != .created
        && ((e.2.billet == mem - 30 && e.2.slot == a / 16)
          || (match e.2.mig with | some g => g.1 == mem - 30 && g.2.1 == a / 16 | none => false)) with
    | some e => ((if e.2.st = .lost then s else s.chanTo e.1 .lost).tear e.1).modChan e.1 fun c => { c with mig := none }
    | none => s
  else if mem = 46 then s.tear (a / 2)
  else s

/-- Data bits of a word of a memory: rows have 64 (rule R57). -/
def memBits (mem : Nat) : Nat := if mem ≤ 8 ∨ mem = 51 ∨ mem = 54 then 64 else 72

/-- The word at an address, of the memories whose words are State's; the others' contents are other fields of State. -/
def State.memWord (s : State) (mem a : Nat) : Nat :=
  if mem ≤ 8 then (Tab.get (fun _ => 0) (s.core mem).iram a : Row).toNat
  else if mem ≤ 17 then (Tab.get (fun _ => 0) (s.core (mem - 9)).x a : Native).toNat
  else if mem ≤ 26 then (Tab.get (fun _ => 0) (s.core (mem - 18)).y a : Native).toNat
  else if mem = 27 then (s.mr a).toNat
  else if mem = 28 then (s.ex a).toNat
  else if mem = 29 then (Tab.get (fun _ => 0) s.snapMem a : Native).toNat
  else if mem = 54 then (Tab.get (fun _ => 0) s.bk.ret a : Row).toNat
  else 0

/-- Write a corrected word back (rule R55). -/
def State.putMemWord (s : State) (mem a v : Nat) : State :=
  if mem ≤ 8 then s.modCore mem fun c => { c with iram := Tab.set (fun _ => 0) c.iram a (BitVec.ofNat 64 v) }
  else if mem ≤ 17 then s.modCore (mem - 9) fun c => { c with x := Tab.set (fun _ => 0) c.x a (BitVec.ofNat 72 v) }
  else if mem ≤ 26 then s.modCore (mem - 18) fun c => { c with y := Tab.set (fun _ => 0) c.y a (BitVec.ofNat 72 v) }
  else if mem = 27 then { s with measRam := Tab.set (fun _ => 0) s.measRam (a % 0x80000) (BitVec.ofNat 72 v) }
  else if mem = 28 then { s with exch := Tab.set (fun _ => 0) s.exch (a % 0x10000) (BitVec.ofNat 72 v) }
  else if mem = 29 then { s with snapMem := Tab.set (fun _ => 0) s.snapMem a (BitVec.ofNat 72 v) }
  else if mem = 54 then { s with bk := { s.bk with ret := Tab.set (fun _ => 0) s.bk.ret a (BitVec.ofNat 64 v) } }
  else s

/-- SCRUB_PASS (R55): the scrubber reads a word of which the bits `flips` have flipped since it was stored (data, check bits,
parity). A single-bit error is corrected, written back and counted; an uncorrectable one is marked, captured with code
UNCORRECTABLE, and tears its owner. A word marked so already is found so again. The words of channel state, handle table and
Ethernet buffers keep no mark: their next object writes them anew (log entry 91). -/
def execScrubPass (mem : Fin 55) (a : Nat) (flips : BitVec 80) (s : State) : Out :=
  let n := memBits mem.val
  let found := if s.isBad mem.val a then EccRead.uncorrectable
    else eccRead n (Nat.xor (eccStored n (s.memWord mem.val a)) (flips.toNat % 2 ^ (n + 8)))
  .next (if s.inReset then s
  else match found with
    | .clean => s
    | .corrected v => (s.putMemWord mem.val a v).countErr (memPage mem.val)
    | .uncorrectable =>
      let s1 := if 30 ≤ mem.val ∧ mem.val ≤ 50 then s else s.setBad mem.val a true
      (s1.capErr (memPage mem.val) 0x20 0).tornOwner mem.val a)

end Sys2Proof.Machine
end

