-- ==== Sys2Proof/Machine/Assay.lean ====
section
/-! DEFINITION. Assay's services (chapter 15): the event log and its mirror, the messages from firmware, the crypto engine,
the backup domain, re-epoch authority, the island's watchdog reset, and the ASSAY, LOG and BKUP pages. -/

namespace Sys2Proof.Machine

/-! ## The flash (rules R517, R536, R537) -/

/-- A byte of the flash; what nothing has written reads erased (log entry 6). -/
def State.fl (s : State) (a : Nat) : Byte := Tab.get (fun _ => 0xFF) s.flash a

/-- n bytes of the flash. -/
def State.flBytes (s : State) (a n : Nat) : List Byte := (List.range n).map fun i => s.fl (a + i)

/-- A little-endian number in the flash. -/
def State.flNum (s : State) (a n : Nat) : Nat := (List.range n).foldl (fun x i => x + (s.fl (a + i)).toNat * 2 ^ (8 * i)) 0

/-- Erase a span: every byte of it reads 0xFF. -/
def State.flErase (s : State) (a n : Nat) : State :=
  { s with flash := s.flash.filter fun e => !decide (a ≤ e.1 ∧ e.1 < a + n) }

/-- Program bytes: programming only clears bits. -/
def State.flProgram (s : State) (a : Nat) (l : List Byte) : State :=
  match l with
  | [] => s
  | b :: rest => ({ s with flash := Tab.set (fun _ => 0xFF) s.flash a (s.fl a &&& b) }).flProgram (a + 1) rest

/-! ## The event log (rules R530 to R533, R555) -/

/-- Change the log. -/
def State.modLog (s : State) (f : LogSt → LogSt) : State := { s with log := f s.log }

/-- Record i of the ring. -/
def State.logRec (s : State) (i : Nat) : BitVec 128 := Tab.get (fun _ => 0) s.log.ring (i % 4096)

/-- Severity of a record. -/
def recSev (r : BitVec 128) : Nat := r.toNat / 2 ^ 68 % 8

/-- Records not yet in flash. -/
def State.logWaiting (s : State) : Nat := s.log.next - s.log.mirrored

/-- A waiting record of severity WARN or higher. -/
def State.logUrgent (s : State) : Bool :=
  (List.range s.logWaiting).any fun i => decide (recSev (s.logRec (s.log.mirrored + i)) ≥ 2)

/-- Where record j stands in the log region: 255 records to a sector after its header, 64 sectors in turn (log entry 98). -/
def logAt (j : Nat) : Nat := 0x900000 + j / 255 % 64 * 4096 + 16 + 16 * (j % 255)

/-- Record j goes to flash: the ring reaches a sector with its first record, which is erased and given its header (R537). -/
def State.logToFlash (s : State) (j : Nat) : State :=
  let b := 0x900000 + j / 255 % 64 * 4096
  let q := bytesLe 4 (j / 255)
  let s1 := if j % 255 = 0 then (s.flErase b 4096).flProgram b (q ++ bytesLe 4 (crc32 q)) else s
  s1.flProgram (logAt j) (bytesLe 16 (s1.logRec j).toNat)

/-- The first n waiting records are mirrored. -/
def State.mirror (s : State) (n : Nat) : State :=
  ((List.range n).foldl (fun s i => s.logToFlash (s.log.mirrored + i)) s).modLog fun l => { l with
    mirrored := l.mirrored + n, times := l.times.drop n }

/-- The sequence number of a log sector whose header holds. -/
def State.logSector (s : State) (k : Nat) : Option Nat :=
  let b := 0x900000 + k * 4096
  if s.flash.any (fun e => e.1 / 4096 == 0x900 + k) then
    (if s.flNum (b + 4) 4 = crc32 (s.flBytes b 4) ∧ s.flNum b 4 % 64 = k then some (s.flNum b 4) else none)
  else none

/-- Record j stands in flash: its sector has its number, and the record is programmed (bit 7 of its byte 8 is 0). -/
def State.inFlash (s : State) (j : Nat) : Bool :=
  s.logSector (j / 255 % 64) == some (j / 255) && !(s.fl (logAt j + 8)).getLsbD 7

/-- The number after the newest record in flash. -/
def State.logEnd (s : State) : Nat :=
  match ((List.range 64).filterMap s.logSector).max? with
  | none => 0
  | some q => q * 255 + ((List.range 255).takeWhile fun i => s.inFlash (q * 255 + i)).length

/-- THE RING IS REFILLED from the newest 4,096 records in flash (rules R532, R563). -/
def State.refillLog (s : State) : State :=
  let n := s.logEnd
  let l := ((List.range (min 4096 n)).map fun i => n - min 4096 n + i).filter s.inFlash
  s.modLog fun g => { g with
    ring := l.foldl (fun t j => Tab.set (fun _ => 0) t (j % 4096) (BitVec.ofNat 128 (s.flNum (logAt j) 16))) [],
    next := n, mirrored := n, times := [], flashOk := true }

/-- LOG_MIRROR (R532): up to 16 waiting records go to a flash page, when 16 wait, one is of severity WARN or higher, or 10 s
have passed since the oldest; `ok` that the flash took them, else MIRROR_FAIL is raised. -/
def execLogMirror (dt : Nat) (ok : Bool) (s0 : State) : Out :=
  let s := s0.after dt
  .next (if !s.assayOn || s.assayHalted || !s.log.flashOk || s.logWaiting == 0
      || !(decide (s.logWaiting ≥ 16) || s.logUrgent || decide (s.el ≥ s.log.times.headD 0 + ofNs 10000000000)) then s
  else if ok then s.mirror (min 16 s.logWaiting)
  else s.raise 0x0C2 18)

/-- A post is taken (rule R533): source 4, with the severity and code written. -/
def State.logPost (s : State) (v : Word) : State :=
  s.logAdd 4 (fld v 10 8) (fld v 7 0) (fld v 31 16) (s.reg 0x0C2 0x05C)

/-- DATA0 (R555): bytes 0 to 3 of the record that SEL shows; the rest is latched. -/
def execData0 (s : State) : Out :=
  let r := s.logRec (s.rf 0x0C2 0x048 11 0)
  .next (s.readRow (if s.assay.inWdog then 0 else BitVec.ofNat 32 r.toNat) fun s => s.modLog fun l => { l with latch := r })

/-- Registers of the LOG page computed from the state. -/
def viewLog (s : State) (off : Nat) : Option Word :=
  if off = 0x040 then some (BitVec.ofNat 32 (s.log.next % 4096 + s.log.next % 65536 * 65536))
  else if off = 0x04C then some (BitVec.ofNat 32 (s.logRec (s.rf 0x0C2 0x048 11 0)).toNat)
  else if 0x050 ≤ off ∧ off ≤ 0x058 then some (BitVec.ofNat 32 (s.log.latch.toNat / 2 ^ (8 * (off - 0x04C))))
  else if off = 0x064 then some (BitVec.ofNat 32 (min 4095 s.logWaiting + b2n s.log.flashOk * 65536))
  else none

/-- A post is refused with BUSY while CASAK-M is halted (rule R524). -/
def violLog (s : State) (off : Nat) : Viol := if off = 0x060 && s.assayHalted then [(0, 0x07)] else []

/-! ## Messages from firmware (rule R545) -/

/-- CASAK-M serves its rings. -/
def State.assayServes (s : State) : Bool := s.assayOn && !s.assayHalted

/-- LOG (R545): a record with source 3. -/
def execLog (sev : Fin 8) (code : Byte) (arg16 : BitVec 16) (arg32 : Word) (s : State) : Out :=
  .next (if s.assayServes then s.logAdd 3 sev.val code.toNat arg16.toNat arg32 else s)

/-- LOOP_ENABLE (R545): the voltage loop starts. -/
def execLoopEnable (s : State) : Out :=
  .next (if s.assayServes && s.svc == 3 then s.modAssay fun a => { a with loopEn := true } else s)

/-- Change the backup domain. -/
def State.modBk (s : State) (f : Backup → Backup) : State := { s with bk := f s.bk }

/-- RTC_SYNC (R550): sent at most once per minute while STEPPED and HEALTHY are 1. The clock is set within 2 ms of the time
base, a free error; RTC_UNC is 2,000 µs plus 1,000 times TIME_STD. -/
def execRtcSync (s : State) : Out :=
  let recent := match s.bk.syncEl with | some t => decide (s.el < t + ofNs 60000000000) | none => false
  .next (if !s.assayServes || recent || !s.tb.stepped || !s.tb.healthy then s
  else
    let t := toNs s.tb.now + s.free 4000000 - 2000000
    let sec := t / 1000000000 % 2 ^ 48
    let s1 := (s.bump).modBk fun b => { b with
      rtcSec := sec, rtcTick := t % 1000000000 * 32768 / 1000000000, rtcEl := s.el, rtcValid := true,
      uncUs := 2000 + ceilDiv s.sol.timeStd 100, lastSync := BitVec.ofNat 32 sec, syncEl := some s.el }
    s1.raise 0x0C5 17)

/-- Row r of retention memory. -/
def State.retRow (s : State) (r : Nat) : Row := Tab.get (fun _ => 0) s.bk.ret r

/-- Write a row. -/
def State.setRet (s : State) (r : Nat) (v : Row) : State :=
  (s.modBk fun b => { b with ret := Tab.set (fun _ => 0) b.ret r v }).setBad 54 r false

/-- The CRC-32 of retention bytes 0x000 to 0x2FF, with the CRC field (the low half of row 1) taken as 0 (rule R551). -/
def State.retCrc (s : State) : Nat :=
  crc32 ((List.range 96).flatMap fun r =>
    bytesLe 8 (if r = 1 then (s.retRow 1).toNat / 2 ^ 32 * 2 ^ 32 else (s.retRow r).toNat))

/-- A row of the Malith's own part is written and the CRC recomputed; RET_VALID follows, but where the supply was lost only
after a full write with VBAT present (rules R551, R552). -/
def State.retain (s : State) (r : Nat) (v : Row) : State :=
  let s1 := s.setRet r v
  let s2 := s1.setRet 1 (BitVec.ofNat 64 ((s1.retRow 1).toNat / 2 ^ 32 * 2 ^ 32 + s1.retCrc))
  let got := if s.bk.vbatAbsent then 0 else s.bk.got ||| BitVec.ofNat 96 (2 ^ r)
  let full := got == BitVec.allOnes 96
  s2.modBk fun b => { b with
    got := if b.need then got else 0, need := b.need && !full, retValid := !b.need || full }

/-- A row was written from a message in the last 60 s. -/
def State.retRecent (s : State) (r : Nat) : Bool :=
  match Tab.get (fun _ => none) s.assay.retEl r with
  | some t => decide (s.el < t + ofNs 60000000000)
  | none => false

/-- RETAIN (R551): a row of 0 to 95, each at most once per 60 s (log entry 98). -/
def execRetain (row : Fin 96) (data : Row) (s : State) : Out :=
  .next (if s.assayServes && !s.retRecent row.val then
    (s.retain row.val data).modAssay fun a => { a with retEl := Tab.set (fun _ => none) a.retEl row.val (some s.el) }
  else s)

/-! ## The backup domain's supply (rules R550, R591, R610) -/

/-- The backup domain loses its supply: its contents are lost, the clock and the memory hold free values, RTC_VALID and
RET_VALID clear, and VBAT_LOST is recorded, to be logged at the next start. -/
def State.backupLost (s : State) : State :=
  let s1 := (List.range 128).foldl (fun s r => (s.modBk fun b => { b with ret := Tab.set (fun _ => 0) b.ret r (BitVec.ofNat 64 (s.free (2 ^ 64 - 1))) }).bump) s
  (s1.modBk fun b => { b with
    rtcValid := false, retValid := false, need := true, got := 0, vbatLost := true, lostLog := true,
    rtcSec := s1.free (2 ^ 48 - 1), rtcTick := 0, rtcEl := s.el, syncEl := none }).bump

/-- VBAT_LOST (R550): VBAT falls below 1.55 V; nothing is lost while the internal regulator supplies the domain. -/
def execVbatLost (s : State) : Out :=
  let s1 := s.modBk fun b => { b with vbatAbsent := true }
  .next (if s.bk.onBat && !s.bk.vbatAbsent then s1.backupLost else s1)

/-- BACKUP_SWITCHOVER (R591): VDDIO_A crosses 1.60 V and the domain runs from VBAT (`toBat`) or from its regulator; `vbat`
tells whether VBAT is present. -/
def execBackupSwitchover (toBat vbat : Bool) (s : State) : Out :=
  let s1 := s.modBk fun b => { b with onBat := toBat, vbatAbsent := !vbat }
  .next (if toBat && !vbat && !s.bk.onBat then s1.backupLost else s1)

/-- RTC_SEC_LO (R557): the RTC's seconds; the rest is latched. -/
def execRtcSecLo (s : State) : Out :=
  let t := s.rtcTicks
  .next (s.readRow (if s.assay.inWdog then 0 else BitVec.ofNat 32 (t / 32768)) fun s =>
    ((s.setReg 0x0C5 0x044 (BitVec.ofNat 32 (t / 32768 / 2 ^ 32 % 65536))).setReg 0x0C5 0x048 (BitVec.ofNat 32 (t % 32768))).setReg
      0x0C5 0x04C (if s.bk.rtcValid then BitVec.ofNat 32 (min 0xFFFFFFFF s.rtcUnc) else 0xFFFFFFFF))

/-- Registers of the BKUP page computed from the state. The crystal is taken to run (log entry 5). -/
def viewBkup (s : State) (off : Nat) : Option Word :=
  let r := s.retRow (s.rf 0x0C5 0x054 6 0)
  if off = 0x040 then some (BitVec.ofNat 32 (s.rtcTicks / 32768))
  else if off = 0x050 then
    some (BitVec.ofNat 32 (b2n s.bk.rtcValid + b2n s.bk.vbatLost * 2 + b2n s.bk.vbatLow * 4 + 8 + b2n s.bk.retValid * 16))
  else if off = 0x058 then some (BitVec.ofNat 32 r.toNat)
  else if off = 0x05C then some (BitVec.ofNat 32 (r.toNat / 2 ^ 32))
  else if off = 0x060 then some s.bk.lastSync
  else none

/-- A write to a row below 96 is refused with BUSY. -/
def violBkup (s : State) (off : Nat) : Viol :=
  if (off = 0x058 ∨ off = 0x05C) ∧ s.rf 0x0C5 0x054 6 0 < 96 then [(0, 0x07)] else []

/-- A write to RET_HI stores the row with the staged RET_LO; VBAT_LOST clears where 1 is written. -/
def takenBkup (off : Nat) (v : Word) (s : State) : State :=
  if off = 0x05C then s.setRet (s.rf 0x0C5 0x054 6 0) (BitVec.ofNat 64 ((s.reg 0x0C5 0x058).toNat + v.toNat * 2 ^ 32))
  else if off = 0x050 ∧ v.getLsbD 1 = true then s.modBk fun b => { b with vbatLost := false }
  else s

/-! ## The crypto engine (rules R546 to R548) -/

/-- A field of a native word. -/
def nfld (v : Native) (hi lo : Nat) : Nat := v.toNat / 2 ^ lo % 2 ^ (hi + 1 - lo)

/-- Bytes from an address of exchange memory. -/
def State.exSpan (s : State) (a n : Nat) : List Byte := (List.range n).map fun i => s.exByte a i

/-- STATUS that the form of a request gives: 2 where a field breaks rule R547, 3 where the message is longer than 8,192
bytes or the digest longer than 66, else 0 (log entry 22). -/
def cryptoForm (w0 w1 w2 w3 : Native) : Nat :=
  let op := nfld w0 7 0
  let inLen := nfld w1 29 16
  let keyLen := nfld w1 55 48
  let sigLen := nfld w2 23 16
  let curve := if op = 4 then 64 else if op = 5 then 96 else 132
  let zero := nfld w0 15 8 == 0 && nfld w0 71 32 == 0 && nfld w1 31 30 == 0 && nfld w1 71 56 == 0 && nfld w2 71 40 == 0 && w3 == 0
  let sizes := if op ≤ 2 then sigLen == 0
    else if op = 3 then sigLen == 0 && decide (1 ≤ keyLen ∧ keyLen ≤ 64)
    else keyLen == curve && sigLen == curve && nfld w2 39 24 == 0
  if op = 0 ∨ op > 6 ∨ zero = false ∨ sizes = false then 2 else if inLen > (if op ≤ 3 then 8192 else 66) then 3 else 0

/-- CRYPTO_REQUEST (R547, R548): the next request of the ring is accepted and sealed with every byte it names. -/
def execCryptoRequest (s : State) : Out :=
  .next (if !s.assayServes || decide (s.assay.queue.length ≥ 256) then s
  else
    let a := 0xF000 + 4 * (s.assay.reqIdx % 256)
    let w0 := s.ex a
    let w1 := s.ex (a + 1)
    let w2 := s.ex (a + 2)
    let bad := cryptoForm w0 w1 w2 (s.ex (a + 3))
    let q : Sealed := {
      op := nfld w0 7 0, tag := nfld w0 31 16, out := nfld w2 39 24, bad := bad,
      key := s.exSpan (nfld w1 47 32) (nfld w1 55 48), inp := s.exSpan (nfld w1 15 0) (nfld w1 29 16),
      sig := s.exSpan (nfld w2 15 0) (nfld w2 23 16) }
    let met := (((s.meetEx a 4).meetEx (nfld w1 47 32) (ceilDiv q.key.length 8)).meetEx (nfld w1 15 0) (ceilDiv q.inp.length 8)).meetEx
      (nfld w2 15 0) (ceilDiv q.sig.length 8)
    met.modAssay fun x => { x with queue := x.queue ++ [q], reqIdx := (x.reqIdx + 1) % 256 })

/-- A digest's bytes, most significant first. -/
def digestBytes (n x : Nat) : List Byte := (bytesLe n x).reverse

/-- What the engine computes: STATUS and the bytes of a digest or MAC. -/
def Sealed.result (q : Sealed) : Nat × List Byte :=
  if q.bad ≠ 0 then (q.bad, [])
  else if q.op = 1 then (0, digestBytes 32 (Config.sha256 q.inp).toNat)
  else if q.op = 2 then (0, digestBytes 48 (Config.sha384 q.inp).toNat)
  else if q.op = 3 then (0, digestBytes 32 (Config.hmac256 q.key q.inp).toNat)
  else (if Config.ecdsaVerify q.op q.key q.inp q.sig then 0 else 1, [])

/-- Write packed bytes to exchange memory. -/
def State.putExBytes (s : State) (a i : Nat) (l : List Byte) : State :=
  match l with
  | [] => s
  | b :: rest => (s.setExByte a i b).putExBytes a (i + 1) rest

/-- CRYPTO_ANSWER (R548): the first sealed request is served: its digest or MAC, and the answer of 2 words: TAG in bits
[15:0], STATUS in [23:16] and the processing time in µs in [55:24] of word 0, SEAL in word 1 (a placement the spec does not
give, log entry 22). The time is free within its bound. -/
def execCryptoAnswer (s : State) : Out :=
  .next (match s.assay.queue with
  | [] => s
  | q :: rest =>
    if !s.assayServes then s
    else
      let r := q.result
      let most := if q.op = 4 then 2000 else if q.op = 5 then 4000 else if q.op = 6 then 9000 else 3 * (ceilDiv q.inp.length 1024)
      let sealed := crc32 (q.key ++ q.inp ++ q.sig)
      let a := 0xF400 + 2 * (s.assay.ansIdx % 256)
      let s1 := s.putExBytes q.out 0 r.2
      let s2 := (s1.setEx a (BitVec.ofNat 72 (q.tag + r.1 * 2 ^ 16 + s.free most * 2 ^ 24))).setEx (a + 1) (BitVec.ofNat 72 sealed)
      (s2.modAssay fun x => { x with queue := rest, ansIdx := (x.ansIdx + 1) % 256, done := (x.done + 1) % 65536 }).bump)

/-! ## Re-epoch authority (rule R549) -/

/-- A write to REEPOCH with ARM at 1 sets ARMED, unless tokens are needed. -/
def takenAssay (off : Nat) (v : Word) (s : State) : State :=
  if off = 0x068 ∧ v.getLsbD 0 = true ∧ s.fuse 937 937 = 0 then { s with armAt := some s.el } else s

/-- ARMED_EXPIRY (R549): ARMED clears 10 s after the write. -/
def execArmedExpiry (dt : Nat) (s0 : State) : Out :=
  let s := s0.after dt
  .next (match s.armAt with
    | some t => if s.el ≥ t + ofNs 10000000000 then { s with armAt := none } else s
    | none => s)

/-! ## The ASSAY page (rule R553) -/

/-- The anti-rollback count: the position of the highest blown ARB bit plus 1 (rule R526). -/
def State.arb (s : State) : Nat := let x := s.fuse 831 768; if x = 0 then 0 else Nat.log2 x + 1

/-- Registers of the ASSAY page computed from the state. -/
def viewAssay (s : State) (off : Nat) : Option Word :=
  if off = 0x040 then some (BitVec.ofNat 32 (s.assay.setMv + s.floorMv * 65536 + b2n s.assay.loopEn * 2 ^ 31))
  else if off = 0x048 then some (BitVec.ofNat 32 s.arb)
  else if off = 0x04C then
    some (BitVec.ofNat 32 (s.fuse 936 936 + b2n (s.fuse 767 384 != 0) * 2 + s.fuse 937 937 * 4 + s.fuse 938 938 * 8 + s.fuse 935 928 * 256))
  else if off = 0x054 then some (BitVec.ofNat 32 (s.fuses.toNat / 2 ^ (32 * s.rf 0x0C0 0x050 4 0)))
  else if off = 0x068 then
    some (BitVec.ofNat 32 (b2n s.armAt.isSome * 2 + s.fuse 937 937 * 4 + s.rf 0x0C0 0x068 15 8 * 256))
  else if off = 0x078 then
    some (BitVec.ofNat 32 (s.assay.queue.length + b2n (!s.assay.queue.isEmpty) * 512 + s.assay.done * 65536))
  else none

/-! ## The island's watchdog (rules R28, R523) -/

/-- CASAK-M restarts at vector 0 with the registers of its reset (rule R438); memories keep their contents. -/
def State.restartM (s : State) : State :=
  s.modCore 8 fun c => { st := .run, iram := c.iram, x := c.x, y := c.y }

/-- WATCHDOG_RESET (R28): the Assay island alone is reset; the quench line is not asserted. -/
def execWatchdogReset (s : State) : Out :=
  .next (if !s.assayOn then s
  else
    let s1 := s.modCore 8 fun c => { st := .stopped, iram := c.iram, x := c.x, y := c.y }
    s1.modAssay fun a => { a with inWdog := true })

/-- ASSAY_ISLAND_RESET_END (R523): WDOG counts it, it is logged, and a trial's 30 s start again (rule R540). -/
def execAssayIslandResetEnd (s : State) : Out :=
  .next (if s.inReset || !s.assay.inWdog then s
  else
    let s1 := ((s.modAssay fun a => { a with inWdog := false }).restartM).count 0x0C0 0x060
    let s3 : State := { s1 with upd := { s1.upd with trialEl := s1.upd.trialEl.map fun _ => s.el } }
    (s3.raise 0x0C0 17).logOwn 0x1A (s3.rf 0x0C0 0x060 15 0) 0)

end Sys2Proof.Machine
end

