-- ==== Sys2Proof/Machine/Upd.lean ====
section
/-! DEFINITION. Images, the flash with its boot control blocks, the update path, the trial of an image, and UART recovery
(rules R534 to R545). Frames that reset the Malith are in Machine/Startup.lean. -/

namespace Sys2Proof.Machine

/-- Change the update path's record. -/
def State.modUpd (s : State) (f : Upd → Upd) : State := { s with upd := f s.upd }

/-! ## Boot control blocks (rule R537) -/

/-- A boot control block as read: BSEQ, ACTIVE, TRIAL and TRIED of a valid copy. -/
def State.bcb (s : State) (copy : Nat) : Option (Nat × Nat × Nat × Nat) :=
  let a := copy * 0x1000
  if s.flNum a 4 = 0x42434255 ∧ s.flNum (a + 28) 4 = crc32 (s.flBytes a 28) then
    some (s.flNum (a + 4) 4, (s.fl (a + 8)).toNat, (s.fl (a + 9)).toNat, (s.fl (a + 10)).toNat)
  else none

/-- The valid copy with the higher BSEQ. -/
def State.bcbBest (s : State) : Option (Nat × Nat × Nat × Nat × Nat) :=
  match s.bcb 0, s.bcb 1 with
  | none, none => none
  | some a, none => some (0, a)
  | none, some b => some (1, b)
  | some a, some b => if b.1 > a.1 then some (1, b) else some (0, a)

/-- Take over what a boot control block says, with its index before it; without a valid copy ACTIVE is slot A and nothing is on
trial (log entry 23). -/
def State.takeBcb (s : State) (b : Option (Nat × Nat × Nat × Nat × Nat)) : State :=
  match b with
  | none => s.modUpd fun u => { u with active := 0, trial := none, tried := false, bseq := 0 }
  | some (_, q, a, t, d) =>
    s.modUpd fun u => { u with active := a % 2, trial := if t < 2 then some t else none, tried := d != 0, bseq := q }

/-- The boot control block in force is read. -/
def State.readBcb (s : State) : State := s.takeBcb s.bcbBest

/-- Write a boot control block (rule R537): the copy that does not hold the highest valid BSEQ, with BSEQ one higher. -/
def State.writeBcb (s : State) (active : Nat) (trial : Option Nat) (tried : Bool) : State :=
  let copy := match s.bcbBest with | some b => 1 - b.1 | none => 0
  let seq := (match s.bcbBest with | some b => b.2.1 | none => 0) + 1
  let body : List Byte := bytesLe 4 0x42434255 ++ bytesLe 4 seq ++ bytesLe 1 active
    ++ bytesLe 1 (match trial with | some t => t | none => 0xFF) ++ bytesLe 1 (b2n tried) ++ List.replicate 17 0
  (((s.flErase (copy * 0x1000) 0x1000).flProgram (copy * 0x1000) (body ++ bytesLe 4 (crc32 body)))).modUpd fun u =>
    { u with active := active, trial := trial, tried := tried, bseq := seq }

/-! ## Images (rules R534, R535, R538) -/

/-- Where a slot begins. -/
def slotBase (slot : Nat) : Nat := 0x100000 + slot * 0x400000

/-- A segment entry: TARGET, OFFSET, DEST, LEN, and its three zero bytes. -/
structure Seg where
  target : Nat
  zero : Nat
  off : Nat
  dest : Nat
  len : Nat
  deriving DecidableEq, Repr

/-- Segment entry i. -/
def State.segAt (s : State) (base i : Nat) : Seg :=
  let a := base + 0x80 + 16 * i
  { target := s.flNum a 1, zero := s.flNum (a + 1) 3, off := s.flNum (a + 4) 4, dest := s.flNum (a + 8) 4, len := s.flNum (a + 12) 4 }

/-- Bytes to a unit of the target and units in its memory (rule R535). -/
def targetSize (t : Nat) : Option (Nat × Nat) :=
  if t ≤ 5 ∨ t = 0x40 then some (8, 8192)
  else if (0x10 ≤ t ∧ t ≤ 0x15) ∨ (0x20 ≤ t ∧ t ≤ 0x25) then some (9, 8192)
  else if t = 0x30 then some (9, 524288)
  else if t = 0x41 ∨ t = 0x42 then some (9, 4096) else none

/-- A segment by itself is well formed. -/
def Seg.ok (g : Seg) (imgLen : Nat) : Bool :=
  match targetSize g.target with
  | none => false
  | some (u, n) =>
    g.zero == 0 && g.len % u == 0 && decide (g.dest + g.len / u ≤ n) && decide (0x180 ≤ g.off) && decide (g.off + g.len ≤ imgLen - 96)

/-- Two segments overlap in their destination. -/
def Seg.overlaps (a b : Seg) : Bool :=
  let u := match targetSize a.target with | some x => x.1 | none => 1
  a.target == b.target && decide (a.dest < b.dest + b.len / u) && decide (b.dest < a.dest + a.len / u)

/-- No segment overlaps a later one. -/
def segsDisjoint : List Seg → Bool
  | [] => true
  | g :: rest => !(rest.any g.overlaps) && segsDisjoint rest

/-- The segments of an image. -/
def State.segs (s : State) (base : Nat) : List Seg := (List.range (s.flNum (base + 7) 1)).map (s.segAt base)

/-- The format of an image is right: header in range, entries beyond NSEG 0, every segment well formed. -/
def State.imageForm (s : State) (base : Nat) : Bool :=
  let len := s.flNum (base + 8) 4
  let n := s.flNum (base + 7) 1
  if s.flNum base 4 = 0x4D494755 ∧ s.flNum (base + 4) 2 = 1 ∧ 0x480 ≤ len ∧ len ≤ 0x400000 ∧ 1 ≤ n ∧ n ≤ 16 then
    (s.flBytes (base + 0x80 + 16 * n) (256 - 16 * n)).all (· == 0)
      && (s.segs base).all (fun g => g.ok len) && segsDisjoint (s.segs base)
  else false

/-- The result code of an image (rules R538, R542); 0 where it is valid. -/
def State.imageCode (s : State) (slot : Nat) : Nat :=
  let b := slotBase slot
  if s.imageForm b = false then 1
  else
    let len := s.flNum (b + 8) 4
    let pub := s.flBytes (b + 0x20) 96
    if s.keyOk (s.flNum (b + 6) 1) pub = false then 2
    else if Config.p384Verify pub (s.flBytes (b + (len - 96)) 96) (s.flBytes b (len - 96)) = false then 3
    else if s.flNum (b + 0x0C) 1 < s.arb then 4
    else if s.flNum (b + 0x14) 2 ≤ 1 ∧ 1 ≤ s.flNum (b + 0x16) 2 then 0 else 5

/-- What a slot holds. -/
def State.slotInfo (s : State) (slot : Nat) : SlotInfo :=
  let b := slotBase slot
  if s.imageCode slot = 0 then
    { ok := true, version := s.flNum (b + 0x10) 4, rollback := s.flNum (b + 0x0C) 1, flags := s.flNum (b + 0x0D) 1, key := s.flNum (b + 6) 1 }
  else {}

/-- The record of a slot. -/
def State.slot (s : State) (n : Nat) : SlotInfo := Tab.get (fun _ => {}) s.upd.slots n

/-- Set the record of a slot. -/
def State.setSlot (s : State) (n : Nat) (x : SlotInfo) : State :=
  s.modUpd fun u => { u with slots := Tab.set (fun _ => {}) u.slots n x }

/-- Load one unit of a segment. -/
def State.loadUnit (s : State) (t i v : Nat) : State :=
  if t ≤ 5 ∨ t = 0x40 then
    let k := if t = 0x40 then 8 else t
    (s.modCore k fun c => { c with iram := Tab.set (fun _ => 0) c.iram i (BitVec.ofNat 64 v) }).setBad k i false
  else if t = 0x30 then s.setMr i (BitVec.ofNat 72 v)
  else
    let k := if t ≥ 0x40 then 8 else t % 16
    s.dataWr k (if t = 0x41 ∨ t < 0x20 then 0 else 1) i (BitVec.ofNat 72 v)

/-- Load a segment. -/
def State.loadSeg (s : State) (base : Nat) (g : Seg) : State :=
  match targetSize g.target with
  | none => s
  | some (u, _) => (List.range (g.len / u)).foldl (fun s i => s.loadUnit g.target (g.dest + i) (s.flNum (base + g.off + i * u) u)) s

/-- Load the segments of a slot's image for some cores' targets (rules R535, R563, R578). -/
def State.loadImage (s : State) (slot : Nat) (want : Nat → Bool) : State :=
  ((s.segs (slotBase slot)).filter fun g => want g.target).foldl (fun s g => s.loadSeg (slotBase slot) g) s

/-- A slot's image is made invalid (rule R541): its record goes, and its MAGIC is programmed to 0 (log entry 98). -/
def State.spoilSlot (s : State) (n : Nat) : State := (s.setSlot n {}).flProgram (slotBase n) (List.replicate 4 0)

/-! ## The update path (rules R541 to R543) -/

/-- The slot not running. -/
def State.otherSlot (s : State) : Nat := 1 - s.upd.running

/-- A trial image runs and has not reported healthy (rule R541). -/
def State.trialPending (s : State) : Bool := s.upd.trialEl.isSome

/-- Bytes of an answer frame of rule R544: TYPE + 0x80, SEQ, LEN, the payload, and the CRC. -/
def sesFrame (typ seq : Nat) (payload : List Byte) : List Byte :=
  let body := bytesLe 1 (typ + 0x80) ++ bytesLe 1 seq ++ bytesLe 2 payload.length ++ payload
  [0x55, 0xAA] ++ body ++ bytesLe 4 (crc32 body)

/-- Send bytes over UART0. -/
def State.sesSend (s : State) (l : List Byte) : State := l.foldl (fun s b => s.emit (.uartChar 0 b (uartFrame 0 b))) s

/-- Answer a frame and remember the answer for its repetition. -/
def State.sesAnswer (s : State) (typ seq : Nat) (payload : List Byte) : State :=
  let f := sesFrame typ seq payload
  (s.modUpd fun u => { u with sesSeq := some seq, sesAns := f, sesWait := none }).sesSend f

/-- AN UPDATE COMMAND ENDS (rules R531, R541, R544): RESULT, DONE or FAIL, the log, and the answer of the frame that asked. -/
def State.updEnd (s : State) (op code : Nat) (st : UpdSt) : State :=
  let s1 := s.modUpd fun u => { u with st := st, result := code, op := 0, stop := false, bytes := [] }
  let s2 := (s1.raise 0x0C3 (if code = 0 then 16 else 17)).logOwn 0x07 op (BitVec.ofNat 32 code)
  match s2.upd.sesWait with
  | some (t, q) => if s2.upd.viaUart then s2.sesAnswer t q [BitVec.ofNat 8 code] else s2
  | none => s2

/-- The states in which a command is allowed (rule R541). -/
def opAllowed (op : Nat) (st : UpdSt) : Bool :=
  if op = 1 then st == .idle || st == .failed || st == .staged
  else if op = 2 ∨ op = 3 then st == .ready
  else if op = 4 then st != .idle
  else st == .idle

/-- A flash operation of the update runs. -/
def State.updBusy (s : State) : Bool := s.upd.op != 0

/-- AN UPDATE COMMAND (rule R541), from the UPD page or a UART session, with the bytes of a WRITE. One outside its states,
during a trial, or from the page while a session holds the path, fails with BUSY. -/
def State.updCmd (s : State) (op : Nat) (uart : Bool) (len off : Nat) (bytes : List Byte) : State :=
  let st := s.upd.st
  let s0 := s.modUpd fun u => { u with viaUart := uart }
  if opAllowed op st = false ∨ s.trialPending = true ∨ (s.upd.session = true ∧ uart = false) then
    (if s.updBusy then s.raise 0x0C3 17 else s0.updEnd op 8 st)
  else if op = 1 then
    (if 0x480 ≤ len ∧ len ≤ 0x400000 then
      (s0.modUpd fun u => { u with st := .erasing, op := 1, imgLen := len }).setSlot s.otherSlot {}
    else s0.updEnd 1 1 .failed)
  else if op = 2 then
    (if off % 256 = 0 ∧ 1 ≤ bytes.length ∧ bytes.length ≤ 4096 ∧ off + bytes.length ≤ s.upd.imgLen then
      s0.modUpd fun u => { u with st := .writing, op := 2, offset := off, bytes := bytes }
    else s0.updEnd 2 7 .ready)
  else if op = 3 then s0.modUpd fun u => { u with st := .verifying, op := 3 }
  else if op = 4 then
    (if s.updBusy then s0.modUpd fun u => { u with stop := true } else (s0.spoilSlot s.otherSlot).updEnd 4 0 .idle)
  else (if (s.slot s.upd.running).key = 1 ∧ (s.slot s.upd.running).ok = true then s0.modUpd fun u => { u with op := 5 }
        else s0.updEnd 5 2 .idle)

/-- Blow fuses: a blown fuse reads 1 for the life of the part (rule R525). -/
def State.blow (s : State) (m : BitVec 4096) : State := { s with fuses := s.fuses ||| m }

/-- UPD_DONE (R541): the flash operation ends; `ok` that the flash reported no error. An ABORT that waited ends the update. -/
def execUpdDone (dt : Nat) (ok : Bool) (s0 : State) : Out :=
  let s := s0.after dt
  let u := s.upd
  let slot := s.otherSlot
  .next (if !s.assayServes || u.op == 0 then s
  else if u.stop then (s.spoilSlot slot).updEnd 4 0 .idle
  else if u.op = 5 then (if ok then (s.blow (BitVec.ofNat 4096 (2 ^ 936))).updEnd 5 0 .idle else s.updEnd 5 6 .idle)
  else if ok = false then s.updEnd u.op 6 .failed
  else if u.op = 1 then (s.flErase (slotBase slot) (ceilDiv u.imgLen 4096 * 4096)).updEnd 1 0 .ready
  else if u.op = 2 then
    let s1 := s.flProgram (slotBase slot + u.offset) u.bytes
    if s1.flBytes (slotBase slot + u.offset) u.bytes.length = u.bytes then s1.updEnd 2 0 .ready else s1.updEnd 2 6 .failed
  else
    let c := s.imageCode slot
    if c = 0 then ((s.setSlot slot (s.slotInfo slot)).writeBcb u.active (some slot) false).updEnd 3 0 .staged
    else s.updEnd 3 c .failed)

/-- SENSOR_SAMPLE (R527): the 8 temperatures in 0.25 °C and the 24 voltages in mV of one millisecond. A VDDIO_B monitor that
enters FAULT during an erase or a program ends it with FLASH (rule R552). -/
def execSensorSample (dt : Nat) (temps volts : List Int) (s0 : State) : Out :=
  let s := s0.after dt
  .next (if !s.assayOn then s
  else
    let s1 := (List.range 8).foldl (fun s k => s.tempSample k (temps.getD k 0)) s
    let s2 := (List.range 24).foldl (fun s k => s.voltSample k (volts.getD k 0)) s1
    let s3 := s2.thermalClear.supplyClear
    let bad := fun (s : State) (i : Nat) => (Tab.get (fun _ => {}) s.assay.sens i).fault
    if (s.upd.op = 1 ∨ s.upd.op = 2) ∧ [26, 27].any (fun i => bad s3 i && !bad s i) then s3.updEnd s.upd.op 6 .failed
    else s3)

/-! ## The trial of an image (rule R540) -/

/-- HEALTHY (R540): a trial image reports in time, the millisecond of the deadline included (rule R552): the boot control block names it ACTIVE, HEALTHY is raised and logged, and
the anti-rollback fuses advance where the image asks for it. -/
def execHealthy (dt : Nat) (s0 : State) : Out :=
  let s := s0.after dt
  .next (match s.upd.trialEl with
  | none => s
  | some t =>
    if !s.assayServes || s.svc ≤ 2 || decide ((s.el - t) / ofNs 1000000 > 30000) then s
    else
      let slot := s.upd.running
      let x := s.slot slot
      let s1 := (s.writeBcb slot none false).modUpd fun u => { u with trialEl := none }
      let s2 := (s1.raise 0x0C3 18).logOwn 0x04 slot (BitVec.ofNat 32 ((s.el - s.boot.relEl) / ofNs 1000000000))
      if x.flags % 2 = 1 ∧ x.rollback > s.arb then
        (s2.blow (BitVec.ofNat 4096 ((2 ^ x.rollback - 1) * 2 ^ 768))).logOwn 0x06 x.rollback (BitVec.ofNat 32 s.arb)
      else s2)

/-! ## UART recovery (rule R544) -/

/-- UART recovery runs. -/
def State.inRecovery (s : State) : Bool := s.assayServes && s.svc == 5

/-- The CRC-32 of a frame, over TYPE, SEQ, LEN and the payload. -/
def sesCrc (typ seq : Nat) (payload : List Byte) : Nat :=
  crc32 (bytesLe 1 typ ++ bytesLe 1 seq ++ bytesLe 2 payload.length ++ payload)

/-- A FRAME OF THE SESSION: one with a bad CRC gets no answer; one whose SEQ was the last answered gets that answer again;
while another command runs it is answered BUSY. `f` carries it out. -/
def State.sesTake (s0 : State) (dt typ seq : Nat) (payload : List Byte) (crc : Word) (f : State → State) : State :=
  let s := s0.after dt
  if !s.inRecovery || sesCrc typ seq payload != crc.toNat then s
  else
    let s1 := s.modUpd fun u => { u with sesGood := s.el }
    if s1.upd.sesSeq = some seq then s1.sesSend s1.upd.sesAns
    else if s1.upd.sesWait.isSome && typ != 5 then s1.sesAnswer typ seq [8]
    else f s1

/-- A frame that asks for an update command: answered when the command ends. -/
def State.sesOp (s : State) (typ seq op len off : Nat) (bytes : List Byte) : State :=
  (s.modUpd fun u => { u with sesWait := some (typ, seq) }).updCmd op true len off bytes

/-- HELLO (R544): claims the update path; the answer gives IDENT, STEP, UID, the ARB count and the slots' VERSIONs. -/
def execHello (dt : Nat) (seq : Byte) (crc : Word) (s0 : State) : Out :=
  .next (s0.sesTake dt 1 seq.toNat [] crc fun s =>
    (s.modUpd fun u => { u with session := true }).sesAnswer 1 seq.toNat
      ([0] ++ bytesLe 4 0x55017240 ++ bytesLe 4 0x11 ++ bytesLe 8 (s.fuse 895 832) ++ bytesLe 4 s.arb
        ++ bytesLe 4 (s.slot 0).version ++ bytesLe 4 (s.slot 1).version))

/-- RECOVERY_BEGIN (R544). -/
def execRecoveryBegin (dt : Nat) (seq : Byte) (crc : Word) (len : Word) (s0 : State) : Out :=
  .next (s0.sesTake dt 2 seq.toNat (bytesLe 4 len.toNat) crc fun s => s.sesOp 2 seq.toNat 1 len.toNat 0 [])

/-- DATA (R544). -/
def execData (dt : Nat) (seq : Byte) (crc : Word) (offset : Word) (bytes : List Byte) (s0 : State) : Out :=
  .next (s0.sesTake dt 3 seq.toNat (bytesLe 4 offset.toNat ++ bytes) crc fun s => s.sesOp 3 seq.toNat 2 0 offset.toNat bytes)

/-- RECOVERY_FINISH (R544). -/
def execRecoveryFinish (dt : Nat) (seq : Byte) (crc : Word) (s0 : State) : Out :=
  .next (s0.sesTake dt 4 seq.toNat [] crc fun s => s.sesOp 4 seq.toNat 3 0 0 [])

/-- RECOVERY_ABORT (R544). -/
def execRecoveryAbort (dt : Nat) (seq : Byte) (crc : Word) (s0 : State) : Out :=
  .next (s0.sesTake dt 5 seq.toNat [] crc fun s => s.sesOp 5 seq.toNat 4 0 0 [])

/-- BAUD (R544): answered at the old rate; a rate out of range is answered FORMAT (log entry 23). -/
def execBaud (dt : Nat) (seq : Byte) (crc : Word) (rate : Word) (s0 : State) : Out :=
  .next (s0.sesTake dt 6 seq.toNat (bytesLe 4 rate.toNat) crc fun s =>
    if 115200 ≤ rate.toNat ∧ rate.toNat ≤ 3000000 then
      (s.sesAnswer 6 seq.toNat [0]).modUpd fun u => { u with sesNext := some (rate.toNat, s.el), sesBaud := true }
    else s.sesAnswer 6 seq.toNat [1])

/-- BAUD_APPLY (R544): 10 ms after the answer. -/
def execBaudApply (dt : Nat) (s0 : State) : Out :=
  let s := s0.after dt
  .next (match s.upd.sesNext with
  | some (r, t) =>
    if s.inReset || decide (s.el < t + ofNs 10000000) then s else s.modUpd fun u => { u with sesRate := r, sesNext := none }
  | none => s)

/-- BAUD_TIMEOUT (R544): no good frame for 60 s after BAUD. -/
def execBaudTimeout (dt : Nat) (s0 : State) : Out :=
  let s := s0.after dt
  .next (if s.inRecovery && s.upd.sesBaud && decide (s.el ≥ s.upd.sesGood + ofNs 60000000000) then
    s.modUpd fun u => { u with sesRate := 115200, sesBaud := false, sesNext := none }
  else s)

/-! ## The UPD page (rule R556) -/

/-- STAT.ST. -/
def UpdSt.code : UpdSt → Nat
  | .idle => 0 | .erasing => 1 | .ready => 2 | .writing => 3 | .verifying => 4 | .staged => 5 | .failed => 6

/-- Seconds left of a trial. -/
def State.healthLeft (s : State) : Nat :=
  match s.upd.trialEl with
  | some t => ceilDiv (t + ofNs 30000000000 - s.el) (ofNs 1000000000)
  | none => 0

/-- Registers of the UPD page computed from the state. -/
def viewUpd (s : State) (off : Nat) : Option Word :=
  let u := s.upd
  if off = 0x054 then some (BitVec.ofNat 32 (u.st.code + u.result * 16 + b2n u.session * 4096))
  else if off = 0x058 then
    some (BitVec.ofNat 32 (u.running + u.active * 2 + b2n u.trial.isSome * 4 + b2n u.tried * 8 + s.healthLeft * 256
      + (s.slot 0).rollback * 2 ^ 16 + (s.slot 1).rollback * 2 ^ 24))
  else if off = 0x05C then some (BitVec.ofNat 32 (s.slot 0).version)
  else if off = 0x060 then some (BitVec.ofNat 32 (s.slot 1).version)
  else if off = 0x064 then some (BitVec.ofNat 32 u.flashId)
  else if off = 0x068 then some (BitVec.ofNat 32 u.bseq)
  else none

/-- A command is refused with BUSY while CASAK-M is halted or the previous one runs, ABORT apart (rules R524, R541). -/
def violUpd (s : State) (off : Nat) (v : Word) : Viol :=
  if off = 0x040 && (s.assayHalted || (s.updBusy && fld v 2 0 != 4)) then [(0, 0x07)] else []

/-- A taken command runs. -/
def takenUpd (off : Nat) (v : Word) (s : State) : State :=
  if off = 0x040 then
    (if fld v 2 0 = 2 then s.meetEx (s.rf 0x0C3 0x048 15 0) (ceilDiv (s.rf 0x0C3 0x04C 12 0) 8) else s).updCmd (fld v 2 0) false (s.rf 0x0C3 0x044 22 0) (s.rf 0x0C3 0x050 22 0)
      (if fld v 2 0 = 2 then s.exSpan (s.rf 0x0C3 0x048 15 0) (s.rf 0x0C3 0x04C 12 0) else [])
  else s

end Sys2Proof.Machine
end

