-- ==== Sys2Proof/Machine/Startup.lean ====
section
/-! DEFINITION. Resets, start-up with the boot ROM and Anneal, handover, the quench and recovery (chapter 16), and the FAULT
page. The end of recovery, where armed commits apply, is in Machine/Boundary.lean. -/

namespace Sys2Proof.Machine

/-! ## Resets of the whole Malith (rules R135, R137, R558, R559, R584) -/

/-- A command in flight at a quench or reset receives its final disposition (rule R137). -/
def JEntry.final (e : JEntry) (quench : Bool) : JEntry :=
  if e.disp = .inFlight then
    { e with disp := if e.step = 0 then .notStarted else .torn, wait := false, atQuench := quench,
             dups := if quench then e.dups else [] }
  else if quench then e else { e with atQuench := false, dups := [] }

/-- A RESET OF THE WHOLE MALITH with its cause (rules R558, R584): every field takes its reset value but the backup domain,
fuses, flash with the log's mirror in it (flushed first by the causes of log entry 65), the journal (cleared at power-on), and what lies outside: host memory, the PERST_N pin, and
the model's own fields. -/
def State.malithReset (s : State) (cause : Nat) : State :=
  let cnt := if cause = 0 then 0 else min 0xFFFF (s.rf 0x0C4 0x06C 31 16 + 1)
  let s1 : State := if s.alive then s.emit (.alive false) else s
  let s2 := if (cause = 2 ∨ cause = 3) ∧ s.log.flashOk = true then s.mirror s.logWaiting else s
  let t : State := { State.reset with
    pending := s.pending, hostMem := s.hostMem, hostRead := s.hostRead, outbox := s1.outbox, freeCtr := s.freeCtr,
    el := s.el, por := s.por, fuses := s.fuses, flash := s2.flash, bk := s.bk,
    bad := s.bad.filter fun e => e.1 / 0x1000000 == 53 || e.1 / 0x1000000 == 54,
    host := { perst := s.host.perst },
    cmd := { jrn := if cause = 0 then [] else s.cmd.jrn.map fun e => e.final false },
    boot := { count := s.boot.count } }
  t.setReg 0x0C4 0x06C (BitVec.ofNat 32 (cause + cnt * 65536))

/-- The power-on monitor's thresholds in mV: VDD_CORE, VDD_SRAM and VDDIO_A (rule R590). -/
def porLimit (k : Nat) : Nat := if k = 0 then 550 else if k = 1 then 700 else 1500

/-- The monitor sees three rails, in mV: it asserts below a rail's threshold and releases 20 mV higher (rule R590). -/
def State.rails (s : State) (mv : List Nat) : State :=
  { s with por := BitVec.ofNat 3 (((List.range 3).map fun k =>
      let v := mv.getD k 0
      b2n (decide (v < porLimit k) || (s.por.getLsbD k && decide (v < porLimit k + 20))) * 2 ^ k).sum) }

/-- POWER_ON_RESET (R558, R590): the monitor sees the rails and resets the Malith where one is below its threshold. -/
def execPowerOnReset (core sram ioA : Nat) (s : State) : Out :=
  let s1 := s.rails [core, sram, ioA]
  .next (if s1.por = 0 then s1 else s1.malithReset 0)

/-- RESET_N (R558, R603): a pulse of at least 1 µs resets, one of up to 100 ns is ignored; between them either may happen. -/
def execResetN (lowNs : Nat) (s : State) : Out :=
  .next (if s.inReset || lowNs ≤ 100 then s
  else if 1000 ≤ lowNs then s.malithReset 1
  else if s.free 1 = 0 then s.bump else s.bump.malithReset 1)

/-- RESET_FRAME (R544): the frame is answered, and the Malith resets. -/
def execResetFrame (dt : Nat) (seq : Byte) (crc : Word) (s0 : State) : Out :=
  .next (s0.sesTake dt 7 seq.toNat [] crc fun s => (s.sesAnswer 7 seq.toNat [0]).malithReset 4)

/-- TRIAL_TIMEOUT (R540): 30 s without HEALTHY: the trial ends, is logged, and the Malith resets. -/
def execTrialTimeout (dt : Nat) (s0 : State) : Out :=
  let s := s0.after dt
  .next (match s.upd.trialEl with
  | none => s
  | some t =>
    if !s.assayServes || decide (s.el < t + ofNs 30000000000) then s
    else (((s.writeBcb s.upd.active none false).raise 0x0C3 19).logOwn 0x05 s.upd.active 1).malithReset 3)

/-- The retention rows of the last solution (rule R551): position in cm with H_STD, FIX and MODE, its second with TIME_STD,
the UTC offset with leap flags whose bits the spec does not place (a free byte), and the count of writes. -/
def State.retainSolution (s : State) : State :=
  if !s.sol.have_ then s
  else
    let cm := fun (k : Nat) => (BitVec.ofInt 32 (roundFree ((s.sol.pos.getD k 0 : Rat) / 10))).toNat
    let sec := secOf (s.tb.now - (s.el - s.sol.el)) % 2 ^ 32
    let s1 := s.setRet 0 (BitVec.ofNat 64 (0x52544552 + 1 * 2 ^ 32 + 0x0400 * 2 ^ 48))
    let s2 := s1.setRet 1 (BitVec.ofNat 64 (((s.retRow 1).toNat / 2 ^ 32 + 1) % 2 ^ 32 * 2 ^ 32))
    let s3 := s2.setRet 2 (BitVec.ofNat 64 (cm 0 + cm 1 * 2 ^ 32))
    let s4 := s3.setRet 3 (BitVec.ofNat 64 (cm 2 + min 0xFFFF s.sol.hStd * 2 ^ 32 + s.sol.fix % 256 * 2 ^ 48 + s.navMode % 256 * 2 ^ 56))
    let s5 := s4.setRet 4 (BitVec.ofNat 64 (sec + min (2 ^ 32 - 1) s.sol.timeStd * 2 ^ 32))
    s5.bump.retain 5 (BitVec.ofNat 64 ((BitVec.ofInt 16 s.ptp.utc).toNat + s.free 255 * 2 ^ 16))

/-! ## Start-up (rules R561 to R563, R539) -/

/-- The valid slots in the order of rule R539, with the codes of the candidate `first` and of the other: an invalid one is
logged and the other is tried. -/
def State.triedImages (s : State) (first c d : Nat) : Option Nat × State :=
  if c = 0 then (some first, s)
  else
    let s1 := s.logOwn 0x02 first (BitVec.ofNat 32 c)
    if d = 0 then (some (1 - first), s1) else (none, s1.logOwn 0x02 (1 - first) (BitVec.ofNat 32 d))

/-- The slots are verified, from the candidate (rule R539). -/
def State.tryImages (s : State) (first : Nat) : Option Nat × State :=
  s.triedImages first (s.imageCode first) (s.imageCode (1 - first))

/-- With no valid slot: UART recovery, or with RECOVERY_DISABLE blown a retry every 10 s. -/
def State.noImage (s : State) : State :=
  let s1 : State := { s with boot := { s.boot with slot := none, noSlot := some s.el } }
  if s.fuse 938 938 = 0 then s1.setSvc 5 else s1

/-- What the verification found starts: no image, or the slot found, the 30 s of a trial image counting from reset release
(rule R540). -/
def bootImage (trial : Option Nat) (r : Option Nat × State) : State :=
  match r with
  | (none, s) => s.noImage
  | (some i, s) =>
    let s1 : State := { (s.modUpd fun u => { u with running := i }) with boot := { s.boot with slot := some i } }
    if trial = some i then
      (s1.modUpd fun u => { u with trialEl := some s.boot.relEl }).logOwn 0x03 i (BitVec.ofNat 32 (s1.slot i).version)
    else s1

/-- THE CANDIDATE SLOT (rules R537, R539, R540): the boot control block decides, and a trial is marked TRIED or ended. -/
def State.chooseSlot (s : State) : State :=
  let u := s.upd
  let s1 : State := match u.trial with
    | some t =>
      if u.tried then ((s.writeBcb u.active none false).raise 0x0C3 19).logOwn 0x05 u.active 2
      else s.writeBcb u.active (some t) true
    | none => s
  let trial := if u.tried then none else u.trial
  bootImage trial (s1.tryImages (trial.getD u.active))

/-- RESET_RELEASE (R559, R561 to R563, R590): the power-on monitor must have released at the three rails; the straps are sampled and the boot ROM starts: it identifies the flash (none where
no supported device answers), reads the boot control blocks, refills the event log, logs a lost backup supply, enters UART recovery where its strap
asks for it, and else chooses and verifies the candidate slot. The VDDIO_B bank senses its supply, in mV, and sets its input
thresholds (rule R587); between the two ranges they are free. -/
def execResetRelease (straps : BitVec 4) (rails : List Nat) (vddiob : Nat) (flash : Option Word) (s0 : State) : Out :=
  let s := s0.rails rails
  .next (if !s0.inReset then s0
  else if s.por ≠ 0 then s
  else
    let io := if vddiob ≤ 1890 then false else if 3135 ≤ vddiob then true else s.free 1 == 1
    let s0 := ({ s.bump with inReset := false, io33 := io, boot := { s.boot with count := s.boot.count + 1, rom := true, relEl := s.el } } : State).setReg
      0x000 0x050 (BitVec.ofNat 32 straps.toNat)
    let s1 := (List.range 3).foldl State.uartLevels s0
    let s2 := if straps.getLsbD 0 then ringCtls.foldl (fun s e => s.setRf e.1 e.2 1 1 1) s1 else s1
    let v := max 750 s.floorMv
    let s3 := ((s2.modAssay fun a => { a with setMv := v, ackMv := v }).drawNonce).modCore 8 fun c => { c with st := .run }
    let s4 : State := match flash with
      | none => s3
      | some id =>
        let s5 := (s3.modUpd fun u => { u with flashId := id.toNat }).readBcb
        ((s5.setSlot 0 (s5.slotInfo 0)).setSlot 1 (s5.slotInfo 1)).refillLog
    let s5 := if s4.bk.lostLog then ((s4.modBk fun b => { b with lostLog := false }).logOwn 0x22 0 0).raise 0x0C5 16 else s4
    if straps.getLsbD 3 && s.fuse 938 938 == 0 then s5.setSvc 5
    else if flash.isNone then s5.noImage else s5.chooseSlot)

/-! ## Anneal (rules R565 to R570) -/

/-- A byte of retention memory. -/
def State.retByte (s : State) (a : Nat) : Byte := BitVec.ofNat 8 ((s.retRow (a / 8)).toNat / 2 ^ (8 * (a % 8)))

/-- Bytes of retention memory. -/
def State.retBytes (s : State) (a n : Nat) : List Byte := (List.range n).map fun i => s.retByte (a + i)

/-- Retention memory holds a valid Anneal block. -/
def State.annealBlock (s : State) : Bool :=
  bytesNum (s.retBytes 0x300 4) 0 4 == 0x4C414E4E && crc32 (s.retBytes 0x300 0xFC) == bytesNum (s.retBytes 0x3FC 4) 0 4

/-- A page still holds its reset values, and is not locked: a locked page is never armed (rule R73). -/
def State.pageFresh (s : State) (p : Nat) : Bool :=
  !s.locked p && !((s.regs ++ s.shadow).any fun e => e.1 / 0x1000 == p && (shadowSlots p).any fun x => x.1 == e.1)

/-- The block programs LANE0 and FEC0 (rule R566): its table goes to exchange memory from word 0xF800, and both pages are
armed as one group, with EN of FEC0 set (rule R212). -/
def State.annealProgram (s : State) : State :=
  if !(s.annealBlock && s.pageFresh 0x010 && s.pageFresh 0x020) then s
  else
    let b := fun (a : Nat) => (s.retByte a).toNat
    let slot0 := b 0x306
    let len := bytesNum (s.retBytes 0x310 8) 6 2
    let s1 := s.putExBytes 0xF800 0 (s.retBytes 0x310 (min len 236))
    let s2 := (((s1.setShad 0x010 0x040 (BitVec.ofNat 32 (b 0x305))).setShad 0x010 0x048 1).setShad 0x010 0x04C
      (setFld (s.shad 0x010 0x04C) 7 0 slot0)).setShad 0x010 0x044 (BitVec.ofNat 32 (bytesNum (s.retBytes 0x308 4) 0 4))
    let s3 := s2.setShad 0x010 (0x068 + 4 * (slot0 / 32)) (BitVec.ofNat 32 (bytesNum (s.retBytes 0x30C 4) 0 4))
    let s4 := ((s3.setShad 0x020 0x044 0xF800).setShad 0x020 0x048 (setFld (s.shad 0x020 0x048) 5 0 (b 0x307))).setShad 0x020 0x00C
      (setFld (s.shad 0x020 0x00C) 0 0 1)
    let s5 := (s4.setRf 0x010 0x02C 0 0 1).setRf 0x020 0x02C 0 0 1
    { s5 with goCnt := s5.goCnt + 1, grp := s5.grp ++ [(0x010, s5.goCnt + 1), (0x020, s5.goCnt + 1)] }

/-- The Anneal service starts (rules R563, R565, R570): its base booking, CASAK0, the record of its NMEA output but in UART
recovery or without a valid slot, and the block of rule R566. -/
def State.annealStart (s : State) : State :=
  let rec_ := s.svc == 5 || s.boot.noSlot.isSome
  let s1 := ((if s.svc == 5 then s else s.setSvc 2).book 3 400000 (.sys 0) 0).startCore 0
  let s2 : State := if rec_ then s1 else { s1.book 5 1 (.sys 2) 0 with boot := { s1.boot with nmea := true } }
  s2.annealProgram

/-- A target of CASAK0 or CASAK-M, which handover loads; the others load before it (rules R535, R563). -/
def lateTarget (t : Nat) : Bool := t == 0x00 || t == 0x10 || t == 0x20 || decide (0x40 ≤ t)

/-- Boot step 6 (R563): with a slot chosen, the segments of CASAK1 to CASAK5 and measurement RAM load, and those cores start at
vector 0. In UART recovery, or before the time base has locked, nothing is loaded. -/
def State.loadRest (s : State) : State :=
  match s.boot.slot with
  | none => s
  | some i =>
    if s.svc == 5 || !s.tb.everLocked then s
    else ([1, 2, 3, 4, 5] : List Nat).foldl State.startCore (s.loadImage i fun t => !lateTarget t)

/-- The end of a retry: the slot found, with boot step 6, or the time of the next retry. -/
def retryImage (now : Nat) (r : Option Nat × State) : State :=
  match r with
  | (none, s) => { s with boot := { s.boot with noSlot := some now } }
  | (some i, s) => (({ s with boot := { s.boot with noSlot := none, slot := some i } } : State).modUpd fun u => { u with running := i }).loadRest

/-- SLOT_RETRY (R539): both slots are tried again. -/
def execSlotRetry (dt : Nat) (s0 : State) : Out :=
  let s := s0.after dt
  .next (match s.boot.noSlot with
  | none => s
  | some t =>
    if !s.assayServes || s.svc == 5 || decide (s.el < t + ofNs 10000000000) then s
    else retryImage s.el (s.tryImages s.upd.active))

/-- PLL_LOCK (R362, R563): the first lock seeds the time base from a valid real-time clock and starts heat 0, which ends at
the first whole millisecond at least 0.5 ms later; the boot ROM writes its BOOT record, starts Anneal, and loads what does not wait for handover. -/
def execPllLock (dt : Nat) (s : State) : Out :=
  let s0 := s.after dt
  .next <|
    if s0.inReset || s0.tb.pllLock then s0
    else if s0.tb.everLocked then { s0 with tb := { s0.tb with pllLock := true, lockEl := s0.el } }
    else
      let seed : Nat := if s0.bk.rtcValid then ofNs (roundFree (((s0.rtcTicks * 1000000000 : Nat) : Rat) / 32768)).toNat else 0
      let s1 : State := { s0 with tb := { s0.tb with
          pllLock := true, everLocked := true, lockEl := s0.el, now := seed, seeded := s0.bk.rtcValid,
          hStart := seed, hEnd := firstMs (seed + msUnits / 2) } }
      if s1.boot.rom then
        let ver := match s1.boot.slot with | some i => (s1.slot i).version | none => 0
        ((({ s1 with boot := { s1.boot with rom := false } } : State)).logOwn 0x01 (s1.boot.count % 65536) (BitVec.ofNat 32 ver)).annealStart.loadRest
      else s1

/-- Anneal runs. -/
def State.annealing (s : State) : Bool := s.running && s.tb.everLocked && (s.svc == 2 || s.svc == 5)

/-- Retention memory holds a valid position, time and almanac (rules R551, R567). -/
def State.retUsable (s : State) : Bool :=
  s.bk.retValid && s.bk.rtcValid && s.retByte 0x01E != 0 && (s.retBytes 0x030 704).any (· != 0)

/-- Parameters of an Anneal channel (rules R565, R567): 5 taps at half-chip spacing, aided over the whole code and ±5 kHz. -/
def State.annealPrm (s : State) (code prn stream : Nat) : ChanPrm :=
  { s.defPrm code prn stream 5 31 0 0 with
    aided := true, codeUnc := ((sigOf code).map (·.len)).getD 0, doppUnc := 50000 }

/-- ANNEAL_CHANNELS (R567): the satellites predicted in view where retention memory allows it (`view`, signals 0x01 and 0x20),
else GPS PRN 1 to 24 and Galileo PRN 1 to 24; only signals that fit the stream of LANE0's slot 0 are used. -/
def execAnnealChannels (view : List (Nat × Nat)) (s : State) : Out :=
  .next (if !s.annealing || s.boot.made || (s.lane 0).st != .qualified || (s.fec 0).st != .ready
      || !(s.reg 0x010 0x048).getLsbD 0 then s
  else
    let all := if s.retUsable then ((view.filter fun x => (x.1 == 0x01 || x.1 == 0x20) && prnOk x.1 x.2).dedup).take 48
      else ((List.range 24).map fun i => (0x01, i + 1)) ++ (List.range 24).map fun i => (0x20, i + 1)
    let st := s.rf 0x010 0x04C 4 0
    let l := all.filter fun x => s.fits x.1 x.2 st
    let s1 := l.foldl (fun s x => match s.makeChan (s.annealPrm x.1 x.2 st) 15 false 0 with
      | (_, some i, t) => t.modChan i fun c => { c with tryEl := s.el }
      | (_, none, t) => t) s
    { s1 with boot := { s1.boot with made := true, tried := l } })

/-- ANNEAL_RETRY (R567): a channel that has not locked within 10 s restarts on the next untried PRN of its signal; once all
were tried they are taken from the first again. -/
def execAnnealRetry (idx : Fin 8192) (dt : Nat) (s0 : State) : Out :=
  let s := s0.after dt
  let i := idx.val
  let c := s.chan i
  .next (if !s.annealing || !s.hasChan i || (s.ent i).cls != 15 || c.lockedOnce || decide (s.el < c.tryEl + ofNs 10000000000) then s
  else
    let code := c.prm.signal
    let fresh := fun (l : List (Nat × Nat)) => (List.range 256).find? fun p => prnOk code p && !l.contains (code, p)
    let tried := if (fresh s.boot.tried).isSome then s.boot.tried else s.boot.tried.filter fun x => x.1 != code
    let prn := (fresh tried).getD c.prm.prn
    let s1 : State := { s with boot := { s.boot with tried := tried ++ [(code, prn)] } }
    (s1.modChan i fun c => { c with prm := s.annealPrm code prn c.prm.stream, tryEl := s.el, st := .created }).pullIn i true)

/-- An ANNEAL entry becomes a CHAN entry (rules R118, R568, R569). -/
def State.handChan (s : State) (i : Nat) : State :=
  let e := s.ent i
  ((s.setEnt i { e with cls := 1, gen := if e.gen ≥ 32767 then 1 else e.gen + 1, sys := false, host := false }).chown
    (.sys (1000 + i)) (.entry i)).modChan i fun c => { c with prm := { c.prm with aided := false } }

/-- HANDOVER (R563, R568): at a heat boundary after CASAK1 to CASAK5 report ready. CASAK0's segments, and CASAK-M's
(log entry 62), load and CASAK0 starts. -/
def execHandover (s : State) : Out :=
  .next (match s.boot.slot with
  | none => s
  | some slot =>
    if !(s.running && s.svc == 2 && s.atBoundary) then s
    else
      let ids := (s.cmd.ents.filter fun e => e.2.cls == 15 && e.2.st == .live).map (·.1)
      let s1 := ids.foldl State.handChan s
      let s2 := ((s1.releaseAll (.sys 0)).book 3 1200000 (.sys 1) 0).loadImage slot lateTarget
      ((s2.startCore 0).setSvc 3).setRf 0x000 0x054 3 3 slot)

/-- The system NMEA output of a boundary (rules R565, R568, R570): the sentences of the second leave UART0 until a first
SUBSCRIBE naming UART0 applies, which frees its record. -/
def State.systemNmea (s : State) (text : List Byte) : State :=
  if !s.boot.nmea || s.svc == 5 || s.boot.noSlot.isSome then s
  else if s.subs.any fun e => subDest e.2.words == 2 && e.2.attached then
    ({ s with boot := { s.boot with nmea := false } } : State).releaseAll (.sys 2)
  else if text.isEmpty || s.svc == 4 || !s.uartRoom 0 text.length then s else s.uartPush 0 text

/-! ## The quench (rules R573, R574) -/

/-- Opcodes that create an object. -/
def opCreates (op : Nat) : Bool :=
  op == 0x0201 || op == 0x0301 || op == 0x0401 || op == 0x0501 || op == 0x0601 || op == 0x0701 || op == 0x0801

/-- Final dispositions (rules R137, R574, R584): DISP counts them, and an entry that a PARTIAL command allocated is DYING. -/
def State.finalise (s : State) : State :=
  let fl := s.flights
  let part := fl.filter fun e => e.step != 0
  let s1 : State := { s with
    cmd := { s.cmd with jrn := s.cmd.jrn.map fun e => e.final true, owed := s.cmd.owed ++ fl.map fun e => e.final true },
    fault := { s.fault with final := fl.length, partials := part.length } }
  part.foldl (fun s e => if opCreates e.op && e.handle != 0 then s.dying (hIdx e.handle) else s) s1

/-- THE BOUNDARY ENDING THE TORN HEAT (rule R573): dispositions; the Crucible, injection and the user cores stop; DISC holds
over; a step not yet applied is not applied (rule R33); retention memory is written but where CASAK0 has
halted. -/
def State.quenchStop (s : State) : State :=
  let s1 := ((s.finalise.stopCore 6).stopCore 7).quenchJobs.quenchInj
  let s2 := s1.toHoldover
  let s3 : State := { s2 with
    tb := { s2.tb with corr := match s2.tb.corr with | some c => if c.applied then some c else none | none => none },
    fault := { s2.fault with qBoundary := false } }
  if s3.fault.haltedCores.contains 0 || s3.svc != 4 then s3 else s3.retainSolution

/-- The heats of a quench: CASAK0 to CASAK5 stop at the boundary ending H + 2, and AUTO_HELD sets once the limit of automatic
recoveries is reached (rule R577). -/
def State.quenchBoundary (s : State) : State :=
  if s.fault.phase = QPhase.run then s
  else
    let s1 := if s.heat ≥ s.fault.tornHeat + 3 then
        (List.range 6).foldl (fun s k => if (s.core k).st = .halted then s else s.modCore k fun c => { c with st := .stopped }) s
      else s
    let recent := s1.fault.autoAt.filter fun t => decide (s1.el < t + ofNs 3600000000000)
    if s1.fault.phase = QPhase.quenched ∧ s1.fault.raised.isEmpty = true ∧ s1.rf 0x0C4 0x054 0 0 = 1
        ∧ recent.length ≥ s1.rf 0x0C4 0x054 7 4 then
      { s1 with fault := { s1.fault with autoHeld := true } }
    else s1

/-! ## Recovery (rules R577 to R580) -/

/-- Recovery may start (rules R577, R582). -/
def State.mayRecover (s : State) : Bool :=
  !s.inReset && decide (s.fault.phase = QPhase.quenched) && !s.fault.qBoundary && s.fault.raised.isEmpty && s.assayServes
    && (s.fault.recReq || (s.rf 0x0C4 0x054 0 0 == 1 && !s.fault.autoHeld))

/-- Step 1: the cores that halted are loaded again, from the running slot, or in Anneal from the boot ROM; the answer tells
whether the image verifies. -/
def State.reloadCores (s : State) : Bool × State :=
  if !s.fault.reloadNeed then (true, s)
  else if s.fault.svcBefore ≠ 3 then (true, s)
  else if s.imageCode s.upd.running ≠ 0 then (false, s)
  else (true, s.loadImage s.upd.running fun t => t < 0x30 && s.fault.haltedCores.contains (t % 16))

/-- A booking is an orphan (rule R112). -/
def State.orphan (s : State) (b : Booking) : Bool :=
  match b.own with
  | .entry i => (s.ent i).st == .free
  | .sys _ => false
  | .cmd q => !(s.flights.any fun e => e.seq == q)

/-- Step 2: the orphan sweep and its list (rule R580). -/
def State.sweep (s : State) : State :=
  let l := s.cmd.books.filter s.orphan
  ({ s with cmd := { s.cmd with books := s.cmd.books.filter fun b => !s.orphan b },
            fault := { s.fault with sweep := (l.take 256).map fun b => (b.pool, b.amt, b.seq), swept := l.length } } : State).setReg
    0x002 0x064 (BitVec.ofNat 32 (min 0xFFFF l.length))

/-- The object of an entry leaves the measurement plane. -/
def State.dropObject (s : State) (i : Nat) : State :=
  let c := (s.ent i).cls
  if c = 1 ∨ c = 15 then s.dropChan i else if c = 3 then s.dropInj i else if c = 4 then s.dropSched i
  else if c = 5 then s.dropTin i else if c = 6 then s.dropSub i else if c = 7 then s.dropGroup i else s

/-- Step 3: every DYING entry is removed and freed. -/
def State.freeDying (s : State) : State :=
  let s1 := s.freeEnded
  let l := (s1.cmd.ents.filter fun e => e.2.st == .dying && !(s1.cmd.defer.any fun d => d.2 == e.1)).map (·.1)
  l.foldl (fun s i => (s.dropObject i).freeLater i) s1

/-- Step 4: one completion for each entry finalised at the quench, oldest first, then what was held. -/
def State.quenchCompletions (s : State) : State :=
  let l := s.cmd.owed
  let st := fun (e : JEntry) => if e.disp = .torn then stTORN else stQUENCHED
  let ws := fun (e : JEntry) => s.complWords e (st e) e.step 0 (if e.handle = 0 then e.named else e.handle) 0 0
  let out := l.flatMap fun e => (ws e, e.quiet) :: e.dups.map fun q => (dupWords (ws e) s.heat, q)
  ({ s with cmd := { s.cmd with
      held := out ++ s.cmd.held, owed := [],
      jrn := s.cmd.jrn.map fun e =>
        if e.atQuench then { e with atQuench := false, status := st e, compl := ws e, dups := [] } else e } } : State).flush

/-- RECOVERY_START (R577, R578): at boundary S; E lies 20 heats later, or with a reload at most 200, a free number. A reload
that fails its verification resets the Malith. -/
def execRecoveryStart (s : State) : Out :=
  .next (if !(s.mayRecover && s.atBoundary) then s
  else
    let byHost := s.fault.recReq
    let r := s.reloadCores
    if r.1 = false then s.malithReset 5
    else
      let need := s.fault.reloadNeed
      let s1 : State := { r.2 with fault := { r.2.fault with
        phase := .recovering, reload := need, reloadNeed := false, recReq := false, byHost := byHost,
        autoHeld := if byHost then false else s.fault.autoHeld,
        autoAt := if byHost then s.fault.autoAt else s.fault.autoAt ++ [s.el],
        endHeat := s.heat + 20 + (if need then s.free 180 else 0) } }
      (s1.bump.sweep.freeDying.quenchCompletions).flushResults)

/-! ## The FAULT page (rules R583, R584) -/

/-- Registers of the FAULT page computed from the state. -/
def viewFault (s : State) (off : Nat) : Option Word :=
  let e := s.fault.sweep[s.rf 0x0C4 0x060 7 0]?
  if off = 0x050 then some s.faultState
  else if off = 0x05C then some (BitVec.ofNat 32 (s.fault.final + s.fault.partials * 65536))
  else if off = 0x064 then some ((e.map fun x => BitVec.ofNat 32 (x.2.1 % 2 ^ 28 + x.1 * 2 ^ 28)).getD 0)
  else if off = 0x068 then some ((e.map fun x => x.2.2).getD 0)
  else none

/-- Refusals of CTL: QUENCH or RESET without KEY, and RECOVER while a class is not clear. -/
def violFault (s : State) (off : Nat) (v : Word) : Viol :=
  if off = 0x058 then
    (if (v.getLsbD 1 || v.getLsbD 2) && fld v 15 8 != 0xA5 then [(8, 0x05)] else []) ++
    (if v.getLsbD 0 && !s.fault.raised.isEmpty then [(0, 0x07)] else [])
  else []

/-- A taken write of CTL: RECOVER requests recovery during a quench; QUENCH raises the HOST class; RESET saves state and
resets the Malith. -/
def takenFault (off : Nat) (v : Word) (s : State) : State :=
  if off = 0x058 then
    let s1 : State := if v.getLsbD 0 ∧ s.fault.phase = QPhase.quenched then { s with fault := { s.fault with recReq := true } } else s
    let s2 := if v.getLsbD 1 then s1.raiseClass clsHOST 0 else s1
    if v.getLsbD 2 then s2.retainSolution.malithReset 2 else s2
  else s

end Sys2Proof.Machine
end

