-- ==== Sys2Proof/Machine/Intake.lean ====
section
/-! DEFINITION. Command intake (rules R107, R124 to R136, R611): the records of the command ring, the order in which they are
answered, the steps of each opcode at intake and at heat boundaries, and the rows of the command table. -/

namespace Sys2Proof.Machine

/-! ## Opcodes (rule R132) -/

/-- The command-set version that introduces an opcode; `none` for one absent from the table. -/
def opSince (op : Nat) : Option Nat :=
  if op == 0x0401 || op == 0x0402 || op == 0x0801 || op == 0x0802 then some 2
  else if op == 0x0903 then some 3
  else if op == 0x0101 || op == 0x0102 || op == 0x0103 || op == 0x0201 || op == 0x0202 || op == 0x0203 || op == 0x0301
    || op == 0x0302 || op == 0x0501 || op == 0x0502 || op == 0x0601 || op == 0x0602 || op == 0x0701 || op == 0x0702
    || op == 0x0901 || op == 0x0902 then some 1
  else none

/-- Commands that execute whatever the service (rules R138, R564). -/
def opAlways (op : Nat) : Bool := op == 0x0101 || op == 0x0102 || op == 0x0103

/-- CMDSET.SEL (rule R92). -/
def State.cmdSel (s : State) : Nat := s.rf 0x000 0x058 23 16

/-! ## Queries and VERSION_SELECT (rules R94, R123, R128) -/

/-- A handle created by the host is live (rule R94). -/
def State.hostLive (s : State) : Bool := s.cmd.ents.any fun e => e.2.st != .free && e.2.host

/-- VERSION_SELECT with version 1 in word 0 (rule R94). -/
def versionSelect (s : State) (e : JEntry) : State :=
  match badWord e [(3, 0xFF)] [] with
  | some n => s.refuse e stBAD_ARG 1 n
  | none =>
    let v := fld (e.w 3) 7 0
    if v < 1 ∨ 3 < v then s.refuse e stVERSION 1 3
    else if v = s.cmdSel then s.finish e stOK 1 0 0 0 0
    else if s.hostLive then s.refuse e stBUSY 1 0
    else (s.setRf 0x000 0x058 23 16 v).finish e stOK 1 0 0 0 0

/-- LEDGER_QUERY (rule R128). -/
def ledgerQuery (s : State) (e : JEntry) : State :=
  let p := fld (e.w 3) 3 0
  match badWord e [(3, 0xF)] [(3, decide (1 ≤ p ∧ p ≤ 6))] with
  | some n => s.refuse e stBAD_ARG 1 n
  | none =>
    s.finish e stOK 1 (s.poolFree p) 0 (BitVec.ofNat 32 (s.booked p % 2 ^ 28 + p * 2 ^ 28)) (BitVec.ofNat 32 (poolCap p + p * 2 ^ 28))

/-- HANDLE_QUERY (rules R122, R123): a handle of any class; with GEN 0 whatever stands at INDEX. A listed CLASS that is not the
entry's is no ground for a refusal. -/
def handleQuery (s : State) (e : JEntry) : State :=
  let h := e.named
  let i := hIdx h
  let x := s.ent i
  let c := hCls h
  let own : Owner := if x.cls = 15 then .sys (1000 + i) else .entry i
  let b := s.bookWords own
  let st : Nat := match x.st with | .free => 0 | .live => 1 | .dying => 2
  let detail := x.gen + st * 2 ^ 16 + b2n x.torn * 2 ^ 18 + b2n x.sys * 2 ^ 19 + x.cls * 2 ^ 20
  if hGen h ≠ 0 ∧ ¬ ((1 ≤ c ∧ c ≤ 7) ∨ c = 15) then s.finish e stBAD_ARG 0 2 h 0 0
  else
    let stale := decide (hGen h ≠ 0) && (x.st != .live || x.gen != hGen h)
    if stale then s.finish e stSTALE 0 detail h b.1 b.2
    else match badWord e [] [] with
      | some n => s.refuse e stBAD_ARG 1 n
      | none => s.finish e stOK 1 detail (if hGen h = 0 then s.handleOf i else h) b.1 b.2

/-! ## Steps at intake -/

/-- Step 1 of a command that ends an object (rule R131). -/
def stepEnd (s : State) (e : JEntry) : State :=
  match badWord e [] [] with
  | some n => s.refuse e stBAD_ARG 1 n
  | none =>
    let i := e.idx
    if e.op = 0x0802 then stepCombDestroy s e
    else
      let s1 := if e.op = 0x0302 then s.modJob i fun j => { j with cancelled := true }
        else if e.op = 0x0402 then s.injStop i else s
      (s1.dying i).jstep e.seq 1 (s.heat + 1)

/-- Rule 7 of R611: step 1 of the command, and the steps after it that wait for nothing. -/
def firstStep (s : State) (e : JEntry) : State :=
  let op := e.op
  if op = 0x0102 then ledgerQuery s e
  else if op = 0x0201 then stepChCreate s e
  else if op = 0x0202 then stepChModify s e
  else if op = 0x0301 then stepSrchSubmit s e
  else if op = 0x0401 then stepInjStart s e
  else if op = 0x0501 then stepToutSchedule s e
  else if op = 0x0601 then stepTinArm s e
  else if op = 0x0701 then stepSubscribe s e
  else if op = 0x0801 then stepCombCreate s e
  else if op = 0x0901 then stepTimeStep s e
  else if op = 0x0902 then stepTimeSlew s e
  else if op = 0x0903 then stepReepoch s e
  else stepEnd s e

/-- A record answered before its step 1 (rule R611). -/
def State.answer (s : State) (e : JEntry) (status detail : Nat) : State := s.finish e status 0 detail e.named 0 0

/-- RULES 2 TO 7 OF R611 for a journalled record. -/
def startCmd (s : State) (e0 : JEntry) : State :=
  let s := s.jmod e0.seq fun x => { x with wait := false }
  let e := { e0 with wait := false }
  let op := e.op
  let w0 := e.w 0
  let ver := fld w0 23 16
  if s.svc = 4 ∧ opAlways op = false then s.notStarted e stQUENCHED 0
  else if s.svc ≠ 3 ∧ s.svc ≠ 4 ∧ opAlways op = false then s.notStarted e stBUSY 1
  else if op = 0x0101 then
    (if ver ≠ 1 then s.answer e stVERSION s.cmdSel
     else if fld w0 31 27 ≠ 0 ∨ w0.getLsbD 24 = true then s.answer e stBAD_ARG 0
     else versionSelect s e)
  else if ver ≠ s.cmdSel then s.answer e stVERSION s.cmdSel
  else match opSince op with
    | none => s.answer e stBAD_ARG 0
    | some v =>
      if v > s.cmdSel then s.answer e stVERSION v
      else if fld w0 31 27 ≠ 0 ∨ (w0.getLsbD 24 = true ∧ op ≠ 0x0301) then s.answer e stBAD_ARG 0
      else if op = 0x0103 then handleQuery s e
      else match (if (opClass op).isSome then s.checkHandle op e.named else none) with
        | some (st, d) => s.answer e st d
        | none => firstStep s e

/-! ## Taking records (rules R107, R126, R129, R135, R136) -/

/-- A command waits for an earlier one in flight on the handle it names (rule R129). -/
def State.blocked (s : State) (e : JEntry) : Bool :=
  e.named != 0 && (s.flights.takeWhile fun x => x.seq != e.seq).any fun x => x.named == e.named || x.handle == e.named

/-- A journalled record starts, or waits. -/
def State.enter (s : State) (e : JEntry) : State :=
  if s.blocked e then s.jmod e.seq fun x => { x with wait := true } else startCmd s e

/-- RULE 1 OF R611, the answers of R136 to a record whose SEQ is in the journal, else its entry. -/
def State.takeRecord (s : State) (ws : List Word) : State :=
  let e : JEntry := { words := ws }
  match s.jfind e.seq with
  | none => (s.jadd e).enter e
  | some o =>
    if o.op ≠ e.op ∨ o.named ≠ e.named then s.postCompl (s.complWords e stBAD_ARG 0 0xFFFFFFFF e.named 0 0) e.quiet
    else match o.disp with
      | .inFlight => s.jmod e.seq fun x => { x with dups := x.dups ++ [e.quiet] }
      | .done => s.postCompl (dupWords o.compl s.heat) e.quiet
      | .torn => s.postCompl (s.complWords e stTORN o.step 0 (if o.handle = 0 then o.named else o.handle) 0 0) e.quiet
      | .notStarted =>
        (({ s with cmd := { s.cmd with jrn := s.cmd.jrn.filter fun x => x.seq != e.seq } } : State).jadd e).enter e

/-- The command ring holds no record. -/
def State.sqEmpty (s : State) : Bool :=
  let n := 2 ^ s.rf 0x003 0x04C 3 0
  s.rf 0x003 0x054 11 0 % n == s.rf 0x003 0x050 11 0 % n

/-- The record at the head of the command ring. -/
def State.sqRecord (s : State) : List Word :=
  let h := s.rf 0x003 0x054 11 0
  let base := s.ringBase 0x003 0x044 0x048 + h * (if s.cmdLoc then 8 else 64)
  (List.range 16).map fun w => s.recWord s.cmdLoc base w

/-- Intake waits for completion-ring space (rule R126). DESIGN CHOICE: it waits only while the command ring holds a record; the
spec does not say whether an intake with nothing to take waits (log entry 93). -/
def State.cqWait (s : State) : Bool := s.cmdRun && !s.sqEmpty && (s.cqFull || !s.cmd.held.isEmpty)

/-- Intake may take the next record: a running ring, a completion ring with space, at most 64 commands in a heat, fewer than
256 in flight, and for a FENCE none. -/
def State.mayTake (s : State) : Bool :=
  s.cmdRun && !s.sqEmpty && !s.cqWait && decide (s.cmd.taken < 64) && decide (s.flights.length < 256)
    && !((s.sqRecord.getD 0 0).getLsbD 26 && !s.flights.isEmpty)

/-- Take one record. -/
def State.takeOne (s : State) : State :=
  let n := 2 ^ s.rf 0x003 0x04C 3 0
  let ws := s.sqRecord
  let s0 := if s.cmdLoc then s.meetEx (s.ringBase 0x003 0x044 0x048 + s.rf 0x003 0x054 11 0 * 8) 8 else s
  let s1 := s0.setReg 0x003 0x054 (BitVec.ofNat 32 ((s.rf 0x003 0x054 11 0 + 1) % n))
  ({ s1 with cmd := { s1.cmd with taken := s.cmd.taken + 1 } } : State).takeRecord ws

/-- Intake at work: commands that waited and may start do so in ring order; then records are taken. -/
def State.intakeN (fuel : Nat) (s : State) : State :=
  match fuel with
  | 0 => s
  | fuel + 1 =>
    match s.flights.find? fun e => e.wait && !s.blocked e with
    | some e => (startCmd s e).intakeN fuel
    | none => if s.mayTake then s.takeOne.intakeN fuel else s

/-- INTAKE (rules R107, R126): until nothing more can start; CQ_STALL is raised when it first waits for the completion
ring. -/
def State.intake (s : State) : State :=
  if s.inReset then s
  else
    let s1 := s.intakeN 512
    let w := s1.cqWait
    let s2 : State := { s1 with cmd := { s1.cmd with stalled := w } }
    if w && !s.cmd.stalled then s2.raise 0x003 18 else s2

/-! ## Steps at a heat boundary (rules R130, R131) -/

/-- A command in flight whose next step waits on this boundary. -/
def State.flightBoundary (s : State) (e : JEntry) : State :=
  let op := e.op
  if e.step = 0 ∨ e.wait = true ∨ s.heat < e.due then s
  else if op = 0x0201 then runChan s e
  else if op = 0x0202 then applyModify s e
  else if op = 0x0501 then loadSched s e
  else if op = 0x0601 then armTin s e
  else if op = 0x0701 then attachSub s e
  else if op = 0x0801 then (if e.step = 2 then formGroup s e else firstWeights s e)
  else if op = 0x0902 then applySlew s e
  else if op = 0x0302 then endCancel s e
  else if op = 0x0402 then
    (if s.injTailing then s else ((s.dropObject e.idx).freeLater e.idx).finish e stOK 3 0 e.named 0 0)
  else if op = 0x0203 ∨ op = 0x0502 ∨ op = 0x0602 ∨ op = 0x0702 ∨ op = 0x0802 then
    ((s.dropObject e.idx).freeLater e.idx).finish e stOK 3 0 e.named 0 0
  else s

/-- Every command in flight at a boundary, oldest first. -/
def State.flightsBoundary (s : State) : State := s.flights.foldl State.flightBoundary s

/-! ## The CMD page (rules R146, R147) -/

/-- Rings of the CMD page. -/
def cmdBases : List (Nat × Nat × Nat × Nat) := [(0x044, 0x048, 64, 8), (0x058, 0x05C, 32, 4)]

/-- Refusals on the CMD page: the rules of R612, and indices at or above the ring's size. -/
def violCmd (s : State) (off : Nat) (v : Word) : Viol :=
  ringViol s 0x003 0x040 0 1 cmdBases [(0x044, 0), (0x048, 0), (0x04C, 0), (0x058, 0), (0x05C, 0), (0x060, 0)] off v ++
  (if off = 0x050 && decide (fld v 11 0 ≥ 2 ^ s.rf 0x003 0x04C 3 0) then [(0, 0x05)] else []) ++
  (if off = 0x064 && decide (fld v 11 0 ≥ 2 ^ s.rf 0x003 0x060 3 0) then [(0, 0x05)] else [])

/-- What a taken write to the CMD page does: completions enter freed space, and intake goes on. -/
def takenCmd (off : Nat) (s : State) : State :=
  if off = 0x050 then s.intake else if off = 0x064 ∨ off = 0x040 then s.flush.intake else s

/-- A refused SQ_TAIL or CQ_HEAD write sets SQ_ERR (rule R146). -/
def refusedCmd (off : Nat) (s : State) : State := if off = 0x050 ∨ off = 0x064 then s.raise 0x003 17 else s

/-- PG_STAT block bits of the CMD page (rule R146). -/
def statCmd (s : State) : Word :=
  BitVec.ofNat 32 (s.rf 0x003 0x040 0 0 * 256 + b2n s.cmd.stalled * 512 + b2n s.cmd.phase * 1024)

end Sys2Proof.Machine
end

