-- ==== Sys2Proof/Machine/Window.lean ====
section
/-! DEFINITION. The whole register window: what every page adds to the common behaviour (`hooks`), the DEV page, the
interrupt pins, and one host write or read of one register (rules R60 to R92, R523). -/

namespace Sys2Proof.Machine

/-! ## The DEV page and the interrupt tree (rules R88 to R92) -/

/-- IRQ_SUMk: the pending bits of pages 32k to 32k + 31. -/
def State.irqSum (s : State) (k : Nat) : Word :=
  BitVec.ofNat 32 ((List.range 32).foldl (fun m j => if s.pagePending (32 * k + j) then m + 2 ^ j else m) 0)

/-- INT0_N (k = 0) or INT1_N (k = 1) is driven low: a pending page is routed to it and its enable is set; else it floats,
and always in reset (rule R89). -/
def State.intLow (s : State) (k : Nat) : Bool :=
  !s.inReset && (s.reg 0x000 0x064).getLsbD k && s.pendingPages.any fun p => (s.route p).getLsbD (8 + k)

/-- Registers of the DEV page computed from the state. -/
def viewDev (s : State) (off : Nat) : Option Word :=
  if off = 0x048 then some (BitVec.ofNat 32 (s.fuse 895 832))
  else if off = 0x04C then some (BitVec.ofNat 32 (s.fuse 895 832 / 2 ^ 32))
  else if 0x080 ≤ off ∧ off ≤ 0x09C then some (s.irqSum ((off - 0x080) / 4))
  else none

/-- What a taken write to the DEV page does: GO arms the group, an end of interrupt sends the message again while the
vector is in request, and a route takes effect. -/
def takenDev (off : Nat) (v : Word) (s : State) : State :=
  if off = 0x060 then (if v.getLsbD 0 then s.groupGo else s)
  else if off = 0x068 then (if s.vecReq (fld v 4 0) then s.msixSend (fld v 4 0) else s)
  else if 0x400 ≤ off then s.syncIrq
  else s

/-! ## Small pages -/

/-- A taken write to the HEAT page: CLR of OVR_CNT. -/
def takenHeat (off : Nat) (v : Word) (s : State) : State :=
  if off = 0x078 ∧ v.getLsbD 31 = true then s.setReg 0x001 0x078 0 else s

/-- A taken write to CRUC0: CLR sets SNAP_HWM to the present use (rule R270). -/
def takenCruc0 (off : Nat) (v : Word) (s : State) : State :=
  if off = 0x050 ∧ v.getLsbD 31 = true then s.setReg 0x041 0x050 (BitVec.ofNat 32 s.snapUsed) else s

/-! ## The hooks of every page -/

/-- More refusals of a write, page by page. While RECOVERY owns UART0, its page refuses every write (rule R506). -/
def winViol (s : State) (p off : Nat) (v : Word) : Viol :=
  if p = 0x0B1 ∧ s.recoveryStrap = true then [(0, 0x07)]
  else if off < 0x040 then []
  else match pageType p with
    | some .cmd => violCmd s off v
    | some .fec => violFec s p off v
    | some .comb => violComb s off v
    | some .cruc2 => violCruc2 s off v
    | some .meas => violMeas s off v
    | some .nav => violNav s off v
    | some .eth => violEth s p off v
    | some .casak => violCore s p off v
    | some .uart => violUart s p off
    | some .sens => violSens s off v
    | some .log => violLog s off
    | some .upd => violUpd s off v
    | some .fault => violFault s off v
    | some .bkup => violBkup s off
    | _ => []

/-- With the SPI strap, LOC of every ring reads 1 and cannot change (rules R147, R495). -/
def State.keepLoc (s : State) (p off : Nat) : State :=
  if s.hostSpi && ringCtls.contains (p, off) then s.setRf p off 1 1 1 else s

/-- What a taken write does beside, page by page. -/
def winTaken (_old : State) (p off : Nat) (v : Word) (s0 : State) : State :=
  let s := s0.keepLoc p off
  match pageType p with
  | some .dev => takenDev off v s
  | some .heat => takenHeat off v s
  | some .cmd => takenCmd off s
  | some .fec => takenFec s p off v
  | some .cruc0 => takenCruc0 off v s
  | some .cruc2 => if off = 0x050 ∨ off = 0x040 then s.flushResults else s
  | some .meas => takenMeas off v s
  | some .nav => if off = 0x090 ∨ off = 0x080 then s.ciTake else s
  | some .tin => if off = 0x050 then popTins s v else s
  | some .casak => takenCore p off v s
  | some .host => takenHost off v s
  | some .uart => takenUart p off v s
  | some .assay => takenAssay off v s
  | some .sens => takenSens off v s
  | some .log => if off = 0x060 then s.logPost v else s
  | some .upd => takenUpd off v s
  | some .fault => takenFault off v s
  | some .bkup => takenBkup off v s
  | _ => s

/-- What a refused write does beside its capture. -/
def winRefused (s : State) (p off : Nat) (_v : Word) (_code : Nat) : State :=
  if p = 0x003 then refusedCmd off s else s

/-- Registers computed from the state, page by page. -/
def winView (s : State) (p off : Nat) : Option Word :=
  match pageType p with
  | some .dev => viewDev s off
  | some .heat => viewHeat s off
  | some .htab => viewHtab s off
  | some .cmd => viewCmd s off
  | some .lane => viewLane s p off
  | some .rlane => viewRlane s off
  | some .fec => viewFec s p off
  | some .cond => viewCond s p off
  | some .comb => viewComb s off
  | some .cruc0 => viewCruc0 s off
  | some .cruc2 => viewCruc2 s off
  | some .bill => viewBill s p off
  | some .trk => viewTrk s off
  | some .vec => viewVec s off
  | some .meas => viewMeas s off
  | some .nav => viewNav s off
  | some .auth => viewAuth s off
  | some .tb => viewTb s off
  | some .disc => viewDisc s off
  | some .tout => viewTout s off
  | some .tin => viewTin s off
  | some .eth => viewEth s p off
  | some .ptpx => viewPtpx s off
  | some .casak => viewCore s p off
  | some .host => viewHost s off
  | some .uart => viewUart s p off
  | some .assay => viewAssay s off
  | some .sens => viewSens s off
  | some .log => viewLog s off
  | some .upd => viewUpd s off
  | some .fault => viewFault s off
  | some .bkup => viewBkup s off
  | _ => none

/-- The block bits of PG_STAT, page by page. -/
def winStat (s : State) (p : Nat) : Word :=
  match pageType p with
  | some .heat => BitVec.ofNat 32 (s.rf 0x001 0x048 0 0 * 256)
  | some .cmd => statCmd s
  | some .lane => statLane s p
  | some .rlane => statRlane s
  | some .fec => statFec s p
  | some .cruc0 => statCruc0 s
  | some .cruc2 => statCruc2 s
  | some .tb => statTb s
  | some .disc => BitVec.ofNat 32 (s.disc.st.code * 256)
  | some .eth => statEth s p
  | _ => 0

/-- Whether the unit of a page holds a live handle (rule R72). -/
def winLive (s : State) (p : Nat) : Bool :=
  match pageType p with
  | some .lane => liveLane s p
  | some .rlane => s.injLive
  | some .fec => liveFec s p
  | some .cond => liveCond s p
  | some .casak => liveCore s p
  | some .uart => s.subsOn (p - 0x0B1)
  | _ => false

/-- Level events that hold (rule R87). -/
def winLevel (s : State) (p : Nat) : Word :=
  match pageType p with
  | some .tin => levelTin s
  | some .uart => levelUart s p
  | _ => 0

/-- The commit check of a page (rule R77). -/
def winCheck (old new : State) (p : Nat) : Bool :=
  match pageType p with
  | some .lane => checkLane old new p && checkLaneFec new p
  | some .rlane => checkRlane old new
  | some .fec => checkFec old new p
  | some .disc => checkDisc old new
  | some .eth => checkEth old new p
  | some .ptpx => checkPtpx old new
  | some .casak => checkCore old new p
  | some .uart => checkUart new p
  | _ => true

/-- What an applied commit does beside (rule R74). -/
def winApplied (old : State) (p : Nat) (s : State) : State :=
  match pageType p with
  | some .lane => appliedLane old p s
  | some .fec => appliedFec old p s
  | some .nav => appliedNav old s
  | some .auth => appliedAuth old s
  | some .disc => appliedDisc old s
  | some .eth => appliedEth old p s
  | some .casak => appliedCore p s
  | some .uart => appliedUart old p s
  | _ => s

/-- What a soft reset does beside (rule R72). -/
def winReset (s : State) (p : Nat) : State :=
  match pageType p with
  | some .lane => resetLane s p
  | some .rlane => resetRlane s
  | some .fec => resetFec s p
  | some .cond => resetCond s p
  | some .disc => resetDisc s
  | some .eth => resetEth s p
  | some .casak => resetCore s p
  | some .uart => resetUart s p
  | _ => s

/-- THE HOOKS OF EVERY PAGE. -/
def hooks : PageHooks where
  viol := winViol
  taken := winTaken
  refused := winRefused
  view := winView
  stat := winStat
  live := winLive
  level := winLevel
  check := winCheck
  applied := winApplied
  reset := winReset

/-! ## One access of the host -/

/-- Pages that a reset of the Assay island takes away (rule R523). -/
def State.assayAway (s : State) (a : Nat) : Bool :=
  s.assay.inWdog && decide (0x0C0 ≤ a / 0x1000 % 256 ∧ a / 0x1000 % 256 ≤ 0x0C5)

/-- A HOST WRITE of one register. -/
def State.hostWrite (s : State) (a : Nat) (v : Word) (be : Bool) : State :=
  if s.winOff || s.assayAway a then s else s.regWrite hooks a v be

/-- What a host read of one register answers. -/
def State.hostGet (s : State) (a : Nat) : Word := if s.assayAway a then 0 else s.regRead hooks a

end Sys2Proof.Machine
end

