-- ==== Sys2Proof/Machine/Boundary.lean ====
section
/-! DEFINITION. The heat boundary (rule R96): the work of every plane in its order, and the end of recovery (rule R578). The
heat number rises first; what belongs to the heat that ended comes before what the host armed for the one that begins. -/

namespace Sys2Proof.Machine

/-! ## Pieces of a boundary -/

/-- The heats follow one another (rules R96 to R98): the number rises, and CMD_USED takes the commands taken. -/
def State.nextHeat (s : State) : State :=
  ({ s with heat := s.heat + 1, cmd := { s.cmd with taken := 0 } } : State).setReg 0x001 0x068 (BitVec.ofNat 32 s.cmd.taken)

/-- A stamp in 10 ps steps moves by an offset in time units. -/
def moved10 (off : Int) (t : Nat) : Nat := ((t : Int) + roundFree ((off : Rat) * 100 / (unitsPerNs : Nat))).toNat

/-- A step or re-epoch moves the time base, and with it every instant that the sample path holds to compare later ones with (rules R257,
R311): dumps and stamps to come are of the corrected time base, and no phase moves. -/
def State.shiftInstants (s : State) (off : Int) : State :=
  let d : Rat := (off : Rat) * 1000 / (unitsPerNs : Nat)
  { s with
    lanes := s.lanes.map fun (e : Nat × Lane) => (e.1, { e.2 with
      edge := e.2.edge.map (moved10 off), lastStamp := moved10 off e.2.lastStamp, blk := e.2.blk.map fun b => { b with at_ := b.at_ + d } }),
    lateFrames := s.lateFrames.map fun f => { f with stamp := moved10 off f.stamp },
    groups := s.groups.map fun (e : Nat × Group) => (e.1, { e.2 with
      bufs := e.2.bufs.map fun (b : Nat × List (Rat × Smp)) => (b.1, b.2.map fun x => (x.1 + d, x.2)),
      grid := e.2.grid.map fun x => (x.1 + d, x.2), gridLast := e.2.gridLast + d }),
    chans := s.chans.map fun (e : Nat × Chan) => (e.1, { e.2 with nextAt := e.2.nextAt + d }),
    snaps := s.snaps.map fun (e : Nat × Snap) => (e.1, { e.2 with hist := e.2.hist.map fun x => (x.1 + d, x.2) }),
    jobs := s.jobs.map fun (e : Nat × Job) => (e.1, { e.2 with shift := e.2.shift + d }) }

/-- A step or re-epoch due applies, with what it does to outputs, DISC and the sample path (rules R257, R366, R375, R385); then
the instants of the heat that begins (rules R97, R98). The answer tells whether an offset was added. -/
def State.alignHeat (s : State) : Bool × State :=
  let r := if s.running then s.corrAtBoundary else (false, s)
  if r.1 then
    let t := r.2
    let re := (t.tb.corr.map (·.reepoch)).getD false
    let off := (t.tb.corr.map (·.off)).getD 0
    let s1 := ((t.stepScheds off).discStepped re).shiftInstants off
    (true, { s1 with steps := s1.steps + 1,
                     tb := { s1.tb with hStart := s1.tb.now, hEnd := firstMs (s1.tb.now + msUnits / 2) } })
  else (false, { r.2 with tb := { r.2.tb with hStart := s.tb.hEnd, hEnd := s.tb.hEnd + msUnits } })

/-- The fill of every lane comes up to the end of the heat. -/
def State.paceAll (s : State) : State := (List.range 8).foldl State.pace s

/-- The end of the heat in lanes, chains and groups. -/
def State.endStreams (s : State) : State :=
  let s1 := (List.range 32).foldl State.endCond (s.endLanes).weighAll
  (((List.range 32).foldl State.monitor s1).slaveNotches).combBoundary.calBoundary

/-- WORK of a billet (rule R313): the tap-samples of the heat, of which a billet whose work is dropped did only some. -/
def State.endWork (s : State) (ovr : List Nat) (b : Nat) : State :=
  let n := Tab.get (fun _ => 0) s.work b / 1024 % 2 ^ 28
  if ovr.contains b then (s.setReg (0x050 + b) 0x050 (BitVec.ofNat 32 (s.free n))).bump else s.setReg (0x050 + b) 0x050 (BitVec.ofNat 32 n)

/-- The end of the heat in the billets, `ids` the channels that ran in it (rules R299 to R306, R573, R581). -/
def State.endBillets (s : State) (h : HeatIn) (ids : List Nat) (torn : Bool) : State :=
  let worked := s.running || torn
  let s1 := if worked then ids.foldl (fun s i => s.endChan h.chans h.overruns i) s else s.quenchHeat
  let s2 := if torn then s1.quenchChans else s1
  { (List.range 16).foldl (fun s b => s.endWork h.overruns b) s2 with work := [] }

/-- What a quench leaves of the records owed (rule R573): they are written by the boundary ending H + 2; a core that the CORE
class halted writes nothing, and which subscriptions it served the spec does not say (log entry 4). -/
def State.tornRecords (s : State) : State :=
  let cut := s.fault.tornHeat + 3
  s.subs.foldl (fun s e =>
    let lose := !s.fault.haltedCores.isEmpty && s.free 1 == 1
    (s.modSub e.1 fun x => { x with owed := if lose then [] else x.owed.map fun o => (min o.1 cut, o.2) }).bump) s

/-- The measurements and the navigation of the heat that ended (rules R320, R327, R330): records form for an instant on a
whole millisecond, which a boundary that applies a correction is not. -/
def State.endMeas (s : State) (h : HeatIn) (torn ret : Bool) (ms : Nat) : State :=
  let s1 := s.gather torn ret
  let s2 :=
    if s1.running || torn then
      let s2 := s1.navBoundary h.nav torn
      if ret then s2 else s2.formAll h ms
    else s1
  ((if torn then s2.tornRecords else s2).writeAll).systemNmea h.nmea

/-- What the host armed and asked for takes effect with the heat that begins (rules R30, R72 to R78, R131). -/
def State.startHeat (s : State) (h : HeatIn) : State :=
  let s1 := s.joinFree.softResets hooks
  if s1.running then
    (((s1.commitPass hooks).surveyEnd.flightsBoundary.switchMigs).markSplits).vectorBoundary h.chans
  else s1

/-- The unit code of HEAT.OVR_LAST for an overrun operand: billets 0 to 15, the Crucible 16, CASAK0 to CASAK5 from 17. -/
def unitOf (u : Nat) : Nat := if u ≤ 16 then u else 0x20 + (u - 17)

/-- OVERRUNS (rules R113, R114): the work of the heat before the one that ended was not complete, and is recorded; 8 of 64 consecutive
heats raise the class. `next` are the units that will not complete their work on the heat that ended (log entry 89). -/
def State.overrunsAt (s : State) (next : List Nat) : State :=
  let s0 : State := { s with lateUnits := if s.running then next else [] }
  if s.running = false ∨ s.heat < 2 then s0
  else
    let n := s.heat - 2
    (s.lateUnits.filter fun u => decide (u < 23)).dedup.foldl (fun (s : State) (u : Nat) =>
      let l : List (Nat × Nat) := (s.fault.overruns.filter fun e => decide (e.2 + 64 > n)) ++ [(u, n)]
      let s1 := ({ s with fault := { s.fault with overruns := l } } : State).recordOverrun (unitOf u) n
      if (l.filter fun e => e.1 == u).length ≥ 8 then s1.raiseClass clsOVERRUN (unitOf u) else s1) s0

/-- ALIVE toggles (rule R100). -/
def State.toggleAlive (s : State) : State := ({ s with alive := !s.alive } : State).emit (.alive (!s.alive))

/-- Rings, ports, cores and Assay at the boundary. -/
def State.restBoundary (s : State) (h : HeatIn) : State :=
  let s1 := (s.hostBoundary.flush.flushResults).ciTake.heatCores.quenchBoundary.queuedCal
  ((s1.ethBoundary ((h.nav.map (·.utc)).getD none)).temperHeat h.temper).oscWrite.freeEndedScheds

/-! ## The rows -/

/-- HEAT_BOUNDARY (R96). -/
def execHeatBoundary (h : HeatIn) (s0 : State) : Out :=
  .next (if s0.inReset || !s0.tb.everLocked then s0
  else
    let s1 := (s0.advance (s0.ticksTo s0.tb.hEnd)).rlRun.paceAll
    let torn := s1.fault.qBoundary
    let ms := s1.tb.hEnd / msUnits
    let aligned := s1.tb.align
    let ids := s1.chans.map (·.1)
    let s2 := s1.nextHeat
    let s3 := (if torn then s2.quenchStop else s2).endAlign
    let r := s3.alignHeat
    let s4 := r.2.endStreams
    let s5 := if s4.running then s4.crucible h.jobs (h.overruns.contains 16) aligned r.1 else s4
    let s6 := ((s5.endInjHeat h.repeats).endCalHeat).endBillets h ids torn
    let s7 := ((s6.endMeas h torn r.1 ms).clearLaneFlags).startHeat h
    ((((s7.toggleAlive.restBoundary h).overrunsAt h.overruns).lateFrame).intake))

/-- RECOVERY_END (R578, R581): at boundary E. -/
def execRecoveryEnd (s : State) : Out :=
  .next (if s.inReset || !decide (s.fault.phase = QPhase.recovering) || !decide (s.heat ≥ s.fault.endHeat) || !s.atBoundary then s
  else
    let s1 := (s.commitPass hooks).setSvc s.fault.svcBefore
    let s2 : State := { s1 with fault := { s1.fault with phase := .run, reload := false, haltedCores := [] } }
    let s3 := s2.recoverChans
    let s4 := if s.fault.svcBefore = 2 ∨ s.fault.svcBefore = 5 then
        s3.chans.foldl (fun s e => if (s.ent e.1).cls == 15 then
          (s.modChan e.1 fun c => { c with tryEl := s.el, st := .created }).pullIn e.1 true else s) s3
      else s3
    let s5 := (List.range 6).foldl State.startCore s4
    let s6 := [6, 7].foldl (fun s k => if s.enabled (0x0A0 + k) then s.startCore k else s) s5
    (s6.raise 0x0C4 18).intake)

end Sys2Proof.Machine
end

