-- ==== Sys2Proof/Machine/Access.lean ====
section
/-! DEFINITION. What the host does through its port: the rows of register writes and reads, the frames of the SPI target
(rules R502 to R505), and the rows of the command opcodes, each a record placed in the command ring (rules R124 to R132). -/

namespace Sys2Proof.Machine

/-! ## Pages and headers (chapter 2) -/

/-- REGISTER_WRITE (R18): a 32-bit write at a byte address of the window, with its four byte enables (rule R9). -/
def execRegisterWrite (address : BitVec 20) (v : Word) (be : BitVec 4) (s : State) : Out :=
  .next (s.hostWrite address.toNat v (be == 0xF))

/-- SRST (R72): PG_CTL written with SRST at 1. -/
def execSrst (page : BitVec 8) (v : Word) (s : State) : Out := .next (s.hostWrite (addr page.toNat 0x00C) (v ||| 2) true)

/-- LOCK (R73): PG_CTL written with LOCK at 1. -/
def execLock (page : BitVec 8) (v : Word) (s : State) : Out := .next (s.hostWrite (addr page.toNat 0x00C) (v ||| 4) true)

/-- SELECTED (R80): PG_VER written with a major. -/
def execSelected (page : BitVec 8) (major : BitVec 8) (s : State) : Out :=
  .next (s.hostWrite (addr page.toNat 0x004) (major.setWidth 32 <<< 24) true)

/-- ARM (R74): PG_COMMIT written with ARM at 1. -/
def execArm (page : BitVec 8) (v : Word) (s : State) : Out := .next (s.hostWrite (addr page.toNat 0x02C) (v ||| 1) true)

/-- DISCARD (R79): PG_COMMIT written with DISCARD at 1. -/
def execDiscard (page : BitVec 8) (v : Word) (s : State) : Out := .next (s.hostWrite (addr page.toNat 0x02C) (v ||| 2) true)

/-- GROUP_COMMIT (R76). -/
def execGroupCommit (s : State) : Out := .next (s.hostWrite (addr 0x000 0x060) 1 true)

/-- PG_IRQ_PND (R87). -/
def execPgIrqPnd (page : BitVec 8) (v : Word) (s : State) : Out := .next (s.hostWrite (addr page.toNat 0x01C) v true)

/-- PG_ERR_CODE (R82): VALID written 1. -/
def execPgErrCode (page : BitVec 8) (s : State) : Out := .next (s.hostWrite (addr page.toNat 0x020) 0x80000000 true)

/-- CLR (R86): a counter's CLR written 1. -/
def execClr (address : BitVec 20) (s : State) : Out := .next (s.hostWrite address.toNat 0x80000000 true)

/-- IRQ_EOI (R89). -/
def execIrqEoi (vector : Fin 32) (s : State) : Out := .next (s.hostWrite (addr 0x000 0x068) (BitVec.ofNat 32 vector.val) true)

/-! ## Heats and rings (chapter 3) -/

/-- HEAT_LO (R142): the answer is heat number bits [31:0], and HEAT_HI is latched. -/
def execHeatLo (s : State) : Out :=
  .next (s.readRow (BitVec.ofNat 32 s.heat) fun s => s.setReg 0x001 0x044 (BitVec.ofNat 32 (s.heat / 2 ^ 32)))

/-- What the host has stored in its own memory, by byte address, before it writes a ring's index (log entry 7). -/
def State.hostStores (s : State) (l : List (BitVec 64 × Word)) : State := l.foldl (fun s e => s.setHm e.1.toNat e.2) s

/-- SQ_TAIL (R125). -/
def execSqTail (stores : List (BitVec 64 × Word)) (v : Word) (s : State) : Out :=
  .next ((s.hostStores stores).hostWrite (addr 0x003 0x050) v true)

/-- CQ_HEAD (R125). -/
def execCqHead (v : Word) (s : State) : Out := .next (s.hostWrite (addr 0x003 0x064) v true)

/-- RUN (R612): a ring's control register. -/
def execRun (ring : Fin 7) (v : Word) (s : State) : Out :=
  let e := ringCtls.getD ring.val (0, 0)
  .next (s.hostWrite (addr e.1 e.2) v true)

/-! ## Front-ends and the Crucible (chapters 5 and 7) -/

/-- CAL_CTL (R208): written with GO at 1. -/
def execCalCtl (link : Fin 8) (v : Word) (s : State) : Out := .next (s.hostWrite (addr (0x020 + link.val) 0x050) (v ||| 1) true)

/-- RAW_CTL (R202): written with GO at 1. -/
def execRawCtl (link : Fin 8) (v : Word) (s : State) : Out :=
  .next (s.hostWrite (addr (0x020 + link.val) 0x070) (v ||| 0x100000) true)

/-- RR_HEAD (R263). -/
def execRrHead (v : Word) (s : State) : Out := .next (s.hostWrite (addr 0x043 0x050) v true)

/-- SNAP_HWM (R270): CLR written 1. -/
def execSnapHwm (s : State) : Out := .next (s.hostWrite (addr 0x041 0x050) 0x80000000 true)

/-! ## Measurements and time (chapters 9 and 10) -/

/-- CI_TAIL (R337). -/
def execCiTail (stores : List (BitVec 64 × Word)) (v : Word) (s : State) : Out :=
  .next ((s.hostStores stores).hostWrite (addr 0x071 0x090) v true)

/-- SUBS_HEAD (R353). -/
def execSubsHead (slot : Fin 64) (v : Word) (s : State) : Out := .next (s.hostWrite (addr 0x070 (0x400 + 8 * slot.val)) v true)

/-- POP (R391). -/
def execPop (v : Word) (s : State) : Out := .next (s.hostWrite (addr 0x083 0x050) v true)

/-! ## Network ports (chapter 11) -/

/-- TXQ_TAIL (R430). -/
def execTxqTail (port : Fin 4) (stores : List (BitVec 64 × Word)) (v : Word) (s : State) : Out :=
  .next ((s.hostStores stores).hostWrite (addr (0x090 + port.val) 0x0BC) v true)

/-- RXQ_HEAD (R430). -/
def execRxqHead (port : Fin 4) (v : Word) (s : State) : Out := .next (s.hostWrite (addr (0x090 + port.val) 0x0B4) v true)

/-! ## Casak pages (chapter 12) -/

/-- DOORBELL (R441): written with bit 0 at 1. -/
def execDoorbell (k : CoreId) (v : Word) (s : State) : Out := .next (s.hostWrite (addr (0x0A0 + k.val) 0x05C) (v ||| 1) true)

/-- LOAD_HI (R474). -/
def execLoadHi (k : CoreId) (v : Word) (s : State) : Out := .next (s.hostWrite (addr (0x0A0 + k.val) 0x068) v true)

/-- SEG_SEL (R474). -/
def execSegSel (k : CoreId) (v : Word) (s : State) : Out := .next (s.hostWrite (addr (0x0A0 + k.val) 0x06C) v true)

/-- SEG_W2 (R445). -/
def execSegW2 (k : CoreId) (v : Word) (s : State) : Out := .next (s.hostWrite (addr (0x0A0 + k.val) 0x078) v true)

/-- CYC_HWM (R474): CLR written 1. -/
def execCycHwm (k : CoreId) (v : Word) (s : State) : Out :=
  .next (s.hostWrite (addr (0x0A0 + k.val) 0x054) (v ||| 0x80000000) true)

/-! ## UARTs and Assay (chapters 14 to 16) -/

/-- TXDATA (R516). -/
def execTxdata (uart : Fin 3) (v : Word) (s : State) : Out := .next (s.hostWrite (addr (0x0B1 + uart.val) 0x058) v true)

/-- POST (R533). -/
def execPost (v : Word) (s : State) : Out := .next (s.hostWrite (addr 0x0C2 0x060) v true)

/-- BEGIN (R541). -/
def execBegin (s : State) : Out := .next (s.hostWrite (addr 0x0C3 0x040) 1 true)

/-- WRITE (R541). -/
def execWrite (s : State) : Out := .next (s.hostWrite (addr 0x0C3 0x040) 2 true)

/-- FINISH (R541). -/
def execFinish (s : State) : Out := .next (s.hostWrite (addr 0x0C3 0x040) 3 true)

/-- ABORT (R541). -/
def execAbort (s : State) : Out := .next (s.hostWrite (addr 0x0C3 0x040) 4 true)

/-- REVOKE_KEY0 (R541). -/
def execRevokeKey0 (s : State) : Out := .next (s.hostWrite (addr 0x0C3 0x040) 5 true)

/-- REEPOCH_ARM (R549). -/
def execReepochArm (s : State) : Out := .next (s.hostWrite (addr 0x0C0 0x068) 1 true)

/-- RET_HI (R557). -/
def execRetHi (v : Word) (s : State) : Out := .next (s.hostWrite (addr 0x0C5 0x05C) v true)

/-- RESET (R584): CTL written with RESET and a key. -/
def execReset (key : Byte) (s : State) : Out := .next (s.hostWrite (addr 0x0C4 0x058) (BitVec.ofNat 32 (4 + key.toNat * 256)) true)

/-- QUENCH (R573): CTL written with QUENCH and a key. -/
def execQuench (key : Byte) (s : State) : Out := .next (s.hostWrite (addr 0x0C4 0x058) (BitVec.ofNat 32 (2 + key.toNat * 256)) true)

/-- RECOVER (R577). -/
def execRecover (s : State) : Out := .next (s.hostWrite (addr 0x0C4 0x058) 1 true)

/-! ## The SPI target (rules R502 to R505) -/

/-- The state that a read row leaves. -/
def afterRead (o : Out) (s : State) : State :=
  match o with
  | .next t => t
  | _ => s

/-- A read of one register of the window with what it does: the rows whose reads latch or take something act as they do. -/
def State.readWord (s : State) (a : Nat) : State :=
  let p := a / 0x1000 % 256
  let off := a % 0x1000 / 4 * 4
  let plain : State := { s with hostRead := s.hostGet a }
  if p = 0x001 ∧ off = 0x040 then afterRead (execHeatLo s) s
  else if 0x010 ≤ p ∧ p ≤ 0x017 ∧ off = 0x098 then afterRead (execStampSecLo (Fin.ofNat 8 (p - 0x010)) s) s
  else if 0x010 ≤ p ∧ p ≤ 0x017 ∧ off = 0x0B0 then afterRead (execGapLo (Fin.ofNat 8 (p - 0x010)) s) s
  else if p = 0x041 ∧ off = 0x068 then afterRead (execCellsLo s) s
  else if p = 0x080 ∧ off = 0x040 then afterRead (execNowSecLo s) s
  else if p = 0x080 ∧ off = 0x064 then afterRead (execStepLo s) s
  else if p = 0x082 ∧ off = 0x08C then afterRead (execSchNextSec s) s
  else if 0x0B1 ≤ p ∧ p ≤ 0x0B3 ∧ off = 0x054 then afterRead (execRxdata (Fin.ofNat 3 (p - 0x0B1)) s) s
  else if p = 0x0C2 ∧ off = 0x04C then afterRead (execData0 s) s
  else if p = 0x0C5 ∧ off = 0x040 then afterRead (execRtcSecLo s) s
  else plain

/-- The header of a frame holds its "musts" (rule R503). -/
def spiHdrOk (low : BitVec 6) (address : BitVec 24) : Bool := low == 0 && decide (address.toNat < 2 ^ 20) && decide (address.toNat % 4 = 0)

/-- The four header bytes for a word's own address. -/
def spiHeader (rd xw : Bool) (a : Nat) : List Byte :=
  [BitVec.ofNat 8 (b2n rd * 128 + b2n xw * 64), BitVec.ofNat 8 (a / 65536), BitVec.ofNat 8 (a / 256), BitVec.ofNat 8 a]

/-- The 4 bytes of a word, bits [7:0] first. -/
def spiBytes (v : Word) : List Byte := (List.range 4).map fun i => BitVec.ofNat 8 (v.toNat / 2 ^ (8 * i))

/-- One word of a read frame: it is fetched, then answered with the marker, its bytes and their CRC. -/
def State.spiReadWord (s : State) (xw : Bool) (a : Nat) : State :=
  let s1 := if xw then afterRead (execExchangeRead (BitVec.ofNat 16 (a / 16)) (Fin.ofNat 4 (a / 4)) s) s else s.readWord a
  let l := 0xA5 :: spiBytes s1.hostRead
  s1.emit (.spi (l ++ [BitVec.ofNat 8 (crc8 l)]))

/-- The words of a read frame. -/
def State.spiReads (s : State) (xw : Bool) (a n : Nat) : State :=
  match n with
  | 0 => s
  | n + 1 => (s.spiReadWord xw (a % 2 ^ 20)).spiReads xw (a + 4) n

/-- SPI_READ (R504): a frame that reads `words` words; in reset the host takes 0xFFFFFFFF. -/
def execSpiRead (xw : Bool) (low : BitVec 6) (address : BitVec 24) (words : Nat) (s : State) : Out :=
  .next (if s.inReset then { s with hostRead := 0xFFFFFFFF }
  else if !s.hostSpi then s
  else if !spiHdrOk low address then s.capErr 0x0B0 0x42 0
  else s.spiReads xw address.toNat words)

/-- One word of a write frame (rule R505). -/
def State.spiWriteWord (s : State) (xw : Bool) (a : Nat) (w : SpiWord) : State :=
  if crc8 (spiHeader false xw a ++ spiBytes w.data) = w.crc.toNat then
    (if xw then s.exDword (a / 16 % 65536) (a / 4 % 4) w.data else s.hostWrite a w.data true).emit (.spi [0xA5])
  else (((s.capErr 0x0B0 0x41 0).count 0x0B0 0x054).raise 0x0B0 18).emit (.spi [0x3C])

/-- The words of a write frame. -/
def State.spiWrites (s : State) (xw : Bool) (a : Nat) (l : List SpiWord) : State :=
  match l with
  | [] => s
  | w :: rest => (s.spiWriteWord xw (a % 2 ^ 20) w).spiWrites xw (a + 4) rest

/-- SPI_WRITE (R505). -/
def execSpiWrite (xw : Bool) (low : BitVec 6) (address : BitVec 24) (words : List SpiWord) (s : State) : Out :=
  .next (if s.inReset || !s.hostSpi then s
  else if !spiHdrOk low address then s.capErr 0x0B0 0x42 0
  else s.spiWrites xw address.toNat words)

/-- SPI_SHORT (R505): a word cut off before its CRC byte is complete. -/
def execSpiShort (s : State) : Out := .next (if s.inReset || !s.hostSpi then s else s.count 0x0B0 0x058)

/-! ## The opcodes (rule R132) -/

/-- The 16 words of a record (rule R127). -/
def cmdWords (f : CmdFields) (op : Nat) : List Word :=
  BitVec.ofNat 32 (op + f.ver.toNat * 2 ^ 16 + b2n f.nowait * 2 ^ 24 + b2n f.quiet * 2 ^ 25 + b2n f.fence * 2 ^ 26 + f.rsv.toNat * 2 ^ 27)
    :: f.seq :: f.handle :: (List.range 13).map fun i => f.args.getD i 0

/-- The command ring is full (rule R125). -/
def State.sqFull (s : State) : Bool :=
  let n := 2 ^ s.rf 0x003 0x04C 3 0
  (s.rf 0x003 0x050 11 0 + 1) % n == s.rf 0x003 0x054 11 0 % n

/-- THE HOST SENDS A COMMAND: it places the record at the tail of the command ring and writes SQ_TAIL (rule R125). -/
def State.submit (s : State) (op : Nat) (f : CmdFields) : State :=
  if s.winOff || s.sqFull then s
  else
    let n := 2 ^ s.rf 0x003 0x04C 3 0
    let t := s.rf 0x003 0x050 11 0
    let base := s.ringBase 0x003 0x044 0x048 + t * (if s.cmdLoc then 8 else 64)
    (s.putRec s.cmdLoc base (cmdWords f op)).hostWrite (addr 0x003 0x050) (BitVec.ofNat 32 ((t + 1) % n)) true

/-- VERSION_SELECT (R94). -/
def execVersionSelect (f : CmdFields) (s : State) : Out := .next (s.submit 0x0101 f)

/-- LEDGER_QUERY (R128). -/
def execLedgerQuery (f : CmdFields) (s : State) : Out := .next (s.submit 0x0102 f)

/-- HANDLE_QUERY (R123). -/
def execHandleQuery (f : CmdFields) (s : State) : Out := .next (s.submit 0x0103 f)

/-- CH_CREATE (R277). -/
def execChCreate (f : CmdFields) (s : State) : Out := .next (s.submit 0x0201 f)

/-- CH_MODIFY (R281). -/
def execChModify (f : CmdFields) (s : State) : Out := .next (s.submit 0x0202 f)

/-- CH_DESTROY (R131). -/
def execChDestroy (f : CmdFields) (s : State) : Out := .next (s.submit 0x0203 f)

/-- SRCH_SUBMIT (R248). -/
def execSrchSubmit (f : CmdFields) (s : State) : Out := .next (s.submit 0x0301 f)

/-- SRCH_CANCEL (R258). -/
def execSrchCancel (f : CmdFields) (s : State) : Out := .next (s.submit 0x0302 f)

/-- INJ_START (R206). -/
def execInjStart (f : CmdFields) (s : State) : Out := .next (s.submit 0x0401 f)

/-- INJ_STOP (R131). -/
def execInjStop (f : CmdFields) (s : State) : Out := .next (s.submit 0x0402 f)

/-- TOUT_SCHEDULE (R380). -/
def execToutSchedule (f : CmdFields) (s : State) : Out := .next (s.submit 0x0501 f)

/-- TOUT_CANCEL (R386). -/
def execToutCancel (f : CmdFields) (s : State) : Out := .next (s.submit 0x0502 f)

/-- TIN_ARM (R390). -/
def execTinArm (f : CmdFields) (s : State) : Out := .next (s.submit 0x0601 f)

/-- TIN_DISARM (R131). -/
def execTinDisarm (f : CmdFields) (s : State) : Out := .next (s.submit 0x0602 f)

/-- SUBSCRIBE (R325). -/
def execSubscribe (f : CmdFields) (s : State) : Out := .next (s.submit 0x0701 f)

/-- UNSUBSCRIBE (R131). -/
def execUnsubscribe (f : CmdFields) (s : State) : Out := .next (s.submit 0x0702 f)

/-- COMB_CREATE (R230). -/
def execCombCreate (f : CmdFields) (s : State) : Out := .next (s.submit 0x0801 f)

/-- COMB_DESTROY (R240). -/
def execCombDestroy (f : CmdFields) (s : State) : Out := .next (s.submit 0x0802 f)

/-- TIME_STEP (R365). -/
def execTimeStep (f : CmdFields) (s : State) : Out := .next (s.submit 0x0901 f)

/-- TIME_SLEW (R367). -/
def execTimeSlew (f : CmdFields) (s : State) : Out := .next (s.submit 0x0902 f)

/-- TIME_REEPOCH (R369). -/
def execTimeReepoch (f : CmdFields) (s : State) : Out := .next (s.submit 0x0903 f)

end Sys2Proof.Machine
end

