-- ==== Sys2Proof/Machine/Dispatch.lean ====
section
/-! DEFINITION. One arm per command: its meaning. Every row of spec/opcode_table.json has one. -/

namespace Sys2Proof.Machine

/-- The effect of a command on everything but the queue. -/
def exec (i : Instr) (s : State) : Host.Outcome State Fault Refusal :=
  match i with
  | .powerOnReset core sram ioA => Sys2Proof.Machine.execPowerOnReset core sram ioA s
  | .resetN lowNs => Sys2Proof.Machine.execResetN lowNs s
  | .perstN => Sys2Proof.Machine.execPerstN s
  | .handover => Sys2Proof.Machine.execHandover s
  | .annealChannels view => Sys2Proof.Machine.execAnnealChannels view s
  | .annealRetry idx dt => Sys2Proof.Machine.execAnnealRetry idx dt s
  | .watchdogReset => Sys2Proof.Machine.execWatchdogReset s
  | .assayIslandResetEnd => Sys2Proof.Machine.execAssayIslandResetEnd s
  | .clockMonitorWindow devs => Sys2Proof.Machine.execClockMonitorWindow devs s
  | .stretch island => Sys2Proof.Machine.execStretch island s
  | .stretchEnd island => Sys2Proof.Machine.execStretchEnd island s
  | .temperWindowEnd others => Sys2Proof.Machine.execTemperWindowEnd others s
  | .avsAck vout iout => Sys2Proof.Machine.execAvsAck vout iout s
  | .avsTimeout dt => Sys2Proof.Machine.execAvsTimeout dt s
  | .scrubPass mem a flips => Sys2Proof.Machine.execScrubPass mem a flips s
  | .registerWrite address v be => Sys2Proof.Machine.execRegisterWrite address v be s
  | .srst page v => Sys2Proof.Machine.execSrst page v s
  | .lock page v => Sys2Proof.Machine.execLock page v s
  | .selected page major => Sys2Proof.Machine.execSelected page major s
  | .arm page v => Sys2Proof.Machine.execArm page v s
  | .discard page v => Sys2Proof.Machine.execDiscard page v s
  | .groupCommit => Sys2Proof.Machine.execGroupCommit s
  | .pgIrqPnd page v => Sys2Proof.Machine.execPgIrqPnd page v s
  | .pgErrCode page => Sys2Proof.Machine.execPgErrCode page s
  | .clr address => Sys2Proof.Machine.execClr address s
  | .irqEoi vector => Sys2Proof.Machine.execIrqEoi vector s
  | .heatBoundary h => Sys2Proof.Machine.execHeatBoundary h s
  | .heatLo => Sys2Proof.Machine.execHeatLo s
  | .sqTail stores v => Sys2Proof.Machine.execSqTail stores v s
  | .cqHead v => Sys2Proof.Machine.execCqHead v s
  | .run ring v => Sys2Proof.Machine.execRun ring v s
  | .versionSelect f => Sys2Proof.Machine.execVersionSelect f s
  | .ledgerQuery f => Sys2Proof.Machine.execLedgerQuery f s
  | .handleQuery f => Sys2Proof.Machine.execHandleQuery f s
  | .chCreate f => Sys2Proof.Machine.execChCreate f s
  | .chModify f => Sys2Proof.Machine.execChModify f s
  | .chDestroy f => Sys2Proof.Machine.execChDestroy f s
  | .srchSubmit f => Sys2Proof.Machine.execSrchSubmit f s
  | .srchCancel f => Sys2Proof.Machine.execSrchCancel f s
  | .injStart f => Sys2Proof.Machine.execInjStart f s
  | .injStop f => Sys2Proof.Machine.execInjStop f s
  | .toutSchedule f => Sys2Proof.Machine.execToutSchedule f s
  | .toutCancel f => Sys2Proof.Machine.execToutCancel f s
  | .tinArm f => Sys2Proof.Machine.execTinArm f s
  | .tinDisarm f => Sys2Proof.Machine.execTinDisarm f s
  | .subscribe f => Sys2Proof.Machine.execSubscribe f s
  | .unsubscribe f => Sys2Proof.Machine.execUnsubscribe f s
  | .combCreate f => Sys2Proof.Machine.execCombCreate f s
  | .combDestroy f => Sys2Proof.Machine.execCombDestroy f s
  | .timeStep f => Sys2Proof.Machine.execTimeStep f s
  | .timeSlew f => Sys2Proof.Machine.execTimeSlew f s
  | .timeReepoch f => Sys2Proof.Machine.execTimeReepoch f s
  | .placement => Sys2Proof.Machine.execPlacement s
  | .agingStep idx => Sys2Proof.Machine.execAgingStep idx s
  | .frame lane dt sub fs header codes drops => Sys2Proof.Machine.execFrame lane dt sub fs header codes drops s
  | .glitch lane dt => Sys2Proof.Machine.execGlitch lane dt s
  | .clockStop lane dt => Sys2Proof.Machine.execClockStop lane dt s
  | .clockEdge lane dt => Sys2Proof.Machine.execClockEdge lane dt s
  | .acquireDone lane dt => Sys2Proof.Machine.execAcquireDone lane dt s
  | .fillEnd lane dt => Sys2Proof.Machine.execFillEnd lane dt s
  | .stampSecLo lane => Sys2Proof.Machine.execStampSecLo lane s
  | .gapLo lane => Sys2Proof.Machine.execGapLo lane s
  | .transaction link dt resp => Sys2Proof.Machine.execTransaction link dt resp s
  | .retry link dt => Sys2Proof.Machine.execRetry link dt s
  | .keepalive link => Sys2Proof.Machine.execKeepalive link s
  | .discoverRetry link dt => Sys2Proof.Machine.execDiscoverRetry link dt s
  | .scriptWait link dt => Sys2Proof.Machine.execScriptWait link dt s
  | .status link dt => Sys2Proof.Machine.execStatus link dt s
  | .lockFail link dt => Sys2Proof.Machine.execLockFail link dt s
  | .calCtl link v => Sys2Proof.Machine.execCalCtl link v s
  | .calibrationStep link osc bands => Sys2Proof.Machine.execCalibrationStep link osc bands s
  | .rawCtl link v => Sys2Proof.Machine.execRawCtl link v s
  | .pendingLock slot dt => Sys2Proof.Machine.execPendingLock slot dt s
  | .lockTimeout slot dt => Sys2Proof.Machine.execLockTimeout slot dt s
  | .leadIn dt => Sys2Proof.Machine.execLeadIn dt s
  | .tail dt => Sys2Proof.Machine.execTail dt s
  | .result slot meas => Sys2Proof.Machine.execResult slot meas s
  | .feGainLoop stream => Sys2Proof.Machine.execFeGainLoop stream s
  | .notchRelease stream k => Sys2Proof.Machine.execNotchRelease stream k s
  | .captureStart idx => Sys2Proof.Machine.execCaptureStart idx s
  | .captured idx dt => Sys2Proof.Machine.execCaptured idx dt s
  | .rrHead v => Sys2Proof.Machine.execRrHead v s
  | .snapHwm => Sys2Proof.Machine.execSnapHwm s
  | .cellsLo => Sys2Proof.Machine.execCellsLo s
  | .pullinTimeout idx => Sys2Proof.Machine.execPullinTimeout idx s
  | .toCoast idx => Sys2Proof.Machine.execToCoast idx s
  | .coastLimit idx => Sys2Proof.Machine.execCoastLimit idx s
  | .bitSyncTimeout idx => Sys2Proof.Machine.execBitSyncTimeout idx s
  | .fallback idx => Sys2Proof.Machine.execFallback idx s
  | .threatClear bit => Sys2Proof.Machine.execThreatClear bit s
  | .rtcmFrame src => Sys2Proof.Machine.execRtcmFrame src s
  | .ciTail stores v => Sys2Proof.Machine.execCiTail stores v s
  | .subsHead slot v => Sys2Proof.Machine.execSubsHead slot v s
  | .inavPage prn x => Sys2Proof.Machine.execInavPage prn x s
  | .cryptoStall dt => Sys2Proof.Machine.execCryptoStall dt s
  | .aoaEvaluation los => Sys2Proof.Machine.execAoaEvaluation los s
  | .pllLock dt => Sys2Proof.Machine.execPllLock dt s
  | .pllUnlock dt => Sys2Proof.Machine.execPllUnlock dt s
  | .refFaultEnd dt => Sys2Proof.Machine.execRefFaultEnd dt s
  | .healthChange dt => Sys2Proof.Machine.execHealthChange dt s
  | .slewDone => Sys2Proof.Machine.execSlewDone s
  | .discUpdate dt => Sys2Proof.Machine.execDiscUpdate dt s
  | .tauEvaluation => Sys2Proof.Machine.execTauEvaluation s
  | .holdover => Sys2Proof.Machine.execHoldover s
  | .toutEdge idx => Sys2Proof.Machine.execToutEdge idx s
  | .pulseEnd pin => Sys2Proof.Machine.execPulseEnd pin s
  | .pps => Sys2Proof.Machine.execPps s
  | .trigger idx => Sys2Proof.Machine.execTrigger idx s
  | .tinEdge input rising dt sub => Sys2Proof.Machine.execTinEdge input rising dt sub s
  | .pop v => Sys2Proof.Machine.execPop v s
  | .nowSecLo => Sys2Proof.Machine.execNowSecLo s
  | .stepLo => Sys2Proof.Machine.execStepLo s
  | .schNextSec => Sys2Proof.Machine.execSchNextSec s
  | .linkUp port dt an speed => Sys2Proof.Machine.execLinkUp port dt an speed s
  | .linkDown port dt => Sys2Proof.Machine.execLinkDown port dt s
  | .sgmiiLinkWord port dt speed => Sys2Proof.Machine.execSgmiiLinkWord port dt speed s
  | .sync port h twoStep origin => Sys2Proof.Machine.execSync port h twoStep origin s
  | .followUp port h origin => Sys2Proof.Machine.execFollowUp port h origin s
  | .delayReq port h => Sys2Proof.Machine.execDelayReq port h s
  | .delayResp port h mine recv => Sys2Proof.Machine.execDelayResp port h mine recv s
  | .pdelayReq port h turn ownTx => Sys2Proof.Machine.execPdelayReq port h turn ownTx s
  | .pdelayResp port h mine twoStep recv => Sys2Proof.Machine.execPdelayResp port h mine twoStep recv s
  | .pdelayRespFollowUp port h mine origin => Sys2Proof.Machine.execPdelayRespFollowUp port h mine origin s
  | .announce port h a => Sys2Proof.Machine.execAnnounce port h a s
  | .requestUnicastTransmission port h typ log2 dur => Sys2Proof.Machine.execRequestUnicastTransmission port h typ log2 dur s
  | .grantUnicastTransmission port h typ log2 dur => Sys2Proof.Machine.execGrantUnicastTransmission port h typ log2 dur s
  | .cancelUnicastTransmission port h typ byMaster => Sys2Proof.Machine.execCancelUnicastTransmission port h typ byMaster s
  | .acknowledgeCancelUnicastTransmission port h typ byMaster => Sys2Proof.Machine.execAcknowledgeCancelUnicastTransmission port h typ byMaster s
  | .esmcPdu port dt ql => Sys2Proof.Machine.execEsmcPdu port dt ql s
  | .arp port dt own target fromMac fromIp frame => Sys2Proof.Machine.execArp port dt own target fromMac fromIp frame s
  | .neighbourSolicitation port dt own target fromMac fromIp frame => Sys2Proof.Machine.execNeighbourSolicitation port dt own target fromMac fromIp frame s
  | .hqRx port dt own fcs frame => Sys2Proof.Machine.execHqRx port dt own fcs frame s
  | .syncInterval port dt who own => Sys2Proof.Machine.execSyncInterval port dt who own s
  | .announceInterval port dt who => Sys2Proof.Machine.execAnnounceInterval port dt who s
  | .delayReqInterval port dt own => Sys2Proof.Machine.execDelayReqInterval port dt own s
  | .announceTimeout port dt => Sys2Proof.Machine.execAnnounceTimeout port dt s
  | .grantRenewal port dt who typ => Sys2Proof.Machine.execGrantRenewal port dt who typ s
  | .renewalRetry port dt who typ => Sys2Proof.Machine.execRenewalRetry port dt who typ s
  | .grantLapse port dt who typ asMaster => Sys2Proof.Machine.execGrantLapse port dt who typ asMaster s
  | .esmcInformation port dt => Sys2Proof.Machine.execEsmcInformation port dt s
  | .esmcTimeout port dt => Sys2Proof.Machine.execEsmcTimeout port dt s
  | .txqTail port stores v => Sys2Proof.Machine.execTxqTail port stores v s
  | .rxqHead port v => Sys2Proof.Machine.execRxqHead port v s
  | .hqTxDone port dt own => Sys2Proof.Machine.execHqTxDone port dt own s
  | .interrupt k => Sys2Proof.Machine.execInterrupt k s
  | .budget k => Sys2Proof.Machine.execBudget k s
  | .doorbell k v => Sys2Proof.Machine.execDoorbell k v s
  | .loadHi k v => Sys2Proof.Machine.execLoadHi k v s
  | .segSel k v => Sys2Proof.Machine.execSegSel k v s
  | .segW2 k v => Sys2Proof.Machine.execSegW2 k v s
  | .cycHwm k v => Sys2Proof.Machine.execCycHwm k v s
  | .mov k dd ds => Sys2Proof.Machine.execMov k dd ds s
  | .add k f => Sys2Proof.Machine.execAdd k f s
  | .sub k f => Sys2Proof.Machine.execSub k f s
  | .and k f => Sys2Proof.Machine.execAnd k f s
  | .or k f => Sys2Proof.Machine.execOr k f s
  | .xor k f => Sys2Proof.Machine.execXor k f s
  | .not k dd ds => Sys2Proof.Machine.execNot k dd ds s
  | .neg k f => Sys2Proof.Machine.execNeg k f s
  | .negs k f => Sys2Proof.Machine.execNegs k f s
  | .shl k f => Sys2Proof.Machine.execShl k f s
  | .shr k f => Sys2Proof.Machine.execShr k f s
  | .sar k f => Sys2Proof.Machine.execSar k f s
  | .rol k f => Sys2Proof.Machine.execRol k f s
  | .clz k f => Sys2Proof.Machine.execClz k f s
  | .swaph k dd ds => Sys2Proof.Machine.execSwaph k dd ds s
  | .mova k an ds => Sys2Proof.Machine.execMova k an ds s
  | .movda k dd an => Sys2Proof.Machine.execMovda k dd an s
  | .movlc k ds => Sys2Proof.Machine.execMovlc k ds s
  | .movdlc k dd => Sys2Proof.Machine.execMovdlc k dd s
  | .movi k f => Sys2Proof.Machine.execMovi k f s
  | .addi k f => Sys2Proof.Machine.execAddi k f s
  | .andi k dd imm => Sys2Proof.Machine.execAndi k dd imm s
  | .ori k dd imm => Sys2Proof.Machine.execOri k dd imm s
  | .xori k dd imm => Sys2Proof.Machine.execXori k dd imm s
  | .shli k f => Sys2Proof.Machine.execShli k f s
  | .shri k f => Sys2Proof.Machine.execShri k f s
  | .sari k f => Sys2Proof.Machine.execSari k f s
  | .roli k sz dd ds count => Sys2Proof.Machine.execRoli k sz dd ds count s
  | .ld k f => Sys2Proof.Machine.execLd k f s
  | .st k f => Sys2Proof.Machine.execSt k f s
  | .beqz k f => Sys2Proof.Machine.execBeqz k f s
  | .bnez k f => Sys2Proof.Machine.execBnez k f s
  | .bltz k f => Sys2Proof.Machine.execBltz k f s
  | .bgez k f => Sys2Proof.Machine.execBgez k f s
  | .bgtz k f => Sys2Proof.Machine.execBgtz k f s
  | .blez k f => Sys2Proof.Machine.execBlez k f s
  | .bra k f => Sys2Proof.Machine.execBra k f s
  | .beq k da db off => Sys2Proof.Machine.execBeq k da db off s
  | .bne k da db off => Sys2Proof.Machine.execBne k da db off s
  | .blt k da db off => Sys2Proof.Machine.execBlt k da db off s
  | .bge k da db off => Sys2Proof.Machine.execBge k da db off s
  | .bltu k da db off => Sys2Proof.Machine.execBltu k da db off s
  | .bgeu k da db off => Sys2Proof.Machine.execBgeu k da db off s
  | .dbnz k off => Sys2Proof.Machine.execDbnz k off s
  | .bbs k bit off => Sys2Proof.Machine.execBbs k bit off s
  | .bbc k bit off => Sys2Proof.Machine.execBbc k bit off s
  | .bset k bit => Sys2Proof.Machine.execBset k bit s
  | .bclr k bit => Sys2Proof.Machine.execBclr k bit s
  | .nop k => Sys2Proof.Machine.execNop k s
  | .halt k => Sys2Proof.Machine.execHalt k s
  | .wait k => Sys2Proof.Machine.execWait k s
  | .ret k => Sys2Proof.Machine.execRet k s
  | .reti k => Sys2Proof.Machine.execReti k s
  | .trap k n => Sys2Proof.Machine.execTrap k n s
  | .push k dn => Sys2Proof.Machine.execPush k dn s
  | .pusha k an => Sys2Proof.Machine.execPusha k an s
  | .popa k an => Sys2Proof.Machine.execPopa k an s
  | .jmp k tgt => Sys2Proof.Machine.execJmp k tgt s
  | .call k tgt => Sys2Proof.Machine.execCall k tgt s
  | .jmpr k ds => Sys2Proof.Machine.execJmpr k ds s
  | .callr k ds => Sys2Proof.Machine.execCallr k ds s
  | .adds k f => Sys2Proof.Machine.execAdds k f s
  | .subs k f => Sys2Proof.Machine.execSubs k f s
  | .andn k f => Sys2Proof.Machine.execAndn k f s
  | .mul k f => Sys2Proof.Machine.execMul k f s
  | .mulu k f => Sys2Proof.Machine.execMulu k f s
  | .div k f => Sys2Proof.Machine.execDiv k f s
  | .divs k f => Sys2Proof.Machine.execDivs k f s
  | .divu k f => Sys2Proof.Machine.execDivu k f s
  | .maxi k f => Sys2Proof.Machine.execMaxi k f s
  | .mini k f => Sys2Proof.Machine.execMini k f s
  | .addc k dd ds bit => Sys2Proof.Machine.execAddc k dd ds bit s
  | .subc k dd ds bit => Sys2Proof.Machine.execSubc k dd ds bit s
  | .bfext k dd ds pos len => Sys2Proof.Machine.execBfext k dd ds pos len s
  | .bfexts k dd ds pos len => Sys2Proof.Machine.execBfexts k dd ds pos len s
  | .bfins k dd ds pos len => Sys2Proof.Machine.execBfins k dd ds pos len s
  | .bperm k dd ds dsel => Sys2Proof.Machine.execBperm k dd ds dsel s
  | .movb k d bit n => Sys2Proof.Machine.execMovb k d bit n s
  | .movbd k d bit n => Sys2Proof.Machine.execMovbd k d bit n s
  | .lea k an imm => Sys2Proof.Machine.execLea k an imm s
  | .seta k an seg imm => Sys2Proof.Machine.execSeta k an seg imm s
  | .addar k an ds => Sys2Proof.Machine.execAddar k an ds s
  | .segld k seg an => Sys2Proof.Machine.execSegld k seg an s
  | .segst k seg an => Sys2Proof.Machine.execSegst k seg an s
  | .movsd k dd seg => Sys2Proof.Machine.execMovsd k dd seg s
  | .movds k seg ds => Sys2Proof.Machine.execMovds k seg ds s
  | .rep k src cnt => Sys2Proof.Machine.execRep k src cnt s
  | .repn k src cnt => Sys2Proof.Machine.execRepn k src cnt s
  | .mac k f => Sys2Proof.Machine.execMac k f s
  | .msu k f => Sys2Proof.Machine.execMsu k f s
  | .mpy k f => Sys2Proof.Machine.execMpy k f s
  | .cmac k f => Sys2Proof.Machine.execCmac k f s
  | .cmacj k f => Sys2Proof.Machine.execCmacj k f s
  | .cmpy k f => Sys2Proof.Machine.execCmpy k f s
  | .clra k acc => Sys2Proof.Machine.execClra k acc s
  | .mvad k dd acc sel => Sys2Proof.Machine.execMvad k dd acc sel s
  | .mvda k acc ds sel => Sys2Proof.Machine.execMvda k acc ds sel s
  | .stsc k an mod acc => Sys2Proof.Machine.execStsc k an mod acc s
  | .setsh k acc sh => Sys2Proof.Machine.execSetsh k acc sh s
  | .setam k acc cplx wrap psh => Sys2Proof.Machine.execSetam k acc cplx wrap psh s
  | .exchangeStageWrite hi v => Sys2Proof.Machine.execExchangeStageWrite hi v s
  | .exchangeWordWrite w v => Sys2Proof.Machine.execExchangeWordWrite w v s
  | .exchangeRead w dword => Sys2Proof.Machine.execExchangeRead w dword s
  | .busMasterEnable on => Sys2Proof.Machine.execBusMasterEnable on s
  | .dmaFault ring slot kind address => Sys2Proof.Machine.execDmaFault ring slot kind address s
  | .functionLevelReset => Sys2Proof.Machine.execFunctionLevelReset s
  | .d3hot => Sys2Proof.Machine.execD3hot s
  | .spiRead xw low address words => Sys2Proof.Machine.execSpiRead xw low address words s
  | .spiWrite xw low address words => Sys2Proof.Machine.execSpiWrite xw low address words s
  | .character uart dt idle ticks began => Sys2Proof.Machine.execCharacter uart dt idle ticks began s
  | .breakOn uart dt => Sys2Proof.Machine.execBreak uart dt s
  | .breakEnd uart dt ticks => Sys2Proof.Machine.execBreakEnd uart dt ticks s
  | .lineDead uart dt low => Sys2Proof.Machine.execLineDead uart dt low s
  | .rxIdle uart dt => Sys2Proof.Machine.execRxIdle uart dt s
  | .characterSent uart dt => Sys2Proof.Machine.execCharacterSent uart dt s
  | .cts uart high => Sys2Proof.Machine.execCts uart high s
  | .rxdata uart => Sys2Proof.Machine.execRxdata uart s
  | .txdata uart v => Sys2Proof.Machine.execTxdata uart v s
  | .sensorSample dt temps volts => Sys2Proof.Machine.execSensorSample dt temps volts s
  | .supervisionCheck dt => Sys2Proof.Machine.execSupervisionCheck dt s
  | .logMirror dt ok => Sys2Proof.Machine.execLogMirror dt ok s
  | .post v => Sys2Proof.Machine.execPost v s
  | .data0 => Sys2Proof.Machine.execData0 s
  | .begin => Sys2Proof.Machine.execBegin s
  | .write => Sys2Proof.Machine.execWrite s
  | .finish => Sys2Proof.Machine.execFinish s
  | .abort => Sys2Proof.Machine.execAbort s
  | .revokeKey0 => Sys2Proof.Machine.execRevokeKey0 s
  | .updDone dt ok => Sys2Proof.Machine.execUpdDone dt ok s
  | .healthy dt => Sys2Proof.Machine.execHealthy dt s
  | .trialTimeout dt => Sys2Proof.Machine.execTrialTimeout dt s
  | .loopEnable => Sys2Proof.Machine.execLoopEnable s
  | .rtcSync => Sys2Proof.Machine.execRtcSync s
  | .retain row data => Sys2Proof.Machine.execRetain row data s
  | .log sev code arg16 arg32 => Sys2Proof.Machine.execLog sev code arg16 arg32 s
  | .cryptoRequest => Sys2Proof.Machine.execCryptoRequest s
  | .cryptoAnswer => Sys2Proof.Machine.execCryptoAnswer s
  | .reepochArm => Sys2Proof.Machine.execReepochArm s
  | .armedExpiry dt => Sys2Proof.Machine.execArmedExpiry dt s
  | .retHi v => Sys2Proof.Machine.execRetHi v s
  | .rtcSecLo => Sys2Proof.Machine.execRtcSecLo s
  | .vbatLost => Sys2Proof.Machine.execVbatLost s
  | .backupSwitchover toBat vbat => Sys2Proof.Machine.execBackupSwitchover toBat vbat s
  | .hello dt seq crc => Sys2Proof.Machine.execHello dt seq crc s
  | .recoveryBegin dt seq crc len => Sys2Proof.Machine.execRecoveryBegin dt seq crc len s
  | .data dt seq crc offset bytes => Sys2Proof.Machine.execData dt seq crc offset bytes s
  | .recoveryFinish dt seq crc => Sys2Proof.Machine.execRecoveryFinish dt seq crc s
  | .recoveryAbort dt seq crc => Sys2Proof.Machine.execRecoveryAbort dt seq crc s
  | .baud dt seq crc rate => Sys2Proof.Machine.execBaud dt seq crc rate s
  | .baudApply dt => Sys2Proof.Machine.execBaudApply dt s
  | .baudTimeout dt => Sys2Proof.Machine.execBaudTimeout dt s
  | .resetFrame dt seq crc => Sys2Proof.Machine.execResetFrame dt seq crc s
  | .reset key => Sys2Proof.Machine.execReset key s
  | .quench key => Sys2Proof.Machine.execQuench key s
  | .recover => Sys2Proof.Machine.execRecover s
  | .recoveryStart => Sys2Proof.Machine.execRecoveryStart s
  | .recoveryEnd => Sys2Proof.Machine.execRecoveryEnd s
  | .resetRelease straps rails vddiob flash => Sys2Proof.Machine.execResetRelease straps rails vddiob flash s
  | .perstNRelease => Sys2Proof.Machine.execPerstNRelease s
  | .pcieLinkChange up gen lanes => Sys2Proof.Machine.execPcieLinkChange up gen lanes s
  | .d0Entry => Sys2Proof.Machine.execD0Entry s
  | .msixMask w => Sys2Proof.Machine.execMsixMask w s
  | .popDn k dn => Sys2Proof.Machine.execPopDn k dn s
  | .illegalInstruction k long => Sys2Proof.Machine.execIllegalInstruction k long s
  | .spiShort => Sys2Proof.Machine.execSpiShort s
  | .slotRetry dt => Sys2Proof.Machine.execSlotRetry dt s

end Sys2Proof.Machine
end

