-- ==== Sys2Proof/Safety.lean ====
section
/-! DEFINITION. What counts as a safe run, in the terms the statements use: the memories' canonical form, steps that answer a
next state, the queue and the fuses as a step leaves them. -/

namespace Sys2Proof.Machine

/-- Every listed key of a table lies below `n`. -/
def Tab.below {α : Type} (n : Nat) (t : Tab α) : Bool := t.all fun e => decide (e.1 < n)

/-- A memory of `n` words is in canonical form: keys strictly rising and below `n`, no word listed that an unlisted
address reads as. -/
def Memory.wf {α : Type} [DecidableEq α] (n : Nat) (d : Nat → α) (t : Tab α) : Bool := Tab.wf d t && Tab.below n t

/-- Exchange memory, measurement RAM and snapshot memory (rule R57), retention memory (rule R551) and the flash (rule R534) are in canonical
form. -/
def State.memWf (s : State) : Bool :=
  Memory.wf 0x10000 (fun _ => 0) s.exch && Memory.wf 0x80000 (fun _ => 0) s.measRam &&
    Tab.wf (fun _ => 0) s.snapMem && Tab.wf (fun _ => 0) s.bk.ret && Tab.wf (fun _ => 0xFF) s.flash

/-- The step goes on: no fault, no refusal. -/
def Goes (s : State) : Prop := ∃ t, step s = .next t

/-- A command has a next state on every state. -/
def Total (c : Instr) : Prop := ∀ s, ∃ t, exec c s = .next t

/-- The fuses that are blown in `f` are blown in the state (rule R525: a fuse once blown stays so). -/
def State.blownAtLeast (f : BitVec 4096) (s : State) : Prop := f &&& s.fuses = f

/-- `n` steps go on from one state to another. -/
def Reaches : Nat → State → State → Prop
  | 0, s, t => s = t
  | n + 1, s, t => ∃ u, step s = .next u ∧ Reaches n u t

/-! ## How a command ends -/

/-- A register by its address. -/
def State.cell (s : State) (a : Nat) : Word := Tab.get regReset s.regs a

/-- An interrupt message, which goes out by itself where a pending bit rises (rule R89). -/
def Output.isMessage : Output → Bool
  | .msix _ => true
  | _ => false

/-- Two states are the same in everything but the order in which registers are listed and the interrupt requests and messages,
which follow the pending bits by rule R89. -/
def Alike (s t : State) : Prop :=
  (∀ a, s.cell a = t.cell a) ∧ s.outbox.filter (fun o => !o.isMessage) = t.outbox.filter (fun o => !o.isMessage) ∧
  ({ s with regs := t.regs, outbox := t.outbox, msixReq := t.msixReq, msixPba := t.msixPba } : State) = t

/-- The command ends in the state t. -/
def Ends (c : Instr) (s t : State) : Prop := ∃ u, exec c s = .next u ∧ Alike u t

/-- An event bit of a page is set (rule R87). -/
def State.irq (s : State) (p bit : Nat) : State := s.setReg p 0x014 (s.reg p 0x014 ||| BitVec.ofNat 32 (2 ^ bit))

/-- A RESET OF THE WHOLE MALITH has happened (rules R135, R558, R584): every register reads its reset value but RESET_CAUSE, which
holds the cause and counts (not at power-on); the backup domain and the fuses are kept, and the flash, but that a reset by the host or
by a trial's timeout mirrors the log first (log entry 65); a journal entry in flight takes its final disposition, and at power-on the
journal is empty; all else is as after reset but for the marks of bad words in fuses and retention memory, and what lies outside the
block. -/
def WasReset (cause : Nat) (s t : State) : Prop :=
  t.inReset = true ∧ (∀ a, a ≠ addr 0x0C4 0x06C → t.cell a = regReset a) ∧
  t.reg 0x0C4 0x06C = BitVec.ofNat 32 (cause + (if cause = 0 then 0 else min 0xFFFF (s.rf 0x0C4 0x06C 31 16 + 1)) * 65536) ∧
  t.bk = s.bk ∧ t.fuses = s.fuses ∧ t.el = s.el ∧ t.por = s.por ∧ t.boot = { count := s.boot.count } ∧
  t.flash = (if (cause = 2 ∨ cause = 3) ∧ s.log.flashOk = true then (s.mirror s.logWaiting).flash else s.flash) ∧
  t.cmd = { jrn := if cause = 0 then [] else s.cmd.jrn.map fun e => e.final false } ∧ t.host = { perst := s.host.perst } ∧
  ({ t with regs := [], bk := {}, fuses := 0, flash := [], el := 0, por := 0, boot := {}, cmd := {}, host := {}, bad := [],
            pending := [], hostMem := [], hostRead := 0, outbox := [], freeCtr := 0 } : State) =
    { State.reset with fuses := 0 }

/-- The RUN bit of every ring is clear (rules R500, R501), and no other register has changed. -/
def RingsStopped (s t : State) : Prop :=
  (∀ e ∈ ringCtls, t.reg e.1 e.2 = setFld (s.reg e.1 e.2) 0 0 0) ∧
  (∀ a, (∀ e ∈ ringCtls, a ≠ addr e.1 e.2) → t.cell a = s.cell a)

/-- The window answers the host on page p: it is on, no reset of the Assay island takes the page away (rule R523), and UART
recovery does not own it (rule R506). -/
def State.hears (s : State) (p : Nat) : Prop :=
  p < 0x100 ∧ s.winOff = false ∧ (s.assay.inWdog = true → p < 0x0C0 ∨ 0x0C5 < p) ∧ (p = 0x0B1 → s.recoveryStrap = false)

/-- No register has changed but those at some addresses. -/
def RegsKept (l : List Nat) (s t : State) : Prop := ∀ a, a ∉ l → t.cell a = s.cell a

/-- A read completes: its answer, and the state it leaves beside. -/
def Answers (c : Instr) (s : State) (v : Word) (t : State) : Prop := Ends c s { t with hostRead := v }

/-- One record was written at the head of the event log (rules R530, R532), with NEW raised from the severity of LOG.CFG on; no
other record has changed. -/
def Logged (s t : State) (src sev code arg16 : Nat) (arg32 : Word) : Prop :=
  t.log.next = s.log.next + 1 ∧ t.logRec s.log.next = s.logRecord src sev code arg16 arg32 ∧
  (∀ i, i % 4096 ≠ s.log.next % 4096 → t.logRec i = s.logRec i) ∧ t.log.mirrored = s.log.mirrored ∧
  (∀ a, a ≠ addr 0x0C2 0x014 → t.cell a = s.cell a) ∧
  t.reg 0x0C2 0x014 = (if sev ≥ s.rf 0x0C2 0x044 2 0 then s.reg 0x0C2 0x014 ||| BitVec.ofNat 32 (2 ^ 16) else s.reg 0x0C2 0x014)

/-! ## Commands of the host -/

/-- The command ring takes a record at once: the rings run and are empty, completions have room and none waits, the heat's 64
commands and the 256 in flight are not reached, no command in flight waits or holds its handle, a FENCE finds none in flight, and
its sequence number is new (rules R107, R125, R126, R129, R135). -/
def State.takesCommand (s : State) (f : CmdFields) : Prop :=
  s.hears 0x003 ∧ s.locked 0x003 = false ∧ s.cmdRun = true ∧ s.rf 0x003 0x050 11 0 = s.rf 0x003 0x054 11 0 ∧
  s.rf 0x003 0x050 11 0 < 2 ^ s.rf 0x003 0x04C 3 0 ∧ s.sqFull = false ∧ s.cqFull = false ∧ s.cmd.held = [] ∧ s.cmd.taken < 64 ∧
  s.flights.length < 256 ∧ (∀ e ∈ s.flights, e.wait = false ∧ (f.handle = 0 ∨ (e.named ≠ f.handle ∧ e.handle ≠ f.handle))) ∧
  (f.fence = true → s.flights = []) ∧ s.jfind f.seq = none

/-- The journal entry that a record makes (rule R135). -/
def recordOf (op : Nat) (f : CmdFields) : JEntry := { words := cmdWords f op }

/-- The record placed and taken (rules R124, R125, R135): its words in the ring, both indices past it, the command counted, its
journal entry the newest. -/
def State.recorded (s : State) (op : Nat) (f : CmdFields) : State :=
  let t := s.rf 0x003 0x050 11 0
  let base := s.ringBase 0x003 0x044 0x048 + t * (if s.cmdLoc then 8 else 64)
  let next := (t + 1) % 2 ^ s.rf 0x003 0x04C 3 0
  let s1 := ((s.putRec s.cmdLoc base (cmdWords f op)).setRf 0x003 0x050 11 0 next).setReg 0x003 0x054 (BitVec.ofNat 32 next)
  ({ s1 with cmd := { s1.cmd with taken := s.cmd.taken + 1 } } : State).jadd (recordOf op f)

/-- Nothing more can start at once: no command that waited may go on, and the ring holds no record that may be taken. -/
def State.settled (s : State) : Prop := s.flights.find? (fun e => e.wait && !s.blocked e) = none ∧ s.sqEmpty = true

/-- The command of an opcode completes its intake, after which nothing more can start, and what holds then. -/
def Accepts (c : Instr) (op : Nat) (f : CmdFields) (s : State) (post : State → Prop) : Prop :=
  (startCmd (s.recorded op f) (recordOf op f)).settled → ∃ t, exec c s = .next t ∧ t.cmd.stalled = false ∧ post t

/-- The journal entry of a sequence number is in flight with its last completed step, the heat of its next one, and its handle. -/
def State.inFlightAt (s : State) (seq : Word) (step due : Nat) (handle : Word) : Prop :=
  ∃ e, s.jfind seq = some e ∧ e.disp = .inFlight ∧ e.step = step ∧ e.due = due ∧ e.handle = handle

/-- The journal entry of a sequence number is done, with its status and its completion words (rules R128, R135). -/
def State.doneAs (s : State) (seq : Word) (status : Nat) (ws : List Word) : Prop :=
  ∃ e, s.jfind seq = some e ∧ e.disp = .done ∧ e.status = status ∧ e.compl = ws

/-- The base registers of the rings with a RUN bit, in the order of `ringCtls`: low and high word, and the alignment in bytes of host
memory and in native words (rules R124, R263, R337, R430). -/
def ringBases (r : Fin 7) : List (Nat × Nat × Nat × Nat) :=
  if r = 0 then [(0x044, 0x048, 64, 8), (0x058, 0x05C, 32, 4)] else if r = 1 then [(0x044, 0x048, 32, 16)]
  else if r = 2 then [(0x084, 0x088, 1, 1)] else [(0x0A4, 0x0A8, 64, 256), (0x0AC, 0x0B0, 64, 256)]

/-- A ring's base registers obey R612 for its LOC. -/
def State.basesFit (s : State) (r : Fin 7) (p loc : Nat) : Prop :=
  ∀ b ∈ ringBases r, (s.reg p b.1).toNat % (if loc = 1 then b.2.2.2 else b.2.2.1) = 0 ∧ (loc = 1 → s.reg p b.2.1 = 0)

/-- A value that a ring's control register takes (rule R612): LOC as it is, sizes in range and not changed while the ring runs, and a
base aligned where it starts. -/
def State.takesRun (s : State) (r : Fin 7) (p o : Nat) (v : Word) : Prop :=
  fld v 1 1 = s.rf p o 1 1 ∧ (v.getLsbD 0 = true → s.rf p o 0 0 = 1 ∨ s.basesFit r p (s.rf p o 1 1)) ∧
  (r = 2 → 8 ≤ fld v 6 2 ∧ fld v 6 2 ≤ 20 ∧ (s.rf p o 0 0 = 1 → fld v 6 2 = s.rf p o 6 2)) ∧
  (3 ≤ r.val → 4 ≤ fld v 7 4 ∧ fld v 7 4 ≤ 10 ∧ 4 ≤ fld v 11 8 ∧ fld v 11 8 ≤ 10 ∧
    (s.rf p o 0 0 = 1 → fld v 7 4 = s.rf p o 7 4 ∧ fld v 11 8 = s.rf p o 11 8))

/-- No command waits for another, none waits in the ring, and no completion waits for space. -/
def State.noneWaits (s : State) : Prop := (∀ e ∈ s.flights, e.wait = false) ∧ s.sqEmpty = true ∧ s.cmd.held = []

/-! ## Network ports -/

/-- Port n takes a PTP message: its link is up, and the message is of its VLAN, its transport, its domain and version 2.0 or 2.1, well
formed, and meant for a port that takes part (rules R411, R412, R418). -/
def State.takesPtp (s : State) (n : Nat) (h : PtpHdr) : Prop :=
  let u := s.after h.dt
  u.inReset = false ∧ (u.port n).link = true ∧
  ((u.reg (ethPage n) 0x040).getLsbD 4 = true → h.vlan = some (u.rf (ethPage n) 0x040 19 8)) ∧
  h.ver = 2 ∧ h.minor ≤ 1 ∧ h.good = true ∧ h.carrier = fld (u.ptpCfg n) 5 4 ∧ h.domain = u.rf 0x094 0x040 15 8 ∧ u.ptpRole n ≠ 0

/-- A slave's exchange counts (rule R422): SLAVE, its parent heard within the Announce timeout, no step between, HEALTHY 1, no quench. -/
def State.measures (s : State) (n : Nat) : Prop :=
  s.halted = false ∧ (s.port n).ps = psSLAVE ∧ s.tb.healthy = true ∧
  s.el ≤ (s.port n).annEl + fld (s.ptpCfg n) 23 20 * logUnits (s.logAnn n)

/-! ## Instructions of the Casak cores -/

/-- Nothing stops an instruction before its own effect: core k runs within its booking, the rows of the four bytes at its
program counter have no uncorrectable error, and it is not about to pass over a repeat of no iterations (rules R54, R456, R468, R471). -/
def State.ready (s : State) (k : Nat) : Prop :=
  s.canIssue k = true ∧ (∀ d, d < 4 → s.isBad k (((s.core k).pc + BitVec.ofNat 16 d).toNat / 8) = false) ∧
  (s.core k).skip = false

/-- A control instruction may issue: no delay slot is open and no repeat is active (rules R453, R456). -/
def State.readyCtl (s : State) (k : Nat) : Prop :=
  s.ready k ∧ (s.core k).slot = .no ∧ (s.core k).repAct = false

/-- Where a core goes on after an instruction of `len` bytes that does not set it itself: at the target or after the slot in a
delay slot, at the same instruction while a repeat has iterations left, else at the next one (rules R453, R455, R457). -/
def NextPc (c c' : Core) (len : Nat) : Prop :=
  (∀ a, c.slot = .to a → c'.pc = a ∧ c'.slot = .no ∧ c'.lc = c.lc) ∧
  (c.slot = .fall → c'.pc = c.pc + BitVec.ofNat 16 len ∧ c'.slot = .no ∧ c'.lc = c.lc) ∧
  (c.slot = .no → c'.slot = .no) ∧
  (c.slot = .no → c.repAct = false → c'.pc = c.pc + BitVec.ofNat 16 len ∧ c'.lc = c.lc ∧ c'.repAct = false) ∧
  (c.slot = .no → c.repAct = true → c.lc = 1 → c'.pc = c.pc + BitVec.ofNat 16 len ∧ c'.lc = 0 ∧ c'.repAct = false) ∧
  (c.slot = .no → c.repAct = true → c.lc ≠ 1 → c'.pc = c.pc ∧ c'.lc = c.lc - 1 ∧ c'.repAct = true)

/-- Everything of a core that an instruction leaves alone but for the data registers `ds`, the address registers `as`, the
accumulators `accs` and the bit variables `bits`; what the program counter and the cycle counts do is not said, nor what the
segments and data memories do. A core that waits for the host's stop may stop. -/
def CoreFrame (c c' : Core) (ds : List (BitVec 4)) (as accs bits : List Nat) : Prop :=
  (∀ n, n ∉ ds → c'.dr n = c.dr n) ∧ (∀ n, n ∉ as → c'.ar n = c.ar n) ∧ (∀ n, n ∉ accs → c'.ac n = c.ac n) ∧
  (∀ b, b ∉ bits → c'.bits.getLsbD b = c.bits.getLsbD b) ∧
  c'.user = c.user ∧ c'.heatNo = c.heatNo ∧ c'.trigK = c.trigK ∧ c'.trigH = c.trigH ∧ c'.iram = c.iram ∧
  (c.stopReq = false → c'.st = c.st)

/-- The segments and the data memories of a core are as they were. -/
def SegXY (c c' : Core) : Prop := c'.seg = c.seg ∧ c'.x = c.x ∧ c'.y = c.y

/-- Everything outside core k is as it was: the other cores, every register but HALT_INFO of a core that stops, and all else. -/
def Outside (k : Nat) (s t : State) : Prop :=
  (∀ j, j ≠ k → t.core j = s.core j) ∧ (∀ p o, addr p o ≠ addr (corePage k) 0x048 → t.reg p o = s.reg p o) ∧
  ({ t with cores := s.cores, regs := s.regs } : State) = s

/-- The same but for the free number that an access uses up and the memories that cores share. -/
def OutsideMem (k : Nat) (s t : State) : Prop :=
  (∀ j, j ≠ k → t.core j = s.core j) ∧ (∀ p o, addr p o ≠ addr (corePage k) 0x048 → t.reg p o = s.reg p o) ∧
  ({ t with cores := s.cores, regs := s.regs, freeCtr := s.freeCtr, measRam := s.measRam, exch := s.exch, bad := s.bad } : State) = s

/-- An instruction that only computes on its core completes: what holds of the core after it, which registers, accumulators and
bit variables it may have changed, and where the core goes on. -/
def Computes (k : CoreId) (s : State) (i : Instr) (len : Nat) (ds : List (BitVec 4)) (as accs bits : List Nat)
    (post : Core → Prop) : Prop :=
  ∃ t, exec i s = .next t ∧ post (t.core k) ∧ CoreFrame (s.core k) (t.core k) ds as accs bits ∧
    SegXY (s.core k) (t.core k) ∧ NextPc (s.core k) (t.core k) len ∧ Outside k s t

/-- The same of an instruction with one destination, a data register. -/
def Writes (k : CoreId) (s : State) (i : Instr) (len : Nat) (dd : BitVec 4) (v : Native) : Prop :=
  Computes k s i len [dd] [] [] [] fun c => c.dr dd = v

/-- A three-register instruction completes at each width (rule R451): a full word; the high halves, with Dd's low half kept; the
low halves, with its high half kept. -/
def ByWidth (k : CoreId) (s : State) (mk : BitVec 2 → BitVec 4 → BitVec 4 → BitVec 4 → Instr) (full : Native → Native → Native)
    (half : BitVec 36 → BitVec 36 → BitVec 36) : Prop :=
  ∀ dd ds dt : BitVec 4, let c := s.core k
    Writes k s (mk 0 dd ds dt) 4 dd (full (c.dr ds) (c.dr dt)) ∧
    Writes k s (mk 1 dd ds dt) 4 dd (ofHalves (half (hiHalf (c.dr ds)) (hiHalf (c.dr dt))) (loHalf (c.dr dd))) ∧
    Writes k s (mk 2 dd ds dt) 4 dd (ofHalves (hiHalf (c.dr dd)) (half (loHalf (c.dr ds)) (loHalf (c.dr dt))))

/-- The same with the 16-bit form, which takes Dd as its first source (rule R451). -/
def ByForm (k : CoreId) (s : State) (mk : AluForm → Instr) (full : Native → Native → Native)
    (half : BitVec 36 → BitVec 36 → BitVec 36) : Prop :=
  (∀ dd ds : BitVec 4, Writes k s (mk (.r16 dd ds)) 2 dd (full ((s.core k).dr dd) ((s.core k).dr ds))) ∧
  ByWidth k s (fun sz dd ds dt => mk (.r3 sz dd ds dt)) full half

/-- An instruction writes Dd, and sets B.OVF where its exact result does not fit, leaving it set where it was (rule R459). -/
def WritesOvf (k : CoreId) (s : State) (i : Instr) (len : Nat) (dd : BitVec 4) (v : Native) (ovf : Bool) : Prop :=
  Computes k s i len [dd] [] [] [0x000] fun c => c.dr dd = v ∧ c.bits.getLsbD 0x000 = ((s.core k).bits.getLsbD 0x000 || ovf)

/-- An exact result as it is written: limited to the extremes of w bits where the instruction saturates (rule R459). -/
def limited (sat : Bool) (w : Nat) (r : Int) : Int := if sat then max (-(2 ^ (w - 1))) (min (2 ^ (w - 1) - 1) r) else r

/-- A sum or difference at each width, with its overflow (rules R451, R459). -/
def SumByWidth (k : CoreId) (s : State) (mk : BitVec 2 → BitVec 4 → BitVec 4 → BitVec 4 → Instr) (sat : Bool)
    (op : Int → Int → Int) : Prop :=
  ∀ dd ds dt : BitVec 4, let c := s.core k
    let r := op (c.dr ds).toInt (c.dr dt).toInt
    let h := op (hiHalf (c.dr ds)).toInt (hiHalf (c.dr dt)).toInt
    let l := op (loHalf (c.dr ds)).toInt (loHalf (c.dr dt)).toInt
    WritesOvf k s (mk 0 dd ds dt) 4 dd (BitVec.ofInt 72 (limited sat 72 r)) (!fitsS 72 r) ∧
    WritesOvf k s (mk 1 dd ds dt) 4 dd (ofHalves (BitVec.ofInt 36 (limited sat 36 h)) (loHalf (c.dr dd))) (!fitsS 36 h) ∧
    WritesOvf k s (mk 2 dd ds dt) 4 dd (ofHalves (hiHalf (c.dr dd)) (BitVec.ofInt 36 (limited sat 36 l))) (!fitsS 36 l)

/-- What a bit instruction leaves in a bit variable it writes with `v` (rule R441): an RW bit takes it, a W0C bit is cleared by a
0, a read-only bit stays. -/
def bitAfter (c : Core) (b : Nat) (v : Bool) : Bool :=
  if bitRW b then v else if bitW0C b then c.bits.getLsbD b && v else c.bits.getLsbD b

/-- Byte j of a word. -/
def byteAt (v : Native) (j : Nat) : BitVec 8 := v.extractLsb' (8 * j) 8

/-- A division writes quotient and remainder and continues, marking the sticky bits it sets. -/
def DividesTo (k : CoreId) (s : State) (i : Instr) (dd : BitVec 4) (quo rem : Int) (ovf dz : Bool) : Prop :=
  Computes k s i 4 [dd, dd + 1] [] [] [0x000, 0x001] fun c =>
    c.dr dd = BitVec.ofInt 72 quo ∧ c.dr (dd + 1) = BitVec.ofInt 72 rem ∧
    c.bits.getLsbD 0x000 = ((s.core k).bits.getLsbD 0x000 || ovf) ∧
    c.bits.getLsbD 0x001 = ((s.core k).bits.getLsbD 0x001 || dz)

/-! ## Memory as the Casak cores see it -/

/-- The word of a space that an address names: measurement RAM and exchange memory have 524,288 and 65,536 words (rule R442). -/
def wordOf (sp a : Nat) : Nat := if sp = 2 then a % 0x80000 else if sp = 3 then a % 0x10000 else a

/-- Every data word that core k can address reads as before. -/
def MemKept (k : Nat) (s t : State) : Prop := ∀ sp a, sp < 4 → t.dataRd k sp a = s.dataRd k sp a

/-- One word was stored: it reads the value stored, and every other word as before. -/
def MemStored (k : Nat) (s t : State) (sp a : Nat) (v : Native) : Prop :=
  t.dataRd k sp a = v ∧
  ∀ sp' a', sp' < 4 → (sp' ≠ sp ∨ wordOf sp' a' ≠ wordOf sp a) → t.dataRd k sp' a' = s.dataRd k sp' a'

/-- The same outside core k, but for the free number that an access uses up. -/
def OutsideFree (k : Nat) (s t : State) : Prop :=
  (∀ j, j ≠ k → t.core j = s.core j) ∧ (∀ p o, addr p o ≠ addr (corePage k) 0x048 → t.reg p o = s.reg p o) ∧
  ({ t with cores := s.cores, regs := s.regs, freeCtr := s.freeCtr } : State) = s

/-- An access through An may go on: address generation names a word (rule R446) and, for a read, the word is good (rule R53). -/
def State.readsAt (s : State) (k an : Nat) (disp : Int) (sp a : Nat) : Prop :=
  (s.core k).locate k an disp false = some (sp, a) ∧ s.isBad (spaceMem k sp) a = false

/-- An instruction that reads memory through An completes (rules R446, R451): what holds of the core after it, with An as its
post-modify leaves it and B.MFOLD set where the address folds. -/
def Loads (k : CoreId) (s : State) (i : Instr) (len an : Nat) (m : BitVec 2) (ds : List (BitVec 4)) (post : Core → Prop) : Prop :=
  ∃ t, exec i s = .next t ∧ post (t.core k) ∧
    (t.core k).ar an = ((s.core k).postModify k an m).ar an ∧
    (t.core k).bits.getLsbD 0x003 = ((s.core k).bits.getLsbD 0x003 || (s.core k).foldsAt k an) ∧
    CoreFrame (s.core k) (t.core k) ds [an] [] [0x003] ∧ NextPc (s.core k) (t.core k) len ∧ MemKept k s t ∧ OutsideFree k s t

/-- An instruction that stores a word through An completes: the word address generation names takes it, and no other. -/
def Stores (k : CoreId) (s : State) (i : Instr) (len an : Nat) (m : BitVec 2) (sp a : Nat) (v : Native) (bits : List Nat) : Prop :=
  ∃ t, exec i s = .next t ∧ MemStored k s t sp a v ∧
    (t.core k).ar an = ((s.core k).postModify k an m).ar an ∧
    (t.core k).bits.getLsbD 0x003 = ((s.core k).bits.getLsbD 0x003 || (s.core k).foldsAt k an) ∧
    CoreFrame (s.core k) (t.core k) [] [an] [] (0x003 :: bits) ∧ (t.core k).seg = (s.core k).seg ∧
    NextPc (s.core k) (t.core k) len ∧ OutsideMem k s t

/-- The next word below the stack pointer can be pushed (rule R447), and where it lies. -/
def State.pushesTo (s : State) (k sp a : Nat) : Prop :=
  0 < offOf ((s.core k).ar 7) ∧ (s.core k).locate k 7 (-1) true = some (sp, a)

/-- The word at the stack pointer can be popped (rule R447), and where it lies. -/
def State.popsFrom (s : State) (k sp a : Nat) : Prop :=
  offOf ((s.core k).ar 7) < descLimit ((s.core k).sg k 7) ∧ s.readsAt k 7 0 sp a

/-- A7 after a push (−1) or a pop (+1): its offset moves, its segment is 7 (rules R438, R447). -/
def StackMoved (c c' : Core) (d : Int) : Prop :=
  (offOf (c'.ar 7) : Int) = ((offOf (c.ar 7) : Int) + d) % 2 ^ 24 ∧ segOf (c'.ar 7) = 7

/-- A push of one word by an instruction that goes on at the next (rules R447, R451). -/
def Pushes (k : CoreId) (s : State) (i : Instr) (sp a : Nat) (v : Native) : Prop :=
  ∃ t, exec i s = .next t ∧ MemStored k s t sp a v ∧ StackMoved (s.core k) (t.core k) (-1) ∧
    CoreFrame (s.core k) (t.core k) [] [7] [] [] ∧ (t.core k).seg = (s.core k).seg ∧ NextPc (s.core k) (t.core k) 2 ∧ OutsideMem k s t

/-! ## Exceptions of the Casak cores -/

/-- CORE k HAS TAKEN AN EXCEPTION (rule R465): where the frame can be pushed it is on the stack, B.IE is 0, the core goes on at the
vector with no repeat and no slot, and for vectors 1 to 8 EXC_CNT has counted and EXC is raised (rule R473, log entry 96); no other
register of the core has changed but what the instruction itself wrote in `ds` and `bits`. -/
def Enters (k : Nat) (s t : State) (ds : List (BitVec 4)) (bits : List Nat) (v : Nat) (frame : Native) : Prop :=
  ∀ sp a, s.pushesTo k sp a →
    MemStored k s t sp a frame ∧ StackMoved (s.core k) (t.core k) (-1) ∧
    (t.core k).pc = BitVec.ofNat 16 (8 * v) ∧ (t.core k).bits.getLsbD 0x010 = false ∧
    (t.core k).repAct = false ∧ (t.core k).slot = .no ∧
    CoreFrame (s.core k) (t.core k) ds [7] [] (0x010 :: bits) ∧ (t.core k).seg = (s.core k).seg ∧
    t.reg (corePage k) 0x058 = (if v ≤ 8 then cntUp (s.reg (corePage k) 0x058) else s.reg (corePage k) 0x058) ∧
    (v ≤ 8 → (t.reg (corePage k) 0x014).getLsbD 18 = true) ∧
    (∀ j, j ≠ k → t.core j = s.core j) ∧
    (∀ p o, addr p o ≠ addr (corePage k) 0x048 → addr p o ≠ addr (corePage k) 0x058 → addr p o ≠ addr (corePage k) 0x014 →
      t.reg p o = s.reg p o) ∧
    ({ t with cores := s.cores, regs := s.regs, freeCtr := s.freeCtr, measRam := s.measRam, exch := s.exch, bad := s.bad,
              msixReq := s.msixReq, msixPba := s.msixPba, outbox := s.outbox } : State) = s

/-- The frame of a fault at the instruction in issue (rule R465): it resumes at that instruction, in its delay slot with the
slot's continuation. -/
def Core.faultFrame (c : Core) (k v code len : Nat) : Native := c.frame k c.pc (c.contAfter len) (c.slot ≠ .no) v code

/-- An instruction meets an uncorrectable word of a space: it has no effect of its own, the page that owns the word captures it (rule
R53), and DATA_ERR is taken, which resumes at it. -/
def MeetsBadWord (k : CoreId) (s : State) (i : Instr) (len sp : Nat) : Prop :=
  ∃ t, exec i s = .next t ∧ Enters k (s.capErr (spacePage k sp) 0x20 0) t [] [] 6 ((s.core k).faultFrame k 6 sp len)

/-- An instruction has no effect of its own and takes an exception that resumes at it. -/
def Faults (k : CoreId) (s : State) (i : Instr) (len v code : Nat) : Prop :=
  ∃ t, exec i s = .next t ∧ Enters k s t [] [] v ((s.core k).faultFrame k v code len)

/-- A branch completes: its delay slot is open, with the target where it is taken, and nothing else of the machine changes but
the cycle counts (rule R453). -/
def Branches (k : CoreId) (s : State) (i : Instr) (len : Nat) (taken : Prop) (target : BitVec 16) : Prop :=
  ∃ t, exec i s = .next t ∧ (t.core k).pc = (s.core k).pc + BitVec.ofNat 16 len ∧
    (taken → (t.core k).slot = .to target) ∧ (¬ taken → (t.core k).slot = .fall) ∧
    (t.core k).lc = (s.core k).lc ∧ (t.core k).repAct = false ∧
    CoreFrame (s.core k) (t.core k) [] [] [] [] ∧ SegXY (s.core k) (t.core k) ∧ Outside k s t

/-! ## Accumulators -/

/-- The operands x and y of a multiply-accumulate (rules R475, R476): two registers; or the words through AX in space X and
through AY in space Y; or with AY 0b11 the word through AX twice. `as` are the address registers it moves, `c'` the core with
them moved, `fold` whether an address folds. -/
def MacOperands (k : CoreId) (s : State) (f : MacForm) (x y : Native) (as : List Nat) (c' : Core) (fold : Bool) : Prop :=
  let c := s.core k
  (∃ acc ds dt, f = .dr acc ds dt ∧ x = c.dr ds ∧ y = c.dr dt ∧ as = [] ∧ c' = c ∧ fold = false) ∨
  (∃ acc ax xm i, f = .d16 acc ax 3 xm false ∧ s.readsAt k ax.toNat 0 0 i ∧ x = s.dataRd k 0 i ∧ y = s.dataRd k 0 i ∧
    as = [ax.toNat] ∧ c' = c.postModify k ax.toNat (if xm then 1 else 0) ∧ fold = c.foldsAt k ax.toNat) ∨
  (∃ acc ax ay xm ym i j, ay ≠ 3 ∧ f = .d16 acc ax ay xm ym ∧ s.readsAt k ax.toNat 0 0 i ∧ s.readsAt k (4 + ay.toNat) 0 1 j ∧
    x = s.dataRd k 0 i ∧ y = s.dataRd k 1 j ∧ as = [ax.toNat, 4 + ay.toNat] ∧
    c' = (c.postModify k ax.toNat (if xm then 1 else 0)).postModify k (4 + ay.toNat) (if ym then 1 else 0) ∧
    fold = (c.foldsAt k ax.toNat || c.foldsAt k (4 + ay.toNat)))

/-- A real multiply-accumulate writes the exact result, or what WRAP makes of it, and sets ACCn.SOV where it does not fit
(rules R479, R482). -/
def RealMac (k : CoreId) (s : State) (mk : MacForm → Instr) (op : Int → Int → Int) : Prop :=
  ∀ f x y as c' fold, MacOperands k s f x y as c' fold → ((s.core k).ac f.acc).cplx = false →
    Computes k s (mk f) f.len [] as [f.acc] [0x003, 0x004 + f.acc] fun d =>
      let a := (s.core k).ac f.acc
      let r := op a.val (dotReal x y)
      d.ac f.acc = { a with bits := BitVec.ofInt 80 (limited (!a.wrap) 80 r) } ∧
      d.bits.getLsbD (0x004 + f.acc) = ((s.core k).bits.getLsbD (0x004 + f.acc) || !fitsS 80 r) ∧
      (∀ n ∈ as, d.ar n = c'.ar n) ∧ d.bits.getLsbD 0x003 = ((s.core k).bits.getLsbD 0x003 || fold)

/-- A complex multiply-accumulate: each lane as its own 40-bit part, the products rounded by PSH (rules R479, R480, R482). -/
def CplxMac (k : CoreId) (s : State) (mk : MacForm → Instr) (add conj : Bool) : Prop :=
  ∀ f x y as c' fold, MacOperands k s f x y as c' fold → ((s.core k).ac f.acc).cplx = true →
    Computes k s (mk f) f.len [] as [f.acc] [0x003, 0x004 + f.acc] fun d =>
      let a := (s.core k).ac f.acc
      let xr := (hiHalf x).toInt
      let xi := (loHalf x).toInt
      let yr := (hiHalf y).toInt
      let yi := if conj then -(loHalf y).toInt else (loHalf y).toInt
      let re := (if add then a.re else 0) + roundShift (xr * yr - xi * yi) a.psh.toNat
      let im := (if add then a.im else 0) + roundShift (xr * yi + xi * yr) a.psh.toNat
      d.ac f.acc = { a with bits := BitVec.ofInt 40 (limited (!a.wrap) 40 re) ++ BitVec.ofInt 40 (limited (!a.wrap) 40 im) } ∧
      d.bits.getLsbD (0x004 + f.acc) = ((s.core k).bits.getLsbD (0x004 + f.acc) || !(fitsS 40 re && fitsS 40 im)) ∧
      (∀ n ∈ as, d.ar n = c'.ar n) ∧ d.bits.getLsbD 0x003 = ((s.core k).bits.getLsbD 0x003 || fold)

/-- An instruction on one accumulator completes and leaves it so. -/
def SetsAcc (k : CoreId) (s : State) (i : Instr) (n : Nat) (a : AccReg) : Prop :=
  Computes k s i 4 [] [] [n] [] fun c => c.ac n = a

end Sys2Proof.Machine
end

