-- ==== Sys2Proof/Certificates/Slice0/Obligations.lean ====
section
/-! DEFINITION. The statements for the provers: what the commands do, group by group, as the rules of spec/ say. -/

open Sys2Proof Sys2Proof.Machine

/-! ## Casak integer instructions -/

/-- Moves and logic (rules R451, R453, R455): Dd takes the value the rule gives, at every width,
and nothing else of the machine changes but the program counter and the cycle counts. -/
def Obligations.MovesAndLogic : Prop :=
  ∀ (k : CoreId) (s : State), s.ready k →
    (∀ dd ds, Writes k s (.mov k dd ds) 2 dd ((s.core k).dr ds)) ∧
    (∀ dd ds, Writes k s (.not k dd ds) 2 dd (~~~ (s.core k).dr ds)) ∧
    (∀ dd ds, Writes k s (.swaph k dd ds) 2 dd (loHalf ((s.core k).dr ds) ++ hiHalf ((s.core k).dr ds))) ∧
    (∀ dd an, Writes k s (.movda k dd an) 2 dd (((s.core k).ar an.toNat).zeroExtend 72)) ∧
    (∀ dd, Writes k s (.movdlc k dd) 2 dd ((s.core k).lc.zeroExtend 72)) ∧
    (∀ dd v, Writes k s (.movi k (.i16 dd v)) 2 dd (v.signExtend 72)) ∧
    (∀ dd v, Writes k s (.movi k (.i dd v)) 4 dd (v.signExtend 72)) ∧
    (∀ dd seg, Writes k s (.movsd k dd seg) 4 dd ((s.core k).sg k seg.toNat)) ∧
    ByForm k s (.and k) (· &&& ·) (· &&& ·) ∧ ByForm k s (.or k) (· ||| ·) (· ||| ·) ∧
    ByForm k s (.xor k) (· ^^^ ·) (· ^^^ ·) ∧
    ByWidth k s (fun sz dd ds dt => .andn k ⟨sz, dd, ds, dt⟩) (fun x y => x &&& ~~~y) (fun x y => x &&& ~~~y) ∧
    (∀ dd v, Writes k s (.andi k dd v) 4 dd ((s.core k).dr dd &&& v.signExtend 72)) ∧
    (∀ dd v, Writes k s (.ori k dd v) 4 dd ((s.core k).dr dd ||| v.zeroExtend 72)) ∧
    (∀ dd v, Writes k s (.xori k dd v) 4 dd ((s.core k).dr dd ^^^ v.zeroExtend 72))

/-- Sums, differences and negations (rules R451, R459, R463): the exact result, wrapped or limited to the width, with B.OVF set
where it does not fit; ADDC and SUBC carry through an RW bit variable. -/
def Obligations.SumsAndOverflow : Prop :=
  ∀ (k : CoreId) (s : State), s.ready k →
    (∀ dd ds, let r := ((s.core k).dr dd).toInt + ((s.core k).dr ds).toInt
      WritesOvf k s (.add k (.r16 dd ds)) 2 dd (BitVec.ofInt 72 r) (!fitsS 72 r)) ∧
    (∀ dd ds, let r := ((s.core k).dr dd).toInt - ((s.core k).dr ds).toInt
      WritesOvf k s (.sub k (.r16 dd ds)) 2 dd (BitVec.ofInt 72 r) (!fitsS 72 r)) ∧
    (∀ dd ds, let r := -((s.core k).dr ds).toInt
      WritesOvf k s (.neg k (.r16 dd ds)) 2 dd (BitVec.ofInt 72 r) (!fitsS 72 r) ∧
      WritesOvf k s (.negs k (.r16 dd ds)) 2 dd (BitVec.ofInt 72 (limited true 72 r)) (!fitsS 72 r)) ∧
    SumByWidth k s (fun sz dd ds dt => .add k (.r3 sz dd ds dt)) false (· + ·) ∧
    SumByWidth k s (fun sz dd ds dt => .sub k (.r3 sz dd ds dt)) false (· - ·) ∧
    SumByWidth k s (fun sz dd ds dt => .adds k ⟨sz, dd, ds, dt⟩) true (· + ·) ∧
    SumByWidth k s (fun sz dd ds dt => .subs k ⟨sz, dd, ds, dt⟩) true (· - ·) ∧
    SumByWidth k s (fun sz dd ds _ => .neg k (.r3 sz dd ds)) false (fun x _ => -x) ∧
    SumByWidth k s (fun sz dd ds _ => .negs k (.r3 sz dd ds)) true (fun x _ => -x) ∧
    (∀ dd v, let r := ((s.core k).dr dd).toInt + v.toInt
      WritesOvf k s (.addi k (.i16 dd v)) 2 dd (BitVec.ofInt 72 r) (!fitsS 72 r)) ∧
    (∀ dd v, let r := ((s.core k).dr dd).toInt + v.toInt
      WritesOvf k s (.addi k (.i dd v)) 4 dd (BitVec.ofInt 72 r) (!fitsS 72 r)) ∧
    (∀ dd ds (b : BitVec 12), bitRW b.toNat = true →
      let x := ((s.core k).dr dd).toNat
      let y := ((s.core k).dr ds).toNat + b2n ((s.core k).bits.getLsbD b.toNat)
      Computes k s (.addc k dd ds b) 4 [dd] [] [] [b.toNat] (fun c =>
        c.dr dd = BitVec.ofNat 72 (x + y) ∧ c.bits.getLsbD b.toNat = decide (2 ^ 72 ≤ x + y)) ∧
      Computes k s (.subc k dd ds b) 4 [dd] [] [] [b.toNat] (fun c =>
        c.dr dd = BitVec.ofInt 72 (x - y) ∧ c.bits.getLsbD b.toNat = decide (x < y)))

/-- Shifts, rotations and CLZ (rules R461, R463): the count is bits [7:0] of the count operand, or the immediate; a count of the
width or more leaves no bit of the operand. In a half form the count comes from the half the form reads (log entry 40). -/
def Obligations.ShiftsAndRotations : Prop :=
  ∀ (k : CoreId) (s : State), s.ready k →
    ByForm k s (.shl k) (fun x n => x <<< (n.toNat % 256)) (fun x n => x <<< (n.toNat % 256)) ∧
    ByForm k s (.shr k) (fun x n => x >>> (n.toNat % 256)) (fun x n => x >>> (n.toNat % 256)) ∧
    ByForm k s (.sar k) (fun x n => x.sshiftRight (n.toNat % 256)) (fun x n => x.sshiftRight (n.toNat % 256)) ∧
    ByForm k s (.rol k) (fun x n => x.rotateLeft (n.toNat % 256)) (fun x n => x.rotateLeft (n.toNat % 256)) ∧
    (∀ dd n, let x := (s.core k).dr dd
      Writes k s (.shli k (.i16 dd n)) 2 dd (x <<< n.toNat) ∧ Writes k s (.shri k (.i16 dd n)) 2 dd (x >>> n.toNat) ∧
      Writes k s (.sari k (.i16 dd n)) 2 dd (x.sshiftRight n.toNat)) ∧
    (∀ n, ByWidth k s (fun sz dd ds _ => .shli k (.sh sz dd ds n)) (fun x _ => x <<< n.toNat) (fun x _ => x <<< n.toNat) ∧
      ByWidth k s (fun sz dd ds _ => .shri k (.sh sz dd ds n)) (fun x _ => x >>> n.toNat) (fun x _ => x >>> n.toNat) ∧
      ByWidth k s (fun sz dd ds _ => .sari k (.sh sz dd ds n)) (fun x _ => x.sshiftRight n.toNat)
        (fun x _ => x.sshiftRight n.toNat) ∧
      ByWidth k s (fun sz dd ds _ => .roli k sz dd ds n) (fun x _ => x.rotateLeft n.toNat) (fun x _ => x.rotateLeft n.toNat)) ∧
    (∀ dd ds, Writes k s (.clz k (.r16 dd ds)) 2 dd
      (let x := ((s.core k).dr ds).toNat; BitVec.ofNat 72 (if x = 0 then 72 else 71 - Nat.log2 x))) ∧
    ByWidth k s (fun sz dd ds _ => .clz k (.r3 sz dd ds))
      (fun x _ => BitVec.ofNat 72 (if x.toNat = 0 then 72 else 71 - Nat.log2 x.toNat))
      (fun x _ => BitVec.ofNat 36 (if x.toNat = 0 then 36 else 35 - Nat.log2 x.toNat))

/-- Products and fields (rules R451, R452, R464): exact products of the low halves, and bit fields, bytes and bit variables at
the places the instruction names, a field past bit 71 cut there. -/
def Obligations.ProductsAndFields : Prop :=
  ∀ (k : CoreId) (s : State), s.ready k →
    (∀ dd ds dt, Writes k s (.mul k ⟨0, dd, ds, dt⟩) 4 dd
      (BitVec.ofInt 72 ((loHalf ((s.core k).dr ds)).toInt * (loHalf ((s.core k).dr dt)).toInt))) ∧
    (∀ dd ds dt, Writes k s (.mulu k ⟨0, dd, ds, dt⟩) 4 dd
      (BitVec.ofNat 72 ((loHalf ((s.core k).dr ds)).toNat * (loHalf ((s.core k).dr dt)).toNat))) ∧
    (∀ dd ds (pos len : BitVec 7), pos.toNat ≤ 71 → 1 ≤ len.toNat → len.toNat ≤ 72 →
      let l := min len.toNat (72 - pos.toNat)
      Writes k s (.bfext k dd ds pos len) 4 dd ((((s.core k).dr ds).extractLsb' pos.toNat l).zeroExtend 72) ∧
      Writes k s (.bfexts k dd ds pos len) 4 dd ((((s.core k).dr ds).extractLsb' pos.toNat l).signExtend 72) ∧
      Computes k s (.bfins k dd ds pos len) 4 [dd] [] [] [] (fun c => ∀ i, i < 72 → (c.dr dd).getLsbD i =
        if pos.toNat ≤ i ∧ i < pos.toNat + l then ((s.core k).dr ds).getLsbD (i - pos.toNat)
        else ((s.core k).dr dd).getLsbD i)) ∧
    (∀ dd ds dsel, Computes k s (.bperm k dd ds dsel) 4 [dd] [] [] [] fun c => ∀ j, j < 9 →
      byteAt (c.dr dd) j =
        (let n := ((s.core k).dr dsel).toNat / 16 ^ j % 16
         if n < 9 then byteAt ((s.core k).dr ds) n else 0)) ∧
    (∀ d (b : BitVec 12) (n : BitVec 7), 1 ≤ n.toNat → n.toNat ≤ 72 → b.toNat + n.toNat ≤ 4096 →
      ∃ w, Writes k s (.movb k d b n) 4 d
        (((({ s.core k with cyc := (s.core k).cyc + w } : Core).space k).extractLsb' b.toNat n.toNat).zeroExtend 72))

/-- Division and extremes (rules R460, R463, R487): quotient towards zero and remainder in an even pair; the corners of rule R463,
with the trap for a zero divisor off; MAXI and MINI keep the better value and its index. -/
def Obligations.DivisionAndExtremes : Prop :=
  ∀ (k : CoreId) (s : State) (dd ds dt : BitVec 4), s.ready k → dd.getLsbD 0 = false →
    let x := (s.core k).dr ds
    let y := (s.core k).dr dt
    ((s.core k).repAct = false → y ≠ 0 → ¬ (x.toInt = -(2 ^ 71) ∧ y.toInt = -1) →
      DividesTo k s (.div k ⟨0, dd, ds, dt⟩) dd (x.toInt.tdiv y.toInt) (x.toInt.tmod y.toInt) false false ∧
      DividesTo k s (.divs k ⟨0, dd, ds, dt⟩) dd (x.toInt.tdiv y.toInt) (x.toInt.tmod y.toInt) false false) ∧
    ((s.core k).repAct = false → x.toInt = -(2 ^ 71) → y.toInt = -1 →
      DividesTo k s (.div k ⟨0, dd, ds, dt⟩) dd (-(2 ^ 71)) 0 true false ∧
      DividesTo k s (.divs k ⟨0, dd, ds, dt⟩) dd (2 ^ 71 - 1) 0 true false) ∧
    ((s.core k).repAct = false → y = 0 → (s.core k).bits.getLsbD 0x011 = false →
      let q : Int := if 0 ≤ x.toInt then 2 ^ 71 - 1 else -(2 ^ 71)
      DividesTo k s (.div k ⟨0, dd, ds, dt⟩) dd q x.toInt false true ∧
      DividesTo k s (.divs k ⟨0, dd, ds, dt⟩) dd q x.toInt false true ∧
      DividesTo k s (.divu k ⟨0, dd, ds, dt⟩) dd (2 ^ 72 - 1) x.toNat false true) ∧
    ((s.core k).repAct = false → y ≠ 0 →
      DividesTo k s (.divu k ⟨0, dd, ds, dt⟩) dd (x.toNat / y.toNat : Nat) (x.toNat % y.toNat : Nat) false false) ∧
    (∀ max : Bool, Computes k s (if max then .maxi k ⟨0, dd, ds, dt⟩ else .mini k ⟨0, dd, ds, dt⟩) 4 [dd, dd + 1] [] [] [] fun c =>
      let better := if max then decide (((s.core k).dr dd).toInt < x.toInt) else decide (x.toInt < ((s.core k).dr dd).toInt)
      c.dr dd = (if better then x else (s.core k).dr dd) ∧ c.dr (dd + 1) = (if better then y else (s.core k).dr (dd + 1)))

/-- Address registers and the loop count (rules R438, R451, R458): segment and offset as each instruction gives them, offsets
modulo 2^24, the segment of A7 always 7; MOVLC loads LC. -/
def Obligations.AddressRegisters : Prop :=
  ∀ (k : CoreId) (s : State), s.ready k →
    (∀ (an : BitVec 3) i len off seg,
      ((∃ ds, i = .mova k an ds ∧ len = 2 ∧ off = ((s.core k).dr ds).toNat % 2 ^ 24 ∧ seg = ((s.core k).dr ds).toNat / 2 ^ 24 % 8) ∨
       (∃ v, i = .lea k an v ∧ len = 4 ∧ off = (((offOf ((s.core k).ar an.toNat) : Int) + v.toInt) % 2 ^ 24).toNat ∧
          seg = segOf ((s.core k).ar an.toNat)) ∨
       (∃ sg v, i = .seta k an sg v ∧ len = 4 ∧ off = v.toNat ∧ seg = sg.toNat) ∨
       (∃ ds, i = .addar k an ds ∧ len = 4 ∧ off = (offOf ((s.core k).ar an.toNat) + ((s.core k).dr ds).toNat) % 2 ^ 24 ∧
          seg = segOf ((s.core k).ar an.toNat))) →
      Computes k s i len [] [an.toNat] [] [] fun c =>
        offOf (c.ar an.toNat) = off ∧ segOf (c.ar an.toNat) = if an = 7 then 7 else seg) ∧
    (∀ ds, ∃ t, exec (.movlc k ds) s = .next t ∧ CoreFrame (s.core k) (t.core k) [] [] [] [] ∧ SegXY (s.core k) (t.core k) ∧
      NextPc { s.core k with lc := ((s.core k).dr ds).truncate 16 } (t.core k) 2 ∧ Outside k s t)

/-- Bit variables and NOP (rules R441, R451, R452): BSET, BCLR and MOVBD write bit variables under their access rules and change
nothing else; NOP changes nothing but the program counter and the cycle counts. -/
def Obligations.BitVariables : Prop :=
  ∀ (k : CoreId) (s : State), s.ready k →
    (∀ b : BitVec 12, Computes k s (.bset k b) 2 [] [] [] [b.toNat] fun c =>
      c.bits.getLsbD b.toNat = bitAfter (s.core k) b.toNat true) ∧
    (∀ b : BitVec 12, Computes k s (.bclr k b) 2 [] [] [] [b.toNat] fun c =>
      c.bits.getLsbD b.toNat = bitAfter (s.core k) b.toNat false) ∧
    (∀ d (b : BitVec 12) (n : BitVec 7), 1 ≤ n.toNat → n.toNat ≤ 72 → b.toNat + n.toNat ≤ 4096 →
      Computes k s (.movbd k d b n) 4 [] [] [] ((List.range n.toNat).map (b.toNat + ·)) fun c => ∀ j, j < n.toNat →
        c.bits.getLsbD (b.toNat + j) = bitAfter (s.core k) (b.toNat + j) (((s.core k).dr d).getLsbD j)) ∧
    Computes k s (.nop k) 2 [] [] [] [] fun _ => True

/-! ## Casak memory, control flow and exceptions -/

/-- Loads and stores (rules R446, R447, R451): the word that address generation names is read or written, with post-modify and
B.MFOLD; pushes and pops move A7 by one; descriptors are loaded in supervisor mode where rule R445 takes them, and stored. -/
def Obligations.LoadsAndStores : Prop :=
  ∀ (k : CoreId) (s : State), s.ready k →
    (∀ (f : MemForm) sp a, f.mod ≠ 3 → s.readsAt k f.an f.disp sp a →
      Loads k s (.ld k f) f.len f.an f.mod [f.dd] fun c => c.dr f.dd = s.dataRd k sp a ∧ c.seg = (s.core k).seg) ∧
    (∀ (f : MemForm) sp a, f.mod ≠ 3 → (s.core k).locate k f.an f.disp true = some (sp, a) →
      Stores k s (.st k f) f.len f.an f.mod sp a ((s.core k).dr f.dd) []) ∧
    (∀ (seg an : BitVec 3) sp a, (s.core k).locate k an.toNat 0 true = some (sp, a) →
      Stores k s (.segst k seg an) 4 an.toNat 0 sp a ((s.core k).sg k seg.toNat) []) ∧
    (∀ (an : BitVec 3) (m acc : BitVec 2) sp a, m ≠ 3 → (s.core k).locate k an.toNat 0 true = some (sp, a) →
      let v := ((s.core k).ac acc.toNat).scaled
      Stores k s (.stsc k an m acc) 4 an.toNat m sp a v.1 [0x002] ∧
      ∃ t, exec (.stsc k an m acc) s = .next t ∧
        (t.core k).bits.getLsbD 0x002 = ((s.core k).bits.getLsbD 0x002 || v.2)) ∧
    (∀ sp a, s.pushesTo k sp a →
      (∀ dn, Pushes k s (.push k dn) sp a ((s.core k).dr dn)) ∧
      (∀ an : BitVec 3, Pushes k s (.pusha k an) sp a (((s.core k).ar an.toNat).zeroExtend 72))) ∧
    (∀ sp a, s.popsFrom k sp a →
      (∀ dn, ∃ t, exec (.popDn k dn) s = .next t ∧ (t.core k).dr dn = s.dataRd k sp a ∧
        StackMoved (s.core k) (t.core k) 1 ∧ CoreFrame (s.core k) (t.core k) [dn] [7] [] [] ∧ SegXY (s.core k) (t.core k) ∧
        NextPc (s.core k) (t.core k) 2 ∧ MemKept k s t ∧ OutsideFree k s t) ∧
      (∀ an : BitVec 3, ∃ t, exec (.popa k an) s = .next t ∧
        offOf ((t.core k).ar an.toNat) = (s.dataRd k sp a).toNat % 2 ^ 24 ∧
        segOf ((t.core k).ar an.toNat) = (if an = 7 then 7 else (s.dataRd k sp a).toNat / 2 ^ 24 % 8) ∧
        (an ≠ 7 → StackMoved (s.core k) (t.core k) 1) ∧ CoreFrame (s.core k) (t.core k) [] [an.toNat, 7] [] [] ∧
        SegXY (s.core k) (t.core k) ∧ NextPc (s.core k) (t.core k) 2 ∧ MemKept k s t ∧ OutsideFree k s t)) ∧
    ((s.core k).user = false → (s.core k).repAct = false →
      (∀ (seg an : BitVec 3) sp a, s.readsAt k an.toNat 0 sp a → descBad k seg.toNat (s.dataRd k sp a) = false →
        Loads k s (.segld k seg an) 4 an.toNat 0 [] fun c => c.sg k seg.toNat = s.dataRd k sp a ∧
          ∀ n, n ≠ seg.toNat → c.sg k n = (s.core k).sg k n) ∧
      (∀ (seg : BitVec 3) ds, descBad k seg.toNat ((s.core k).dr ds) = false →
        ∃ t, exec (.movds k seg ds) s = .next t ∧ (t.core k).sg k seg.toNat = (s.core k).dr ds ∧
          (∀ n, n ≠ seg.toNat → (t.core k).sg k n = (s.core k).sg k n) ∧
          CoreFrame (s.core k) (t.core k) [] [] [] [] ∧ NextPc (s.core k) (t.core k) 4 ∧ MemKept k s t ∧ Outside k s t))

/-- Branches (rules R453, R458): each opens a delay slot whose end goes to the target where the condition holds and to the next
instruction where it does not; DBNZ counts LC down and is taken while it is not 0. -/
def Obligations.BranchesTake : Prop :=
  ∀ (k : CoreId) (s : State), s.readyCtl k →
    let x := fun d => ((s.core k).dr d).toInt
    let u := fun d => ((s.core k).dr d).toNat
    let dest := fun {w : Nat} (off : BitVec w) => (s.core k).pc + (off.signExtend 16) * 2
    (∀ f : BzForm, Branches k s (.beqz k f) f.len (x f.da = 0) (f.target (s.core k).pc) ∧
      Branches k s (.bnez k f) f.len (x f.da ≠ 0) (f.target (s.core k).pc) ∧
      Branches k s (.bltz k f) f.len (x f.da < 0) (f.target (s.core k).pc) ∧
      Branches k s (.bgez k f) f.len (0 ≤ x f.da) (f.target (s.core k).pc) ∧
      Branches k s (.bgtz k f) f.len (0 < x f.da) (f.target (s.core k).pc) ∧
      Branches k s (.blez k f) f.len (x f.da ≤ 0) (f.target (s.core k).pc)) ∧
    (∀ d off, BzForm.target (s.core k).pc (.bz d off) = dest off) ∧ (∀ d off, BzForm.target (s.core k).pc (.b16 d off) = dest off) ∧
    (∀ off, Branches k s (.bra k (.b16 off)) 2 True (dest off)) ∧ (∀ off, Branches k s (.bra k (.bz off)) 4 True (dest off)) ∧
    (∀ da db off, Branches k s (.beq k da db off) 4 (x da = x db) (dest off) ∧
      Branches k s (.bne k da db off) 4 (x da ≠ x db) (dest off) ∧ Branches k s (.blt k da db off) 4 (x da < x db) (dest off) ∧
      Branches k s (.bge k da db off) 4 (x db ≤ x da) (dest off) ∧ Branches k s (.bltu k da db off) 4 (u da < u db) (dest off) ∧
      Branches k s (.bgeu k da db off) 4 (u db ≤ u da) (dest off)) ∧
    (∀ (b : BitVec 12) off, bitRW b.toNat = true →
      Branches k s (.bbs k b off) 4 ((s.core k).bits.getLsbD b.toNat = true) (dest off) ∧
      Branches k s (.bbc k b off) 4 ((s.core k).bits.getLsbD b.toNat = false) (dest off)) ∧
    (∀ (b : BitVec 12) off, ∃ w, let c := ({ s.core k with cyc := (s.core k).cyc + w } : Core)
      Branches k s (.bbs k b off) 4 (c.bit k b.toNat = true) (dest off) ∧
      Branches k s (.bbc k b off) 4 (c.bit k b.toNat = false) (dest off)) ∧
    (∀ tgt, Branches k s (.jmp k tgt) 4 True (BitVec.ofNat 16 (2 * tgt.toNat))) ∧
    (∀ ds, Branches k s (.jmpr k ds) 4 True (BitVec.ofNat 16 (2 * (u ds % 2 ^ 15)))) ∧
    (∀ off, ∃ t, exec (.dbnz k off) s = .next t ∧ (t.core k).lc = (s.core k).lc - 1 ∧
      (t.core k).slot = (if (s.core k).lc = 1 then .fall else .to (dest off)) ∧
      (t.core k).pc = (s.core k).pc + 4 ∧ CoreFrame (s.core k) (t.core k) [] [] [] [] ∧ SegXY (s.core k) (t.core k) ∧ Outside k s t)

/-- Calls and returns (rules R447, R453, R454): a call pushes the address that follows its delay slot and branches; RET pops an
address and branches to it. -/
def Obligations.CallsAndReturns : Prop :=
  ∀ (k : CoreId) (s : State), s.readyCtl k →
    (∀ sp a, s.pushesTo k sp a → ∀ i target,
      ((∃ tgt : BitVec 15, i = .call k tgt ∧ target = BitVec.ofNat 16 (2 * tgt.toNat)) ∨
       (∃ ds, i = .callr k ds ∧ target = BitVec.ofNat 16 (2 * (((s.core k).dr ds).toNat % 2 ^ 15)))) →
      let ret := (s.core k).pc + 4 + BitVec.ofNat 16 ((s.core k).lenAt ((s.core k).pc + 4))
      ∃ t, exec i s = .next t ∧ MemStored k s t sp a (ret.zeroExtend 72) ∧ StackMoved (s.core k) (t.core k) (-1) ∧
        (t.core k).slot = .to target ∧ (t.core k).pc = (s.core k).pc + 4 ∧ (t.core k).lc = (s.core k).lc ∧
        CoreFrame (s.core k) (t.core k) [] [7] [] [] ∧ (t.core k).seg = (s.core k).seg ∧ OutsideMem k s t) ∧
    (∀ sp a, s.popsFrom k sp a →
      ∃ t, exec (.ret k) s = .next t ∧ (t.core k).slot = .to ((s.dataRd k sp a).truncate 16 &&& 0xFFFE) ∧
        StackMoved (s.core k) (t.core k) 1 ∧ (t.core k).pc = (s.core k).pc + 2 ∧ (t.core k).lc = (s.core k).lc ∧
        CoreFrame (s.core k) (t.core k) [] [7] [] [] ∧ SegXY (s.core k) (t.core k) ∧ MemKept k s t ∧ OutsideFree k s t)

/-- The exception frame (rule R465): every field of the word that an entry pushes. -/
def Obligations.ExceptionFrame : Prop :=
  ∀ (c : Core) (k : CoreId) (resume cont : BitVec 16) (slot : Bool) (v code : Nat), v < 16 → code < 256 →
    let w := c.frame k resume cont slot v code
    w.extractLsb' 0 16 = resume ∧ w.extractLsb' 16 16 = (if slot then cont else 0) ∧ w.extractLsb' 32 16 = c.lc ∧
    w.getLsbD 48 = c.repAct ∧ w.getLsbD 49 = c.repN ∧ w.getLsbD 50 = c.bits.getLsbD 0x010 ∧ w.getLsbD 51 = slot ∧
    w.extractLsb' 52 8 = BitVec.ofNat 8 code ∧ w.extractLsb' 60 4 = BitVec.ofNat 4 v ∧ w.extractLsb' 64 8 = 0

/-- Exceptions taken and left (rules R463, R465, R466, R467, R468): TRAP and a zero divisor with its trap on enter after the
instruction, an interrupt at an instruction boundary by the order TRIG, HEAT, DOOR; RETI restores what the frame holds; HALT
stops the core and records it; WAIT suspends it until an enabled bit is 1. -/
def Obligations.TrapsInterruptsAndReturns : Prop :=
  ∀ (k : CoreId) (s : State),
    (s.readyCtl k → ∀ n, ∃ t, exec (.trap k n) s = .next t ∧
      Enters k s t [] [] 7 ((s.core k).frame k ((s.core k).pc + 2) 0 false 7 n.toNat)) ∧
    (s.ready k → (s.core k).repAct = false → ∀ dd ds dt, dd.getLsbD 0 = false → (s.core k).dr dt = 0 →
      (s.core k).bits.getLsbD 0x011 = true → (s.core k).slot = .no → ∀ i, i = .div k ⟨0, dd, ds, dt⟩ ∨ i = .divs k ⟨0, dd, ds, dt⟩ ∨
        i = .divu k ⟨0, dd, ds, dt⟩ → ∃ t, exec i s = .next t ∧
          Enters k s t [dd, dd + 1] [0x001] 5 ((s.core k).frame k ((s.core k).pc + 4) 0 false 5 0)) ∧
    (s.canIssue k = true → (s.core k).bits.getLsbD 0x010 = true → (s.core k).slot = .no → (s.core k).skip = false →
      ¬ ((s.core k).repAct = true ∧ ((s.core k).repN = true ∨ (s.core k).repFirst = true)) →
      ∀ v code, (s.core k).wakeBit = some (v, code) → ∃ t, exec (.interrupt k) s = .next t ∧
        Enters k s t [] [] v ((s.core k).frame k (s.core k).pc 0 false v code)) ∧
    (s.readyCtl k → ∀ sp a, s.popsFrom k sp a →
      let w := s.dataRd k sp a
      ∃ t, exec (.reti k) s = .next t ∧ (t.core k).pc = (w.extractLsb' 0 16 &&& 0xFFFE) ∧ (t.core k).lc = w.extractLsb' 32 16 ∧
        (t.core k).repAct = w.getLsbD 48 ∧ (t.core k).repN = (w.getLsbD 48 && w.getLsbD 49) ∧
        (t.core k).bits.getLsbD 0x010 = w.getLsbD 50 ∧
        (t.core k).slot = (if w.getLsbD 51 then .to (w.extractLsb' 16 16 &&& 0xFFFE) else .no) ∧
        StackMoved (s.core k) (t.core k) 1 ∧ CoreFrame (s.core k) (t.core k) [] [7] [] [0x010] ∧ SegXY (s.core k) (t.core k) ∧
        MemKept k s t ∧ OutsideFree k s t) ∧
    (s.readyCtl k → ∃ t, exec (.halt k) s = .next t ∧ (t.core k).st = .halted ∧
      t.reg (corePage k) 0x048 = BitVec.ofNat 32 (1 + (s.core k).pc.toNat * 2 ^ 16) ∧
      (t.reg (corePage k) 0x014).getLsbD 16 = true ∧ MemKept k s t ∧ (∀ n, (t.core k).dr n = (s.core k).dr n) ∧
      (∀ n, (t.core k).ar n = (s.core k).ar n) ∧ (∀ n, (t.core k).ac n = (s.core k).ac n) ∧
      (t.core k).bits = (s.core k).bits ∧ (∀ j, j ≠ k.val → t.core j = s.core j)) ∧
    (s.readyCtl k → (s.core k).wakeBit ≠ none → Computes k s (.wait k) 2 [] [] [] [] fun c => c.slot = .no) ∧
    (s.readyCtl k → (s.core k).wakeBit = none → ∃ t, exec (.wait k) s = .next t ∧ (t.core k).st = .wait ∧
      (t.core k).pc = (s.core k).pc + 2 ∧ (∀ n, (t.core k).dr n = (s.core k).dr n) ∧ (∀ n, (t.core k).ar n = (s.core k).ar n) ∧
      (∀ n, (t.core k).ac n = (s.core k).ac n) ∧ (t.core k).bits = (s.core k).bits ∧ SegXY (s.core k) (t.core k) ∧ Outside k s t)

/-- Repeats and the budget (rules R113, R455, R456, R471): REP and REPN set LC and the repeat, a count of 0 from LC passes the next
instruction over; a user core whose count has reached BOOK is held, which counts as its overrun of the heat whose samples it works
on, the one before. -/
def Obligations.RepeatsAndBudget : Prop :=
  ∀ (k : CoreId) (s : State),
    (s.readyCtl k → ∀ n src cnt, (n = true → src = true → (s.core k).lc.toNat ≤ 4096) →
      let num : BitVec 16 := if src then (s.core k).lc else cnt.zeroExtend 16 + 1
      ∃ t, exec (if n then .repn k src cnt else .rep k src cnt) s = .next t ∧ (t.core k).pc = (s.core k).pc + 4 ∧
        (t.core k).slot = .no ∧ (t.core k).lc = num ∧
        (num ≠ 0 → (t.core k).repAct = true ∧ (t.core k).repN = n ∧ (t.core k).repFirst = true ∧ (t.core k).skip = false) ∧
        (num = 0 → (t.core k).repAct = false ∧ (t.core k).skip = true) ∧
        CoreFrame (s.core k) (t.core k) [] [] [] [] ∧ SegXY (s.core k) (t.core k) ∧ Outside k s t) ∧
    ((s.core k).st = .run → (s.core k).user = true → s.rf (corePage k) 0x04C 19 0 ≤ (s.core k).cyc →
      ∃ t, exec (.budget k) s = .next t ∧ t.core k = { s.core k with st := .held } ∧
        (t.reg (corePage k) 0x014).getLsbD 17 = true ∧ t.reg 0x001 0x078 = cntUp (s.reg 0x001 0x078) ∧
        t.reg 0x001 0x07C = BitVec.ofNat 32 (0x20 + k.val + (s.heat - 1) % 2 ^ 24 * 256) ∧
        (t.reg 0x001 0x014).getLsbD 16 = true ∧ (∀ j, j ≠ k.val → t.core j = s.core j) ∧
        (∀ p o, addr p o ≠ addr (corePage k) 0x014 → addr p o ≠ addr 0x001 0x078 → addr p o ≠ addr 0x001 0x07C →
          addr p o ≠ addr 0x001 0x014 → t.reg p o = s.reg p o))

/-- What is illegal or forbidden (rules R445, R450, R453, R456, R464, R469, R481): the instruction has no effect and the exception the
rule names is taken: ILLEGAL for a bad form, a control instruction in a delay slot or under a repeat, a multiply-accumulate in
the other mode; PRIV for SEGLD and MOVDS in user mode; SEGMENT where address generation leaves its segment; DATA_ERR for a word
with an uncorrectable error, which the page that owns it captures (rule R53). A row with an uncorrectable error among those that hold
the instruction halts the core with IPARITY (rules R54, R468); the next row does not concern an instruction that ends before it. -/
def Obligations.FaultsBeforeAnyEffect : Prop :=
  ∀ (k : CoreId) (s : State), (s.ready k →
    (∀ long, Faults k s (.illegalInstruction k long) (if long then 4 else 2) 1 0) ∧
    (∀ dd ds dt, Faults k s (.add k (.r3 3 dd ds dt)) 4 1 0 ∧ (∀ sz, sz ≠ 0 → Faults k s (.mul k ⟨sz, dd, ds, dt⟩) 4 1 0)) ∧
    (∀ dd ds dt, dd.getLsbD 0 = true → Faults k s (.div k ⟨0, dd, ds, dt⟩) 4 1 0 ∧ Faults k s (.maxi k ⟨0, dd, ds, dt⟩) 4 1 0) ∧
    (∀ dd ds (pos len : BitVec 7), 71 < pos.toNat ∨ len = 0 ∨ 72 < len.toNat → Faults k s (.bfext k dd ds pos len) 4 1 0) ∧
    (∀ dd ds (b : BitVec 12), bitRW b.toNat = false → Faults k s (.addc k dd ds b) 4 1 0) ∧
    ((s.core k).slot ≠ .no ∨ (s.core k).repAct = true →
      (∀ tgt, Faults k s (.jmp k tgt) 4 1 0) ∧ Faults k s (.ret k) 2 1 0 ∧ (∀ n, Faults k s (.trap k n) 2 1 0) ∧
      (∀ src cnt, Faults k s (.rep k src cnt) 4 1 0)) ∧
    (∀ f : MacForm, ((s.core k).ac f.acc).cplx = true → Faults k s (.mac k f) f.len 1 0) ∧
    (∀ f : MacForm, ((s.core k).ac f.acc).cplx = false → Faults k s (.cmac k f) f.len 1 0) ∧
    ((s.core k).user = true → (s.core k).repAct = false →
      (∀ seg an, Faults k s (.segld k seg an) 4 4 0) ∧ (∀ seg ds, Faults k s (.movds k seg ds) 4 4 0)) ∧
    (∀ f : MemForm, f.mod ≠ 3 → (s.core k).locate k f.an f.disp false = none → Faults k s (.ld k f) f.len 2 f.an) ∧
    (∀ f : MemForm, f.mod ≠ 3 → (s.core k).locate k f.an f.disp true = none → Faults k s (.st k f) f.len 2 f.an) ∧
    (∀ (f : MemForm) sp a, f.mod ≠ 3 → (s.core k).locate k f.an f.disp false = some (sp, a) → s.isBad (spaceMem k sp) a = true →
      MeetsBadWord k s (.ld k f) f.len sp)) ∧
    (let c := s.core k
     let bad := fun (d : Nat) => s.isBad k ((c.pc + BitVec.ofNat 16 d).toNat / 8)
     s.canIssue k = true →
      (∀ dd ds, ∀ e ∈ ([(Instr.nop k, 2), (.mov k dd ds, 2), (.ld k (.m16 0 dd 0), 2), (.andi k dd 0, 4), (.jmp k 0, 4)] : List (Instr × Nat)),
        bad 0 = true ∨ bad (e.2 - 1) = true → ∃ t, exec e.1 s = .next t ∧ (t.core k).st = .halted ∧
          t.reg (corePage k) 0x048 = BitVec.ofNat 32 (2 + c.pc.toNat * 2 ^ 16) ∧ (t.reg (corePage k) 0x014).getLsbD 16 = true ∧
          (s.rf (corePage k) 0x020 31 31 = 0 → t.rf (corePage k) 0x020 7 0 = 0x40) ∧ (∀ n, (t.core k).dr n = c.dr n) ∧ MemKept k s t ∧
          ∀ j, j ≠ k.val → t.core j = s.core j) ∧
      (bad 0 = false → bad 1 = false → c.skip = false → Computes k s (.nop k) 2 [] [] [] [] (fun _ => True) ∧
        ∀ dd ds, Writes k s (.mov k dd ds) 2 dd (c.dr ds)))

/-! ## Casak signal datapath -/

/-- Multiply-accumulate (rules R475, R476, R479, R480, R482): real and complex results, exact, then wrapped or limited. -/
def Obligations.MultiplyAccumulate : Prop :=
  ∀ (k : CoreId) (s : State), s.ready k →
    RealMac k s (.mac k) (fun a p => a + p) ∧ RealMac k s (.msu k) (fun a p => a - p) ∧ RealMac k s (.mpy k) (fun _ p => p) ∧
    CplxMac k s (.cmac k) true false ∧ CplxMac k s (.cmacj k) true true ∧ CplxMac k s (.cmpy k) false false

/-- Accumulator moves (rules R478, R483 to R486): loads, stores, control fields and clearing. -/
def Obligations.AccumulatorMoves : Prop :=
  ∀ (k : CoreId) (s : State) (acc : BitVec 2), s.ready k →
    let a := (s.core k).ac acc.toNat
    SetsAcc k s (.clra k acc) acc.toNat { a with bits := 0 } ∧
    (∀ sh : BitVec 7, sh.toNat ≤ 79 → SetsAcc k s (.setsh k acc sh) acc.toNat { a with sh := sh }) ∧
    (∀ cplx wrap psh, SetsAcc k s (.setam k acc cplx wrap psh) acc.toNat { a with cplx := cplx, wrap := wrap, psh := psh }) ∧
    (∀ ds, let v := (s.core k).dr ds
      SetsAcc k s (.mvda k acc ds 0) acc.toNat
        { a with bits := if a.cplx then (hiHalf v).signExtend 40 ++ (loHalf v).signExtend 40 else v.signExtend 80 } ∧
      SetsAcc k s (.mvda k acc ds 1) acc.toNat { a with bits := a.bits.extractLsb' 72 8 ++ v } ∧
      (v.toNat / 2 ^ 23 = 0 → v.toNat / 2 ^ 16 % 128 ≤ 79 → SetsAcc k s (.mvda k acc ds 2) acc.toNat
        { bits := (v.truncate 8 : BitVec 8) ++ (a.bits.truncate 72 : BitVec 72), cplx := v.getLsbD 8, wrap := v.getLsbD 9,
          psh := v.extractLsb' 10 6, sh := v.extractLsb' 16 7 })) ∧
    (∀ dd, Computes k s (.mvad k dd acc 0) 4 [dd] [] [] [0x002] (fun c =>
        c.bits.getLsbD 0x002 = ((s.core k).bits.getLsbD 0x002 || a.scaled.2) ∧
        c.dr dd = if a.cplx then
            (let n := min a.sh.toNat 39
             BitVec.ofInt 36 (limited true 36 (roundShift a.re n)) ++ BitVec.ofInt 36 (limited true 36 (roundShift a.im n)))
          else BitVec.ofInt 72 (limited true 72 (roundShift a.val a.sh.toNat))) ∧
      Writes k s (.mvad k dd acc 1) 4 dd (a.bits.truncate 72) ∧
      Writes k s (.mvad k dd acc 2) 4 dd
        (BitVec.ofNat 72 (a.bits.toNat / 2 ^ 72 + b2n a.cplx * 2 ^ 8 + b2n a.wrap * 2 ^ 9 + a.psh.toNat * 2 ^ 10 + a.sh.toNat * 2 ^ 16)))

/-! ## Steps, reset, the whole block -/

/-- A step runs the command at the front of the queue with the queue's rest (log entry 1). -/
def Obligations.StepRunsFront : Prop :=
  ∀ (s : State) (c : Instr) (rest : List Instr), s.pending = c :: rest → step s = exec c { s with pending := rest }

/-- With nothing waiting one tick passes: in reset nothing; before the first lock only elapsed time; then the time base gains one
tick at the applied rate, and elapsed time with it (rules R13, R360, R361; that an empty queue is one tick is the model's choice,
log entry 1). -/
def Obligations.IdleTick : Prop :=
  ∀ s : State, s.pending = [] →
    (s.inReset = true → step s = .next s) ∧
    (s.inReset = false → s.tb.everLocked = false → step s = .next { s with el := s.el + tickUnits }) ∧
    (s.inReset = false → s.tb.everLocked = true → s.tb.slew = none → s.tb.now < s.tb.hEnd →
      step s = .next { s with el := s.el + s.tickPlain, tb := { s.tb with now := s.tb.now + s.tickPlain } })

/-- The state after reset (rules R16, R64 to R66): the reset line low, every register at its reset value, PG_ID and PG_VER of every
page as their rules say, no booking, heat 0, every core stopped, and nothing listed in any memory (log entry 6). -/
def Obligations.StateAfterReset : Prop :=
  State.reset.inReset = true ∧ State.reset.pending = [] ∧ (∀ a, State.reset.cell a = regReset a) ∧
  (∀ p t, pageType p = some t → State.reset.reg p 0x004 = 0x01010001 ∧
    State.reset.reg p 0x000 = BitVec.ofNat 32 (t.code + pageInst p * 0x10000 + 0x01000000)) ∧
  (∀ a, State.reset.ex a = 0 ∧ State.reset.mr a = 0) ∧ State.reset.tb.everLocked = false ∧ State.reset.heat = 0 ∧
  State.reset.cmd.books = [] ∧ (∀ k, State.reset.core k = {}) ∧ State.reset.memWf = true

/-- Every command of the table has a next state on every state: the block stops on none. -/
def Obligations.EveryCommandCompletes : Prop := ∀ c : Instr, Total c

/-- The queue is first in, first out: no command overtakes another, and none is lost or made by a step. -/
def Obligations.QueueIsFifo : Prop :=
  ∀ (s t : State) (c : Instr) (rest : List Instr), s.pending = c :: rest → step s = .next t → t.pending = rest

/-- A fuse once blown stays blown (rules R525, R526): no step clears one. -/
def Obligations.FusesStayBlown : Prop :=
  ∀ (s t : State) (f : BitVec 4096), s.blownAtLeast f → step s = .next t → t.blownAtLeast f

/-- Fuses blow only where an update command or a first healthy boot ends (rules R525, R540, R541). -/
def Obligations.FusesBlowOnlyByUpdate : Prop :=
  ∀ (s t : State) (c : Instr), exec c s = .next t → (∀ dt ok, c ≠ .updDone dt ok) → (∀ dt, c ≠ .healthy dt) → t.fuses = s.fuses

/-! ## Resets, power states and the host port -/

/-- Resets of the whole Malith and of the host island (rules R501, R558, R559, R590, R603): a rail below its power-on threshold, which
releases 20 mV higher; a pin reset; PERST_N and a
function-level reset stop the rings, MSI-X and bus mastering only; D3hot and D0. -/
def Obligations.ResetsAndPowerStates : Prop :=
  (∀ s : State, RingsStopped s s.clearRuns) ∧ ∀ s : State,
    (∀ core sram ioA, (core < 550 ∨ sram < 700 ∨ ioA < 1500 → ∃ t, exec (.powerOnReset core sram ioA) s = .next t ∧
        t.por ≠ 0 ∧ WasReset 0 { s with por := t.por } t) ∧
      (570 ≤ core → 720 ≤ sram → 1520 ≤ ioA → exec (.powerOnReset core sram ioA) s = .next { s with por := 0 }) ∧
      (550 ≤ core → 700 ≤ sram → 1500 ≤ ioA → s.por = 0 → exec (.powerOnReset core sram ioA) s = .next s)) ∧
    (∀ low, s.inReset = false → 1000 ≤ low → ∃ t, exec (.resetN low) s = .next t ∧ WasReset 1 s t) ∧
    (∀ low, low ≤ 100 → exec (.resetN low) s = .next s) ∧
    (s.inReset = false → exec .perstNRelease s = .next { s with host := { s.host with perst := false } }) ∧
    (s.inReset = false → s.hostSpi = false →
      let off : State := { s.clearRuns with msixOn := false, msixFuncMask := false, msixMask := 0xFFFFFFFF, msixPba := 0 }
      exec .d0Entry s = .next { s with host := { s.host with d3hot := false } } ∧
      Ends .functionLevelReset s
        { off with host := { s.host with bme := false, dma := false, d3hot := false, stage := 0, latch := none } } ∧
      (s.host.d3hot = false → s.host.perst = false →
        Ends .d3hot s { off with host := { s.host with dma := false, d3hot := true } }) ∧
      (s.host.perst = false →
        let down : HostSt := { s.host with bme := false, dma := false, d3hot := false, perst := true, stage := 0, latch := none }
        (s.rf 0x0B0 0x040 5 0 = 0 → Ends .perstN s { off with host := down }) ∧
        (s.rf 0x0B0 0x040 5 0 ≠ 0 →
          Ends .perstN s ((({ off with host := down } : State).setRf 0x0B0 0x040 5 0 0).irq 0x0B0 16))))

/-- The link, bus mastering, MSI-X and DMA faults (rules R89, R498 to R500, R518): a masked message waits in the pending-bit array
and goes out where nothing masks it; a DMA fault is captured, counted and stops its ring. -/
def Obligations.HostPortEvents : Prop :=
  ∀ s : State, s.inReset = false →
    (s.hostSpi = false → s.host.perst = false →
      (∀ (up : Bool) (gen : Fin 3) (lanes : Fin 2),
        let v := if up then 1 + (gen.val + 1) * 2 + (lanes.val + 1) * 8 else 0
        s.rf 0x0B0 0x040 5 0 ≠ v → Ends (.pcieLinkChange up gen lanes) s ((s.setRf 0x0B0 0x040 5 0 v).irq 0x0B0 16)) ∧
      exec (.busMasterEnable true) s = .next { s with host := { s.host with bme := true } } ∧
      exec (.busMasterEnable false) s = .next { s with host := { s.host with bme := false, dma := false } } ∧
      (∀ (w : MsixWrite), ∃ t, exec (.msixMask w) s = .next t ∧
        (match w with
         | .vector v m => t.msixOn = s.msixOn ∧ t.msixFuncMask = s.msixFuncMask ∧
            ∀ u, u < 32 → t.msixMask.getLsbD u = if u = v.val then m else s.msixMask.getLsbD u
         | .function e m => t.msixOn = (e && !s.host.d3hot) ∧ t.msixFuncMask = m ∧ t.msixMask = s.msixMask) ∧
        (let goes := fun (v : Nat) => t.msixOn && !t.msixFuncMask && !t.msixMask.getLsbD v
         (∀ v, v < 32 → t.msixPba.getLsbD v = (s.msixPba.getLsbD v && !goes v)) ∧
         t.outbox = (((List.range 32).filter fun v => goes v && s.msixPba.getLsbD v).map Output.msix).reverse ++ s.outbox) ∧
        ({ t with outbox := s.outbox, msixOn := s.msixOn, msixMask := s.msixMask, msixFuncMask := s.msixFuncMask,
                  msixPba := s.msixPba } : State) = s)) ∧
    (∀ (ring : Fin 16) (slot : Fin 64) (kind : Fin 4) (a : BitVec 64), s.ringActive ring.val slot.val = true →
      (s.reg 0x0B0 0x048).getLsbD 31 = false →
      let info := BitVec.ofNat 32 (ring.val + (if ring.val = 4 then slot.val * 16 else 0) + kind.val * 1024 + 2 ^ 31)
      let t := ((((s.setReg 0x0B0 0x048 info).setReg 0x0B0 0x04C (BitVec.ofNat 32 a.toNat)).setReg 0x0B0 0x050
        (BitVec.ofNat 32 (a.toNat / 2 ^ 32))).irq 0x0B0 17).capErr 0x0B0 0x40 0
      (∀ p o, ringOf ring.val = some (p, o) → Ends (.dmaFault ring slot kind a) s (t.setRf p o 0 0 0)) ∧
      (∀ e, ringOf ring.val = none → s.subAt slot.val = some e →
        Ends (.dmaFault ring slot kind a) s (t.modSub e.1 fun x => { x with faulted := true })))

/-! ## Register pages -/

/-- The page header (rules R68, R72 to R74, R79, R80, R82, R86, R87): what a taken write of each header register does, and its
refusals, which change nothing but the page's error registers. -/
def Obligations.PageHeaders : Prop :=
  ∀ (s : State) (page : BitVec 8), let p := page.toNat
    s.hears p → pageType p ≠ none →
    (∀ v, capSrst p = true → s.locked p = false → winLive s p = false →
      let t := (s.setShad p 0x00C (setFld (s.shad p 0x00C) 0 0 (fld v 0 0))).setRf p 0x010 2 2 1
      Ends (.srst page v) s (if v.getLsbD 2 then t.setRf p 0x00C 2 2 1 else t)) ∧
    (∀ v, s.locked p = false → (capSrst p = false ∨ winLive s p = true) → Ends (.srst page v) s (s.capErr p 0x07 0x00C)) ∧
    (∀ v, s.locked p = true → Ends (.srst page v) s (s.capErr p 0x10 0x00C) ∧ Ends (.lock page v) s (s.capErr p 0x10 0x00C)) ∧
    (∀ v, s.locked p = false → v.getLsbD 1 = false →
      let t := if capSrst p then s.setShad p 0x00C (setFld (s.shad p 0x00C) 0 0 (fld v 0 0)) else s
      Ends (.lock page v) s (t.setRf p 0x00C 2 2 1)) ∧
    (s.locked p = false → s.enabled p = false → Ends (.selected page 1) s (s.setRf p 0x004 31 24 1)) ∧
    (∀ m, s.locked p = false → m ≠ 1 → Ends (.selected page m) s (s.capErr p 0x05 0x004)) ∧
    (∀ v, capShadow p = true → s.locked p = false → v.getLsbD 1 = false →
      Ends (.arm page v) s ((s.setRf p 0x02C 0 0 1).setRf p 0x02C 2 2 (fld v 2 2))) ∧
    (∀ v, capShadow p = true → s.locked p = false →
      Ends (.discard page v) s ((s.discard p).setRf p 0x02C 2 2 (fld v 2 2)) ∧
      (s.discard p).armed p = false ∧ ∀ e ∈ shadowSlots p, (s.discard p).shadAtSlot e.1 = s.regAtSlot e.1) ∧
    (∀ v, Ends (.pgIrqPnd page v) s (s.setReg p 0x014 ((s.reg p 0x014 &&& ~~~v) ||| winLevel s p))) ∧
    Ends (.pgErrCode page) s (s.setReg p 0x020 0) ∧
    (∀ a : BitVec 20, a.toNat = addr p 0x024 → Ends (.clr a) s (s.setReg p 0x024 (setFld (s.reg p 0x024) 16 0 0)))

/-- A write of any register (rules R9, R15, R18, R62, R76, R86, R89): without all byte enables or to an unmapped page it is refused; a
reserved register takes nothing; on a lane page a value within its ranges is taken field by field, else refused whole; a counter
clears; GROUP_COMMIT.GO arms every unlocked page of the group; an end of interrupt sends its message again while it is in request. -/
def Obligations.RegisterWrites : Prop :=
  ∀ (s : State) (a : BitVec 20), let p := a.toNat / 0x1000
    let off := a.toNat % 0x1000 / 4 * 4
    (s.hears p →
      (∀ v be, be ≠ 0xF → Ends (.registerWrite a v be) s (s.capErr 0x0B0 0x11 off)) ∧
      (∀ v, pageType p = none → Ends (.registerWrite a v 0xF) s (s.capErr 0x0B0 0x12 off)) ∧
      (∀ v, pageType p ≠ none → 0x040 ≤ off → regAt p off = none → exec (.registerWrite a v 0xF) s = .next s) ∧
      (∀ v r, pageType p = some .lane → 0x040 ≤ off → regAt p off = some r → s.locked p = false →
        ((∀ f ∈ r.flds, f.ok v = true) → r.mask .cnt = 0 →
          let t := s.setReg p off (mix (r.mask .rw) v (s.reg p off) &&& ~~~(v &&& r.mask .w1c))
          (r.mask .rws = 0 → Ends (.registerWrite a v 0xF) s t) ∧
          (r.mask .rws ≠ 0 → Ends (.registerWrite a v 0xF) s (t.setShad p off (mix (r.mask .rws) v (s.shad p off))))) ∧
        ((∃ f ∈ r.flds, f.ok v = false ∧ (f.acc = .rw ∨ f.acc = .rws ∨ f.acc = .wo)) →
          Ends (.registerWrite a v 0xF) s (s.capErr p 0x05 off)) ∧
        (r.flds = [⟨0, 32, .cnt, .any⟩] → Ends (.clr a) s (s.setReg p off (setFld (s.reg p off) 16 0 0))))) ∧
    (s.hears 0x000 →
      (∃ t, exec .groupCommit s = .next t ∧ t.goCnt = s.goCnt + 1 ∧
        (∀ q, q < 256 → capShadow q = true → (s.reg q 0x02C).getLsbD 2 = true → s.locked q = false →
          t.armed q = true ∧ (q, s.goCnt + 1) ∈ t.grp) ∧
        (∀ q, q < 256 → ¬ (capShadow q = true ∧ (s.reg q 0x02C).getLsbD 2 = true ∧ s.locked q = false) →
          t.reg q 0x02C = s.reg q 0x02C) ∧
        RegsKept ((List.range 256).map fun q => addr q 0x02C) s t ∧
        ({ t with regs := s.regs, grp := s.grp, goCnt := s.goCnt } : State) = s) ∧
      (∀ v : Fin 32, (s.vecReq v.val = false → Ends (.irqEoi v) s s) ∧
        (s.vecReq v.val = true → s.msixOn = true → s.msixFuncMask = false → s.msixMask.getLsbD v.val = false →
          ∃ t, exec (.irqEoi v) s = .next t ∧ t.outbox = .msix v.val :: s.outbox ∧ (∀ c, t.cell c = s.cell c))))

/-- Reads that answer and latch the rest of their value for the next reads (rules R31, R142, R182, R269, R395, R399, R513, R555,
R557): the whole number of one instant. A window that does not answer reads all ones and latches nothing (in D3hot the model's
choice: see NOTES.md). -/
def Obligations.ReadsThatLatch : Prop :=
  ∀ s : State,
    (s.winOff = true → ∀ n : Fin 8, ∀ u : Fin 3, ∀ c ∈ ([.heatLo, .cellsLo, .nowSecLo, .stepLo, .schNextSec, .data0, .rtcSecLo,
        .stampSecLo n, .gapLo n, .rxdata u] : List Instr), exec c s = .next { s with hostRead := 0xFFFFFFFF }) ∧
    (s.winOff = false →
      Answers .heatLo s (BitVec.ofNat 32 s.heat) (s.setReg 0x001 0x044 (BitVec.ofNat 32 (s.heat / 2 ^ 32))) ∧
      Answers .cellsLo s (BitVec.ofNat 32 s.cells) (s.setReg 0x041 0x06C (BitVec.ofNat 32 (s.cells / 2 ^ 32))) ∧
      Answers .nowSecLo s (BitVec.ofNat 32 (secOf s.tb.now))
        (((s.setReg 0x080 0x044 (BitVec.ofNat 32 (secOf s.tb.now / 2 ^ 32))).setReg 0x080 0x048
          (BitVec.ofNat 32 (nsOf s.tb.now))).setReg 0x080 0x04C
          (BitVec.ofNat 32 (fracOf s.tb.now + s.tb.epoch % 65536 * 65536))) ∧
      Answers .stepLo s (BitVec.ofInt 32 s.tb.stepNs)
        (s.setReg 0x080 0x068 (BitVec.ofNat 32 ((BitVec.ofInt 64 s.tb.stepNs).toNat / 2 ^ 32))) ∧
      (∀ n : Fin 8, Answers (.gapLo n) s (BitVec.ofNat 32 (s.lane n.val).gap)
        (s.setReg (0x010 + n.val) 0x0B4 (BitVec.ofNat 32 ((s.lane n.val).gap / 2 ^ 32)))) ∧
      (∀ (n : Fin 8) b, (s.lane n.val).blk = some b → Answers (.stampSecLo n) s (BitVec.ofNat 32 (b.stamp / 10 ^ 11))
        ((((s.setReg (0x010 + n.val) 0x094 (BitVec.ofNat 32 b.num)).setReg (0x010 + n.val) 0x09C
          (BitVec.ofNat 32 (b.stamp / 10 ^ 11 / 2 ^ 32))).setReg (0x010 + n.val) 0x0A0
          (BitVec.ofNat 32 (b.stamp / 100 % 10 ^ 9))).setReg (0x010 + n.val) 0x0A4
          (BitVec.ofNat 32 (b.stamp % 100 * 65536 / 100 + b.epoch % 65536 * 65536)))) ∧
      (let i := s.rf 0x082 0x084 12 0
       s.hasSched i = true → (s.ent i).st = .live →
        Answers .schNextSec s (BitVec.ofNat 32 ((s.sched i).t10 (s.sched i).nextK / 10 ^ 11))
          (s.setReg 0x082 0x090 (BitVec.ofNat 32 ((s.sched i).t10 (s.sched i).nextK / 100 % 10 ^ 9)))) ∧
      (s.assay.inWdog = false →
        (let r := s.logRec (s.rf 0x0C2 0x048 11 0)
         Answers .data0 s (r.extractLsb' 0 32) { s with log := { s.log with latch := r } }) ∧
        (let t := s.rtcTicks
         Answers .rtcSecLo s (BitVec.ofNat 32 (t / 32768))
          (((s.setReg 0x0C5 0x044 (BitVec.ofNat 32 (t / 32768 / 2 ^ 32 % 65536))).setReg 0x0C5 0x048 (BitVec.ofNat 32 (t % 32768))).setReg
            0x0C5 0x04C (if s.bk.rtcValid then BitVec.ofNat 32 (min 0xFFFFFFFF s.rtcUnc) else 0xFFFFFFFF)))) ∧
      (∀ u : Fin 3, (s.uartCfg u.val).getLsbD 6 = false →
        ((s.uart u.val).rx = [] → Answers (.rxdata u) s 0 (s.modUart u.val fun x => { x with rx := [] })) ∧
        (∀ c pe fe rest, (s.uart u.val).rx = (c, pe, fe) :: rest →
          Answers (.rxdata u) s (BitVec.ofNat 32 (c.toNat + b2n pe * 256 + b2n fe * 512 + 1024))
            (s.modUart u.val fun x => { x with rx := rest }))))

/-- The exchange-memory window (rule R498): a native word is staged in two dwords and written with the third, all 72 bits at once; a
read of dword +0 latches the rest of its word, which the reads of +4 and +8 answer whatever has been written since; it takes the word
from the memory, where an uncorrectable error is met and captured (rules R53, R56). -/
def Obligations.ExchangeWindow : Prop :=
  ∀ s : State, s.winOff = false →
    (∀ v, ∃ t, exec (.exchangeStageWrite false v) s = .next t ∧ t.host.stage = s.host.stage.extractLsb' 32 32 ++ v ∧
      ({ t with host := { t.host with stage := s.host.stage } } : State) = s) ∧
    (∀ v, ∃ t, exec (.exchangeStageWrite true v) s = .next t ∧ t.host.stage = v ++ s.host.stage.extractLsb' 0 32 ∧
      ({ t with host := { t.host with stage := s.host.stage } } : State) = s) ∧
    (∀ (w : BitVec 16) (v : Word), ∃ t, exec (.exchangeWordWrite w v) s = .next t ∧
      t.ex w.toNat = v.extractLsb' 0 8 ++ s.host.stage ∧ t.host.stage = 0 ∧
      (∀ a, a % 0x10000 ≠ w.toNat → t.ex a = s.ex a) ∧ t.isBad 28 w.toNat = false ∧
      ({ t with host := s.host, exch := s.exch, bad := s.bad } : State) = s) ∧
    (∀ w : BitVec 16, s.isBad 28 w.toNat = true → ∃ t, exec (.exchangeRead w 0) s = .next t ∧
      t.hostRead = (s.ex w.toNat).extractLsb' 0 32 ∧ ∀ a, t.cell a = (s.capErr 0x003 0x20 0).cell a) ∧
    (∀ w : BitVec 16, s.isBad 28 w.toNat = false → ∃ t, exec (.exchangeRead w 0) s = .next t ∧ t.hostRead = (s.ex w.toNat).extractLsb' 0 32 ∧
      ({ t with hostRead := s.hostRead, host := { t.host with latch := s.host.latch } } : State) = s ∧
      ∀ u : State, u.winOff = false → u.host.latch = t.host.latch →
        (∃ x, exec (.exchangeRead w 1) u = .next x ∧ x.hostRead = (s.ex w.toNat).extractLsb' 32 32 ∧ x.host.latch = t.host.latch) ∧
        (∃ x, exec (.exchangeRead w 2) u = .next x ∧ x.hostRead = ((s.ex w.toNat).extractLsb' 64 8).setWidth 32 ∧
          x.host.latch = t.host.latch) ∧
        (∃ x, exec (.exchangeRead w 3) u = .next x ∧ x.hostRead = 0))

/-- The SPI target (rules R502 to R505): a frame whose header breaks its musts is refused whole; a word with a right CRC is written
and acknowledged, one with a wrong CRC is counted and answered 0x3C; a burst goes on at the next word; a word cut short is counted.
A read word is answered with its marker, its bytes and their CRC. -/
def Obligations.SpiTarget : Prop :=
  ∀ s : State, s.inReset = false → s.hostSpi = true →
    (∀ xw low a n l, spiHdrOk low a = false →
      Ends (.spiRead xw low a n) s (s.capErr 0x0B0 0x42 0) ∧ Ends (.spiWrite xw low a l) s (s.capErr 0x0B0 0x42 0)) ∧
    Ends .spiShort s (s.count 0x0B0 0x058) ∧
    (∀ xw low a, spiHdrOk low a = true →
      exec (.spiRead xw low a 0) s = .next s ∧ exec (.spiWrite xw low a []) s = .next s ∧
      (∀ w : SpiWord, crc8 (spiHeader false xw a.toNat ++ spiBytes w.data) ≠ w.crc.toNat →
        Ends (.spiWrite xw low a [w]) s ((((s.capErr 0x0B0 0x41 0).count 0x0B0 0x054).irq 0x0B0 18).emit (.spi [0x3C]))) ∧
      (∀ w : SpiWord, crc8 (spiHeader false false a.toNat ++ spiBytes w.data) = w.crc.toNat →
        Ends (.spiWrite false low a [w]) s ((s.hostWrite a.toNat w.data true).emit (.spi [0xA5]))) ∧
      (a.toNat < 0x1000 → let l := 0xA5 :: spiBytes (s.hostGet a.toNat)
        Answers (.spiRead false low a 1) s (s.hostGet a.toNat) (s.emit (.spi (l ++ [BitVec.ofNat 8 (crc8 l)])))) ∧
      (a.toNat + 4 < 2 ^ 20 → ∀ t, t.inReset = false → t.hostSpi = true →
        (∀ w rest, exec (.spiWrite xw low a [w]) s = .next t →
          exec (.spiWrite xw low a (w :: rest)) s = exec (.spiWrite xw low (a + 4) rest) t) ∧
        (∀ n, exec (.spiRead xw low a 1) s = .next t →
          exec (.spiRead xw low a (n + 1)) s = exec (.spiRead xw low (a + 4) n) t)))

/-- The UARTs (rules R506 to R516, R520): a character, each of its bits the majority of its samples at ticks 7, 8 and 9 (how the samples
arrive is the model's choice, log entry 97), enters the receive FIFO with its PE and FE flags, or overruns it; breaks, dead
lines and idle lines; transmission goes on with the next byte; TXDATA queues a byte or is refused with BUSY. -/
def Obligations.UartLines : Prop :=
  ∀ (uart : Fin 3) (s : State) (dt : Nat), let n := uart.val
    let p := 0x0B1 + n
    let u := s.after dt
    (u.uartRxOn n = true →
      Ends (.breakOn uart dt) s (((u.modUart n fun x => { x with inBreak := true }).count p 0x06C).irq p 20) ∧
      (∀ (idle : Nat) (ticks : List Bool), let cfg := u.uartCfg n
        let bit := fun (b : Nat) => decide (2 ≤ b2n (ticks.getD (16 * b + 7) true) + b2n (ticks.getD (16 * b + 8) true)
          + b2n (ticks.getD (16 * b + 9) true))
        let bits := if cfg.getLsbD 0 then 7 else 8
        let par := fld cfg 2 1
        let parity := bit (bits + 1)
        let stop := bit (if par = 0 then bits + 1 else bits + 2)
        let cmd := Instr.character uart dt idle ticks false
        (bit 0 = true ∨ ((u.uart n).feWait = true ∧ idle = 0) → Ends cmd s u) ∧
        (bit 0 = false → (u.uart n).feWait = false ∨ 0 < idle → ∀ c : Byte, (∀ i, c.getLsbD i = (decide (i < bits) && bit (i + 1))) →
          let pe := par != 0 && (ones c + b2n parity) % 2 != (if par = 1 then 0 else 1)
          ((c = 0 ∧ (par = 0 ∨ parity = false) ∧ stop = false) →
            ∃ t, exec cmd s = .next t ∧ (t.uart n).inBreak = true ∧
              (t.uart n).rx = (u.uart n).rx ∧ t.reg p 0x06C = cntUp (u.reg p 0x06C)) ∧
          (¬ (c = 0 ∧ (par = 0 ∨ parity = false) ∧ stop = false) → cfg.getLsbD 6 = false →
            ∃ t, exec cmd s = .next t ∧ (∀ m, m ≠ n → t.uart m = u.uart m) ∧
              t.reg p 0x060 = (if pe then cntUp (u.reg p 0x060) else u.reg p 0x060) ∧
              t.reg p 0x064 = (if stop then u.reg p 0x064 else cntUp (u.reg p 0x064)) ∧
              RegsKept [addr p 0x014, addr p 0x060, addr p 0x064, addr p 0x068] u t ∧
              ((u.uart n).rx.length < 256 →
                t.uart n = { u.uart n with lastEl := u.el, idleDone := false, feWait := !stop,
                                           rx := (u.uart n).rx ++ [(c, pe, !stop)] } ∧
                t.reg p 0x068 = u.reg p 0x068 ∧
                t.reg p 0x014 = u.reg p 0x014 ||| (if pe || !stop then BitVec.ofNat 32 (2 ^ 23) else 0) ||| levelUart t p) ∧
              (256 ≤ (u.uart n).rx.length → (t.uart n).rx = (u.uart n).rx ∧ t.reg p 0x068 = cntUp (u.reg p 0x068) ∧
                (t.reg p 0x014).getLsbD 19 = true))))) ∧
    (∀ ticks, ((u.uart n).lineDead = true ∧ 16 * uartBits (u.uartCfg n) ≤ ticks) ∨
        ((u.uart n).inBreak = true ∧ (u.uart n).lineDead = false ∧ 8 ≤ ticks) →
      Ends (.breakEnd uart dt ticks) s ((u.modUart n fun x => { x with lineDead := false, inBreak := false, feWait := false }).irq p 21)) ∧
    (∀ low, u.inReset = false → u.enabled p = true → (u.uart n).lineDead = false → u.uartAssay n = false →
      ofNs (1000000 * u.rf p 0x048 13 0) ≤ low * tickUnits →
      Ends (.lineDead uart dt low) s ((u.modUart n fun x => { x with lineDead := true }).irq p 22)) ∧
    (u.inReset = false → (u.uart n).rx ≠ [] → (u.uart n).idleDone = false →
      (u.uart n).lastEl + u.bitUnits n (4 * uartBits (u.uartCfg n)) ≤ u.el →
      Ends (.rxIdle uart dt) s ((u.modUart n fun x => { x with idleDone := true }).irq p 18)) ∧
    (∀ c, (u.uart n).sending = some c →
      ((u.uart n).tx = [] → Ends (.characterSent uart dt) s (u.modUart n fun x => { x with sending := none })) ∧
      (∀ b rest, (u.uart n).tx = b :: rest → u.inReset = false → u.enabled p = true →
        ¬ ((u.uartCfg n).getLsbD 4 = true ∧ (u.uart n).ctsHigh = true) →
        let d := if (u.uartCfg n).getLsbD 0 then b &&& 0x7F else b
        ∃ t, exec (.characterSent uart dt) s = .next t ∧
          t.uart n = { u.uart n with tx := rest, sending := some d, inForce := u.uartCfg n } ∧
          t.outbox.filter (fun o => !o.isMessage) = .uartChar n d (uartFrame (u.uartCfg n) d) :: u.outbox.filter (fun o => !o.isMessage) ∧
          RegsKept [addr p 0x014] u t)) ∧
    (∀ high, s.inReset = false → (s.uart n).tx = [] → Ends (.cts uart high) s (s.modUart n fun x => { x with ctsHigh := high })) ∧
    (∀ v, s.hears p → s.subsOn n = false → s.uartAssay n = false → (s.uart n).tx.length < 256 → (s.uart n).sending ≠ none →
      Ends (.txdata uart v) s (s.modUart n fun x => { x with tx := x.tx ++ [v.setWidth 8] })) ∧
    (∀ v, s.hears p → (s.subsOn n = true ∨ 256 ≤ (s.uart n).tx.length) → Ends (.txdata uart v) s (s.capErr p 0x07 0x058))

/-! ## Assay: log, backup domain, authority, update path, crypto engine -/

/-- The event log, the backup domain and re-epoch authority (rules R530 to R533, R545, R549 to R551, R555, R557, R591, R610): a
record from firmware or from a post; sixteen records mirrored in flash (where in it is the model's choice, log entry 98); a row of
retention memory with the CRC, once in 60 s; the host's rows; the loss of the
backup supply; the clock's setting; ARMED and its 10 s. -/
def Obligations.LogBackupAuthority : Prop :=
  ∀ s : State,
    (s.log.next < s.log.mirrored + 4096 →
      (s.assayServes = true → ∀ (sev : Fin 8) (code : Byte) (a16 : BitVec 16) (a32 : Word),
        ∃ t, exec (.log sev code a16 a32) s = .next t ∧ Logged s t 3 sev.val code.toNat a16.toNat a32) ∧
      (s.hears 0x0C2 → s.assayHalted = false → ∀ v : Word, 0x80 ≤ fld v 7 0 → fld v 10 8 ≤ 4 →
        ∃ t, exec (.post v) s = .next t ∧ Logged s t 4 (fld v 10 8) (fld v 7 0) (fld v 31 16) (s.reg 0x0C2 0x05C))) ∧
    (∀ dt, let u := s.after dt
      let m := u.log.mirrored
      u.assayServes = true → u.log.flashOk = true → m + 16 ≤ u.log.next →
        Ends (.logMirror dt false) s (u.irq 0x0C2 18) ∧
        ∃ t, exec (.logMirror dt true) s = .next t ∧ t.log = { u.log with mirrored := m + 16, times := u.log.times.drop 16 } ∧
          ({ t with log := u.log, flash := u.flash } : State) = u ∧ (∀ a, a < 0x900000 ∨ 0x940000 ≤ a → t.fl a = u.fl a) ∧
          (0 < m % 255 → m % 255 + 16 ≤ 255 → (∀ a, logAt m ≤ a → a < logAt m + 256 → u.fl a = 0xFF) →
            t.flBytes (logAt m) 256 = (List.range 16).flatMap (fun i => bytesLe 16 (u.logRec (m + i)).toNat) ∧
            ∀ a, a < logAt m ∨ logAt m + 256 ≤ a → t.fl a = u.fl a)) ∧
    (s.assayServes = true → ∀ (row : Fin 96) (data : Row), s.retRecent row.val = true → Ends (.retain row data) s s) ∧
    (s.assayServes = true → ∀ (row : Fin 96) (data : Row), s.retRecent row.val = false → ∃ t, exec (.retain row data) s = .next t ∧
      t.retRecent row.val = true ∧ (row.val ≠ 1 → t.retRow row.val = data) ∧ (t.retRow 1).toNat % 2 ^ 32 = t.retCrc ∧
      (∀ r, r ≠ row.val → r ≠ 1 → t.retRow r = s.retRow r) ∧ (s.bk.need = false → t.bk.retValid = true) ∧
      t.regs = s.regs ∧ ({ t with bk := s.bk, bad := s.bad, assay := { t.assay with retEl := s.assay.retEl } } : State) = s) ∧
    (s.hears 0x0C5 → s.locked 0x0C5 = false → ∀ v : Word, let r := s.rf 0x0C5 0x054 6 0
      (96 ≤ r → ∃ t, exec (.retHi v) s = .next t ∧ t.retRow r = v ++ s.reg 0x0C5 0x058 ∧
        ∀ q, q ≠ r → t.retRow q = s.retRow q) ∧
      (r < 96 → Ends (.retHi v) s (s.capErr 0x0C5 0x07 0x05C))) ∧
    (∀ lost : Bool, (lost = true ↔ s.bk.onBat = true ∧ s.bk.vbatAbsent = false) →
      ∃ t, exec .vbatLost s = .next t ∧ t.bk.vbatAbsent = true ∧
        (lost = true → t.bk.rtcValid = false ∧ t.bk.retValid = false ∧ t.bk.vbatLost = true ∧ t.bk.lostLog = true ∧ t.bk.need = true) ∧
        (lost = false → ({ t with bk := { t.bk with vbatAbsent := s.bk.vbatAbsent } } : State) = s)) ∧
    (∀ toBat vbat, ∃ t, exec (.backupSwitchover toBat vbat) s = .next t ∧ t.bk.onBat = toBat ∧ t.bk.vbatAbsent = !vbat ∧
      (toBat = true → vbat = false → s.bk.onBat = false → t.bk.rtcValid = false ∧ t.bk.retValid = false ∧ t.bk.vbatLost = true) ∧
      (toBat = false ∨ vbat = true → ({ t with bk := { t.bk with onBat := s.bk.onBat, vbatAbsent := s.bk.vbatAbsent } } : State) = s)) ∧
    (s.assayServes = true → s.tb.stepped = true → s.tb.healthy = true → s.bk.syncEl = none →
      ∃ (t : State) (e : Nat), exec .rtcSync s = .next t ∧ e ≤ 4000000 ∧
        (let ns := toNs s.tb.now + e - 2000000
         t.bk.rtcSec = ns / 1000000000 % 2 ^ 48 ∧ t.bk.rtcTick = ns % 1000000000 * 32768 / 1000000000) ∧
        t.bk.rtcEl = s.el ∧ t.bk.rtcValid = true ∧ t.bk.uncUs = 2000 + ceilDiv s.sol.timeStd 100 ∧ t.bk.ret = s.bk.ret ∧
        t.reg 0x0C5 0x014 = s.reg 0x0C5 0x014 ||| BitVec.ofNat 32 (2 ^ 17) ∧ RegsKept [addr 0x0C5 0x014] s t) ∧
    (s.hears 0x0C0 → (s.fuse 937 937 = 0 → Ends .reepochArm s { s with armAt := some s.el }) ∧
      (s.fuse 937 937 = 1 → Ends .reepochArm s s)) ∧
    (∀ dt at_, let u := s.after dt
      u.armAt = some at_ → (at_ + ofNs 10000000000 ≤ u.el → Ends (.armedExpiry dt) s { u with armAt := none }) ∧
        (u.el < at_ + ofNs 10000000000 → Ends (.armedExpiry dt) s u))

/-- The update path (rules R525, R526, R536, R537, R540 to R543): each command in a state that allows it, and what the end of its flash
operation leaves; a VDDIO_B fault during a flash operation (rule R552); a trial image that reports healthy becomes ACTIVE, and one that
does not in 30 s ends in a reset. -/
def Obligations.UpdatePath : Prop :=
  ∀ s : State,
    (s.hears 0x0C3 → s.assayHalted = false → s.upd.op = 0 → s.trialPending = false → s.upd.session = false →
      ((s.upd.st = .idle ∨ s.upd.st = .failed ∨ s.upd.st = .staged) → 0x480 ≤ s.rf 0x0C3 0x044 22 0 → s.rf 0x0C3 0x044 22 0 ≤ 0x400000 →
        ∃ t, exec .begin s = .next t ∧ t.upd.st = .erasing ∧ t.upd.op = 1 ∧ t.upd.imgLen = s.rf 0x0C3 0x044 22 0 ∧
          t.slot s.otherSlot = {} ∧ t.flash = s.flash ∧ t.fuses = s.fuses) ∧
      (s.upd.st = .ready → let len := s.rf 0x0C3 0x04C 12 0
        let off := s.rf 0x0C3 0x050 22 0
        (off % 256 = 0 → 1 ≤ len → len ≤ 4096 → off + len ≤ s.upd.imgLen →
          ∃ t, exec .write s = .next t ∧ t.upd.st = .writing ∧ t.upd.op = 2 ∧ t.upd.offset = off ∧
            t.upd.bytes = s.exSpan (s.rf 0x0C3 0x048 15 0) len ∧ t.flash = s.flash) ∧
        (∃ t, exec .finish s = .next t ∧ t.upd.st = .verifying ∧ t.upd.op = 3 ∧ t.flash = s.flash)) ∧
      (s.upd.st ≠ .idle → ∃ t, exec .abort s = .next t ∧ t.upd.st = .idle ∧ t.upd.result = 0 ∧ t.slot s.otherSlot = {} ∧
        t.imageCode s.otherSlot = 1 ∧ (∀ a, a < slotBase s.otherSlot ∨ slotBase s.otherSlot + 4 ≤ a → t.fl a = s.fl a) ∧
        (t.reg 0x0C3 0x014).getLsbD 16 = true) ∧
      (s.upd.st = .idle → (s.slot s.upd.running).key = 1 → (s.slot s.upd.running).ok = true →
        ∃ t, exec .revokeKey0 s = .next t ∧ t.upd.op = 5 ∧ t.fuses = s.fuses)) ∧
    (s.hears 0x0C3 → s.assayHalted = false → s.upd.op ≠ 0 → s.upd.st ≠ .idle → s.trialPending = false → s.upd.session = false →
      (∃ t, exec .abort s = .next t ∧ t.upd.stop = true ∧ t.upd.op = s.upd.op ∧ t.upd.st = s.upd.st) ∧
      Ends .begin s (s.capErr 0x0C3 0x07 0x040) ∧ Ends .finish s (s.capErr 0x0C3 0x07 0x040)) ∧
    (∀ dt ok, let u := s.after dt
      u.assayServes = true → u.upd.stop = false →
        (u.upd.op = 1 → ok = true → ∃ t, exec (.updDone dt ok) s = .next t ∧ t.upd.st = .ready ∧ t.upd.op = 0 ∧ t.upd.result = 0 ∧
          (∀ a, slotBase u.otherSlot ≤ a → a < slotBase u.otherSlot + ceilDiv u.upd.imgLen 4096 * 4096 → t.fl a = 0xFF) ∧
          (∀ a, a < slotBase u.otherSlot ∨ slotBase u.otherSlot + ceilDiv u.upd.imgLen 4096 * 4096 ≤ a → t.fl a = u.fl a) ∧
          (t.reg 0x0C3 0x014).getLsbD 16 = true ∧ t.fuses = u.fuses) ∧
        (u.upd.op = 5 → ok = true → ∃ t, exec (.updDone dt ok) s = .next t ∧ t.upd.st = .idle ∧ t.upd.result = 0 ∧
          t.fuses = u.fuses ||| BitVec.ofNat 4096 (2 ^ 936)) ∧
        (u.upd.op ≠ 0 → u.upd.op ≠ 5 → ok = false → ∃ t, exec (.updDone dt ok) s = .next t ∧ t.upd.st = .failed ∧ t.upd.result = 6 ∧
          t.flash = u.flash ∧ (t.reg 0x0C3 0x014).getLsbD 17 = true) ∧
        (u.upd.op = 3 → ok = true → u.imageCode u.otherSlot ≠ 0 → ∃ t, exec (.updDone dt ok) s = .next t ∧ t.upd.st = .failed ∧
          t.upd.result = u.imageCode u.otherSlot ∧ t.flash = u.flash) ∧
        (u.upd.op = 3 → ok = true → u.imageCode u.otherSlot = 0 → ∃ t, exec (.updDone dt ok) s = .next t ∧ t.upd.st = .staged ∧
          t.upd.trial = some u.otherSlot ∧ t.upd.active = u.upd.active ∧ t.upd.tried = false)) ∧
    (∀ dt el0, let u := s.after dt
      u.upd.trialEl = some el0 → u.assayServes = true →
        (2 < u.svc → u.el ≤ el0 + ofNs 30000000000 → (u.slot u.upd.running).flags % 2 = 0 →
          ∃ t, exec (.healthy dt) s = .next t ∧ t.upd.trialEl = none ∧ t.upd.active = u.upd.running ∧ t.upd.trial = none ∧
            (t.reg 0x0C3 0x014).getLsbD 18 = true ∧ t.fuses = u.fuses) ∧
        (2 < u.svc → u.el ≤ el0 + ofNs 30000000000 → (u.slot u.upd.running).flags % 2 = 1 →
          u.arb < (u.slot u.upd.running).rollback →
          (u.slot u.upd.running).rollback ≤ 64 → ∃ t, exec (.healthy dt) s = .next t ∧ t.upd.active = u.upd.running ∧
            t.fuses = u.fuses ||| BitVec.ofNat 4096 ((2 ^ (u.slot u.upd.running).rollback - 1) * 2 ^ 768)) ∧
        (2 < u.svc → el0 ≤ u.el → 30001 * ofNs 1000000 ≤ u.el - el0 → Ends (.healthy dt) s u) ∧
        (el0 + ofNs 30000000000 ≤ u.el → ∃ w t, exec (.trialTimeout dt) s = .next t ∧ WasReset 3 w t ∧
          w.flash = (u.writeBcb u.upd.active none false).flash ∧ w.fuses = u.fuses ∧ w.bk = u.bk ∧ w.log.next ≠ u.log.next)) ∧
    (∀ dt temps volts, let u := s.after dt
      u.assayOn = true → u.upd.op = 1 ∨ u.upd.op = 2 → ∀ i, i = 26 ∨ i = 27 → (Tab.get (fun _ => ({} : Sensor)) u.assay.sens i).fault = false →
        (∃ v, exec (.sensorSample dt temps volts) s = .next v ∧ (Tab.get (fun _ => ({} : Sensor)) v.assay.sens i).fault = true) →
        ∃ t, exec (.sensorSample dt temps volts) s = .next t ∧ t.upd.op = 0 ∧ t.upd.st = .failed ∧ t.upd.result = 6 ∧ t.flash = u.flash ∧
          (t.reg 0x0C3 0x014).getLsbD 17 = true)

/-- UART recovery (rule R544): a frame with a bad CRC has no answer; one repeated has its answer again; HELLO claims the path; the
frames of an update start its commands; BAUD changes the rate 10 ms after its answer, and a rate without good frames for 60 s goes
back; RESET_FRAME is answered and resets the Malith. -/
def Obligations.RecoverySession : Prop :=
  ∀ (s : State) (dt : Nat) (seq : Byte), let u := s.after dt
    let sent := fun (t : State) => t.outbox.filter fun o => !o.isMessage
    let chars := fun (l : List Byte) => (l.map fun b => Output.uartChar 0 b (uartFrame 0 b)).reverse
    let crc := fun (typ : Nat) (l : List Byte) => BitVec.ofNat 32 (crc32 ([BitVec.ofNat 8 typ, seq] ++ bytesLe 2 l.length ++ l))
    let good : State := { u with upd := { u.upd with sesGood := u.el } }
    (∀ len off rate : Word, ∀ l : List Byte, ∀ f ∈ ([(fun x => .hello dt seq x, crc 1 []),
        (fun x => .recoveryBegin dt seq x len, crc 2 (bytesLe 4 len.toNat)),
        (fun x => .data dt seq x off l, crc 3 (bytesLe 4 off.toNat ++ l)), (fun x => .recoveryFinish dt seq x, crc 4 []),
        (fun x => .recoveryAbort dt seq x, crc 5 []), (fun x => .baud dt seq x rate, crc 6 (bytesLe 4 rate.toNat)),
        (fun x => .resetFrame dt seq x, crc 7 [])] : List ((Word → Instr) × Word)),
      (∀ x, x ≠ f.2 → exec (f.1 x) s = .next u) ∧
      (u.inRecovery = true → u.upd.sesSeq = some seq.toNat → ∃ t, exec (f.1 f.2) s = .next t ∧
        t.outbox = chars u.upd.sesAns ++ u.outbox ∧ ({ t with outbox := u.outbox } : State) = good)) ∧
    (u.inRecovery = true → u.upd.sesSeq ≠ some seq.toNat → u.upd.sesWait = none →
      (∃ t, exec (.hello dt seq (crc 1 [])) s = .next t ∧ t.upd.session = true ∧ t.upd.sesSeq = some seq.toNat ∧
        t.outbox = chars (sesFrame 1 seq.toNat ([0] ++ bytesLe 4 0x55017240 ++ bytesLe 4 0x11 ++ bytesLe 8 (u.fuse 895 832)
          ++ bytesLe 4 u.arb ++ bytesLe 4 (u.slot 0).version ++ bytesLe 4 (u.slot 1).version)) ++ u.outbox) ∧
      (u.trialPending = false → u.upd.op = 0 →
        (∀ len : Word, (u.upd.st = .idle ∨ u.upd.st = .failed ∨ u.upd.st = .staged) → 0x480 ≤ len.toNat → len.toNat ≤ 0x400000 →
          ∃ t, exec (.recoveryBegin dt seq (crc 2 (bytesLe 4 len.toNat)) len) s = .next t ∧ t.upd.st = .erasing ∧ t.upd.op = 1 ∧ t.upd.imgLen = len.toNat ∧
            t.upd.sesWait = some (2, seq.toNat) ∧ t.outbox = u.outbox) ∧
        (u.upd.st = .ready →
          (∀ (off : Word) l, off.toNat % 256 = 0 → 1 ≤ l.length → l.length ≤ 4096 → off.toNat + l.length ≤ u.upd.imgLen →
            ∃ t, exec (.data dt seq (crc 3 (bytesLe 4 off.toNat ++ l)) off l) s = .next t ∧ t.upd.st = .writing ∧ t.upd.op = 2 ∧ t.upd.offset = off.toNat ∧
              t.upd.bytes = l ∧ t.upd.sesWait = some (3, seq.toNat) ∧ t.outbox = u.outbox) ∧
          (∃ t, exec (.recoveryFinish dt seq (crc 4 [])) s = .next t ∧ t.upd.st = .verifying ∧ t.upd.op = 3 ∧
            t.upd.sesWait = some (4, seq.toNat) ∧ t.outbox = u.outbox)) ∧
        (u.upd.st ≠ .idle → ∃ t, exec (.recoveryAbort dt seq (crc 5 [])) s = .next t ∧ t.upd.st = .idle ∧ t.upd.sesWait = none ∧
          sent t = chars (sesFrame 5 seq.toNat [0]) ++ sent u)) ∧
      (∀ rate : Word, 115200 ≤ rate.toNat → rate.toNat ≤ 3000000 →
        ∃ t, exec (.baud dt seq (crc 6 (bytesLe 4 rate.toNat)) rate) s = .next t ∧ t.upd.sesNext = some (rate.toNat, u.el) ∧ t.upd.sesRate = u.upd.sesRate ∧
          t.outbox = chars (sesFrame 6 seq.toNat [0]) ++ u.outbox) ∧
      (∃ w t, exec (.resetFrame dt seq (crc 7 [])) s = .next t ∧ WasReset 4 w t ∧ w.flash = u.flash ∧ w.fuses = u.fuses ∧ w.bk = u.bk)) ∧
    (u.inReset = false → ∀ r at_, u.upd.sesNext = some (r, at_) → at_ + ofNs 10000000 ≤ u.el →
      Ends (.baudApply dt) s { u with upd := { u.upd with sesRate := r, sesNext := none } }) ∧
    (u.inRecovery = true → u.upd.sesBaud = true → u.upd.sesGood + ofNs 60000000000 ≤ u.el →
      Ends (.baudTimeout dt) s { u with upd := { u.upd with sesRate := 115200, sesBaud := false, sesNext := none } })

/-- The crypto engine (rules R52, R53, R546 to R548): the next request of the ring is sealed with the bytes it names as they are then,
each word met as it is read; the
first sealed is answered with its TAG, its STATUS and the CRC of what was sealed. Where the answer's fields stand is the model's
choice (log entry 22), the processing time is free within its bound. -/
def Obligations.CryptoService : Prop :=
  ∀ s : State, s.assayServes = true →
    (s.assay.queue.length < 256 →
      let a := 0xF000 + 4 * (s.assay.reqIdx % 256)
      let w := fun (i : Nat) => s.ex (a + i)
      let q : Sealed := {
        op := nfld (w 0) 7 0, tag := nfld (w 0) 31 16, out := nfld (w 2) 39 24,
        bad := cryptoForm (w 0) (w 1) (w 2) (w 3), key := s.exSpan (nfld (w 1) 47 32) (nfld (w 1) 55 48),
        inp := s.exSpan (nfld (w 1) 15 0) (nfld (w 1) 29 16), sig := s.exSpan (nfld (w 2) 15 0) (nfld (w 2) 23 16) }
      let met := (((s.meetEx a 4).meetEx (nfld (w 1) 47 32) (ceilDiv (nfld (w 1) 55 48) 8)).meetEx (nfld (w 1) 15 0)
        (ceilDiv (nfld (w 1) 29 16) 8)).meetEx (nfld (w 2) 15 0) (ceilDiv (nfld (w 2) 23 16) 8)
      Ends .cryptoRequest s { met with
        assay := { s.assay with queue := s.assay.queue ++ [q], reqIdx := (s.assay.reqIdx + 1) % 256 } } ∧
      ((∀ b, s.isBad 28 b = false) → ∀ c, met.cell c = s.cell c)) ∧
    (∀ q rest, s.assay.queue = q :: rest → let a := 0xF400 + 2 * (s.assay.ansIdx % 256)
      ∃ t, exec .cryptoAnswer s = .next t ∧ t.ex (a + 1) = BitVec.ofNat 72 (crc32 (q.key ++ q.inp ++ q.sig)) ∧
        (∃ time, t.ex a = BitVec.ofNat 72 (q.tag + q.result.1 * 2 ^ 16 + time * 2 ^ 24)) ∧
        t.assay = { s.assay with queue := rest, ansIdx := (s.assay.ansIdx + 1) % 256, done := (s.assay.done + 1) % 65536 } ∧
        ({ t with exch := s.exch, bad := s.bad, assay := s.assay, freeCtr := s.freeCtr } : State) = s)

/-- Assay's island and its voltage loop (rules R28, R41 to R47, R523, R529, R545, R571): a watchdog reset and its end; a stretch
and its end; the new VDD_CORE setpoint of a window's end; the command's acknowledgement, its retries and its failure. -/
def Obligations.AssayIsland : Prop :=
  ∀ s : State,
    (s.assayOn = true → ∃ t, exec .watchdogReset s = .next t ∧ t.assay = { s.assay with inWdog := true } ∧
      (t.core 8).st = .stopped ∧ (∀ k, k ≠ 8 → t.core k = s.core k) ∧ t.fault = s.fault ∧ t.regs = s.regs) ∧
    (s.inReset = false → s.assay.inWdog = true → ∃ t, exec .assayIslandResetEnd s = .next t ∧
      t.assay = { s.assay with inWdog := false } ∧ (t.core 8).st = .run ∧ (t.core 8).pc = 0 ∧
      t.reg 0x0C0 0x060 = cntUp (s.reg 0x0C0 0x060) ∧ (t.reg 0x0C0 0x014).getLsbD 17 = true ∧ t.fault = s.fault ∧
      t.log.next ≠ s.log.next) ∧
    (s.assayServes = true → s.svc = 3 → Ends .loopEnable s { s with assay := { s.assay with loopEn := true } }) ∧
    (s.inReset = false → ∀ i : Fin 17, let r := temperReg i.val
      (∃ t, exec (.stretch i) s = .next t ∧ t.temper i.val = { s.temper i.val with now := true, any := true } ∧
        (∀ j, j ≠ i.val → t.temper j = s.temper j) ∧ t.reg r.1 r.2 = setFld (s.reg r.1 r.2) 26 26 1 ∧ RegsKept [addr r.1 r.2] s t) ∧
      (∃ t, exec (.stretchEnd i) s = .next t ∧ t.temper i.val = { s.temper i.val with now := false } ∧
        (∀ j, j ≠ i.val → t.temper j = s.temper j) ∧ t.regs = s.regs)) ∧
    (s.inReset = false → s.heat % 16 = 0 → s.heat ≠ s.assay.winHeat →
      let reqs := (List.range 34).map fun i => (s.temper i).request
      let up := (10 : Int) ∈ reqs ∨ (5 : Int) ∈ reqs
      let down := ∀ r ∈ reqs, r = (-5 : Int)
      ∃ t, exec (.temperWindowEnd []) s = .next t ∧ t.assay.winHeat = s.heat ∧
        (∀ i : Fin 17, let r := temperReg i.val
          t.rf r.1 r.2 15 8 = min ((s.temper i.val).min.getD 0) 255 ∧ t.rf r.1 r.2 25 24 = vreqCode (s.temper i.val).request) ∧
        (s.assayOn = false ∨ s.assay.loopEn = false ∨ s.assayHalted = true →
          t.assay.setMv = s.assay.setMv ∧ t.assay.down = s.assay.down ∧ t.outbox = s.outbox) ∧
        (s.assayOn = true → s.assay.loopEn = true → s.assayHalted = false → ∀ step : Int,
          step = (if (10 : Int) ∈ reqs then 10 else if (5 : Int) ∈ reqs then 5 else if down ∧ 3 ≤ s.assay.down then -5 else 0) →
          let mv := (clampInt s.floorMv 860 ((s.assay.setMv : Int) + step)).toNat
          t.assay.setMv = mv ∧ t.assay.down = (if ¬ up ∧ down ∧ s.assay.down < 3 then s.assay.down + 1 else 0) ∧
          (mv ≠ s.assay.setMv → t.assay.avsReq = some mv ∧ t.outbox = .avs mv :: s.outbox) ∧
          (mv = s.assay.setMv → t.outbox = s.outbox))) ∧
    (∀ mv, s.assay.avsReq = some mv → s.assayOn = true → s.fault.raised.contains (clsSUPPLY, 0) = false → ∀ vout iout,
      Ends (.avsAck vout iout) s ({ s with assay := { s.assay with avsReq := none, ackMv := mv } }.setReg 0x0C0 0x044
        (BitVec.ofNat 32 (vout.val + iout.val * 1024 + 2 ^ 18 + s.assay.avsTries * 2 ^ 20)))) ∧
    (∀ dt mv, let u := s.after dt
      u.assay.avsReq = some mv → u.assayOn = true → u.assay.avsEl + ofNs 1000000 ≤ u.el →
        (u.assay.avsTries < 3 → Ends (.avsTimeout dt) s ((({ u with
          assay := { u.assay with avsTries := u.assay.avsTries + 1, avsEl := u.el } } : State).setRf 0x0C0 0x044 23 20
            (u.assay.avsTries + 1)).emit (.avs mv))) ∧
        (3 ≤ u.assay.avsTries → ∃ t, exec (.avsTimeout dt) s = .next t ∧ t.assay.avsReq = none ∧ t.assay.setMv = u.assay.ackMv ∧
          (clsSUPPLY, 0) ∈ t.fault.raised ∧ (t.reg 0x0C0 0x014).getLsbD 16 = true ∧ t.log.next ≠ u.log.next))

/-- Assay's watch (rules R37, R51 to R55, R57, R527 to R529, R571): a clock beyond its limits in a third window; a stored word with
one flipped bit, data or check, is corrected and counted, and with two is uncorrectable (the places of the bits are log entry 90);
sensors within their limits; the supply check of a second. -/
def Obligations.HardwareWatch : Prop :=
  ∀ s : State,
    (s.assayOn = true → exec (.clockMonitorWindow []) s = .next s ∧
      (∀ (b : Fin 26) (ppm : Int) (rest : List (Fin 26 × Int)), ∃ t, exec (.clockMonitorWindow [(b, ppm)]) s = .next t ∧
        (t.assayOn = true → exec (.clockMonitorWindow ((b, ppm) :: rest)) s = exec (.clockMonitorWindow rest) t) ∧
        Tab.get (fun _ => 0) t.assay.clkBad b.val =
          (if 50000 < ppm.natAbs then min (Tab.get (fun _ => 0) s.assay.clkBad b.val + 1) 3 else 0) ∧
        (50000 < ppm.natAbs → 2 ≤ Tab.get (fun _ => 0) s.assay.clkBad b.val → Tab.get (fun _ => false) s.assay.clkOut b.val = false →
          (t.reg 0x0C0 0x064).getLsbD b.val = true ∧ (t.reg 0x0C0 0x014).getLsbD 18 = true ∧
          Tab.get (fun _ => false) t.assay.clkOut b.val = true ∧ (b.val ≤ 18 → (clsCLOCK, b.val) ∈ t.fault.raised)))) ∧
    (s.inReset = false → ∀ (mem : Fin 55) (a i j : Nat), let n := memBits mem.val
      let page := memPage mem.val
      s.isBad mem.val a = false → i < n + 8 → j < n + 8 → i ≠ j →
      Ends (.scrubPass mem a 0) s s ∧
      (∃ t, exec (.scrubPass mem a (BitVec.ofNat 80 (2 ^ i))) s = .next t ∧ (∀ m b, t.memWord m b = s.memWord m b) ∧
        (∀ c, t.cell c = (s.countErr page).cell c) ∧ t.bad = s.bad ∧ t.cmd = s.cmd ∧ t.chans = s.chans ∧ t.jobs = s.jobs) ∧
      (∃ t, exec (.scrubPass mem a (BitVec.ofNat 80 (2 ^ i + 2 ^ j))) s = .next t ∧
        (∀ off ∈ [0x020, 0x024], t.reg page off = (s.capErr page 0x20 0).reg page off) ∧
        (mem.val < 28 → t.isBad mem.val a = true ∧ Alike t ((s.setBad mem.val a true).capErr page 0x20 0)) ∧
        (mem.val = 46 → t.ent (a / 2) = { s.ent (a / 2) with torn := true }))) ∧
    (∀ dt temps volts, let u := s.after dt
      u.assayOn = true → ∃ t, exec (.sensorSample dt temps volts) s = .next t ∧
        (∀ k, k < 8 → (Tab.get (fun _ => ({} : Sensor)) t.assay.sens k).val = temps.getD k 0) ∧
        (∀ k, k < 24 → (Tab.get (fun _ => ({} : Sensor)) t.assay.sens (8 + k)).val = volts.getD k 0)) ∧
    (∀ dt, let u := s.after dt
      let sum := (List.range 8).foldl (fun a k => a + (Tab.get (fun _ => ({} : Sensor)) u.assay.sens (8 + k)).val) (0 : Int)
      let v := if 240 < (sum - 8 * (u.assay.setMv : Int)).natAbs then u.assay.badV + 1 else 0
      let i := if 140 < u.rf 0x0C0 0x044 17 10 then u.assay.badI + 1 else 0
      u.assayOn = true → u.assayHalted = false → u.assay.supEl + ofNs 1000000000 ≤ u.el →
        (v < 10 → i < 10 → Ends (.supervisionCheck dt) s { u with assay := { u.assay with badV := v, badI := i, supEl := u.el } }) ∧
        (10 ≤ v ∨ 10 ≤ i → ∃ t, exec (.supervisionCheck dt) s = .next t ∧ (clsSUPPLY, 0) ∈ t.fault.raised))

/-! ## Commands of the host -/

/-- Every opcode (rules R125, R129, R132, R135, R138, R611): its record is placed in the ring, taken, journalled and started. A
version other than the one selected answers VERSION, a quench answers QUENCHED, and a handle that is not live answers STALE; none of
these has an effect of its own. -/
def Obligations.IntakeTakesRecords : Prop :=
  ∀ (s : State) (f : CmdFields), s.takesCommand f →
    ∀ x ∈ ([(0x0101, .versionSelect f), (0x0102, .ledgerQuery f), (0x0103, .handleQuery f), (0x0201, .chCreate f),
        (0x0202, .chModify f), (0x0203, .chDestroy f), (0x0301, .srchSubmit f), (0x0302, .srchCancel f), (0x0401, .injStart f),
        (0x0402, .injStop f), (0x0501, .toutSchedule f), (0x0502, .toutCancel f), (0x0601, .tinArm f), (0x0602, .tinDisarm f),
        (0x0701, .subscribe f), (0x0702, .unsubscribe f), (0x0801, .combCreate f), (0x0802, .combDestroy f), (0x0901, .timeStep f),
        (0x0902, .timeSlew f), (0x0903, .timeReepoch f)] : List (Nat × Instr)),
      let r := s.recorded x.1 f
      let e := recordOf x.1 f
      (∀ t, t = startCmd r e → t.settled → Ends x.2 s { t with cmd := { t.cmd with stalled := false } }) ∧
      (s.svc = 4 → x.1 ∉ [0x0101, 0x0102, 0x0103] → Accepts x.2 x.1 f s fun t =>
        ∃ j, t.jfind f.seq = some j ∧ j.disp = .notStarted ∧ j.status = stQUENCHED ∧ t.cmd.books = s.cmd.books ∧ t.cmd.ents = s.cmd.ents) ∧
      (s.svc = 3 → x.1 ≠ 0x0101 → f.ver.toNat ≠ s.cmdSel → Accepts x.2 x.1 f s fun t =>
        t.doneAs f.seq stVERSION (r.complWords e stVERSION 0 s.cmdSel f.handle 0 0) ∧ t.cmd.books = s.cmd.books ∧
        t.cmd.ents = s.cmd.ents) ∧
      (s.svc = 3 → f.ver.toNat = s.cmdSel → f.rsv = 0 → f.nowait = false → (∃ v, opSince x.1 = some v ∧ v ≤ s.cmdSel) →
        x.1 ∈ [0x0202, 0x0203, 0x0302, 0x0402, 0x0502, 0x0602, 0x0702, 0x0802] → opClass x.1 = some (hCls f.handle) →
        ((s.ent (hIdx f.handle)).st ≠ .live ∨ (s.ent (hIdx f.handle)).gen ≠ hGen f.handle) → Accepts x.2 x.1 f s fun t =>
          t.doneAs f.seq stSTALE (r.complWords e stSTALE 0 0 f.handle 0 0) ∧ t.cmd.books = s.cmd.books ∧ t.cmd.ents = s.cmd.ents)

/-- The queries and VERSION_SELECT (rules R94, R106, R123, R128): they complete at intake; their answers are the balance of a pool,
the state of an entry with its bookings, and the version selected. -/
def Obligations.QueriesAnswer : Prop :=
  ∀ (s : State) (f : CmdFields), s.takesCommand f → f.rsv = 0 → f.nowait = false →
    let a := fun (op n : Nat) => (recordOf op f).w n
    (f.ver.toNat = 1 → badWord (recordOf 0x0101 f) [(3, 0xFF)] [] = none → 1 ≤ fld (a 0x0101 3) 7 0 → fld (a 0x0101 3) 7 0 ≤ 3 →
      s.hostLive = false → Accepts (.versionSelect f) 0x0101 f s fun t => t.cmdSel = fld (a 0x0101 3) 7 0 ∧
        ∃ ws, t.doneAs f.seq stOK ws) ∧
    (f.ver.toNat = s.cmdSel → s.cmdSel ≠ 0 → let p := fld (a 0x0102 3) 3 0
      badWord (recordOf 0x0102 f) [(3, 0xF)] [(3, decide (1 ≤ p ∧ p ≤ 6))] = none →
      Accepts (.ledgerQuery f) 0x0102 f s fun t => let r := s.recorded 0x0102 f
        t.cmd.books = s.cmd.books ∧ t.doneAs f.seq stOK (r.complWords (recordOf 0x0102 f) stOK 1 (poolCap p - r.booked p) 0
          (BitVec.ofNat 32 (r.booked p % 2 ^ 28 + p * 2 ^ 28)) (BitVec.ofNat 32 (poolCap p + p * 2 ^ 28)))) ∧
    (f.ver.toNat = s.cmdSel → s.cmdSel ≠ 0 → badWord (recordOf 0x0103 f) [] [] = none → let x := s.ent (hIdx f.handle)
      hGen f.handle = 0 ∨ ((1 ≤ hCls f.handle ∧ hCls f.handle ≤ 7 ∨ hCls f.handle = 15) ∧ x.st = .live ∧ x.gen = hGen f.handle) →
      Accepts (.handleQuery f) 0x0103 f s fun t => let r := s.recorded 0x0103 f
        let b := r.bookWords (if x.cls = 15 then .sys (1000 + hIdx f.handle) else .entry (hIdx f.handle))
        t.cmd.ents = s.cmd.ents ∧ t.doneAs f.seq stOK (r.complWords (recordOf 0x0103 f) stOK 1
          (x.gen + (match x.st with | .free => 0 | .live => 1 | .dying => 2) * 2 ^ 16 + b2n x.torn * 2 ^ 18 + b2n x.sys * 2 ^ 19
            + x.cls * 2 ^ 20) (if hGen f.handle = 0 then s.handleOf (hIdx f.handle) else f.handle) b.1 b.2))

/-- The commands that make an object (rules R102 to R105, R119 to R121, R130, R132, R230, R248, R277, R325, R380, R390): with their
checks passed and room in their pools and class, the entry at the head of the free queue becomes LIVE in its class with its next
generation, the object stands under it, its budget is booked, and its next step waits for the next heat boundary. -/
def Obligations.CreatorsAccept : Prop :=
  ∀ (s : State) (f : CmdFields) (i : Nat), s.takesCommand f → f.rsv = 0 → f.nowait = false → s.svc = 3 → f.ver.toNat = s.cmdSel →
    s.cmdSel = 3 → s.freeHead = some i →
    let made := fun (t : State) (cls : Nat) => t.ent i =
      { st := .live, gen := if (s.ent i).gen ≥ 32767 then 1 else (s.ent i).gen + 1, cls := cls, torn := false, sys := false, host := true }
    let h := fun (cls : Nat) => mkHandle cls (if (s.ent i).gen ≥ 32767 then 1 else (s.ent i).gen + 1) i
    (let r := s.recorded 0x0201 f
     let e := recordOf 0x0201 f
     let prm := r.prmOf e 0x7F {}
     let els := r.elsOf prm.stream prm.eprompt
     let g := grainsOf (prm.taps + els.length) (r.streamRate prm.stream)
     r.chanRefused e = none → g ≤ r.poolFree 1 → cyclesOf prm.vec ≤ r.poolFree 3 → s.classRoom 1 = true →
     ∀ b, r.placeFor g (prm.signal == 0x44) = some b → Accepts (.chCreate f) 0x0201 f s fun t => made t 1 ∧
       t.inFlightAt f.seq 3 (s.heat + 1) (h 1) ∧ t.chan i = newChan prm els b ((r.freeSlot b).getD 0) ∧
       t.booked 1 = s.booked 1 + g ∧ t.booked 3 = s.booked 3 + cyclesOf prm.vec) ∧
    (let r := s.recorded 0x0301 f
     let e := recordOf 0x0301 f
     r.srchRefused e = none → s.classRoom 2 = true → Accepts (.srchSubmit f) 0x0301 f s fun t => made t 2 ∧
       (t.job i).words = e.words ∧ (t.job i).seq = f.seq ∧ t.jobSeq = s.jobSeq + 1 ∧ ∃ ws, t.doneAs f.seq stOK ws) ∧
    (let r := s.recorded 0x0401 f
     let e := recordOf 0x0401 f
     r.injBad e = none → s.classRoom 3 = true → ∀ k, k < 8 → s.hasInj k = false → (∀ j, j < k → s.hasInj j = true) →
       Accepts (.injStart f) 0x0401 f s fun t => made t 3 ∧ t.inFlightAt f.seq 1 (s.heat + 1) (h 3) ∧
         t.inj k = { entry := i, seq := f.seq, words := e.words, startEl := s.el, behind := s.calWaits } ∧ t.rl.st = s.rl.st) ∧
    (let e := recordOf 0x0501 f
     let st := s.start10 (e.w 4).toNat (fld (e.w 5) 29 0) (fld (e.w 6) 6 0)
     let ahead : Int := (st : Int) * (unitsPerNs : Nat) - (s.tb.now * 100 : Nat)
     toutBad e = none → s.schedsOf (fld (e.w 3) 7 0) < (if fld (e.w 3) 7 0 < 8 then 8 else 4) → s.classRoom 4 = true →
     ((e.w 11).toNat = 0 ∨ (ofNs 2000000 * 100 : Nat) ≤ ahead) → ahead ≤ (ofNs (10 ^ 15) * 100 : Nat) →
       Accepts (.toutSchedule f) 0x0501 f s fun t => made t 4 ∧ t.inFlightAt f.seq 2 (s.heat + 1) (h 4) ∧
         t.sched i = { target := fld (e.w 3) 7 0, gate := fld (e.w 3) 9 8, start := st, periodNs := (e.w 7).toNat,
                       div := fld (e.w 8) 15 0, width := fld (e.w 9) 29 0 * 100 + fld (e.w 10) 6 0,
                       finite := (e.w 11).toNat != 0, left := (e.w 11).toNat }) ∧
    (let r := s.recorded 0x0601 f
     let e := recordOf 0x0601 f
     tinBad r e = none → (s.armsOf (fld (e.w 3) 1 0)).length < 4 → s.classRoom 5 = true →
       Accepts (.tinArm f) 0x0601 f s fun t => made t 5 ∧ t.inFlightAt f.seq 1 (s.heat + 1) (h 5) ∧
         ∃ x, Tab.get (fun _ => ({} : TinArm)) t.tinArms i = x ∧ x.input = fld (e.w 3) 1 0 ∧ x.edge = fld (e.w 3) 3 2 ∧
           x.window = (e.w 3).getLsbD 4 ∧ x.count = (e.w 8).toNat ∧ x.armed = false ∧ x.used = 0) ∧
    (let r := s.recorded 0x0701 f
     let e := recordOf 0x0701 f
     r.subRefused e = none → subMax e.words ≤ r.poolFree 5 → s.classRoom 6 = true →
       Accepts (.subscribe f) 0x0701 f s fun t => made t 6 ∧ t.inFlightAt f.seq 2 (s.heat + 1) (h 6) ∧
         t.sub i = { words := e.words, slot := s.freeSub } ∧ t.booked 5 = s.booked 5 + subMax e.words) ∧
    (let r := s.recorded 0x0801 f
     let e := recordOf 0x0801 f
     r.combRefused e = none → s.classRoom 7 = true → (∀ t, t = (r.alloc 7 true false).2 → t.combUnfit e = none) →
       Accepts (.combCreate f) 0x0801 f s fun t => made t 7 ∧ t.inFlightAt f.seq 2 (s.heat + 1) (h 7) ∧
         let g := t.group s.freeGroup
         g.entry = i ∧ g.out = fld (e.w 3) 7 0 ∧ g.n = combN e ∧ g.ref = combRef e ∧
         g.streams = (List.range (combN e)).map (combStream e) ∧ g.members = List.range (combN e))

/-- The commands that change or end an object, and the time commands (rules R121, R129, R131, R240, R281, R365, R367, R369): the
entry is DYING from step 1 on, and the next step waits for the next heat boundary; a step or re-epoch stands in flight with its
offset, a re-epoch by the authority that ARMED gives and uses up. -/
def Obligations.EndersAndTimeAccept : Prop :=
  ∀ (s : State) (f : CmdFields), s.takesCommand f → f.rsv = 0 → f.nowait = false → s.svc = 3 → f.ver.toNat = s.cmdSel → s.cmdSel = 3 →
    (∀ x ∈ ([(0x0203, .chDestroy f), (0x0302, .srchCancel f), (0x0402, .injStop f), (0x0502, .toutCancel f), (0x0602, .tinDisarm f),
        (0x0702, .unsubscribe f), (0x0802, .combDestroy f)] : List (Nat × Instr)),
      s.checkHandle x.1 f.handle = none → badWord (recordOf x.1 f) [] [] = none →
      (x.1 = 0x0802 → ∀ g, s.groupOf (hIdx f.handle) = some g → s.combUsers g.2.out = 0) →
      Accepts x.2 x.1 f s fun t => t.ent (hIdx f.handle) = { s.ent (hIdx f.handle) with st := .dying } ∧
        t.inFlightAt f.seq 1 (s.heat + 1) 0 ∧ t.cmd.books = s.cmd.books) ∧
    (let r := s.recorded 0x0202 f
     let e := recordOf 0x0202 f
     let i := hIdx f.handle
     let c := s.chan i
     let p := r.prmOf e (fld (e.w 12) 6 0) c.prm
     s.checkHandle 0x0202 f.handle = none → r.modRefused e c = none →
     ((fld (e.w 12) 6 0).testBit 0 = true → grainsOf (p.taps + (r.modEls c p (fld (e.w 12) 6 0)).length) (r.streamRate p.stream) ≤ s.chanGrains i) →
     cyclesOf p.vec ≤ s.bookedBy (s.chanOwner i) 3 →
     Accepts (.chModify f) 0x0202 f s fun t => t.inFlightAt f.seq 2 (s.heat + 1) 0 ∧ t.chans = s.chans ∧ t.cmd.books = s.cmd.books) ∧
    (let r := s.recorded 0x0901 f
     let e := recordOf 0x0901 f
     s.tb.stepped = false → s.tb.corr = none → stepBad r e = none → s.tb.healthy = true →
     ((e.w 3).getLsbD 0 = true → s.navFresh = true) → Accepts (.timeStep f) 0x0901 f s fun t => t.inFlightAt f.seq 1 (s.heat + 1) 0 ∧
       t.tb = { s.tb with corr := some { off := offUnits e, fromNav := (e.w 3).getLsbD 0, reepoch := false, engine := false,
                                         seq := f.seq, applied := false } }) ∧
    (let e := recordOf 0x0902 f
     let off := slewOff e
     let rate := fld (e.w 5) 17 0
     badWord e [(3, 0xFFFFFFFF), (4, 0xFFFF), (5, 0x3FFFF)] [(4, decide (off.natAbs ≤ 1000000000 * 65536)),
       (5, off == 0 || decide (1 ≤ rate ∧ rate ≤ s.rf 0x080 0x05C 17 0))] = none → s.disc.st ≠ .locking → s.disc.st ≠ .locked →
     Accepts (.timeSlew f) 0x0902 f s fun t => t.inFlightAt f.seq 1 (s.heat + 1) 0 ∧ t.tb = s.tb) ∧
    (let r := s.recorded 0x0903 f
     let e := recordOf 0x0903 f
     s.tb.stepped = true → s.tb.corr = none → stepBad r e = none → s.tb.healthy = true → s.tb.epoch ≠ 0xFFFF →
     ((e.w 3).getLsbD 0 = true → s.navFresh = true) → (s.core 8).st ≠ .halted → s.fuse 937 937 = 0 → s.armAt ≠ none →
     Accepts (.timeReepoch f) 0x0903 f s fun t => t.inFlightAt f.seq 1 (s.heat + 1) 0 ∧ t.armAt = none ∧
       t.tb = { s.tb with corr := some { off := offUnits e, fromNav := (e.w 3).getLsbD 0, reepoch := true, engine := false,
                                         seq := f.seq, applied := false } } ∧
       (t.reg 0x0C0 0x014).getLsbD 19 = true)

/-! ## Start-up, heats, the quench -/

/-- Start-up (rules R362, R539, R559, R561 to R563, R565, R567, R568, R587, R590): the power-on monitor and the sense of VDDIO_B at
release, straps sampled and the boot ROM running; the retry of the
slots; the first lock of the PLL with its seed and heat 0, and CASAK1 to CASAK5 of the slot found; Anneal's channels and their retries;
the handover to the image. -/
def Obligations.StartUp : Prop :=
  ∀ (s : State) (dt : Nat), let u := s.after dt
    (s.inReset = true → ∀ straps rails vddiob flash,
      let below := fun (k limit : Nat) => rails.getD k 0 < limit + (if s.por.getLsbD k then 20 else 0)
      (below 0 550 ∨ below 1 700 ∨ below 2 1500 → ∃ t, exec (.resetRelease straps rails vddiob flash) s = .next t ∧ t.por ≠ 0 ∧
        ({ t with por := s.por } : State) = s) ∧
      (¬ (below 0 550 ∨ below 1 700 ∨ below 2 1500) → ∃ t, exec (.resetRelease straps rails vddiob flash) s = .next t ∧
        t.inReset = false ∧ t.por = 0 ∧ (vddiob ≤ 1890 → t.io33 = false) ∧ (3135 ≤ vddiob → t.io33 = true) ∧
        t.reg 0x000 0x050 = BitVec.ofNat 32 straps.toNat ∧ t.boot.count = s.boot.count + 1 ∧ (t.core 8).st = .run ∧
        t.fuses = s.fuses ∧ t.heat = s.heat ∧ (straps.getLsbD 3 = true ∨ flash = none → s.fuse 938 938 = 0 → t.svc = 5))) ∧
    (∀ t0, u.boot.noSlot = some t0 → u.assayServes = true → u.svc ≠ 5 → t0 + ofNs 10000000000 ≤ u.el → let a := u.upd.active
      let cores := fun (t : State) => u.tb.everLocked = true → ∀ k, 1 ≤ k → k ≤ 5 → (t.core k).st = .run ∧ (t.core k).pc = 0
      (u.imageCode a = 0 → ∃ t, exec (.slotRetry dt) s = .next t ∧ t.boot.slot = some a ∧ t.boot.noSlot = none ∧ t.upd.running = a ∧
        t.regs = u.regs ∧ cores t) ∧
      (u.imageCode a ≠ 0 → u.imageCode (1 - a) = 0 → ∃ t, exec (.slotRetry dt) s = .next t ∧ t.boot.slot = some (1 - a) ∧
        t.boot.noSlot = none ∧ t.upd.running = 1 - a ∧ t.log.next ≠ u.log.next ∧ cores t) ∧
      (u.imageCode a ≠ 0 → u.imageCode (1 - a) ≠ 0 → ∃ t, exec (.slotRetry dt) s = .next t ∧ t.boot.slot = u.boot.slot ∧
        t.boot.noSlot = some u.el ∧ t.upd = u.upd ∧ t.log.next ≠ u.log.next)) ∧
    (u.inReset = false → u.tb.pllLock = false →
      (u.tb.everLocked = true → Ends (.pllLock dt) s { u with tb := { u.tb with pllLock := true, lockEl := u.el } }) ∧
      (u.tb.everLocked = false → ∃ t, exec (.pllLock dt) s = .next t ∧ t.tb.pllLock = true ∧ t.tb.everLocked = true ∧
        t.tb.lockEl = u.el ∧ t.tb.seeded = u.bk.rtcValid ∧ (u.bk.rtcValid = false → t.tb.now = 0) ∧
        (u.bk.rtcValid = true → ∃ r, r ≤ 1 ∧ t.tb.now = ofNs (u.rtcTicks * 1000000000 / 32768 + r)) ∧
        t.tb.hStart = t.tb.now ∧ t.tb.hEnd % msUnits = 0 ∧ t.tb.now + msUnits / 2 ≤ t.tb.hEnd ∧
        t.tb.hEnd < t.tb.now + msUnits / 2 + msUnits ∧
        (u.boot.rom = true → t.boot.rom = false ∧ (t.core 0).st = .run ∧ (t.core 0).pc = 0 ∧ t.booked 3 = u.booked 3 + 400000 ∧
          (u.svc = 5 → t.svc = 5) ∧ (u.svc ≠ 5 → t.svc = 2) ∧
          (u.svc ≠ 5 → u.boot.noSlot = none → t.boot.nmea = true ∧ t.booked 5 = u.booked 5 + 1) ∧
          (u.svc ≠ 5 → u.boot.slot ≠ none → ∀ k, 1 ≤ k → k ≤ 5 → (t.core k).st = .run ∧ (t.core k).pc = 0) ∧
          (u.svc = 5 ∨ u.boot.slot = none → ∀ k, 1 ≤ k → t.core k = u.core k)))) ∧
    (s.annealing = true → s.boot.made = false → (s.lane 0).st = .qualified → (s.fec 0).st = .ready →
      (s.reg 0x010 0x048).getLsbD 0 = true → s.retUsable = false → ∀ view, ∃ t, exec (.annealChannels view) s = .next t ∧
        t.boot.made = true ∧ t.boot.tried = (((List.range 24).map fun i => (0x01, i + 1)) ++ (List.range 24).map fun i => (0x20, i + 1)).filter
          (fun x => s.fits x.1 x.2 (s.rf 0x010 0x04C 4 0)) ∧
        ∀ i, s.hasChan i = false → t.hasChan i = true → (t.ent i).cls = 15 ∧ (t.ent i).sys = true ∧ (t.chan i).billet = 0) ∧
    (∀ (i : Fin 8192) p, let c := u.chan i
      let seen := fun q => prnOk c.prm.signal q = true → (c.prm.signal, q) ∈ u.boot.tried
      u.annealing = true → u.hasChan i = true → (u.ent i).cls = 15 → c.lockedOnce = false → c.tryEl + ofNs 10000000000 ≤ u.el →
      p < 256 → prnOk c.prm.signal p = true → (c.prm.signal, p) ∉ u.boot.tried → (∀ q, q < p → seen q) →
        ∃ t, exec (.annealRetry i dt) s = .next t ∧ (t.chan i).prm.prn = p ∧ (t.chan i).prm.signal = c.prm.signal ∧
          (t.chan i).st = .pullin ∧ (t.chan i).tryEl = u.el ∧ t.boot.tried = u.boot.tried ++ [(c.prm.signal, p)] ∧
          (∀ j, j ≠ i.val → t.chan j = u.chan j) ∧ t.cmd = u.cmd ∧ t.regs = u.regs) ∧
    (∀ slot, s.boot.slot = some slot → s.running = true → s.svc = 2 → s.atBoundary = true → ∃ t, exec .handover s = .next t ∧
      t.svc = 3 ∧ t.rf 0x000 0x054 3 3 = slot % 2 ∧ (t.core 0).st = .run ∧ (t.core 0).pc = 0 ∧
      (∀ k, k ≠ 0 → k ≠ 8 → t.core k = s.core k) ∧
      (∀ i, (s.ent i).cls = 15 → (s.ent i).st = .live →
        (t.ent i).cls = 1 ∧ (t.ent i).st = .live ∧ (t.ent i).sys = false) ∧ t.heat = s.heat)

/-- A heat boundary and a run of the placement loop (rules R96, R97, R100, R116): the number rises, the next heat lasts 1 ms where
no step applies, ALIVE toggles; the loop moves nothing while its spread lies within HYST. -/
def Obligations.HeatsAndPlacement : Prop :=
  (∀ (s : State) h, s.inReset = false → s.tb.everLocked = true → ∃ t, exec (.heatBoundary h) s = .next t ∧
    t.heat = s.heat + 1 ∧ t.alive = (!s.alive) ∧ t.inReset = false ∧ t.el = s.el + s.unitsIn (s.ticksTo s.tb.hEnd) ∧
    t.fuses = s.fuses ∧ t.pending = s.pending ∧
    (s.tb.corr = none → t.tb.hStart = s.tb.hEnd ∧ t.tb.hEnd = s.tb.hEnd + msUnits)) ∧
  (∀ s : State, s.inReset = false → s.tb.everLocked = true → s.rf 0x001 0x070 0 0 = 1 → s.rf 0x001 0x070 15 8 ≠ 0 →
    s.heat % s.rf 0x001 0x070 15 8 = 0 → s.placeHeat ≠ s.heat → s.fault.phase = .run →
    ∃ t, exec .placement s = .next t ∧ t.placeHeat = s.heat ∧ t.cmd = s.cmd ∧ RegsKept [addr 0x001 0x074] s t ∧
      (∀ i, ({ t.chan i with mig := none } : Chan) = { s.chan i with mig := none }) ∧
      (∀ sp, s.nextMove (s.rf 0x001 0x070 31 16) = (sp, none) → t.chans = s.chans ∧
        t.reg 0x001 0x074 = BitVec.ofNat 32 (s.rf 0x001 0x074 15 0 + min 65535 sp * 65536)))

/-- The quench line by the host, a reset by the host, and recovery (rules R571 to R574, R577 to R580, R583, R584): what FAULT
captures; the keys; the heats of a recovery, its orphans and its end. -/
def Obligations.QuenchAndRecovery : Prop :=
  ∀ s : State,
    (s.hears 0x0C4 →
      (s.fault.phase = .run → ∃ t, exec (.quench 0xA5) s = .next t ∧ t.fault.phase = .quenched ∧ t.fault.tornHeat = s.heat ∧
        t.fault.svcBefore = s.svc ∧ t.svc = 4 ∧ t.rf 0x0C4 0x040 15 0 = 7 ∧
        t.rf 0x0C4 0x040 31 16 = min 0xFFFF (s.rf 0x0C4 0x040 31 16 + 1) ∧ t.reg 0x0C4 0x044 = BitVec.ofNat 32 s.heat ∧
        t.reg 0x0C4 0x048 = BitVec.ofNat 32 (secOf s.tb.now) ∧ t.reg 0x0C4 0x04C = BitVec.ofNat 32 (nsOf s.tb.now) ∧
        (t.reg 0x0C4 0x014).getLsbD 16 = true ∧ t.log.next ≠ s.log.next ∧ t.heat = s.heat ∧ t.tb = s.tb ∧ t.cmd = s.cmd) ∧
      (s.fault.phase = .quenched → Ends (.quench 0xA5) s s) ∧
      (∀ key, key ≠ 0xA5 → Ends (.quench key) s (s.capErr 0x0C4 0x05 0x058) ∧ Ends (.reset key) s (s.capErr 0x0C4 0x05 0x058)) ∧
      (∃ t, exec (.reset 0xA5) s = .next t ∧ WasReset 2 { s with bk := t.bk } t ∧ (s.sol.have_ = false → t.bk = s.bk)) ∧
      (s.fault.raised = [] → s.fault.phase = .quenched → Ends .recover s { s with fault := { s.fault with recReq := true } }) ∧
      (s.fault.raised = [] → s.fault.phase ≠ .quenched → Ends .recover s s) ∧
      (s.fault.raised ≠ [] → Ends .recover s (s.capErr 0x0C4 0x07 0x058))) ∧
    (s.mayRecover = true → s.atBoundary = true →
      (s.fault.reloadNeed = true → s.fault.svcBefore = 3 → s.imageCode s.upd.running ≠ 0 →
        ∃ t, exec .recoveryStart s = .next t ∧ WasReset 5 s t) ∧
      (s.fault.reloadNeed = false ∨ s.fault.svcBefore ≠ 3 ∨ s.imageCode s.upd.running = 0 →
        ∃ t, exec .recoveryStart s = .next t ∧ t.fault.phase = .recovering ∧ t.fault.recReq = false ∧ t.cmd.owed = [] ∧
          (s.fault.reloadNeed = false → t.fault.endHeat = s.heat + 20) ∧
          (s.fault.reloadNeed = true → s.heat + 20 ≤ t.fault.endHeat ∧ t.fault.endHeat ≤ s.heat + 200) ∧
          (s.fault.recReq = false → t.fault.autoAt = s.fault.autoAt ++ [s.el]) ∧
          t.reg 0x002 0x064 = BitVec.ofNat 32 (min 0xFFFF (s.cmd.books.filter s.orphan).length) ∧ t.heat = s.heat)) ∧
    (s.inReset = false → s.fault.phase = .recovering → s.fault.endHeat ≤ s.heat → s.atBoundary = true →
      ∃ t u : State, exec .recoveryEnd s = .next t ∧ t = u.intake ∧ u.fault.phase = .run ∧ u.svc = s.fault.svcBefore % 8 ∧
        u.fault.haltedCores = [] ∧ (∀ k, k < 6 → (u.core k).st = .run ∧ (u.core k).pc = 0) ∧
        (u.reg 0x0C4 0x014).getLsbD 18 = true)

/-! ## Lanes, front-ends, injection -/

/-- The lanes (rules R40, R155, R164, R165, R168 to R173, R176, R181): clock events and the end of a fill move a lane between its
states; the check of LnFS at a frame qualifies it, delivers the frame into its block (filled where the crossing dropped it), or loses
framing, also where a high lies inside the frame; a frame stamped at or after the heat's end waits for the boundary's work. What a
candidate is in FRAMING is the model's choice, log entry 87. -/
def Obligations.LaneStates : Prop :=
  ∀ (lane : Fin 8) (s : State) (dt : Nat), let n := lane.val
    let p := 0x010 + n
    let u := s.after dt
    let x := u.lane n
    u.inReset = false →
      (x.st ≠ .off → ∃ t, exec (.glitch lane dt) s = .next t ∧ t.reg p 0x0B8 = cntUp (u.reg p 0x0B8) ∧
        (fld (u.reg p 0x0B8) 16 0 = 0 → (t.reg p 0x014).getLsbD 21 = true) ∧ RegsKept [addr p 0x014, addr p 0x0B8] u t ∧
        t.lanes = u.lanes) ∧
      (∀ (c : Instr) (a b : LaneSt), (c, a, b) ∈ [(Instr.clockEdge lane dt, LaneSt.stopped, LaneSt.acquire),
          (.clockEdge lane dt, .absent, .acquire), (.acquireDone lane dt, .acquire, .framing)] →
        x.st = a → ∃ t, exec c s = .next t ∧ (t.lane n).st = b ∧ (t.reg p 0x014).getLsbD 16 = true ∧ t.reg p 0x08C = 0 ∧
          t.reg p 0x090 = 0 ∧ (t.lane n).fillRun = x.fillRun ∧ ∀ m, m ≠ n → (t.lane m).st = (u.lane m).st) ∧
      ((x.st = .qualified ∨ x.st = .framing ∨ x.st = .notQualified) → ∃ t, exec (.clockStop lane dt) s = .next t ∧
        (t.lane n).st = (if x.ended then .absent else .stopped) ∧ (t.reg p 0x014).getLsbD 16 = true ∧ t.reg p 0x08C = 0 ∧
        t.reg p 0x090 = 0 ∧ (t.lane n).fillRun = (x.fillRun || (x.everReal && !x.ended)) ∧
        ∀ m, m ≠ n → (t.lane m).st = (u.lane m).st) ∧
      (x.fillRun = true → x.ended = false → x.st ≠ .qualified → x.lastEl + ofNs 100000000 ≤ u.el →
        ∃ t, exec (.fillEnd lane dt) s = .next t ∧ (t.lane n).fillRun = false ∧ (t.lane n).ended = true ∧
          (t.lane n).st = (if x.st = .stopped then .absent else x.st) ∧ ∀ m, m ≠ n → (t.lane m).st = (u.lane m).st) ∧
      (∀ (sub : Nat) (header : BitVec 8) codes (drops : List (Fin 18)), sub < 80 → let stamp := u.stamp10 sub
        let off := sub * unitsPerNs / 100
        let late := u.tb.everLocked = true ∧ u.tb.hEnd ≤ u.tb.now + off
        let f := fun fs => Instr.frame lane dt sub fs header codes drops
        let held := x.pend.getD x.cfg
        let good := fun (cycles : Nat) (wasLow : Bool) => wasLow = true ∧ 2 * cycles = cfgL x.cfg
        let fits := fun (cycles : Nat) (wasLow : Bool) => wasLow = true ∧ (2 * cycles = cfgL x.cfg ∨ 2 * cycles = cfgL held)
        (late → ∀ fs, exec (f fs) s = .next { u with lateFrames := u.lateFrames ++
          [{ lane := n, stamp := stamp, el := u.el + off, fs := fs, header := header, codes := codes, drops := drops.map (·.val) }] }) ∧
        (¬ late →
          (x.st = .framing → exec (f .missing) s = .next (u.setLane n { x with cand := false, edge := none })) ∧
          (∀ c w a, x.st = .framing → ¬ (x.cand = true ∧ fits c w) →
            exec (f (.high c w a)) s = .next (u.setLane n { x with cand := true, edge := some stamp, edgeIn := true })) ∧
          (∀ c w, x.st = .framing → x.cand = true → fits c w → badHeader held header = true →
            ∃ t, exec (f (.high c w false)) s = .next t ∧ t.lane n = { x with cand := false, edge := none } ∧
              t.reg p 0x0C0 = cntUp (u.reg p 0x0C0) ∧ (u.rf p 0x020 31 31 = 0 → t.rf p 0x020 7 0 = 0x40)) ∧
          (∀ c w, x.st = .framing → x.cand = true → fits c w → badHeader held header = false →
            ∃ t, exec (f (.high c w false)) s = .next t ∧ (t.lane n).st = .qualified ∧ (t.lane n).everReal = true ∧
              (t.lane n).cfg = held ∧ (t.lane n).winHeat = u.heat + 1 ∧ (t.reg p 0x014).getLsbD 16 = true) ∧
          (∀ c w, x.st = .framing → x.cand = true → fits c w →
            ∃ t, exec (f (.high c w true)) s = .next t ∧ (t.lane n).st = .framing ∧ t.reg p 0x0BC = cntUp (u.reg p 0x0BC) ∧
              (t.reg p 0x014).getLsbD 22 = true) ∧
          (∀ fs, x.st = .qualified → (∀ c w, fs = .high c w false → ¬ good c w) →
            ∃ t, exec (f fs) s = .next t ∧ (t.lane n).st = .framing ∧ t.reg p 0x0BC = cntUp (u.reg p 0x0BC) ∧
              (t.reg p 0x014).getLsbD 22 = true ∧ (t.lane n).fillRun = (x.fillRun || (x.everReal && !x.ended)) ∧
              (t.lane n).blk = x.blk ∧ (t.lane n).lastStamp = x.lastStamp) ∧
          (∀ c w b, x.st = .qualified → good c w → badHeader x.cfg header = false → x.fillRun = false → x.gapPend = false →
            x.everReal = true → x.pend = none → x.blk = some b → let dropped := decide ((17 : Fin 18) ∈ drops)
            ∃ t, exec (f (.high c w false)) s = .next t ∧ (t.lane n).st = .qualified ∧ (t.lane n).lastStamp = stamp ∧
              (b.frames < 1024 → (t.lane n).blk = some { b with frames := b.frames + 1, fill := b.fill || dropped } ∧
                (t.lane n).nextBlk = x.nextBlk) ∧
              (1024 ≤ b.frames → (t.lane n).nextBlk = x.nextBlk + 1 ∧ ∃ d, (t.lane n).blk = some d ∧ d.num = x.nextBlk % 2 ^ 32 ∧
                d.frames = 1 ∧ d.stamp = stamp ∧ d.epoch = u.tb.epoch ∧ d.fill = dropped ∧ d.at_ = (stamp * 10 : Nat) ∧
                d.delays = (List.range 8).map fun j => (u.reg p (0x068 + 4 * j)).toInt))))

/-- The front-end link (rules R187 to R192, R198, R202): requests whose response is missing, of a wrong CRC or length, or a refusal,
are sent again and end in a fault that leaves keep-alives and raw requests waiting; a good answer and its status, keep-alives,
DISCOVER, the script's waits with TUNE after them, polls of the lock and its failure. -/
def Obligations.FrontEndLink : Prop :=
  ∀ (link : Fin 8) (s : State) (dt : Nat), let n := link.val
    let p := 0x020 + n
    let u := s.after dt
    let x := u.fec n
    let queued := fun (t : State) (r : UflReq) => (t.fec n).q = x.q ++ [r]
    let stays := fun (r : UflReq) => r.tag == .keepalive || r.tag == .raw
    u.inReset = false →
      (∀ r rest, x.q = r :: rest → x.wait = false → ∀ resp : List Byte, let st := resp.headD 0xFF
        let read := 2 ≤ resp.length ∧ (resp.getLastD 0).toNat = crc8 resp.dropLast ∧ st ≠ 0xFF
        let good := read ∧ st.getLsbD 1 = false ∧ resp.length = r.respLen + 2
        (x.tries < 3 → (¬ read → Ends (.transaction link dt resp) s (u.modFec n fun y => { y with wait := true, waitEl := u.el })) ∧
          (read → ¬ good → ∃ t, exec (.transaction link dt resp) s = .next t ∧ (t.fec n).wait = true ∧ (t.fec n).waitEl = u.el ∧
            (t.fec n).tries = x.tries ∧ (t.fec n).q.head? = some r ∧ (t.fec n).lock = st.getLsbD 2 ∧ (t.fec n).injOn = st.getLsbD 4 ∧
            (x.st = .ready → st.getLsbD 2 = false → (t.fec n).st = .lockwait ∧ (t.reg p 0x014).getLsbD 17 = true))) ∧
        (¬ good → 3 ≤ x.tries → (x.st = .lockwait ∨ x.st = .calibrate ∨ x.st = .ready ∨ x.st = .powerup) →
          ∃ t, exec (.transaction link dt resp) s = .next t ∧ (t.fec n).st = .fault ∧ (t.fec n).q = rest.filter stays ∧
            (t.reg p 0x014).getLsbD 19 = true ∧ (u.rf p 0x020 31 31 = 0 → t.rf p 0x020 7 0 = 0x40)) ∧
        (good → r.tag = .keepalive → x.st = .ready →
          (st.getLsbD 2 = true → st.getLsbD 5 = false → ∃ t, exec (.transaction link dt resp) s = .next t ∧ (t.fec n).q = rest ∧
            (t.fec n).st = .ready ∧ (t.fec n).lock = true ∧ (t.fec n).goodEl = some u.el ∧ (t.fec n).tries = 0) ∧
          (st.getLsbD 2 = false → ∃ t, exec (.transaction link dt resp) s = .next t ∧ (t.fec n).st = .lockwait ∧
            (t.fec n).lock = false ∧ (t.fec n).lockEl = x.lockEl ∧ (t.reg p 0x014).getLsbD 17 = true) ∧
          (st.getLsbD 2 = true → st.getLsbD 5 = true → ∃ t, exec (.transaction link dt resp) s = .next t ∧
            (t.fec n).st = .powerup ∧ (t.fec n).scriptPos = 0 ∧ (t.reg p 0x014).getLsbD 20 = true))) ∧
      (∀ r rest, x.q = r :: rest → x.wait = true → x.waitEl + ofNs 1000 ≤ u.el → ∃ t, exec (.retry link dt) s = .next t ∧
        t.fec n = { x with wait := false, tries := x.tries + 1 } ∧ t.reg p 0x06C = cntUp (u.reg p 0x06C) ∧
        t.outbox = .ufl n (r.bytes (if r.tag = .discover then 1 else x.ver)) :: u.outbox ∧ RegsKept [addr p 0x06C] u t) ∧
      (s.inReset = false → (s.fec n).st ≠ .off → s.heat % 10 = 0 → (s.fec n).kaHeat ≠ some s.heat →
        ∃ t, exec (.keepalive link) s = .next t ∧ (t.fec n).q = (s.fec n).q ++ [{ tag := .keepalive, op := 4, adr := 0 }] ∧
          (t.fec n).kaHeat = some s.heat ∧ t.regs = s.regs) ∧
      (x.st = .discover → (∀ r ∈ x.q, r.tag ≠ .discover) → x.el + ofNs 100000000 ≤ u.el →
        ∃ t, exec (.discoverRetry link dt) s = .next t ∧ queued t { tag := .discover, op := 0xF, adr := 0 } ∧ (t.fec n).el = u.el) ∧
      (x.st = .powerup → (∀ r ∈ x.q, r.tag ≠ .script x.scriptPos) →
        let wait := if x.scriptN = 0 then 0 else 10 * bytesNum x.table (0x33 + 4 * x.scriptPos) 1
        (x.scriptN ≤ x.scriptPos + 1 → x.el + ofNs (1000 * (wait + bytesNum x.table 0x12 2)) ≤ u.el →
          ∃ t, exec (.scriptWait link dt) s = .next t ∧ (t.fec n).st = .lockwait ∧ (t.fec n).lockEl = none ∧
            (t.fec n).lock = x.lock ∧ queued t { tag := .tune, op := 5, adr := u.rf p 0x048 5 0 }) ∧
        (x.scriptPos + 1 < x.scriptN → x.el + ofNs (1000 * wait) ≤ u.el →
          ∃ t, exec (.scriptWait link dt) s = .next t ∧ (t.fec n).st = .powerup ∧ (t.fec n).scriptPos = x.scriptPos + 1 ∧
            let i := x.scriptPos + 1
            queued t { tag := .script i, op := 2, adr := bytesNum x.table (0x30 + 4 * i) 2, data := [x.table.getD (0x32 + 4 * i) 0] })) ∧
      (x.st = .lockwait →
        (x.pollEl + ofNs 10000 ≤ u.el → ∃ t, exec (.status link dt) s = .next t ∧ queued t { tag := .status, op := 3, adr := 0 } ∧
          (t.fec n).pollEl = u.el ∧ t.regs = u.regs) ∧
        (x.lockEl = none ∨ x.lock = false → x.el + ofNs (1000 * bytesNum x.table 0x14 2) ≤ u.el →
          ∃ t, exec (.lockFail link dt) s = .next t ∧ (t.fec n).st = .fault ∧ (u.rf p 0x020 31 31 = 0 → t.rf p 0x020 7 0 = 0x45) ∧
            (t.fec n).q = (if x.wait && !(x.q.take 1).any stays then [] else x.q.take 1) ++ (x.q.drop 1).filter stays))

/-- Calibration, raw transactions and gain (rules R200, R202, R208, R222, R227): a calibration starts or is queued; its steps pass,
repeat or give up; a raw transaction; a period of the gain loop; a notch released. -/
def Obligations.CalibrationAndGain : Prop :=
  (∀ (link : Fin 8) (s : State), let n := link.val
    let p := 0x020 + n
    let x := s.fec n
    let whole := if s.atBoundary then s.heat else s.heat + 1
    (s.hears p → s.locked p = false → ∀ v : Word,
      (1 ≤ fld v 15 8 → fld v 15 8 ≤ 100 →
        (s.injLive = true ∨ s.rl.st = .tail → ∃ t, exec (.calCtl link v) s = .next t ∧ t.fec n = { x with calQueued := true }) ∧
        (s.injLive = false → s.rl.st ≠ .tail → x.st = .ready → ∃ t, exec (.calCtl link v) s = .next t ∧ (t.fec n).st = .calibrate ∧
          (t.fec n).calStep = (if x.hasTone then 1 else 4) ∧ (t.fec n).calHeat = whole ∧ t.rf p 0x050 15 8 = fld v 15 8)) ∧
      (1 ≤ fld v 18 16 → fld v 18 16 ≤ 4 →
        (x.st ≠ .ready → x.st ≠ .fault → Ends (.rawCtl link v) s (s.capErr p 0x07 0x070)) ∧
        (x.st = .ready ∨ x.st = .fault → v.getLsbD 19 = false → ∃ t, exec (.rawCtl link v) s = .next t ∧
          (t.fec n).q = x.q ++ [{ tag := .raw, op := 1, adr := fld v 15 0, rd := fld v 18 16 }] ∧ (t.fec n).rawDone = false ∧
          (t.fec n).rawFail = false) ∧
        (x.st = .ready ∨ x.st = .fault → v.getLsbD 19 = true → s.guarded n (fld v 15 0) (fld v 18 16) = false →
          ∃ t, exec (.rawCtl link v) s = .next t ∧
            (t.fec n).q = x.q ++ [{ tag := .raw, op := 2, adr := fld v 15 0, data := leBytes (fld v 18 16) (s.reg p 0x074).toNat }]))) ∧
    (s.inReset = false → x.st = .calibrate → 1 ≤ x.calStep → x.calStep ≤ 4 →
      x.calHeat + (if x.calStep = 2 ∨ x.calStep = 4 then 4 else 1) ≤ s.heat → ∀ osc bands,
      (x.calBad = false → ∃ t, exec (.calibrationStep link osc bands) s = .next t ∧ (t.fec n).calStep = x.calStep + 1 ∧
        (t.fec n).calHeat = whole ∧ (x.calStep = 2 → (t.fec n).q = x.q ++ [{ tag := .tone false, op := 6, adr := 0 }] ∧
          (t.fec n).calOsc = osc) ∧
        (x.calStep = 4 → (t.fec n).q = x.q ++ [{ tag := .status, op := 3, adr := 0 }])) ∧
      (x.calBad = true → x.calReps < 16 → exec (.calibrationStep link osc bands) s = .next
        (s.modFec n fun y => { y with calBad := false, calReps := y.calReps + 1, calHeat := whole })) ∧
      (x.calBad = true → 16 ≤ x.calReps → ∃ t, exec (.calibrationStep link osc bands) s = .next t ∧ (t.fec n).st = .ready ∧
        (t.fec n).calStale = true ∧ (t.reg p 0x014).getLsbD 18 = true ∧ (s.rf p 0x020 31 31 = 0 → t.rf p 0x020 7 0 = 0x46)))) ∧
  (∀ (stream : Fin 32) (s : State) n j, let st := stream.val
    let c := s.chain st
    let x := s.fec n
    s.inReset = false → s.streamAt st = some (n, j) → (s.cr st 0x00).getLsbD 1 = true → x.hasGain = true → x.st = .ready →
      s.feHeld st = false → fld (s.cr st 0x04) 27 24 ≤ c.fePer →
      let outer := fld (s.cr st 0x18) 15 0
      let tgt := fld (s.cr st 0x04) 15 0
      let want : Int := (c.feGain : Int) + (if 5 * tgt < 4 * outer then -1 else if 10 * outer < 8 * tgt then 1 else 0)
      let g : Int := max (bytesNum x.table 0x1A 1) (min (bytesNum x.table 0x1B 1) want)
      ∃ t, exec (.feGainLoop stream) s = .next t ∧ (t.chain st).fePer = 0 ∧ (t.chain st).feClamp = (if g = want then 0 else c.feClamp + 1) ∧
        (g.toNat = c.feGain → t.fecs = s.fecs ∧ t.outbox.filter (fun o => !o.isMessage) = s.outbox.filter (fun o => !o.isMessage)) ∧
        (g.toNat ≠ c.feGain → (t.fec n).q =
          x.q ++ [{ tag := .gain j, op := 2, adr := bytesNum x.table 0x18 2 + j, data := [BitVec.ofNat 8 g.toNat] }])) ∧
  (∀ (stream : Fin 32) (k : Fin 4) (s : State), let st := stream.val
    let c := (s.chain st).notch k.val
    c.active = true → c.slaved = false → 2 ^ fld (s.cr st 0x0C) 31 28 ≤ c.low →
      ∃ t, exec (.notchRelease stream k) s = .next t ∧ (t.chain st).notch k.val = {} ∧
        (∀ j, j < 4 → j ≠ k.val → (t.chain st).notch j = (s.chain st).notch j) ∧
        (∀ q, q ≠ st → t.chain q = s.chain q) ∧ (t.reg (condPage st) 0x014).getLsbD (16 + 3 * (st % 2)) = true)

/-- Injection (rules R203, R204, R206, R207, R209 to R211): the wait for the lock and its end, the lead-in and the tail with the clock of
the return lane, a job that joins a running lane at its next frame, a suspended job that resumes, and a window's result. -/
def Obligations.InjectionJobs : Prop :=
  ∀ (slot : Fin 8) (s : State) (dt : Nat), let k := slot.val
    let w := s.after dt
    let u := w.rlRun
    let j := u.inj k
    let lockTo := fun (u : State) => ofNs (1000 * u.rf (0x020 + u.injFec) 0x04C 13 0)
    let calm := ∀ e ∈ u.rl.jobs, e.2.st ≠ .joining
    let runs := fun (x : InjJob) => { x with
      st := .active, winHeat := u.heat + 1, spoilt := false, badLanes := 0, sec := secOf (u.tb.now - (u.el - u.rl.next)) }
    w.inReset = false →
      (u.hasInj k = true → j.st = .pendingLock → u.injGo k = true → u.el ≤ j.startEl + lockTo u →
        ∃ t, exec (.pendingLock slot dt) s = .next t ∧
          (t.fec u.injFec).q = (u.fec u.injFec).q ++ [{ tag := .inj true, op := 7, adr := 1 }] ∧
          (u.rl.st = .idle → calm → t.rl.st = .leadIn ∧ t.rl.el = u.el ∧ t.inj k = { j with st := .leadIn } ∧
            .rlClock true ∈ t.outbox) ∧
          (u.rl.st = .leadIn → calm → t.rl.st = .leadIn ∧ t.rl.el = u.rl.el ∧ t.inj k = { j with st := .leadIn }) ∧
          (u.rl.st = .active → u.el < u.rl.next → t.rl.st = .active ∧ t.inj k = { j with st := .joining }) ∧
          (u.rl.st = .tail → u.el < u.rl.next →
            (j.afterTail = true → t.rl.st = .tail ∧ t.inj k = { j with st := .tailWait }) ∧
            (j.afterTail = false → t.rl.st = .active ∧ t.inj k = { j with st := .joining }))) ∧
      (w.hasInj k = true → (w.inj k).st = .pendingLock → w.injGo k = false → (w.inj k).startEl + lockTo w ≤ w.el →
        ∃ t, exec (.lockTimeout slot dt) s = .next t ∧ t.hasInj k = false ∧ (t.ent (w.inj k).entry).st = .free ∧ t.fecs = w.fecs ∧
          ∀ e, w.jfind (w.inj k).seq = some e → ∃ ws, t.doneAs (w.inj k).seq stLOCK_TIMEOUT ws) ∧
      (u.hasInj k = true → j.st = .suspended → u.injGo k = true → u.rl.st = .suspended → u.el < u.rl.next →
        ∃ t, exec (.pendingLock slot dt) s = .next t ∧ t.rl.st = .suspended ∧ t.inj k = { j with st := .joining, cut := false }) ∧
      (u.rl.st = .leadIn → u.rl.el + u.frames256 ≤ u.el → ∃ t, exec (.leadIn dt) s = .next t ∧ t.rl.st = .active ∧
        (∀ i, (u.inj i).st = .leadIn → t.inj i = runs (u.inj i)) ∧
        (∀ i, (u.inj i).st ≠ .leadIn → (u.inj i).st ≠ .joining → (u.rl.jobs.filter fun e => e.1 = i).length ≤ 1 →
          t.inj i = u.inj i)) ∧
      (u.rl.st = .tail → u.rl.el + u.frames256 ≤ u.el →
        ((∀ e ∈ u.rl.jobs, e.2.st ≠ .tailWait) →
          exec (.tail dt) s = .next (({ u with rl := { u.rl with st := .idle } } : State).emit (.rlClock false))) ∧
        ((∃ e ∈ u.rl.jobs, e.2.st = .tailWait) → calm → ∃ t, exec (.tail dt) s = .next t ∧ t.rl.st = .leadIn ∧ t.rl.el = u.rl.next ∧
          ∀ i, (u.inj i).st = .tailWait → t.inj i = { u.inj i with st := .leadIn })) ∧
      (s.inReset = false → (s.inj k).st = .active → (s.inj k).winHeat + 100 ≤ s.heat → let w := s.inj k
        let fin := fun (t : State) => t.inj k = { w with winHeat := s.heat, spoilt := false, badLanes := 0 } ∧
          t.reg 0x018 0x014 = s.reg 0x018 0x014 ||| BitVec.ofNat 32 (2 ^ 16) ∧ RegsKept [addr 0x018 0x014] s t
        (∃ t, exec (.result slot []) s = .next t ∧ fin t ∧ t.rl.res = s.rl.res) ∧
        (∀ m : InjMeas, let n := m.lane.val
          let key := 64 * k + 8 * n + m.band.val
          (w.words.getD 6 0).getLsbD n = true → (w.words.getD 6 0).getLsbD (8 + m.band.val) = true →
            (∃ b ∈ s.bandsOf n, b.2 = m.band.val) → ∃ t, exec (.result slot [m]) s = .next t ∧ fin t ∧
            let r := Tab.get (fun _ => ({} : InjRes)) t.rl.res key
            (w.spoilt = true ∨ w.badLanes.getLsbD n = true → r.filled = true) ∧
            (w.spoilt = false → w.badLanes.getLsbD n = false → r.valid = true ∧ r.filled = false ∧ r.heat = s.heat - 1 ∧
              r.delay = m.delay - signed 32 (bytesNum (s.fec s.injFec).table 0x1C 4))))

/-- Searches (rules R139, R255, R256, R258, R270): a capture starts for every job that shares the snapshot, which starts empty; it is
complete once its samples are stored, and one that an impairment spoilt starts over or ends at the boundary; a job that waits rises in
priority, and SNAP_HWM is cleared to the present use. -/
def Obligations.SearchCaptures : Prop :=
  (∀ (idx : Fin 8192) (s : State), s.hasJob idx.val = true → s.startDue (s.job idx.val) = true →
    let j := s.job idx.val
    let at' := (match j.start with | some t => if jStreamMode j.words then max t s.tb.hStart else t | none => s.tb.hStart)
    ∃ t, exec (.captureStart idx) s = .next t ∧ t.regs = s.regs ∧ t.heat = s.heat ∧ (t.snap j.snap).count = 0 ∧
      (t.snap j.snap).hist = [] ∧ (t.snap j.snap).runs = (s.snap j.snap).runs ∧
      ∀ i, s.hasJob i = true →
        ((s.job i).snap = j.snap → (s.job i).phase = .armed → (t.job i).start = some at' ∧
          (t.job i).capEl = s.el - (s.tb.now - at') ∧ (t.job i).capAt = none ∧ (t.job i).spoilt = false ∧ (t.job i).heats = 0 ∧
          (t.job i).phase = (if jStreamMode (s.job i).words then .processing else .capturing)) ∧
        ((s.job i).snap ≠ j.snap ∨ (s.job i).phase ≠ .armed → t.job i = s.job i)) ∧
  (∀ (idx : Fin 8192) dt (s : State), let u := s.after dt
    let j := u.job idx.val
    u.hasJob idx.val = true → j.phase = .capturing → u.running = true →
      (jCount j.words ≤ (u.snap j.snap).count → j.spoilt = false →
        ∃ t, exec (.captured idx dt) s = .next t ∧ (t.job idx.val).phase = .captured ∧
        (∀ i, (∀ e ∈ u.jobs, e.1 = i → e.2.snap ≠ j.snap) → t.job i = u.job i) ∧ RegsKept [addr 0x041 0x014] u t) ∧
      ((u.snap j.snap).count < jCount j.words ∨ j.spoilt = true → exec (.captured idx dt) s = .next u)) ∧
  (∀ (i : Nat) (s : State), let j := s.job i
    let t := s.impairJobs
    (s.jobs.filter fun e => e.1 = i).length = 1 → j.phase = .capturing → j.cancelled = false → j.torn = false →
      (j.spoilt = false → t.job i = j) ∧
      (j.spoilt = true → j.impRestarts + 1 ≤ s.rf 0x041 0x040 3 0 → (t.job i).phase = .armed ∧ (t.job i).waitReal = true ∧
        (t.job i).impRestarts = j.impRestarts + 1 ∧ (t.job i).restarts = j.restarts + 1 ∧ (t.reg 0x041 0x014).getLsbD 17 = true) ∧
      (j.spoilt = true → s.rf 0x041 0x040 3 0 < j.impRestarts + 1 → (t.job i).nq = true ∧ (t.reg 0x041 0x014).getLsbD 18 = true)) ∧
  (∀ (idx : Fin 8192) (s : State), let j := s.job idx.val
    s.hasJob idx.val = true → j.booked = 0 → j.phase ≠ .done → j.prio < 7 → s.rf 0x001 0x06C 11 0 ≤ j.ageHeats →
      ∃ t, exec (.agingStep idx) s = .next t ∧ t.job idx.val = { j with prio := j.prio + 1, ageHeats := 0 } ∧
        (∀ i, i ≠ idx.val → t.job i = s.job i) ∧ RegsKept [addr 0x041 0x014] s t) ∧
  (∀ s : State, s.hears 0x041 → ∃ t, exec .snapHwm s = .next t ∧ t.reg 0x041 0x050 = BitVec.ofNat 32 s.snapUsed ∧
    t.jobs = s.jobs ∧ RegsKept [addr 0x041 0x050] s t)

/-- A tracking channel's times (rules R299, R301, R305, R309): PULLIN that lasts too long, the way into COAST and out of it to LOST,
bit synchronisation that starts again, and the fall back from vector tracking, whose loops go on from the NCOs' rates (rule R310; the
loops' own form is log entry 88). Every other channel is untouched. -/
def Obligations.ChannelEvents : Prop :=
  ∀ (idx : Fin 8192) (s : State), let i := idx.val
    let c := s.chan i
    let entered := fun (cmd : Instr) (x : Chan) (p bit : Nat) (l : List Nat) => ∃ t, exec cmd s = .next t ∧ t.chan i = x ∧
      (∀ j, j ≠ i → t.chan j = s.chan j) ∧ t.heat = s.heat ∧ RegsKept (addr p 0x014 :: l) s t ∧ (t.reg p 0x014).getLsbD bit = true
    let to' := fun (st : ChanSt) => ({ c with st := st, run := 0, low := 0, high := 0, coast := 0, wasAbsent := false } : Chan)
    s.inReset = false → s.fault.phase = .run → s.hasChan i = true →
      (c.st = .pullin → 10 * s.rf 0x060 0x04C 11 0 ≤ c.pull →
        entered (.pullinTimeout idx) (to' .lost) 0x060 17 []) ∧
      (c.st = .locked → s.streamAbsent c.prm.stream = true ∨ s.rf 0x060 0x04C 19 12 ≤ c.low →
        entered (.toCoast idx) { to' .coast with wasAbsent := s.streamAbsent c.prm.stream } 0x060 16 []) ∧
      (c.st = .coast → 1000 * c.prm.coastS < c.coast →
        entered (.coastLimit idx) (to' .lost) 0x060 17 []) ∧
      (c.bitSync = false → 10000 ≤ c.syncHeats → ∃ t, exec (.bitSyncTimeout idx) s = .next t ∧
        t.chan i = { c with syncHeats := 0, hist := [], histN := 0, signs := [], clN := 0, clBest := (0, 0) } ∧
        (∀ j, j ≠ i → t.chan j = s.chan j) ∧ t.regs = s.regs) ∧
      (c.coupled = true → s.rf 0x061 0x040 15 8 ≤ c.exclRun →
        (let u := s.tuneOf c
         let fd : Rat := u.sg * (c.cfreq : Rat) / 65536 - (u.fc - u.lo)
         let rate : Rat := (c.krate : Rat) / (2 ^ 24 : Nat) - (c.sig.chips : Rat) * (1 + fd / u.fc)
         entered (.fallback idx) { c with coupled := false, ramp := 0, exclRun := 0, excl := true, exclHeat := some s.heat, nco := none,
                                          vel := fd, dop := fd, accl := 0, rel := 0, relC := 0, ccor := rate } 0x061 16 [addr 0x061 0x050]) ∧
        ∃ t, exec (.fallback idx) s = .next t ∧ t.reg 0x061 0x050 = cntUp (s.reg 0x061 0x050))

/-- Corrections, authentication, threats and angle of arrival (rules R337, R338, R342, R344, R345, R347 to R350): a frame of
corrections is used or dropped; a page's requests answered or not; a request that stays unanswered; an indicator that clears; and
one second's evaluation of the arrays. -/
def Obligations.Navigation : Prop :=
  (∀ (src : Fin 4) (s : State) n, let l := hunt (s.rtcmBytes src.val)
    let ty := rtcmType l
    s.inReset = false → rtcmLen l = some n →
      (rtcmGood l n = true → ∃ t, exec (.rtcmFrame src) s = .next t ∧ t.rtcmBytes src.val = l.drop n ∧
        t.reg 0x071 0x078 = cntUp (s.reg 0x071 0x078) ∧ RegsKept [addr 0x071 0x078] s t ∧
        (ty = 1005 ∨ ty = 1006 → t.nav.baseOk = true ∧ t.nav.baseEl = s.nav.baseEl ∧ t.nav.ignored = s.nav.ignored) ∧
        ((1074 ≤ ty ∧ ty ≤ 1077) ∨ (1084 ≤ ty ∧ ty ≤ 1087) ∨ (1094 ≤ ty ∧ ty ≤ 1097) ∨ (1124 ≤ ty ∧ ty ≤ 1127) →
          t.nav.baseEl = some s.el ∧ t.nav.baseOk = s.nav.baseOk ∧ t.nav.ignored = s.nav.ignored) ∧
        (1200 ≤ ty → ty ≠ 1230 → t.nav.ignored = min 0xFFFF (s.nav.ignored + 1) ∧ t.nav.baseOk = s.nav.baseOk)) ∧
      (rtcmGood l n = false → ∃ t, exec (.rtcmFrame src) s = .next t ∧ t.rtcmBytes src.val = hunt l.tail ∧
        t.reg 0x071 0x07C = cntUp (s.reg 0x071 0x07C) ∧ (t.reg 0x071 0x014).getLsbD 20 = true ∧
        RegsKept [addr 0x071 0x07C, addr 0x071 0x014] s t)) ∧
  (∀ prn x (s : State), s.inReset = false → (s.reg 0x072 0x040).getLsbD 0 = true → s.fault.phase = .run →
    (x.answered = false → ∃ t, exec (.inavPage prn x) s = .next t ∧ t.auth.reqEl = some (s.auth.reqEl.getD s.el) ∧ t.regs = s.regs ∧
      (x.newData = true → (t.sat prn).adkd0 = 1 ∧ (t.sat prn).adkd12 = 1 ∧ (t.sat prn).bits = 0)) ∧
    (x.answered = true → ∃ t, exec (.inavPage prn x) s = .next t ∧ t.auth.reqEl = none ∧ t.auth.stall = false ∧
      (x.pkr = some true → t.auth.pk = 2 ∧ (t.reg 0x072 0x014).getLsbD 19 = true) ∧
      (x.pkr = some false → t.auth.pk = 3) ∧
      (∀ uns, x.root = some (true, uns) → x.pkr = none → s.auth.pk = 2 → t.auth.root = 2 ∧ t.auth.unsupported = uns ∧
        (t.reg 0x072 0x014).getLsbD 16 = true) ∧
      (∀ uns, x.root = some (false, uns) → x.pkr = none → s.auth.pk = 2 → t.auth.root = 3) ∧
      (x.root = none → s.auth.root = 2 → x.key = some false → t.reg 0x072 0x07C = cntUp (s.reg 0x072 0x07C) ∧
        (t.reg 0x072 0x014).getLsbD 17 = true ∧ t.nav.authBad = true ∧ ∀ g ∈ x.tags, (t.sat g.prn).setAdkd g.adkd 3 = t.sat g.prn) ∧
      (x.root = none → x.pkr = none → s.auth.root = 2 → x.key ≠ some false → s.auth.unsupported = false → s.authTime = true →
        s.auth.kept = [] → x.newData = false → ∀ g, x.tags = [g] →
          (g.ok = false → t.sat g.prn = (s.sat g.prn).setAdkd g.adkd 3 ∧ t.reg 0x072 0x078 = cntUp (s.reg 0x072 0x078) ∧
            (t.reg 0x072 0x014).getLsbD 17 = true ∧ t.nav.authBad = true) ∧
          (g.ok = true → t.reg 0x072 0x074 = cntUp (s.reg 0x072 0x074) ∧
            ((s.sat g.prn).adkd0 ≠ 3 → (t.sat g.prn).bits = min 255 ((s.sat g.prn).bits + g.bits) ∧
              (t.sat g.prn).setAdkd g.adkd (if 80 ≤ (t.sat g.prn).bits then 2 else 1) = t.sat g.prn))))) ∧
  (∀ dt (s : State), let u := s.after dt
    ∀ e, u.auth.reqEl = some e → u.auth.stall = false → e + ofNs (10000000 * u.rf 0x072 0x040 23 16) ≤ u.el →
      Ends (.cryptoStall dt) s (({ u with auth := { u.auth with stall := true } } : State).irq 0x072 18)) ∧
  (∀ (bit : Fin 9) (s : State), let b := bit.val
    s.nav.ind.getLsbD b = true → Tab.get (fun _ => 0) s.nav.held b = 0 →
      Tab.get (fun _ => 0) s.nav.gone b + ofNs (1000000000 * s.rf 0x071 0x058 23 16) ≤ s.el →
      ∃ t, exec (.threatClear bit) s = .next t ∧ t.nav.ind.getLsbD b = false ∧
        (∀ j, j ≠ b → t.nav.ind.getLsbD j = s.nav.ind.getLsbD j) ∧ (t.nav.ind = 0 → t.nav.level = 0) ∧
        t.nav.level = levelOf t.nav.ind ∧ RegsKept [addr 0x071 0x014] s t ∧
        (t.nav.level = 0 → s.nav.level ≠ 0 → (t.reg 0x071 0x014).getLsbD 19 = true) ∧
        (t.nav.level ≠ 0 ∨ s.nav.level = 0 → t.regs = s.regs)) ∧
  (∀ los (s : State), s.inReset = false → s.fault.phase = .run → (∀ g, g < 8 → ∀ k ∈ (s.group g).members, k < 8) →
    ∃ t, exec (.aoaEvaluation los) s = .next t ∧ t.regs = s.regs ∧
      (∀ g, g < 8 → let x := s.group g
        let sats := ((s.aoaChans x).map fun e => satOf e.2).dedup.length
        let old := Tab.get (fun _ => 0) s.nav.calSec g
        let n := old + (if 6 ≤ sats then 1 else 0)
        let sum := fun (k : Nat) => (s.aoaChans x).foldl (fun (a : Cx) e => match los.find? fun l => l.1 == e.1 with
          | some l => if e.2.els.contains k then a.add ((s.measured g e.2 k).mul (s.steer g x e.2 l.2 k).conj) else a
          | none => a) {}
        (x.st ≠ .free → 3 ≤ x.members.length → s.arrSet g x = true → s.nav.level = 0 → s.sol.fix = 1 ∨ s.nav.solnOk = true →
          Tab.get (fun _ => 0) t.nav.calSec g = n ∧ (60 ≤ n → t.nav.calOk.getLsbD g = true) ∧
          (n < 60 → t.nav.calOk.getLsbD g = s.nav.calOk.getLsbD g) ∧ t.biasOf g x.ref = s.biasOf g x.ref ∧
          ∀ k ∈ x.members, k ≠ x.ref → sum k ≠ {} → t.biasOf g k = s.biasOf g k + Config.atan2 (sum k).im (sum k).re / 600) ∧
        (s.nav.level ≠ 0 ∨ x.members.length < 3 → Tab.get (fun _ => 0) t.nav.calSec g = old ∧
          t.nav.calOk.getLsbD g = s.nav.calOk.getLsbD g ∧ ∀ k, k < 8 → t.biasOf g k = s.biasOf g k)) ∧
      (∀ i, s.hasChan i = true → let c := s.chan i
        (∀ g x l, c.prm.eprompt = true → s.groupOut c.prm.stream = some (g, x) → t.nav.calOk.getLsbD g = true →
          los.find? (fun e => e.1 == i) = some l → let r := t.rhoOf g x c l.2
            let low := decide (r < (s.rf 0x071 0x054 7 0 : Nat))
            (t.chan i).aoaValid = true ∧ (t.chan i).rho = min 255 ⌊r⌋.toNat ∧
            ((t.chan i).aoaBad ≠ c.aoaBad ↔ (low ≠ c.aoaBad ∧ 4 ≤ c.aoaRun))) ∧
        (c.prm.eprompt = false → (t.chan i).aoaBad =
          (c.aoaBad && !decide (c.aoaEl + ofNs (1000000000 * s.rf 0x071 0x058 23 16) ≤ s.el)))) ∧
      ∃ m : State, ({ m with chans := t.chans, nav := t.nav } : State) = t ∧ m.nav.bias = t.nav.bias ∧
        (∀ i, (m.chan i).aoaSum = (s.chan i).aoaSum) ∧ t.chans = m.chans.map (fun e => (e.1, { e.2 with aoaSum := [] })) ∧
        t.nav.common = (decide (4 ≤ ((m.chans.filter fun e => e.2.aoaValid).map fun e => satOf e.2).dedup.length) &&
          decide (m.pairMedian ≥ (s.rf 0x071 0x054 15 8 : Nat))))

/-- The time base and the disciplining logic (rules R363, R368, R370 to R376): losing the lock and its return, HEALTHY, the end of a
slew, the loop's update in its states, τ, and the entry to holdover. -/
def Obligations.TimeBaseAndLoop : Prop :=
  ∀ (s : State) dt, let u := s.after dt
    let d := u.disc
    let pages := [addr 0x080 0x014, addr 0x081 0x014]
    let well := u.tb.pllLock = true ∧ u.tb.lockEl + ofNs 1000000000 ≤ u.el ∧ d.st ≠ .refFault
    (u.tb.pllLock = false → Ends (.pllUnlock dt) s u) ∧
    (u.tb.pllLock = true → ∃ t, exec (.pllUnlock dt) s = .next t ∧ t.tb.pllLock = false ∧ t.tb.healthy = false ∧ RegsKept pages u t ∧
      t.tb.now = u.tb.now ∧ (d.st = .off → t.disc = d) ∧
      (d.st ≠ .off → t.disc.st = .refFault ∧ t.disc.yi = d.yi ∧ t.disc.code = d.code) ∧
      (d.st ≠ .off → d.st ≠ .refFault → t.tb.aDisc = 0 ∧ t.disc.yp = 0 ∧ (t.reg 0x081 0x014).getLsbD 16 = true ∧
        (t.reg 0x081 0x014).getLsbD 19 = true)) ∧
    (d.st = .refFault → u.tb.pllLock = true → u.tb.refBad = false → u.tb.lockEl + ofNs 1000000000 ≤ u.el →
      ∃ t, exec (.refFaultEnd dt) s = .next t ∧ t.disc.st = .freerun ∧ t.disc.yi = d.yi ∧ t.disc.yp = d.yp ∧ t.tb.healthy = true ∧
        RegsKept pages u t) ∧
    (∃ t, exec (.healthChange dt) s = .next t ∧ (t.tb.healthy = true ↔ well) ∧ ({ t.tb with healthy := u.tb.healthy } : TimeBase) = u.tb ∧
      RegsKept pages u t ∧ (t.tb.healthy ≠ u.tb.healthy → (t.reg 0x080 0x014).getLsbD 19 = true)) ∧
    (s.tb.slew = none → Ends .slewDone s s) ∧
    (∀ w k, s.inReset = false → s.tb.everLocked = true → s.tb.slew = some w → s.slewTicks w = some k → k ≤ s.ticksTo s.tb.hEnd →
      let gain := ((k * s.tickPlain : Nat) + w.left : Int).toNat
      ∃ t, exec .slewDone s = .next t ∧ t.tb.slew = none ∧ t.el = s.el + gain ∧ t.tb.now = s.tb.now + gain ∧
        (t.reg 0x080 0x014).getLsbD 18 = true) ∧
    (u.inReset = false → d.lastEl + ofNs 999999000 ≤ u.el → u.discSrc ≠ 1 →
      let X := meanRat (d.meas.map (·.1))
      let tau : Rat := ((2 ^ u.tauNow : Nat) : Rat)
      let lim : Rat := (u.rf 0x081 0x048 15 0 : Nat) / 10 ^ 9
      let ran := fun (t : State) => exec (.discUpdate dt) s = .next t ∧ t.disc.meas = [] ∧ t.disc.lastEl = u.el
      (d.st = .off → ∃ t, exec (.discUpdate dt) s = .next t ∧ t.disc = d ∧ t.regs = u.regs) ∧
      (d.meas = [] → d.st ≠ .off → ∃ t, ran t ∧ t.disc.st = d.st ∧ t.disc.sinceValid = d.sinceValid + 1 ∧ t.disc.reacq = 0) ∧
      (d.meas ≠ [] → d.st = .freerun → ∃ t, ran t ∧ t.disc.x = X ∧
        t.disc.st = (if u.tb.stepped then .locking else .freqAcq)) ∧
      (d.meas ≠ [] → d.st = .freqAcq → d.haveX = true → ∃ t, ran t ∧ t.disc.st = .freqAcq ∧ t.disc.x = X ∧ t.disc.yp = 0 ∧
        t.disc.yi = d.yi - (X - d.x) / 8) ∧
      (d.meas ≠ [] → (d.st = .locking ∨ d.st = .locked) → d.haveX = true →
        absRat (X - d.x) ≤ (u.rf 0x081 0x050 15 0 : Nat) / 10 ^ 9 → ∃ t, ran t ∧ t.disc.x = X ∧
        t.disc.yi = d.yi - X / (tau * tau) ∧ t.disc.yp = clampRat (-lim) lim (-2 * X / tau) ∧
        (d.st = .locking → 59 ≤ d.goodRun → absRat X < (u.rf 0x081 0x048 23 16 : Nat) / 10 ^ 9 → t.disc.st = .locked ∧
          (t.reg 0x081 0x014).getLsbD 18 = true) ∧
        (d.st = .locked → 9 ≤ d.badRun → (u.rf 0x081 0x048 31 24 : Nat) / 10 ^ 9 < absRat X → t.disc.st = .locking) ∧
        (d.st = .locked → absRat X ≤ (u.rf 0x081 0x048 31 24 : Nat) / 10 ^ 9 → t.disc.st = .locked))) ∧
    (s.inReset = false → (s.disc.updates < 16 → Ends .tauEvaluation s s) ∧
      (16 ≤ s.disc.updates → ∃ t, exec .tauEvaluation s = .next t ∧ t.regs = s.regs ∧ t.disc.updates = 0 ∧ t.disc.yi = s.disc.yi ∧
        (s.rf 0x081 0x044 21 21 = 1 → t.disc.tauLog2 = s.rf 0x081 0x044 20 16 ∧ t.disc.tauTgt = s.rf 0x081 0x044 20 16) ∧
        (s.rf 0x081 0x044 21 21 = 0 → t.disc.tauTgt = s.tauTarget ∧
          (s.disc.tauLog2 < s.tauTarget → t.disc.tauLog2 = s.disc.tauLog2 + 1) ∧
          (s.tauTarget < s.disc.tauLog2 → t.disc.tauLog2 + 1 = s.disc.tauLog2) ∧
          (s.disc.tauLog2 = s.tauTarget → t.disc.tauLog2 = s.disc.tauLog2)))) ∧
    (s.inReset = false → s.rf 0x081 0x04C 7 0 ≤ s.disc.sinceValid →
      (s.disc.st = .off ∨ s.disc.st = .freerun ∨ s.disc.st = .holdover ∨ s.disc.st = .refFault → Ends .holdover s s) ∧
      (s.disc.st = .freqAcq ∨ s.disc.st = .locking ∨ s.disc.st = .locked → ∃ t, exec .holdover s = .next t ∧ t.disc.st = .holdover ∧
        t.disc.yp = 0 ∧ t.disc.holdT = 0 ∧ (t.reg 0x081 0x014).getLsbD 17 = true ∧ RegsKept [addr 0x081 0x014] s t ∧
        (s.disc.yiHist ≠ [] → t.disc.yi = meanRat (s.disc.yiHist.take (2 ^ s.tauNow)))))

/-- Time outputs and inputs (rules R382 to R384, R386 to R391): an edge emitted or suppressed, a trigger to a core, the end of a
pulse and of its schedule, the system PPS, an edge stamped, dropped or too near the one before, and the pop of the FIFOs. -/
def Obligations.OutputsAndInputs : Prop :=
  (∀ i (s : State), let x := s.sched i
    let at' := s.edgeAt x x.nextK
    let u := s.after (s.ticksTo at')
    let cmd := if x.pin then Instr.toutEdge i else .trigger i
    s.inReset = false → s.hasSched i = true → x.loaded = true → x.done = false → at' < s.tb.hEnd → at' ≤ u.tb.now →
      (x.finite = false ∨ 2 ≤ x.left) → x.periodNs ≠ 0 →
      (u.gateOpen x.gate = false ∨ (x.pin = true ∧ u.quiet = true) → ∃ t, exec cmd s = .next t ∧
        t.sched i = { x with nextK := x.nextK + 1, left := x.left - 1, supp := min 0xFFFF (x.supp + 1) } ∧
        t.pulses = s.pulses ∧ t.cores = s.cores ∧ (t.reg 0x082 0x014).getLsbD 18 = true ∧ RegsKept [addr 0x082 0x014] u t) ∧
      (u.gateOpen x.gate = true → x.pin = true → u.quiet = false → ∃ t, exec cmd s = .next t ∧
        t.sched i = { x with nextK := x.nextK + 1, left := x.left - 1, emit := (x.emit + 1) % 2 ^ 32 } ∧
        t.outbox = .toutRise x.target x.nextK :: u.outbox ∧ t.regs = u.regs ∧
        t.pulses = s.pulses ++ [⟨x.target, at' + ceilDiv (x.width * unitsPerNs) 100, some i⟩]) ∧
      (u.gateOpen x.gate = true → x.pin = false → x.trigSlot < 4 → let c : CoreId := if x.target = 0x16 then 6 else 7
        ∃ t, exec cmd s = .next t ∧ t.pulses = s.pulses ∧ t.regs = u.regs ∧
        t.outbox = .trigger c x.trigSlot (BitVec.ofNat 32 x.nextK) :: u.outbox ∧
        (t.core c).bits.getLsbD (0x201 + x.trigSlot) = true ∧
        (t.core c).bits.getLsbD 0x206 = ((s.core c).bits.getLsbD 0x206 || (s.core c).bits.getLsbD (0x201 + x.trigSlot)) ∧
        Tab.get (fun _ => 0) (t.core c).trigK x.trigSlot = BitVec.ofNat 32 x.nextK ∧ (∀ k, k ≠ c.val → t.core k = s.core k))) ∧
  (∀ i (s : State), let x := s.sched i
    let at' := s.edgeAt x x.nextK
    let u := s.after (s.ticksTo at')
    s.inReset = false → s.hasSched i = true → x.loaded = true → x.done = false → at' < s.tb.hEnd → at' ≤ u.tb.now →
      (x.finite = true ∧ x.left = 1) ∨ x.periodNs = 0 → u.gateOpen x.gate = false → (∀ q ∈ s.pulses, q.own ≠ some i) →
      ∃ t, exec (if x.pin then Instr.toutEdge i else .trigger i) s = .next t ∧ (t.sched i).done = true ∧
        (t.sched i).ended = some s.heat ∧ (t.ent i).st = .dying ∧ (t.reg 0x082 0x014).getLsbD 16 = true) ∧
  (∀ (pin : Fin 8) (s : State), (s.firstPulse pin.val = none → Ends (.pulseEnd pin) s s) ∧
    ∀ q, s.firstPulse pin.val = some q → s.inReset = false → let u := s.after (s.ticksTo q.endAt)
      let rest := s.pulses.erase q
      q.endAt ≤ u.tb.now → ∃ t, exec (.pulseEnd pin) s = .next t ∧ t.pulses = rest ∧
        ((∃ r ∈ rest, r.pin = pin.val) → q.own = none → t.outbox = u.outbox) ∧
        ((∀ r ∈ rest, r.pin ≠ pin.val) → (q.own = none ∨ ∀ i, q.own = some i → (s.sched i).done = false) →
          t.outbox = .toutFall pin.val :: u.outbox ∧ t.regs = u.regs ∧ t.touts = s.touts) ∧
        (∀ i, q.own = some i → (s.sched i).done = true → (∀ r ∈ rest, r.own ≠ some i) → (t.sched i).ended = some s.heat ∧
          (t.ent i).st = .dying ∧ (t.reg 0x082 0x014).getLsbD 16 = true)) ∧
  (∀ s : State, let n := s.ppsNext
    let u := s.after (s.ticksTo n.2)
    s.inReset = false → s.tb.everLocked = true → n.2 < s.tb.hEnd → n.2 ≤ u.tb.now →
      (s.rf 0x082 0x040 0 0 = 0 → Ends .pps s { u with ppsLast := n.1 }) ∧
      (s.rf 0x082 0x040 0 0 = 1 → u.gateOpen (s.rf 0x082 0x040 2 1) = true → u.quiet = false → ∃ t, exec .pps s = .next t ∧
        t.ppsLast = n.1 ∧ t.outbox = .toutRise 0 n.1 :: u.outbox ∧ t.regs = u.regs ∧
        t.pulses = s.pulses ++ [⟨0, n.2 + s.rf 0x082 0x040 17 8 * msUnits, none⟩])) ∧
  (∀ (input : Fin 4) rising dt sub (s : State), let u := s.after dt
    let n := input.val
    let x := u.tin n
    let el := u.el + sub % 80 * unitsPerNs / 100
    let stamp := ⌊((u.tb.now * 100 : Nat) : Rat) / (unitsPerNs : Nat) + (sub % 80 : Nat) - (u.delayPs 0x083 (0x040 + 4 * n) : Rat) / 10 + 1 / 2⌋
    let acc := u.tinArms.filter fun a => a.2.input == n && a.2.accepts rising stamp
    u.inReset = false → u.quiet = false →
    (∃ a ∈ u.tinArms, a.2.input = n ∧ (if rising then a.2.edge % 2 = 1 else 2 ≤ a.2.edge)) →
      (∀ l, x.lastEdge = some l → el < l + ofNs 100 → Ends (.tinEdge input rising dt sub) s (u.count 0x083 (0x068 + 4 * n))) ∧
      (x.lastEdge = none ∨ (∃ l, x.lastEdge = some l ∧ l + ofNs 100 ≤ el) →
        ∃ t, exec (.tinEdge input rising dt sub) s = .next t ∧ (t.tin n).lastEdge = some el ∧ (t.tin n).view = x.view ∧
        (∀ m, m ≠ n → t.tin m = u.tin m) ∧ (u.discSrc ≠ 2 → t.disc = u.disc) ∧
        (acc = [] → (t.tin n).fifo = x.fifo ∧ t.tinArms = u.tinArms ∧ t.regs = u.regs) ∧
        (acc ≠ [] → x.fifo.length < 64 → (t.tin n).ovfPend = false ∧ (t.reg 0x083 0x014).getLsbD (16 + n) = true ∧
          RegsKept [addr 0x083 0x014] u t ∧
          (t.tin n).fifo = x.fifo ++ [⟨stamp, u.tb.epoch % 65536, rising, (acc.map fun a => 2 ^ a.2.slot).sum, u.tb.align, x.ovfPend⟩]) ∧
        (acc ≠ [] → 64 ≤ x.fifo.length → (t.tin n).fifo = x.fifo ∧ (t.tin n).ovfPend = true ∧
          t.reg 0x083 (0x058 + 4 * n) = cntUp (u.reg 0x083 (0x058 + 4 * n)) ∧ (t.reg 0x083 0x014).getLsbD (20 + n) = true))) ∧
  (∀ v (s : State), s.hears 0x083 → ∃ t, exec (.pop v) s = .next t ∧ RegsKept [addr 0x083 0x050] s t ∧ t.tinArms = s.tinArms ∧
    ∀ n, n < 4 → (v.getLsbD n = false → t.tin n = s.tin n) ∧
      (v.getLsbD n = true → t.tin n = { s.tin n with fifo := (s.tin n).fifo.tail, view := (s.tin n).fifo.head? }))

/-- Links and ESMC (rules R406, R408, R424, R427, R428): a link comes up or drops, the PHY's speed word, a PDU received, the PDUs a port
sends, and the timeout. -/
def Obligations.EthernetLinks : Prop :=
  ∀ (port : Fin 4) (s : State) dt, let n := port.val
    let u := s.after dt
    let p := u.port n
    let q := ethPage n
    let others := fun (t : State) => ∀ m, m ≠ n → t.port m = u.port m
    u.inReset = false →
      (∀ an (speed : Fin 3), p.link = false → u.ethMode n ≠ 0 → u.enabled q = true → ∃ t, exec (.linkUp port dt an speed) s = .next t ∧
        (t.port n).link = true ∧ (t.port n).speed = (if u.ethMode n = 4 then speed.val else 0) ∧
        ((t.port n).anDone = true ↔ an = true ∧ u.ethMode n = 1 ∧ (u.reg q 0x040).getLsbD 3 = true) ∧ others t ∧
        (t.reg q 0x014).getLsbD 16 = true ∧ (u.ptpRole n = 0 → (t.port n).ps = p.ps) ∧
        (u.ptpRole n ≠ 0 → (t.port n).ps = psLISTENING ∧ (t.port n).parent = 0 ∧ (t.port n).annEl = u.el) ∧
        (u.unicast n = true → u.ptpRole n ≠ 0 → u.ptpRole n ≠ 2 → ∀ e ∈ p.umt, ∃ g ∈ (t.port n).mine, g.who = e.2 ∧ g.typ = 0xB)) ∧
      (p.link = true → ∃ t, exec (.linkDown port dt) s = .next t ∧ (t.port n).link = false ∧ (t.port n).speed = 0 ∧
        (t.port n).foreign = [] ∧ (t.port n).parent = 0 ∧ (t.port n).sync = none ∧ (t.port n).dreq = none ∧ (t.port n).pdreq = none ∧
        (t.port n).ps = (if p.ps = psDISABLED then psDISABLED else psFAULTY) ∧ others t ∧ (t.reg q 0x014).getLsbD 16 = true) ∧
      (∀ speed : Fin 3,
        (u.ethMode n = 4 → p.link = true → p.speed ≠ speed.val → ∃ t, exec (.sgmiiLinkWord port dt speed) s = .next t ∧
          t.port n = { p with speed := speed.val, sync := none, dreq := none, pdreq := none } ∧ others t ∧ t.regs = u.regs) ∧
        (u.ethMode n ≠ 4 ∨ p.link = false ∨ p.speed = speed.val → Ends (.sgmiiLinkWord port dt speed) s u)) ∧
      (∀ ql : Fin 16, p.link = true → ∃ t, exec (.esmcPdu port dt ql) s = .next t ∧
        t.port n = { p with qlRx := ql.val, rxValid := true, qlEl := u.el } ∧ others t ∧
        (p.rxValid = true → p.qlRx = ql.val → t.regs = u.regs) ∧
        (p.rxValid = false ∨ p.qlRx ≠ ql.val → (t.reg q 0x014).getLsbD 20 = true ∧ RegsKept [addr q 0x014] u t)) ∧
      (p.link = true → (u.reg q 0x084).getLsbD 0 = true → p.esmcEl + ofNs 1000000000 ≤ u.el →
        let ql := if u.discAct ≠ 0 ∧ u.disc.st = .locked then u.rf q 0x084 7 4
          else if u.discAct ≠ 0 ∧ u.disc.st = .holdover then u.rf q 0x084 11 8 else u.rf q 0x084 15 12
        ∃ t, exec (.esmcInformation port dt) s = .next t ∧ t.port n = { p with esmcEl := u.el, qlTx := ql } ∧ others t ∧
          t.outbox = .esmc n ql false :: u.outbox ∧ t.regs = u.regs) ∧
      (p.rxValid = true → p.qlEl + ofNs 5000000000 ≤ u.el → ∃ t, exec (.esmcTimeout port dt) s = .next t ∧
        t.port n = { p with rxValid := false } ∧ others t ∧ (t.reg q 0x014).getLsbD 20 = true ∧ RegsKept [addr q 0x014] u t)

/-- PTP messages that arrive (rules R411 to R414, R418, R421, R422, R429): what a port takes, what it measures or answers, in the
encapsulation of its settings, and what goes to the host instead, a message over another transport among it. -/
def Obligations.PtpReceived : Prop :=
  ∀ (port : Fin 4) (h : PtpHdr) (s : State), let n := port.val
    let u := s.after h.dt
    let p := u.port n
    let t2 := u.ingress n h.own
    let corr : Rat := (h.corr : Rat) / 65536
    let asym : Rat := ((u.reg (ethPage n) 0x06C).toInt : Rat) / 1000
    let leaves := fun (c : Instr) (x : EthPort) => ∃ t, exec c s = .next t ∧ t.port n = x ∧ (∀ m, m ≠ n → t.port m = u.port m) ∧
      t.regs = u.regs ∧ t.outbox = u.outbox
    let counts := fun (t21 mpd : Rat) (x : EthPort) =>
      ({ x with offset := t21 - mpd - asym, second := x.second ++ [(t21, (t21 - mpd - asym) / 10 ^ 9, x.pathVar)] } : EthPort)
    let ptp := fun (v : State) (typ seq : Nat) (f : List Int) => Output.ptp n typ seq f (v.ptpVia n typ)
    (u.inReset = false → p.link = true → ((u.reg (ethPage n) 0x040).getLsbD 4 = true → h.vlan = some (u.rf (ethPage n) 0x040 19 8)) →
      h.ver = 2 → h.minor ≤ 1 → h.good = true → h.carrier ≠ fld (u.ptpCfg n) 5 4 → ∀ two origin recv mine a,
      ∀ c ∈ ([.sync port h two origin, .followUp port h origin, .delayReq port h, .delayResp port h mine recv, .announce port h a] : List Instr),
        Ends c s (u.hqRx n t2 h.frame)) ∧
    (s.takesPtp n h →
      (∀ two origin, let t1 := (if two then 0 else (origin : Rat)) + corr
        let y : SyncRx := { src := h.src, seq := h.seq, t2 := t2, wait := two, steps := u.steps, t1 := t1 }
        (p.follows h.src = false → Ends (.sync port h two origin) s (u.hqRx n t2 h.frame)) ∧
        (p.follows h.src = true → two = true ∨ u.p2p n = false ∨ p.paths = [] → leaves (.sync port h two origin) { p with sync := some y }) ∧
        (p.follows h.src = true → two = false → u.p2p n = true → p.paths ≠ [] → u.measures n → 0 ≤ p.path →
          leaves (.sync port h two origin) (counts (t2 - t1) p.path { p with sync := some y }))) ∧
      (∀ origin y, p.sync = some y → y.src = h.src → y.seq = h.seq → y.wait = true → p.follows h.src = true →
        let t1 := y.t1 + (origin : Nat) + corr
        let z := { p with sync := some { y with wait := false, t1 := t1 } }
        (u.p2p n = false ∨ p.paths = [] → leaves (.followUp port h origin) z) ∧
        (u.p2p n = true → p.paths ≠ [] → u.measures n → 0 ≤ p.path → y.steps = u.steps →
          leaves (.followUp port h origin) (counts (y.t2 - t1) p.path z))) ∧
      (p.ps = psMASTER → u.p2p n = false → u.unicast n = false ∨ p.granted h.who 0x9 = true → u.ptpMute = false →
        Ends (.delayReq port h) s (u.emit (ptp u 0x9 h.seq [quarters t2, h.corr, h.src]))) ∧
      (p.ps ≠ psMASTER → Ends (.delayReq port h) s (u.hqRx n t2 h.frame)) ∧
      (∀ recv d y, p.dreq = some d → p.sync = some y → d.seq = h.seq → p.follows h.src = true → y.wait = false → u.p2p n = false →
        u.halted = false → let t21 := y.t2 - y.t1
        let mpd := (t21 + ((recv : Int) / 65536 - d.t3 - corr)) / 2
        let z := { p with dreq := none, paths := (mpd :: p.paths).take 16 }
        (u.measures n → 0 ≤ mpd → y.steps = u.steps → d.steps = u.steps → leaves (.delayResp port h true recv) (counts t21 mpd z)) ∧
        (p.ps = psUNCAL → ∃ t, exec (.delayResp port h true recv) s = .next t ∧ t.port n = { z with ps := psSLAVE } ∧
          t.ptp.slave = some n ∧ (t.reg (ethPage n) 0x014).getLsbD 17 = true ∧ (t.reg 0x094 0x014).getLsbD 16 = true)) ∧
      (∀ turn own, u.p2p n = true → p.ps ≠ psDISABLED → p.ps ≠ psFAULTY → u.halted = false → let v := u.after turn
        let t3 := v.egress n own
        ((u.ptpCfg n).getLsbD 3 = true → Ends (.pdelayReq port h turn own) s
          ((v.emit (ptp v 0x3 h.seq [quarters t2, h.corr, h.src])).emit (ptp v 0xA h.seq [quarters t3, 0, h.src]))) ∧
        ((u.ptpCfg n).getLsbD 3 = false → Ends (.pdelayReq port h turn own) s
          (v.emit (ptp v 0x3 h.seq [0, h.corr + roundFree ((t3 - t2) * 65536), h.src])))) ∧
      (∀ recv q, p.pdreq = some q → q.seq = h.seq → u.p2p n = true →
        leaves (.pdelayResp port h true true recv)
          { p with pdreq := some { q with src := h.src, t4 := some t2, t2p := (recv : Int) / 65536, corr := corr } } ∧
        (u.halted = false → q.steps = u.steps → leaves (.pdelayResp port h true false recv)
          { p with pdreq := none, paths := ((t2 - q.t3 - corr) / 2 :: p.paths).take 16 })) ∧
      (∀ origin q t4, p.pdreq = some q → q.t4 = some t4 → q.seq = h.seq → q.src = h.src → u.halted = false → q.steps = u.steps →
        leaves (.pdelayRespFollowUp port h true origin)
          { p with pdreq := none, paths := ((t4 - q.t3 - ((origin : Int) / 65536 - q.t2p + q.corr + corr)) / 2 :: p.paths).take 16 }) ∧
      (∀ a : AnnIn, p.ps ≠ psDISABLED → p.ps ≠ psFAULTY → h.src / 65536 ≠ u.clockId → u.unicast n = false → a.steps < 255 →
        a.atoi = false → let f : Foreign := { src := h.src, who := h.who, ann := a, lprio := fld (u.ptpCfg n) 31 24, el := u.el }
        ∃ t, exec (.announce port h a) s = .next t ∧ (t.port n).foreign = (p.foreign.filter fun g => g.src != h.src) ++ [f] ∧
          (u.halted = true → ∀ m, (t.port m).ps = (u.port m).ps) ∧
          (u.halted = false → u.ptpRole n ≠ 2 → p.ps = psLISTENING → (∀ m, m < 4 → (u.port m).foreign = []) →
            u.localRank.better (u.rankOf f) = false → 127 < u.localClass.1 → (t.port n).ps = psUNCAL ∧ (t.port n).parent = h.src)))

/-- What a port sends at its intervals (rules R413 to R415, R418, R423): Sync with Follow_Up, Announce, Delay_Req and Pdelay_Req, the
qualification of a master, and the Announce timeout. -/
def Obligations.PtpSent : Prop :=
  ∀ (port : Fin 4) (s : State) dt, let n := port.val
    let u := s.after dt
    let p := u.port n
    let own := fun (t : State) (x : EthPort) => t.port n = x ∧ (∀ m, m ≠ n → t.port m = u.port m) ∧ t.regs = u.regs
    let ptp := fun (typ seq : Nat) (f : List Int) => Output.ptp n typ seq f (u.ptpVia n typ)
    let served := fun (who typ : Nat) => p.uni.map fun g => if g.who = who ∧ g.typ = typ then { g with lastEl := u.el } else g
    u.inReset = false → p.link = true →
      (∀ who lat, let t := u.egress n lat
        let x := { p with syncEl := u.el, seqSync := (p.seqSync + 1) % 65536, uni := served who 0x0 }
        let due := (u.unicast n = false ∧ p.syncEl + logUnits (u.logSync n) ≤ u.el) ∨
          (u.unicast n = true ∧ ∃ g, p.uni.find? (fun g => g.who == who && g.typ == 0x0) = some g ∧ g.lastEl + logUnits g.log2 ≤ u.el)
        (p.ps = psMASTER → u.ptpMute = false → due → ∃ t', exec (.syncInterval port dt who lat) s = .next t' ∧ own t' x ∧
          ((u.ptpCfg n).getLsbD 3 = true →
            t'.outbox = ptp 0x8 p.seqSync [quarters t, 0, who] :: ptp 0x0 p.seqSync [0, 0, who] :: u.outbox) ∧
          ((u.ptpCfg n).getLsbD 3 = false →
            t'.outbox = ptp 0x0 p.seqSync [⌊t⌋, (quarters t - 4 * ⌊t⌋) * 16384, who] :: u.outbox)) ∧
        (p.ps ≠ psMASTER ∨ ¬ due → Ends (.syncInterval port dt who lat) s u)) ∧
      (∀ who, (p.ps = psMASTER → u.ptpMute = false → u.unicast n = false → p.annTxEl + logUnits (u.logAnn n) ≤ u.el →
          ∃ t, exec (.announceInterval port dt who) s = .next t ∧
            own t { p with annTxEl := u.el, seqAnn := (p.seqAnn + 1) % 65536, uni := served who 0xB } ∧
            t.outbox = ptp 0xB p.seqAnn u.annFields :: u.outbox) ∧
        (p.ps = psPREMASTER → u.halted = false → p.qualEl + (u.ptp.steps + 1) * logUnits (u.logAnn n) ≤ u.el →
          ∃ t, exec (.announceInterval port dt who) s = .next t ∧ (t.port n).ps = psMASTER ∧ (t.reg (ethPage n) 0x014).getLsbD 17 = true)) ∧
      (∀ lat, u.halted = false → p.reqEl + logUnits (u.logDreq n) ≤ u.el →
        let r : ReqTx := { seq := p.seqReq, t3 := u.egress n lat, steps := u.steps }
        let x := { p with reqEl := u.el, seqReq := (p.seqReq + 1) % 65536 }
        (u.p2p n = false → p.ps = psSLAVE ∨ p.ps = psUNCAL → ∃ t, exec (.delayReqInterval port dt lat) s = .next t ∧
          own t { x with dreq := some r } ∧ t.outbox = ptp 1 p.seqReq [] :: u.outbox) ∧
        (u.p2p n = true → p.ps ≠ psDISABLED → p.ps ≠ psFAULTY → ∃ t, exec (.delayReqInterval port dt lat) s = .next t ∧
          own t { x with pdreq := some r } ∧ t.outbox = ptp 2 p.seqReq [] :: u.outbox)) ∧
      (u.halted = false → let wait := fld (u.ptpCfg n) 23 20 * logUnits (u.logAnn n)
        (u.el < p.annEl + wait → Ends (.announceTimeout port dt) s u) ∧
        (p.annEl + wait ≤ u.el → p.ps = psLISTENING → p.parent = 0 → u.ptpRole n = 2 →
          ∃ t, exec (.announceTimeout port dt) s = .next t ∧ (t.port n).ps = psMASTER ∧ (t.port n).foreign = []) ∧
        (p.annEl + wait ≤ u.el → p.ps = psSLAVE ∨ p.ps = psUNCAL → p.parent ≠ 0 →
          ∃ t, exec (.announceTimeout port dt) s = .next t ∧ ∀ f ∈ (t.port n).foreign, f ∈ p.foreign ∧ f.src ≠ p.parent))

/-- Unicast negotiation (rules R423, R424, R432): requests granted or denied, grants taken, cancelled and acknowledged, renewed,
repeated and lapsed. -/
def Obligations.UnicastGrants : Prop :=
  (∀ (port : Fin 4) (h : PtpHdr) (s : State), let n := port.val
    let u := s.after h.dt
    let p := u.port n
    let q := ethPage n
    let notOf := fun (typ : Nat) (l : List Grant) => l.filter fun g => !(g.who == h.who && g.typ == typ)
    s.takesPtp n h → u.unicast n = true →
      (u.halted = true → ∀ typ l dur b, Ends (.requestUnicastTransmission port h typ l dur) s u ∧
        Ends (.cancelUnicastTransmission port h typ b) s u ∧ Ends (.acknowledgeCancelUnicastTransmission port h typ b) s u) ∧
      (u.halted = false → ∀ typ,
        (∀ l dur, (u.mayGrant n h.who typ l dur = true → let d := min dur 1000
            let g : Grant := { who := h.who, typ := typ, log2 := l, dur := d, endEl := u.el + ofNs (d * 1000000000) }
            Ends (.requestUnicastTransmission port h typ l dur) s
              ((u.modPort n fun p => { p with uni := notOf typ p.uni ++ [g] }).emit (.ptp n 0xC h.who [5, typ, l, d] (u.ptpVia n 0xC)))) ∧
          (dur < 10 ∨ 4 < l ∨ (p.ps ≠ psMASTER ∧ (p.ps ≠ psPREMASTER ∨ typ ≠ 0xB)) →
            Ends (.requestUnicastTransmission port h typ l dur) s
              (((u.setReg q 0x0CC (cntUp (u.reg q 0x0CC))).irq q 21).emit (.ptp n 0xC h.who [5, typ, l, 0] (u.ptpVia n 0xC))))) ∧
        (∀ l dur, u.ptpRole n ≠ 2 → (∃ e ∈ p.umt, e.2 = h.who) →
          (0 < dur → let g : Grant := { who := h.who, typ := typ, log2 := l, dur := dur, endEl := u.el + ofNs (dur * 1000000000) }
            Ends (.grantUnicastTransmission port h typ l dur) s (u.modPort n fun p => { p with mine := notOf typ p.mine ++ [g] })) ∧
          Ends (.grantUnicastTransmission port h typ l 0) s u) ∧
        (let gone := u.modPort n (fun p => { p with uni := notOf typ p.uni })
         Ends (.cancelUnicastTransmission port h typ false) s (gone.emit (.ptp n 0xC h.who [7, typ] (u.ptpVia n 0xC))) ∧
         Ends (.acknowledgeCancelUnicastTransmission port h typ false) s gone) ∧
        (typ ≠ 0xB → let lost := u.modPort n (fun p => { p with mine := notOf typ p.mine })
          Ends (.cancelUnicastTransmission port h typ true) s (lost.emit (.ptp n 0xC h.who [7, typ] (u.ptpVia n 0xC))) ∧
          Ends (.acknowledgeCancelUnicastTransmission port h typ true) s lost) ∧
        (typ = 0xB → ∀ c, c = .cancelUnicastTransmission port h typ true ∨ c = .acknowledgeCancelUnicastTransmission port h typ true →
          ∃ t, exec c s = .next t ∧ (t.port n).foreign = p.foreign.filter fun f => f.who != h.who))) ∧
  (∀ (port : Fin 4) (s : State) dt who typ, let n := port.val
    let u := s.after dt
    let p := u.port n
    let ask := fun (g : Grant) (tries : Nat) =>
      let now_ := fun (x : Grant) => if x.who = who ∧ x.typ = typ then { x with askEl := some u.el, tries := tries } else x
      let v := u.modPort n fun p => { p with mine := p.mine.map now_ }
      if u.ptpMute then v else v.emit (.ptp n 0xC who [4, typ, g.log2, p.umtDur] (u.ptpVia n 0xC))
    u.inReset = false →
      (∀ g, p.mine.find? (fun g => g.who == who && g.typ == typ) = some g → u.halted = false →
        (p.mine.filter fun g => g.who == who && g.typ == typ).length = 1 →
        (0 < g.dur → g.askEl = none → g.endEl ≤ u.el + ofNs (g.dur * 250000000) → Ends (.grantRenewal port dt who typ) s (ask g 0)) ∧
        (∀ a, g.askEl = some a → g.tries < 3 → a + ofNs 1000000000 ≤ u.el → Ends (.renewalRetry port dt who typ) s (ask g (g.tries + 1))) ∧
        (∀ a, g.askEl = some a → u.el < a + ofNs 1000000000 → Ends (.renewalRetry port dt who typ) s u) ∧
        (typ ≠ 0xB → (0 < g.dur ∧ g.endEl ≤ u.el) ∨ (3 ≤ g.tries ∧ ∃ a, g.askEl = some a ∧ a + ofNs 1000000000 ≤ u.el) →
          Ends (.grantLapse port dt who typ false) s
            (u.modPort n fun p => { p with mine := p.mine.filter fun g => !(g.who == who && g.typ == typ) })) ∧
        (u.el < g.endEl → g.askEl = none → Ends (.grantLapse port dt who typ false) s u)) ∧
      Ends (.grantLapse port dt who typ true) s
        (u.modPort n fun p => { p with uni := p.uni.filter fun g => !(g.who == who && g.typ == typ && decide (g.endEl ≤ u.el)) }))

/-- Host traffic (rules R52, R429 to R431, R433): requests for the port's own address answered in hardware, frames addressed to the port
placed in the receive ring with their stamp or dropped, and frames sent from the transmit ring once no PTP message or ESMC PDU is due. -/
def Obligations.HostQueues : Prop :=
  ∀ (port : Fin 4) (s : State) dt own, let n := port.val
    let u := s.after dt
    let q := ethPage n
    let t := u.ingress n own
    u.inReset = false → (u.port n).link = true →
      (∀ target mac ip l, let ip4 := (u.reg q 0x050).toNat
        (ip4 ≠ 0 → target = ip4 → Ends (.arp port dt own target mac ip l) s (u.emit (.resolve n false (u.macOf n) ip4 mac ip))) ∧
        (ip4 = 0 ∨ target ≠ ip4 → Ends (.arp port dt own target mac ip l) s (u.hqRx n t l)) ∧
        (u.ip6Of n ≠ 0 → target = u.ip6Of n →
          Ends (.neighbourSolicitation port dt own target mac ip l) s (u.emit (.resolve n true (u.macOf n) (u.ip6Of n) mac ip))) ∧
        (u.ip6Of n = 0 ∨ target ≠ u.ip6Of n → Ends (.neighbourSolicitation port dt own target mac ip l) s (u.hqRx n t l))) ∧
      (∀ l, Ends (.hqRx port dt own false l) s (u.countErr q) ∧
        (u.takesFrame n l = false → Ends (.hqRx port dt own true l) s u) ∧
        (u.takesFrame n l = true → let tail := u.rf q 0x0B8 9 0
         let next := (tail + 1) % u.rxqSize n
         let loc := u.hqLoc n
         let base := u.hqSlot n 0x0A4 tail
         (u.hqRun n = false ∨ next = u.rf q 0x0B4 9 0 % u.rxqSize n →
           Ends (.hqRx port dt own true l) s (u.setReg q 0x0C4 (cntUp (u.reg q 0x0C4)))) ∧
         (u.hqRun n = true → next ≠ u.rf q 0x0B4 9 0 % u.rxqSize n → l.length ≤ 2032 →
           ∃ v, exec (.hqRx port dt own true l) s = .next v ∧ v.reg q 0x0B8 = BitVec.ofNat 32 next ∧
             (v.reg q 0x014).getLsbD 18 = true ∧ RegsKept [addr q 0x0B8, addr q 0x014] u v ∧
             (∀ i, i < l.length → v.hqByte loc base (16 + i) = l.getD i 0) ∧
             (v.hqByte loc base 0).toNat + (v.hqByte loc base 1).toNat * 256 = l.length ∧
             (∀ i, i < 14 → v.hqByte loc base (2 + i) = (u.hqStamp 0 t).getD i 0) ∧
             (loc = false → v.exch = u.exch ∧ ∀ w, 4 * w + 4 ≤ base ∨ base + 2048 ≤ 4 * w → v.hm (4 * w) = u.hm (4 * w)) ∧
             (loc = true → v.hostMem = u.hostMem ∧ ∀ a, (∀ j, j < 256 → (base + j) % 0x10000 ≠ a % 0x10000) → v.ex a = u.ex a)))) ∧
      (let head := u.rf q 0x0C0 9 0
       let loc := u.hqLoc n
       let base := u.hqSlot n 0x0AC head
       let len := (u.hqByte loc base 0).toNat + (u.hqByte loc base 1).toNat * 256
       let frame := (List.range len).map fun i => u.hqByte loc base (16 + i)
       let next := BitVec.ofNat 32 ((head + 1) % u.txqSize n)
       let met := if loc then u.meetEx base ((16 + len + 7) / 8) else u
       (u.hqRun n = false ∨ head = u.rf q 0x0BC 9 0 ∨ u.sendsFirst n = true → Ends (.hqTxDone port dt own) s u) ∧
       (u.hqRun n = true → head ≠ u.rf q 0x0BC 9 0 → u.sendsFirst n = false →
         (len < 60 ∨ 1522 < len → ∃ v, exec (.hqTxDone port dt own) s = .next v ∧ v.reg q 0x0C0 = next ∧
           v.reg q 0x024 = cntUp (u.reg q 0x024) ∧ v.hostMem = u.hostMem ∧ v.exch = u.exch) ∧
         (60 ≤ len → len ≤ 1518 ∨ (len ≤ 1522 ∧ frame.getD 12 0 = 0x81 ∧ frame.getD 13 0 = 0x00) →
           ∃ v, exec (.hqTxDone port dt own) s = .next v ∧ v.reg q 0x0C0 = next ∧ (v.reg q 0x014).getLsbD 19 = true ∧
             RegsKept [addr q 0x0C0, addr q 0x014] met v ∧
             v.outbox.filter (fun o => !o.isMessage) = .eth n frame :: u.outbox.filter (fun o => !o.isMessage) ∧
             ((u.hqByte loc base 2).getLsbD 0 = false → v.hostMem = u.hostMem ∧ v.exch = u.exch) ∧
             ((u.hqByte loc base 2).getLsbD 0 = true →
               ∀ i, i < 14 → v.hqByte loc base (2 + i) = (u.hqStamp 1 (u.egress n own)).getD i 0))))

/-- The index and control registers of the rings (rules R125, R126, R146, R263, R337, R353, R430, R611, R612): an index below the ring's
size is taken and what waits for it goes on, one at or above it is refused, and RUN starts and stops a ring. -/
def Obligations.RingIndices : Prop :=
  ∀ s : State,
    (s.hears 0x003 → s.locked 0x003 = false → let n := 2 ^ s.rf 0x003 0x04C 3 0
      let m := 2 ^ s.rf 0x003 0x060 3 0
      (∀ st v, let h := s.hostStores st
        (n ≤ fld v 11 0 → Ends (.sqTail st v) s ((h.capErr 0x003 0x05 0x050).irq 0x003 17)) ∧
        (fld v 11 0 < n → s.cmdRun = false → (∀ e ∈ s.flights, e.wait = false) → ∃ t, exec (.sqTail st v) s = .next t ∧
          t.rf 0x003 0x050 11 0 = fld v 11 0 ∧ t.hostMem = h.hostMem ∧ t.cmd.jrn = s.cmd.jrn ∧ RegsKept [addr 0x003 0x050] s t)) ∧
      (∀ f, s.cmdLoc = false → s.sqFull = false → let tail := s.rf 0x003 0x050 11 0
        let base := s.ringBase 0x003 0x044 0x048 + tail * 64
        base % 4 = 0 → base + 64 ≤ 2 ^ 64 →
        let words := (List.range 16).map fun w => (BitVec.ofNat 64 (base + 4 * w), (cmdWords f 0x0103).getD w 0)
        exec (.sqTail words (BitVec.ofNat 32 ((tail + 1) % n))) s = exec (.handleQuery f) s) ∧
      (∀ v, (m ≤ fld v 11 0 → Ends (.cqHead v) s ((s.capErr 0x003 0x05 0x064).irq 0x003 17)) ∧
        (fld v 11 0 < m → s.noneWaits → ∃ t, exec (.cqHead v) s = .next t ∧ t.rf 0x003 0x064 11 0 = fld v 11 0 ∧
          t.cmd.jrn = s.cmd.jrn ∧ RegsKept [addr 0x003 0x064] s t) ∧
        (∀ ws quiet, fld v 11 0 < m → (∀ e ∈ s.flights, e.wait = false) → s.sqEmpty = true → s.cmd.held = [(ws, quiet)] →
          s.cmdRun = true → let tail := s.rf 0x003 0x068 11 0
          (tail + 1) % m ≠ fld v 11 0 → ∃ t, exec (.cqHead v) s = .next t ∧ t.cmd.held = [] ∧
            t.reg 0x003 0x068 = BitVec.ofNat 32 ((tail + 1) % m) ∧ t.cmd.phase = (if (tail + 1) % m = 0 then !s.cmd.phase else s.cmd.phase) ∧
            (quiet = false → (t.reg 0x003 0x014).getLsbD 16 = true)))) ∧
    (∀ ring : Fin 7, let e := ringCtls.getD ring.val (0, 0)
      s.hears e.1 → s.locked e.1 = false → ∀ v,
        (s.takesRun ring e.1 e.2 v → (ring = 0 → s.noneWaits) → (ring = 1 → s.heldResults = []) →
          ∃ t, exec (.run ring v) s = .next t ∧ t.rf e.1 e.2 0 0 = fld v 0 0 ∧
            RegsKept ([addr e.1 e.2] ++ if ring = 2 then [addr 0x071 0x08C] else []) s t) ∧
        (s.rf e.1 e.2 0 0 = 1 → s.hostSpi = false → fld v 1 1 ≠ s.rf e.1 e.2 1 1 → ring = 0 ∨ ring = 1 →
          Ends (.run ring v) s (s.capErr e.1 0x07 e.2)) ∧
        (s.rf e.1 e.2 0 0 = 0 → v.getLsbD 0 = true → fld v 1 1 = s.rf e.1 e.2 1 1 → ¬ s.basesFit ring e.1 (s.rf e.1 e.2 1 1) →
          ring = 0 ∨ ring = 1 → Ends (.run ring v) s (s.capErr e.1 0x05 e.2))) ∧
    (s.hears 0x043 → s.locked 0x043 = false → ∀ v, let n := 2 ^ s.rf 0x043 0x04C 3 0
      (n ≤ fld v 11 0 → Ends (.rrHead v) s (s.capErr 0x043 0x05 0x050)) ∧
      (fld v 11 0 < n → s.heldResults = [] → ∃ t, exec (.rrHead v) s = .next t ∧ t.rf 0x043 0x050 11 0 = fld v 11 0 ∧
        t.jobs = s.jobs ∧ RegsKept [addr 0x043 0x050] s t) ∧
      (∀ i, fld v 11 0 < n → s.heldResults = [i] → s.ringOn 0x043 0x040 0 1 = true → s.fault.phase ≠ .quenched →
        (s.rf 0x043 0x054 11 0 + 1) % n ≠ fld v 11 0 → ∃ t, exec (.rrHead v) s = .next t ∧ (t.job i).written = some s.heat ∧
          t.reg 0x043 0x054 = BitVec.ofNat 32 ((s.rf 0x043 0x054 11 0 + 1) % n))) ∧
    (s.hears 0x071 → s.locked 0x071 = false → ∀ st v, let n := 2 ^ s.rf 0x071 0x080 6 2
      let h := s.hostStores st
      (n ≤ fld v 19 0 → Ends (.ciTail st v) s (h.capErr 0x071 0x05 0x090)) ∧
      (fld v 19 0 < n → s.ringOn 0x071 0x080 0 1 = false → ∃ t, exec (.ciTail st v) s = .next t ∧
        t.rf 0x071 0x090 19 0 = fld v 19 0 ∧ t.nav = s.nav ∧ t.hostMem = h.hostMem ∧ RegsKept [addr 0x071 0x090] s t) ∧
      (fld v 19 0 < n → s.ringOn 0x071 0x080 0 1 = true → s.rf 0x071 0x080 1 1 = 0 → ∃ t l, exec (.ciTail st v) s = .next t ∧
        t.rf 0x071 0x090 19 0 = fld v 19 0 ∧ t.reg 0x071 0x08C = BitVec.ofNat 32 (fld v 19 0) ∧ t.nav.ciBuf = s.nav.ciBuf ++ l ∧
        l.length = (fld v 19 0 + n - s.ciHead % n) % n ∧
        ∀ i, i < l.length → let a := s.ringBase 0x071 0x084 0x088 + (s.ciHead + i) % n
          l.getD i 0 = BitVec.ofNat 8 ((h.hm a).toNat >>> (8 * (a % 4))))) ∧
    (s.hears 0x070 → s.locked 0x070 = false → ∀ (slot : Fin 64) v, let o := 0x400 + 8 * slot.val
      let n := 2 ^ (((s.subAt slot.val).map fun e => subLog e.2.words).getD 0)
      (n ≤ fld v 19 0 → Ends (.subsHead slot v) s (s.capErr 0x070 0x05 o)) ∧
      (fld v 19 0 < n → ∃ t, exec (.subsHead slot v) s = .next t ∧ t.rf 0x070 o 19 0 = fld v 19 0 ∧ RegsKept [addr 0x070 o] s t ∧
        (s.subAt slot.val = none → t.subs = s.subs) ∧
        ∀ i x, s.subAt slot.val = some (i, x) → (t.sub i).faulted = false ∧ ∀ j, j ≠ i → t.sub j = s.sub j)) ∧
    (∀ port : Fin 4, let p := ethPage port.val
      s.hears p → s.locked p = false → ∀ v,
        (∀ st, let h := s.hostStores st
          (s.txqSize port.val ≤ fld v 9 0 → Ends (.txqTail port st v) s (h.capErr p 0x05 0x0BC)) ∧
          (fld v 9 0 < s.txqSize port.val → ∃ t, exec (.txqTail port st v) s = .next t ∧ t.rf p 0x0BC 9 0 = fld v 9 0 ∧
            t.hostMem = h.hostMem ∧ RegsKept [addr p 0x0BC] s t)) ∧
        (s.rxqSize port.val ≤ fld v 9 0 → Ends (.rxqHead port v) s (s.capErr p 0x05 0x0B4)) ∧
        (fld v 9 0 < s.rxqSize port.val → ∃ t, exec (.rxqHead port v) s = .next t ∧ t.rf p 0x0B4 9 0 = fld v 9 0 ∧
          RegsKept [addr p 0x0B4] s t))

/-- The CASAK pages (rules R441, R445, R473, R474): the doorbell, loading a row of instruction memory, staging and setting a
descriptor, and the clear of CYC_HWM. The loading registers exist for the user cores only. -/
def Obligations.CorePages : Prop :=
  ∀ (k : CoreId) (s : State) v, let p := 0x0A0 + k.val
    let c := s.core k
    let idle := c.st = .stopped ∨ c.st = .halted
    let others := fun (t : State) => ∀ j, j ≠ k.val → t.core j = s.core j
    s.hears p → s.locked p = false →
      (∃ t, exec (.cycHwm k v) s = .next t ∧ t.reg p 0x054 = 0 ∧ RegsKept [addr p 0x054] s t ∧ t.cores = s.cores) ∧
      (k ≠ 6 → k ≠ 7 → exec (.doorbell k v) s = .next s ∧ exec (.loadHi k v) s = .next s ∧ exec (.segSel k v) s = .next s ∧
        exec (.segW2 k v) s = .next s) ∧
      (k = 6 ∨ k = 7 →
        (∃ t, exec (.doorbell k v) s = .next t ∧ RegsKept [addr p 0x05C] s t ∧ others t ∧
          (∀ b, (t.core k).bits.getLsbD b = (decide (b = 0x205) || c.bits.getLsbD b)) ∧ (t.core k).pc = c.pc ∧
          (c.st ≠ .wait ∨ c.bits.getLsbD 0x022 = false ∧ c.wakeBit = none → (t.core k).st = c.st) ∧
          (c.st = .wait → c.bits.getLsbD 0x022 = true → (t.core k).st = .run)) ∧
        (¬ idle → Ends (.loadHi k v) s (s.capErr p 0x07 0x068) ∧ Ends (.segSel k v) s (s.capErr p 0x07 0x06C) ∧
          Ends (.segW2 k v) s (s.capErr p 0x07 0x078)) ∧
        (idle → (let row := s.rf p 0x060 12 0
          ∃ t, exec (.loadHi k v) s = .next t ∧ others t ∧ RegsKept [addr p 0x060, addr p 0x068] s t ∧
            (∀ r, Tab.get (fun _ => 0) (t.core k).iram r =
              if r = row then v ++ s.reg p 0x064 else Tab.get (fun _ => 0) c.iram r) ∧ ({ t.core k with iram := c.iram } : Core) = c ∧
            t.rf p 0x060 12 0 = (row + 1) % 8192 ∧ t.isBad k row = false) ∧
          (let d := (c.sg k (fld v 2 0)).toNat
          ∃ t, exec (.segSel k v) s = .next t ∧ t.cores = s.cores ∧ t.rf p 0x06C 2 0 = fld v 2 0 ∧
            t.reg p 0x070 = BitVec.ofNat 32 d ∧ t.reg p 0x074 = BitVec.ofNat 32 (d / 2 ^ 32) ∧ t.reg p 0x078 = BitVec.ofNat 32 (d / 2 ^ 64) ∧
            RegsKept [addr p 0x06C, addr p 0x070, addr p 0x074, addr p 0x078] s t) ∧
          (let i := s.rf p 0x06C 2 0
          let d : Native := v.extractLsb' 0 8 ++ s.reg p 0x074 ++ s.reg p 0x070
          (descBad k i d = true → Ends (.segW2 k v) s (s.capErr p 0x42 0x078)) ∧
          (descBad k i d = false → ∃ t, exec (.segW2 k v) s = .next t ∧ others t ∧ (t.core k).sg k i = d ∧
            (∀ j, j < 8 → j ≠ i → (t.core k).sg k j = c.sg k j) ∧ ({ t.core k with seg := c.seg } : Core) = c ∧
            RegsKept [addr p 0x078] s t))))
end

