-- ==== Sys2Proof/Laws/Tab.lean ====
section
/-! SUPPORT. The laws of sparse tables: a key reads what was last written there, other keys read as before, and every write
keeps the canonical form. -/

namespace Sys2Proof.Machine

variable {α : Type}

theorem Tab.get_del_ne (d : Nat → α) (t : Tab α) {k j : Nat} (h : j ≠ k) : Tab.get d (Tab.del t k) j = Tab.get d t j := by
  induction t with
  | nil => rfl
  | cons e r ih =>
    obtain ⟨i, v⟩ := e
    simp only [Tab.del] at ih ⊢
    by_cases hk : i = k
    · subst hk; simp [Tab.get, ih, Ne.symm h]
    · simp [Tab.get, hk, ih]

theorem Tab.get_del_same (d : Nat → α) (t : Tab α) (k : Nat) : Tab.get d (Tab.del t k) k = d k := by
  induction t with
  | nil => rfl
  | cons e r ih =>
    obtain ⟨i, v⟩ := e
    simp only [Tab.del] at ih ⊢
    by_cases hk : i = k
    · simp [hk, ih]
    · simp [Tab.get, hk, ih]

theorem Tab.get_put_same (d : Nat → α) (t : Tab α) (k : Nat) (x : α) (h : ∀ e ∈ t, e.1 ≠ k) :
    Tab.get d (Tab.put t k x) k = x := by
  induction t with
  | nil => simp [Tab.put, Tab.get]
  | cons e r ih =>
    obtain ⟨i, v⟩ := e
    have hi : i ≠ k := h (i, v) (by simp)
    by_cases hk : k < i
    · simp [Tab.put, hk, Tab.get]
    · simp [Tab.put, hk, Tab.get, hi, ih fun e he => h e (by simp [he])]

theorem Tab.get_put_ne (d : Nat → α) (t : Tab α) {k j : Nat} (x : α) (h : j ≠ k) :
    Tab.get d (Tab.put t k x) j = Tab.get d t j := by
  induction t with
  | nil => simp [Tab.put, Tab.get, Ne.symm h]
  | cons e r ih =>
    obtain ⟨i, v⟩ := e
    by_cases hk : k < i
    · simp [Tab.put, hk, Tab.get, Ne.symm h]
    · simp [Tab.put, hk, Tab.get, ih]

/-- A key reads what was listed there. -/
@[simp] theorem Tab.get_ins_same (d : Nat → α) (t : Tab α) (k : Nat) (x : α) : Tab.get d (Tab.ins t k x) k = x :=
  Tab.get_put_same d _ k x (by simp [Tab.del])

/-- Another key reads as before. -/
theorem Tab.get_ins_ne (d : Nat → α) (t : Tab α) {k j : Nat} (x : α) (h : j ≠ k) : Tab.get d (Tab.ins t k x) j = Tab.get d t j := by
  rw [Tab.ins, Tab.get_put_ne d _ x h, Tab.get_del_ne d t h]

variable [DecidableEq α]

/-- READ AFTER WRITE: a key reads what was last written there. -/
@[simp] theorem Tab.get_set_same (d : Nat → α) (t : Tab α) (k : Nat) (x : α) : Tab.get d (Tab.set d t k x) k = x := by
  unfold Tab.set
  split
  · next h => rw [Tab.get_del_same, h]
  · simp

/-- A write leaves every other key alone. -/
theorem Tab.get_set_ne (d : Nat → α) (t : Tab α) {k j : Nat} (x : α) (h : j ≠ k) :
    Tab.get d (Tab.set d t k x) j = Tab.get d t j := by
  unfold Tab.set
  split
  · exact Tab.get_del_ne d t h
  · exact Tab.get_ins_ne d t x h

/-- Both at once. -/
theorem Tab.get_set (d : Nat → α) (t : Tab α) (k j : Nat) (x : α) :
    Tab.get d (Tab.set d t k x) j = if j = k then x else Tab.get d t j := by
  split
  · next h => subst h; simp
  · next h => exact Tab.get_set_ne d t x h

theorem Tab.wfFrom_le (d : Nat → α) {a b : Nat} {t : Tab α} (h : Tab.wfFrom d b t = true) (hab : a ≤ b) :
    Tab.wfFrom d a t = true := by
  cases t with
  | nil => rfl
  | cons e r =>
    obtain ⟨i, v⟩ := e
    simp only [Tab.wfFrom, Bool.and_eq_true, decide_eq_true_eq] at h ⊢
    exact ⟨⟨by omega, h.1.2⟩, h.2⟩

theorem Tab.wfFrom_lt (d : Nat → α) {b : Nat} {t : Tab α} (h : Tab.wfFrom d b t = true) : ∀ e ∈ t, b ≤ e.1 := by
  induction t generalizing b with
  | nil => simp
  | cons e r ih =>
    obtain ⟨i, v⟩ := e
    simp only [Tab.wfFrom, Bool.and_eq_true, decide_eq_true_eq] at h
    intro e he
    rcases List.mem_cons.mp he with rfl | he
    · exact h.1.1
    · have := ih h.2 e he; omega

theorem Tab.del_above (d : Nat → α) {b k : Nat} {t : Tab α} (h : Tab.wfFrom d b t = true) (hk : k < b) : Tab.del t k = t := by
  unfold Tab.del
  rw [List.filter_eq_self]
  intro e he
  have := Tab.wfFrom_lt d h e he
  simp; omega

theorem Tab.wfFrom_del (d : Nat → α) {b : Nat} {t : Tab α} (k : Nat) (h : Tab.wfFrom d b t = true) :
    Tab.wfFrom d b (Tab.del t k) = true := by
  induction t generalizing b with
  | nil => rfl
  | cons e r ih =>
    obtain ⟨i, v⟩ := e
    simp only [Tab.wfFrom, Bool.and_eq_true, decide_eq_true_eq] at h
    by_cases hk : i = k
    · have : Tab.del ((i, v) :: r) k = Tab.del r k := by simp [Tab.del, hk]
      rw [this]
      exact Tab.wfFrom_le d (ih h.2) (by omega)
    · have : Tab.del ((i, v) :: r) k = (i, v) :: Tab.del r k := by simp [Tab.del, hk]
      rw [this]
      simp only [Tab.wfFrom, Bool.and_eq_true, decide_eq_true_eq]
      exact ⟨h.1, ih h.2⟩

theorem Tab.wfFrom_put (d : Nat → α) {b : Nat} {t : Tab α} (k : Nat) (x : α) (hx : x ≠ d k) (hb : b ≤ k)
    (h : Tab.wfFrom d b t = true) (hn : ∀ e ∈ t, e.1 ≠ k) : Tab.wfFrom d b (Tab.put t k x) = true := by
  induction t generalizing b with
  | nil => simp [Tab.put, Tab.wfFrom, hb, hx]
  | cons e r ih =>
    obtain ⟨i, v⟩ := e
    have hi : i ≠ k := hn (i, v) (by simp)
    simp only [Tab.wfFrom, Bool.and_eq_true, decide_eq_true_eq] at h
    by_cases hk : k < i
    · simp only [Tab.put, hk, if_true, Tab.wfFrom, Bool.and_eq_true, decide_eq_true_eq]
      exact ⟨⟨hb, hx⟩, ⟨by omega, h.1.2⟩, h.2⟩
    · simp only [Tab.put, hk, if_false, Tab.wfFrom, Bool.and_eq_true, decide_eq_true_eq]
      exact ⟨h.1, ih (by omega) h.2 fun e he => hn e (by simp [he])⟩

/-- Every write keeps the canonical form. -/
theorem Tab.wf_set (d : Nat → α) {t : Tab α} (k : Nat) (x : α) (h : Tab.wf d t = true) : Tab.wf d (Tab.set d t k x) = true := by
  unfold Tab.wf at *
  unfold Tab.set
  split
  · exact Tab.wfFrom_del d k h
  · next hx => exact Tab.wfFrom_put d k x hx (by omega) (Tab.wfFrom_del d k h) (by simp [Tab.del])

end Sys2Proof.Machine
end

