-- ==== Sys2Proof/Laws/Casak.lean ====
section
/-! SUPPORT. The laws of the Casak cores' shared operations: what reading a register, accumulator or bit gives after each write of
one, and what the frame in which every instruction issues leaves. -/

namespace Sys2Proof.Machine

/-! ## Cores in the state -/

@[simp] theorem State.core_setCore_same (s : State) (k : Nat) (c : Core) : (s.setCore k c).core k = c := by
  simp [State.core, State.setCore]

theorem State.core_setCore_ne (s : State) {k j : Nat} (c : Core) (h : j ≠ k) : (s.setCore k c).core j = s.core j := by
  simp [State.core, State.setCore, Tab.get_set_ne _ _ _ h]

@[simp] theorem State.core_modCore_same (s : State) (k : Nat) (f : Core → Core) : (s.modCore k f).core k = f (s.core k) := by
  simp [State.modCore]

theorem State.core_modCore_ne (s : State) {k j : Nat} (f : Core → Core) (h : j ≠ k) : (s.modCore k f).core j = s.core j :=
  s.core_setCore_ne _ h

@[simp] theorem State.setCore_regs (s : State) (k : Nat) (c : Core) : (s.setCore k c).regs = s.regs := rfl
@[simp] theorem State.modCore_regs (s : State) (k : Nat) (f : Core → Core) : (s.modCore k f).regs = s.regs := rfl
@[simp] theorem State.setCore_bad (s : State) (k : Nat) (c : Core) : (s.setCore k c).bad = s.bad := rfl
@[simp] theorem State.modCore_bad (s : State) (k : Nat) (f : Core → Core) : (s.modCore k f).bad = s.bad := rfl
@[simp] theorem State.setCore_freeCtr (s : State) (k : Nat) (c : Core) : (s.setCore k c).freeCtr = s.freeCtr := rfl
@[simp] theorem State.modCore_freeCtr (s : State) (k : Nat) (f : Core → Core) : (s.modCore k f).freeCtr = s.freeCtr := rfl
@[simp] theorem State.modCore_measRam (s : State) (k : Nat) (f : Core → Core) : (s.modCore k f).measRam = s.measRam := rfl
@[simp] theorem State.modCore_exch (s : State) (k : Nat) (f : Core → Core) : (s.modCore k f).exch = s.exch := rfl

/-! ## Registers, accumulators and bits -/

@[simp] theorem Core.dr_setD_same (c : Core) (n : BitVec 4) (v : Native) : (c.setD n v).dr n = v := by
  simp [Core.dr, Core.setD]

theorem Core.dr_setD_ne (c : Core) {n m : BitVec 4} (v : Native) (h : m ≠ n) : (c.setD n v).dr m = c.dr m := by
  have : m.toNat ≠ n.toNat := fun e => h (BitVec.eq_of_toNat_eq e)
  simp [Core.dr, Core.setD, Tab.get_set_ne _ _ _ this]

theorem Core.ar_setA_ne (c : Core) {n m : Nat} (v : BitVec 27) (h : m ≠ n) : (c.setA n v).ar m = c.ar m := by
  simp [Core.ar, Core.setA, Tab.get_set_ne _ _ _ h]

/-- What an address register reads after a write: A7 keeps its segment (rule R438). -/
theorem Core.ar_setA_same (c : Core) (n : Nat) (v : BitVec 27) :
    (c.setA n v).ar n = if n = 7 then (v &&& 0x0FFFFFF#27) ||| 0x7000000#27 else v := by
  simp [Core.ar, Core.setA]

@[simp] theorem Core.ac_setAc_same (c : Core) (n : Nat) (a : AccReg) : (c.setAc n a).ac n = a := by
  simp [Core.ac, Core.setAc]

theorem Core.ac_setAc_ne (c : Core) {n m : Nat} (a : AccReg) (h : m ≠ n) : (c.setAc n a).ac m = c.ac m := by
  simp [Core.ac, Core.setAc, Tab.get_set_ne _ _ _ h]

@[simp] theorem Core.sg_setSg_same (c : Core) (k n : Nat) (v : Native) : (c.setSg k n v).sg k n = v := by
  simp [Core.sg, Core.setSg]

theorem Core.sg_setSg_ne (c : Core) (k : Nat) {n m : Nat} (v : Native) (h : m ≠ n) : (c.setSg k n v).sg k m = c.sg k m := by
  simp [Core.sg, Core.setSg, Tab.get_set_ne _ _ _ h]

theorem at4096_getLsbD (b i : Nat) : (at4096 b 1).getLsbD i = (decide (i < 4096) && decide (i = b)) := by
  have h1 : Nat.testBit 1 (i - b) = decide (i - b = 0) := by
    have := Nat.testBit_two_pow (n := 0) (m := i - b)
    simpa [eq_comm] using this
  simp only [at4096, BitVec.getLsbD_ofNat, Nat.testBit_shiftLeft, h1]
  by_cases h : i < 4096
  · by_cases hb : i = b
    · simp [hb]
    · simp [hb]; omega
  · simp [h]

/-- What a stored bit variable reads after hardware writes one (rule R441). -/
theorem Core.bits_hwBit (c : Core) (b i : Nat) (v : Bool) (hb : b < 4096) :
    (c.hwBit b v).bits.getLsbD i = if i = b then v else c.bits.getLsbD i := by
  unfold Core.hwBit
  by_cases hi : i < 4096
  · cases v
    · by_cases h : i = b
      · simp [at4096_getLsbD, h]
      · simp only [Bool.false_eq_true, if_false, BitVec.getLsbD_and, BitVec.getLsbD_not, at4096_getLsbD, h, hi]; simp
    · by_cases h : i = b
      · simp [at4096_getLsbD, h, hb]
      · simp [at4096_getLsbD, h]
  · have h1 : i ≠ b := by omega
    simp only [h1, if_false]
    rw [BitVec.getLsbD_of_ge _ _ (by omega), BitVec.getLsbD_of_ge _ _ (by omega)]

section projections
variable (c : Core) (n : BitVec 4) (v : Native) (m : Nat) (a : BitVec 27) (r : AccReg) (b : Nat) (o : Bool)

@[simp] theorem Core.ar_setD : (c.setD n v).ar m = c.ar m := rfl
@[simp] theorem Core.ac_setD : (c.setD n v).ac m = c.ac m := rfl
@[simp] theorem Core.bits_setD : (c.setD n v).bits = c.bits := rfl
@[simp] theorem Core.dr_setA : (c.setA m a).dr n = c.dr n := rfl
@[simp] theorem Core.ac_setA {j : Nat} : (c.setA m a).ac j = c.ac j := rfl
@[simp] theorem Core.bits_setA : (c.setA m a).bits = c.bits := rfl
@[simp] theorem Core.dr_setAc : (c.setAc m r).dr n = c.dr n := rfl
@[simp] theorem Core.ar_setAc {j : Nat} : (c.setAc m r).ar j = c.ar j := rfl
@[simp] theorem Core.bits_setAc : (c.setAc m r).bits = c.bits := rfl
@[simp] theorem Core.dr_hwBit : (c.hwBit b o).dr n = c.dr n := rfl
@[simp] theorem Core.ar_hwBit : (c.hwBit b o).ar m = c.ar m := rfl
@[simp] theorem Core.ac_hwBit : (c.hwBit b o).ac m = c.ac m := rfl
@[simp] theorem Core.sg_hwBit {k : Nat} : (c.hwBit b o).sg k m = c.sg k m := rfl
@[simp] theorem Core.sg_setA {k j : Nat} : (c.setA m a).sg k j = c.sg k j := rfl
end projections

/-! ## What an instruction body leaves alone -/

/-- Of a core, what no body that only computes touches: program counter, repeat, slot, memories and segments, the host's stop. -/
def Core.rest (c : Core) : Core := { c with d := [], a := [], acc := [], bits := 0 }

@[simp] theorem Core.rest_setD (c : Core) (n : BitVec 4) (v : Native) : (c.setD n v).rest = c.rest := rfl
@[simp] theorem Core.rest_setA (c : Core) (n : Nat) (v : BitVec 27) : (c.setA n v).rest = c.rest := rfl
@[simp] theorem Core.rest_setAc (c : Core) (n : Nat) (a : AccReg) : (c.setAc n a).rest = c.rest := rfl
@[simp] theorem Core.rest_hwBit (c : Core) (b : Nat) (o : Bool) : (c.hwBit b o).rest = c.rest := rfl
@[simp] theorem Core.rest_noteOvf (c : Core) (w : Nat) (r : Int) : (c.noteOvf w r).rest = c.rest := by
  unfold Core.noteOvf; split <;> rfl
@[simp] theorem Core.rest_writeBit (c : Core) (b : Nat) (o : Bool) : (c.writeBit b o).rest = c.rest := by
  unfold Core.writeBit; split
  · rfl
  · split <;> rfl
@[simp] theorem Core.rest_putSz (c : Core) (sz : BitVec 2) (dd : BitVec 4) (x : Nat) : (c.putSz sz dd x).rest = c.rest := rfl
@[simp] theorem Core.rest_arith (c : Core) (a : Alu) (sat : Bool) (op : Int → Int → Int) : (c.arith a sat op).rest = c.rest := by
  simp [Core.arith]
@[simp] theorem Core.rest_logic (c : Core) (a : Alu) (op : Nat → Nat → Nat) : (c.logic a op).rest = c.rest := rfl
@[simp] theorem Core.rest_shift (c : Core) (a : Alu) (n : Nat) (op : Nat → Nat → Nat → Nat) : (c.shift a n op).rest = c.rest := rfl
theorem Core.rest_setAcSov (c : Core) (n b : Nat) (a : AccReg) (p : Prop) [Decidable p] :
    (if p then c.setAc n a else (c.setAc n a).hwBit b true).rest = c.rest := by
  split <;> rfl
@[simp] theorem Core.rest_putReal (c : Core) (n : Nat) (r : Int) : (c.putReal n r).rest = c.rest := by
  unfold Core.putReal; exact Core.rest_setAcSov ..
@[simp] theorem Core.rest_putCplx (c : Core) (n : Nat) (re im : Int) : (c.putCplx n re im).rest = c.rest := by
  unfold Core.putCplx; exact Core.rest_setAcSov ..
theorem Core.rest_writeBits (c : Core) (b n x : Nat) : (c.writeBits b n x).rest = c.rest := by
  unfold Core.writeBits
  generalize List.range n = l
  induction l generalizing c with
  | nil => simp only [List.foldl]
  | cons i l ih => rw [List.foldl, ih, Core.rest_writeBit]

/-- What cores of equal rest agree in. -/
theorem Core.rest_eq {c d : Core} (h : c.rest = d.rest) :
    (c.user = d.user ∧ c.heatNo = d.heatNo ∧ c.trigK = d.trigK ∧ c.trigH = d.trigH ∧ c.iram = d.iram) ∧
    (c.seg = d.seg ∧ c.x = d.x ∧ c.y = d.y) ∧ (c.pc = d.pc ∧ c.slot = d.slot ∧ c.lc = d.lc ∧ c.repAct = d.repAct) ∧
    (c.st = d.st ∧ c.stopReq = d.stopReq) := by
  have p {α : Type} (f : Core → α) (hf : ∀ c : Core, f c.rest = f c) : f c = f d := by rw [← hf c, h, hf d]
  exact ⟨⟨p _ fun _ => rfl, p _ fun _ => rfl, p _ fun _ => rfl, p _ fun _ => rfl, p _ fun _ => rfl⟩,
    ⟨p _ fun _ => rfl, p _ fun _ => rfl, p _ fun _ => rfl⟩,
    ⟨p _ fun _ => rfl, p _ fun _ => rfl, p _ fun _ => rfl, p _ fun _ => rfl⟩, ⟨p _ fun _ => rfl, p _ fun _ => rfl⟩⟩

/-- The core as it issues, after the stall on the resources it uses (rules R488, R489). -/
def Core.stalled (c : Core) (uses : List Nat) : Core := { c with cyc := c.cyc + c.stall uses, clk := c.clk + c.stall uses }

@[simp] theorem Core.dr_stalled (c : Core) (u : List Nat) (n : BitVec 4) : (c.stalled u).dr n = c.dr n := rfl
@[simp] theorem Core.ar_stalled (c : Core) (u : List Nat) (n : Nat) : (c.stalled u).ar n = c.ar n := rfl
@[simp] theorem Core.ac_stalled (c : Core) (u : List Nat) (n : Nat) : (c.stalled u).ac n = c.ac n := rfl
@[simp] theorem Core.sg_stalled (c : Core) (u : List Nat) (k n : Nat) : (c.stalled u).sg k n = c.sg k n := rfl
@[simp] theorem Core.bits_stalled (c : Core) (u : List Nat) : (c.stalled u).bits = c.bits := rfl

/-- The core once an instruction's own effect is done: results noted, cycles counted, and the program counter where it goes. -/
def Core.finish (c : Core) (t : Nat) (q : Issue) : Core :=
  ({ c.produce t q.outs with cyc := c.cyc + q.cyc, clk := c.clk + q.cyc } : Core).goOn q.len

/-! ## The frame in which every instruction issues -/

/-- A ready core's instruction of at most four bytes lies in rows of instruction RAM without a bad word (rule R54). -/
theorem State.ready.rows {s : State} {k : Nat} (h : s.ready k) {len : Nat} (hl : len ≤ 4) :
    (s.isBad k ((s.core k).pc.toNat / 8) || s.isBad k (((s.core k).pc + BitVec.ofNat 16 (len - 1)).toNat / 8)) = false := by
  rw [Bool.or_eq_false_iff]
  exact ⟨by simpa using h.2.1 0 (by omega), h.2.1 (len - 1) (by omega)⟩

/-- WHAT ISSUING DOES where nothing stands in its way: the stall is counted, the body runs, and its outcome is carried on. -/
theorem State.issue_ready {s : State} {k : Nat} {q : Issue} {body : State → Eff} (h : s.ready k) (hl : q.len ≤ 4) (hb : q.bad = false)
    (hc : q.ctl = true → (s.core k).slot = .no ∧ (s.core k).repAct = false)
    (hr : q.noRep = true → (s.core k).repAct = false) :
    s.issue k q body =
      (let s1 := s.setCore k ((s.core k).stalled q.uses)
       let t := (s1.core k).clk
       let fin := fun (c : Core) => ({ c.produce t q.outs with cyc := c.cyc + q.cyc, clk := c.clk + q.cyc } : Core)
       match body s1 with
       | .seq s2 => (s2.modCore k fun c => (fin c).goOn q.len).stopIfDue k
       | .own s2 => (s2.modCore k fin).stopIfDue k
       | .branch s2 tgt =>
         (s2.modCore k fun c =>
           let c1 := fin c
           { c1 with pc := c1.pc + BitVec.ofNat 16 q.len, slot := match tgt with | some a => .to a | none => .fall })
       | .fault v code => (s1.takeFault k v code q.len).stopIfDue k
       | .trap s2 v code =>
         let s3 := s2.modCore k fun c => (fin c).goOn q.len
         (s3.enterExc k v code (s3.core k).pc 0 false).stopIfDue k) := by
  have h2 := h.rows hl
  obtain ⟨h1, -, h3⟩ := h
  have h4 : (q.ctl && (decide ((s.core k).slot ≠ Slot.no) || (s.core k).repAct)) = false := by
    cases hq : q.ctl with
    | false => rfl
    | true => obtain ⟨ha, hb⟩ := hc hq; simp [ha, hb]
  have h5 : (q.noRep && (s.core k).repAct) = false := by
    cases hq : q.noRep with
    | false => rfl
    | true => simp [hr hq]
  unfold State.issue
  simp only [h1, h2, h3, hb, h4, h5, Bool.or_false, Bool.false_eq_true, if_false, reduceCtorEq]
  rfl

/-- The core with an instruction's results noted and its cycles counted, where it goes on by itself. -/
def Core.issued (c : Core) (t : Nat) (q : Issue) : Core :=
  { c.produce t q.outs with cyc := c.cyc + q.cyc, clk := c.clk + q.cyc }

/-- The core as it is when its instruction issues, in the state. -/
def State.stalled (s : State) (k : Nat) (q : Issue) : State := s.setCore k ((s.core k).stalled q.uses)

@[simp] theorem State.core_stalled (s : State) (k : Nat) (q : Issue) : (s.stalled k q).core k = (s.core k).stalled q.uses := by
  simp [State.stalled]

section outcomes
variable {s : State} {k : Nat} {q : Issue} {body : State → Eff}

/-- Issuing with an effect that completes. -/
theorem State.issue_seq {s2 : State} (h : s.ready k) (hl : q.len ≤ 4) (hb : q.bad = false)
    (hc : q.ctl = true → (s.core k).slot = .no ∧ (s.core k).repAct = false) (hr : q.noRep = true → (s.core k).repAct = false)
    (hs : body (s.stalled k q) = .seq s2) :
    s.issue k q body = (s2.modCore k fun c => c.finish ((s.core k).stalled q.uses).clk q).stopIfDue k := by
  rw [State.issue_ready h hl hb hc hr]
  have e : body (s.setCore k ((s.core k).stalled q.uses)) = .seq s2 := hs
  simp only [e, State.core_setCore_same]
  rfl

/-- Issuing with an effect that sets where the core goes on. -/
theorem State.issue_own {s2 : State} (h : s.ready k) (hl : q.len ≤ 4) (hb : q.bad = false)
    (hc : q.ctl = true → (s.core k).slot = .no ∧ (s.core k).repAct = false) (hr : q.noRep = true → (s.core k).repAct = false)
    (hs : body (s.stalled k q) = .own s2) :
    s.issue k q body = (s2.modCore k fun c => c.issued ((s.core k).stalled q.uses).clk q).stopIfDue k := by
  rw [State.issue_ready h hl hb hc hr]
  have e : body (s.setCore k ((s.core k).stalled q.uses)) = .own s2 := hs
  simp only [e, State.core_setCore_same]
  rfl

/-- The delay slot that a branch opens. -/
def slotAfter : Option (BitVec 16) → Slot
  | some a => .to a
  | none => .fall

/-- Issuing a branch: its delay slot opens. -/
theorem State.issue_branch {s2 : State} {tgt : Option (BitVec 16)} (h : s.ready k) (hl : q.len ≤ 4) (hb : q.bad = false)
    (hc : q.ctl = true → (s.core k).slot = .no ∧ (s.core k).repAct = false) (hr : q.noRep = true → (s.core k).repAct = false)
    (hs : body (s.stalled k q) = .branch s2 tgt) :
    s.issue k q body = s2.modCore k fun c =>
      { c.issued ((s.core k).stalled q.uses).clk q with
        pc := c.pc + BitVec.ofNat 16 q.len, slot := slotAfter tgt } := by
  rw [State.issue_ready h hl hb hc hr]
  have e : body (s.setCore k ((s.core k).stalled q.uses)) = .branch s2 tgt := hs
  simp only [e, State.core_setCore_same]
  cases tgt <;> rfl

/-- Issuing an instruction that faults: it has no effect, and the exception is taken. -/
theorem State.issue_fault {v code : Nat} (h : s.ready k) (hl : q.len ≤ 4) (hb : q.bad = false)
    (hc : q.ctl = true → (s.core k).slot = .no ∧ (s.core k).repAct = false) (hr : q.noRep = true → (s.core k).repAct = false)
    (hs : body (s.stalled k q) = .fault v code) :
    s.issue k q body = ((s.stalled k q).takeFault k v code q.len).stopIfDue k := by
  rw [State.issue_ready h hl hb hc hr]
  have e : body (s.setCore k ((s.core k).stalled q.uses)) = .fault v code := hs
  simp only [e]
  rfl

/-- Issuing an instruction that completes and then traps. -/
theorem State.issue_trap {s2 : State} {v code : Nat} (h : s.ready k) (hl : q.len ≤ 4) (hb : q.bad = false)
    (hc : q.ctl = true → (s.core k).slot = .no ∧ (s.core k).repAct = false) (hr : q.noRep = true → (s.core k).repAct = false)
    (hs : body (s.stalled k q) = .trap s2 v code) :
    s.issue k q body =
      (let s3 := s2.modCore k fun c => c.finish ((s.core k).stalled q.uses).clk q
       (s3.enterExc k v code (s3.core k).pc 0 false).stopIfDue k) := by
  rw [State.issue_ready h hl hb hc hr]
  have e : body (s.setCore k ((s.core k).stalled q.uses)) = .trap s2 v code := hs
  simp only [e, State.core_setCore_same]
  rfl

/-- Issuing what is illegal: a bad form, a control instruction in a delay slot or under a repeat, or one that may not be repeated. -/
theorem State.issue_illegal (h : s.ready k) (hl : q.len ≤ 4)
    (hb : q.bad = true ∨ (q.ctl = true ∧ ((s.core k).slot ≠ .no ∨ (s.core k).repAct = true)) ∨
      (q.noRep = true ∧ (s.core k).repAct = true)) :
    s.issue k q body = (s.takeFault k vILLEGAL 0 q.len).stopIfDue k := by
  have h2 := h.rows hl
  obtain ⟨h1, -, h3⟩ := h
  have h4 : (q.bad || (q.ctl && (decide ((s.core k).slot ≠ Slot.no) || (s.core k).repAct)) || (q.noRep && (s.core k).repAct)) = true := by
    rcases hb with hb | ⟨hb, hs | hs⟩ | ⟨hb, hs⟩
    · simp [hb]
    · simp [hb, hs]
    · simp [hb, hs]
    · simp [hb, hs]
  unfold State.issue
  simp only [h1, h2, h3, h4, Bool.false_eq_true, if_false, if_true, reduceCtorEq]
end outcomes

/-- A core that waits for the host's stop may stop; all else is as it was. -/
theorem State.stopIfDue_core (s : State) (k : Nat) :
    ∃ st sr, (s.stopIfDue k).core k = { s.core k with st := st, stopReq := sr } ∧
      ((s.core k).stopReq = false → st = (s.core k).st) ∧ Outside k s (s.stopIfDue k) := by
  unfold State.stopIfDue
  simp only
  split
  · next h =>
    refine ⟨.stopped, false, ?_, ?_, ?_, ?_, ?_⟩
    · show (s.setCore k _).core k = _
      rw [State.core_setCore_same]
    · intro hn; simp [hn] at h
    · intro j hj
      show (s.setCore k _).core j = _
      exact s.core_setCore_ne _ hj
    · intro p o ho
      show Tab.get regReset (Tab.set _ _ _ _) _ = _
      rw [Tab.get_set_ne _ _ _ ho]; rfl
    · rfl
  · exact ⟨(s.core k).st, (s.core k).stopReq, rfl, fun _ => rfl, fun _ _ => rfl, fun _ _ _ => rfl, rfl⟩

theorem Core.goOn_fields (c : Core) (len : Nat) :
    ∃ pc slot lc ra rn rf, c.goOn len = { c with pc := pc, slot := slot, lc := lc, repAct := ra, repN := rn, repFirst := rf } := by
  unfold Core.goOn
  split
  · exact ⟨_, _, _, _, _, _, rfl⟩
  · exact ⟨_, _, _, _, _, _, rfl⟩
  · split
    · split <;> exact ⟨_, _, _, _, _, _, rfl⟩
    · exact ⟨_, _, _, _, _, _, rfl⟩

/-- Where the core goes on (rules R453, R455, R457). -/
theorem Core.goOn_next (c : Core) (len : Nat) : NextPc c (c.goOn len) len := by
  unfold NextPc Core.goOn
  rcases hs : c.slot with _ | _ | a
  · cases hr : c.repAct with
    | false => simp
    | true =>
      by_cases h1 : c.lc = 1
      · simp [h1]
      · have : c.lc - 1#16 ≠ 0#16 := by
          intro h; apply h1; bv_omega
        simp [this, show ¬ c.lc = 1#16 from h1]
  · simp
  · simp

theorem Outside.refl (k : Nat) (s : State) : Outside k s s := ⟨fun _ _ => rfl, fun _ _ _ => rfl, rfl⟩

theorem Outside.trans {k : Nat} {s t u : State} (h : Outside k s t) (g : Outside k t u) : Outside k s u := by
  refine ⟨fun j hj => (g.1 j hj).trans (h.1 j hj), fun p o ho => (g.2.1 p o ho).trans (h.2.1 p o ho), ?_⟩
  have h1 := h.2.2
  have h2 := g.2.2
  rw [← h1, ← h2]

theorem Outside.setCore (s : State) (k : Nat) (c : Core) : Outside k s (s.setCore k c) :=
  ⟨fun _ hj => s.core_setCore_ne c hj, fun _ _ _ => rfl, rfl⟩

/-- What NextPc says of a core it says of one that agrees with it in the program counter, slot and repeat. -/
theorem NextPc.congr {c c' d d' : Core} {len : Nat} (h : NextPc c c' len)
    (h1 : d.pc = c.pc ∧ d.slot = c.slot ∧ d.lc = c.lc ∧ d.repAct = c.repAct)
    (h2 : d'.pc = c'.pc ∧ d'.slot = c'.slot ∧ d'.lc = c'.lc ∧ d'.repAct = c'.repAct) : NextPc d d' len := by
  unfold NextPc
  rw [h1.1, h1.2.1, h1.2.2.1, h1.2.2.2, h2.1, h2.2.1, h2.2.2.1, h2.2.2.2]
  exact h

/-- What a core keeps of another while an instruction is finished: all but the cycle counts, the results noted, where it goes on
and a stop that was due. -/
def SameWork (b c' : Core) : Prop :=
  (∀ n, c'.dr n = b.dr n) ∧ (∀ n, c'.ar n = b.ar n) ∧ (∀ n, c'.ac n = b.ac n) ∧ c'.bits = b.bits ∧
  (c'.user = b.user ∧ c'.heatNo = b.heatNo ∧ c'.trigK = b.trigK ∧ c'.trigH = b.trigH ∧ c'.iram = b.iram ∧
    (b.stopReq = false → c'.st = b.st)) ∧ SegXY b c'

/-- FINISHING AN INSTRUCTION (rules R453 to R457, R470): the work of its body stays, the core goes on, nothing else changes. -/
theorem State.finish_spec (s : State) (k t : Nat) (q : Issue) :
    let u := (s.modCore k fun c => c.finish t q).stopIfDue k
    SameWork (s.core k) (u.core k) ∧ NextPc (s.core k) (u.core k) q.len ∧ Outside k s u := by
  intro u
  let b := s.core k
  obtain ⟨st, sr, h1, h2, h3⟩ := State.stopIfDue_core (s.modCore k fun c => c.finish t q) k
  rw [State.core_modCore_same] at h1 h2
  have hc' : u.core k = { b.finish t q with st := st, stopReq := sr } := h1
  have hn : NextPc _ _ q.len := Core.goOn_next
    ({ b.produce t q.outs with cyc := b.cyc + q.cyc, clk := b.clk + q.cyc } : Core) q.len
  obtain ⟨pc, slot, lc, ra, rn, rf, hg⟩ := Core.goOn_fields
    ({ b.produce t q.outs with cyc := b.cyc + q.cyc, clk := b.clk + q.cyc } : Core) q.len
  have hfin : b.finish t q = _ := hg
  refine ⟨⟨fun n => ?_, fun n => ?_, fun n => ?_, ?_, ⟨?_, ?_, ?_, ?_, ?_, ?_⟩, ⟨?_, ?_, ?_⟩⟩, ?_, ?_⟩
  · rw [hc', hfin]; rfl
  · rw [hc', hfin]; rfl
  · rw [hc', hfin]; rfl
  · rw [hc', hfin]; rfl
  · rw [hc', hfin]; rfl
  · rw [hc', hfin]; rfl
  · rw [hc', hfin]; rfl
  · rw [hc', hfin]; rfl
  · rw [hc', hfin]; rfl
  · intro hs
    rw [hc']
    show st = b.st
    exact (h2 (by show (b.finish t q).stopReq = _; rw [hfin]; exact hs)).trans (by show (b.finish t q).st = _; rw [hfin]; rfl)
  · rw [hc', hfin]; rfl
  · rw [hc', hfin]; rfl
  · rw [hc', hfin]; rfl
  · refine hn.congr ⟨rfl, rfl, rfl, rfl⟩ ?_
    rw [hc']
    exact ⟨rfl, rfl, rfl, rfl⟩
  · exact (Outside.setCore s k _).trans h3

/-- WHAT AN INSTRUCTION THAT ONLY COMPUTES ON ITS CORE LEAVES: registers, accumulators and bits as its body gives them, the rest of
the core but cycle counts as it was, the program counter where it goes on, and nothing else changed. -/
theorem State.issueC_ready {s : State} {k : Nat} {q : Issue} {f : Core → Core} (h : s.ready k) (hl : q.len ≤ 4) (hb : q.bad = false)
    (hc : q.ctl = false) (hr : q.noRep = false) (hf : (f ((s.core k).stalled q.uses)).rest = ((s.core k).stalled q.uses).rest) :
    let c := s.core k
    let b := f (c.stalled q.uses)
    let c' := (s.issueC k q f).core k
    (∀ n, c'.dr n = b.dr n) ∧ (∀ n, c'.ar n = b.ar n) ∧ (∀ n, c'.ac n = b.ac n) ∧ c'.bits = b.bits ∧
    (c'.user = c.user ∧ c'.heatNo = c.heatNo ∧ c'.trigK = c.trigK ∧ c'.trigH = c.trigH ∧ c'.iram = c.iram ∧
      (c.stopReq = false → c'.st = c.st)) ∧
    SegXY c c' ∧ NextPc c c' q.len ∧ Outside k s (s.issueC k q f) := by
  intro c b c'
  have hi : s.issueC k q f = (((s.stalled k q).modCore k f).modCore k fun c => c.finish ((s.core k).stalled q.uses).clk q).stopIfDue k := by
    unfold State.issueC
    rw [State.issue_seq (s2 := (s.stalled k q).modCore k f) h hl hb (by simp [hc]) (by simp [hr]) rfl]
  obtain ⟨⟨g1, g2, g3, g4, ⟨g5, g6, g7, g8, g9, g10⟩, g11, g12, g13⟩, g14, g15⟩ :=
    ((s.stalled k q).modCore k f).finish_spec k ((s.core k).stalled q.uses).clk q
  rw [← hi] at g1 g2 g3 g4 g5 g6 g7 g8 g9 g10 g11 g12 g13 g14 g15
  rw [State.core_modCore_same, State.core_stalled] at *
  obtain ⟨⟨e1, e2, e3, e4, e5⟩, ⟨e6, e7, e8⟩, ⟨e9, e10, e11, e12⟩, e13, e14⟩ := Core.rest_eq hf
  exact ⟨g1, g2, g3, g4, ⟨g5.trans e1, g6.trans e2, g7.trans e3, g8.trans e4, g9.trans e5,
    fun hs => (g10 (e14.trans hs)).trans e13⟩, ⟨g11.trans e6, g12.trans e7, g13.trans e8⟩,
    g14.congr ⟨e9.symm, e10.symm, e11.symm, e12.symm⟩ ⟨rfl, rfl, rfl, rfl⟩,
    ((Outside.setCore s k _).trans (Outside.setCore _ k _)).trans g15⟩

/-- The way to a statement about an instruction that only computes on its core: what its body leaves, and what follows of it. -/
theorem Computes.of_issueC {k : CoreId} {s : State} {i : Instr} {q : Issue} {f : Core → Core} {ds : List (BitVec 4)}
    {as accs bits : List Nat} {post : Core → Prop} {len : Nat} (h : s.ready k) (he : exec i s = .next (s.issueC k q f))
    (hl : q.len = len) (hl4 : len ≤ 4) (hb : q.bad = false) (hc : q.ctl = false)
    (hr : q.noRep = false) (hf : ∀ c, (f c).rest = c.rest)
    (h1 : ∀ c n, n ∉ ds → (f c).dr n = c.dr n) (h2 : ∀ c n, n ∉ as → (f c).ar n = c.ar n)
    (h3 : ∀ c n, n ∉ accs → (f c).ac n = c.ac n)
    (h4 : ∀ c b, b ∉ bits → (f c).bits.getLsbD b = c.bits.getLsbD b)
    (hp : ∀ c' : Core, (∀ n, c'.dr n = (f ((s.core k).stalled q.uses)).dr n) →
      (∀ n, c'.ar n = (f ((s.core k).stalled q.uses)).ar n) → (∀ n, c'.ac n = (f ((s.core k).stalled q.uses)).ac n) →
      c'.bits = (f ((s.core k).stalled q.uses)).bits → post c') :
    Computes k s i len ds as accs bits post := by
  subst hl
  obtain ⟨g1, g2, g3, g4, g5, g6, g7, g8⟩ := State.issueC_ready (f := f) h hl4 hb hc hr (hf _)
  refine ⟨_, he, hp _ g1 g2 g3 g4, ⟨?_, ?_, ?_, ?_, g5⟩, g6, g7, g8⟩
  · intro n hn; rw [g1, h1 _ n hn]; rfl
  · intro n hn; rw [g2, h2 _ n hn]; rfl
  · intro n hn; rw [g3, h3 _ n hn]; rfl
  · intro b hb; rw [g4, h4 _ b hb]; rfl

/-- The same for an instruction that writes one data register. -/
theorem Writes.of_issueC {k : CoreId} {s : State} {i : Instr} {q : Issue} {dd : BitVec 4} {v : Native} {len : Nat}
    (g : Core → Native) (h : s.ready k) (he : exec i s = .next (s.issueC k q fun c => c.setD dd (g c))) (hl : q.len = len)
    (hl4 : len ≤ 4) (hb : q.bad = false) (hc : q.ctl = false) (hr : q.noRep = false) (hv : g ((s.core k).stalled q.uses) = v) :
    Writes k s i len dd v := by
  refine Computes.of_issueC h he hl hl4 hb hc hr (fun _ => rfl) ?_ (fun _ _ _ => rfl) (fun _ _ _ => rfl) (fun _ _ _ => rfl) ?_
  · intro c n hn
    exact Core.dr_setD_ne _ _ (by simpa using hn)
  · intro c' h1 _ _ _
    rw [h1, Core.dr_setD_same, hv]

/-! ## Integers as words -/

theorem ofNat_wrapS (w : Nat) (r : Int) : BitVec.ofNat w (wrapS w r) = BitVec.ofInt w r := by
  apply BitVec.eq_of_toNat_eq
  have h : (0 : Int) < 2 ^ w := by positivity
  have h0 := Int.emod_nonneg r (ne_of_gt h)
  have h1 := Int.emod_lt_of_pos r h
  rw [BitVec.toNat_ofNat, BitVec.toNat_ofInt]
  unfold wrapS
  have h2 : ((2 ^ w : Nat) : Int) = 2 ^ w := by push_cast; rfl
  rw [h2]
  refine Nat.mod_eq_of_lt ?_
  omega

theorem sgn_toNat {w : Nat} (x : BitVec w) (hw : 0 < w) : sgn w x.toNat = x.toInt := by
  unfold sgn signed
  rw [BitVec.toInt_eq_toNat_cond]
  have h2 : 2 ^ w = 2 * 2 ^ (w - 1) := by
    obtain ⟨n, rfl⟩ : ∃ n, w = n + 1 := ⟨w - 1, by omega⟩
    simp [pow_succ, mul_comm]
  by_cases h : x.toNat < 2 ^ (w - 1)
  · rw [if_pos h, if_pos (by omega)]
  · rw [if_neg h, if_neg (by omega)]; push_cast; rfl

theorem ofNat_satS (w : Nat) (r : Int) : BitVec.ofNat w (satS w r) = BitVec.ofInt w (limited true w r) := by
  unfold satS; rw [ofNat_wrapS]; rfl


end Sys2Proof.Machine
end

