-- ==== Sys2Proof/Laws/CasakMem.lean ====
section
/-! SUPPORT. The laws of the Casak cores' data memories and stack: what a store, a load, a push and a pop leave. -/

namespace Sys2Proof.Machine

theorem State.dataRd_congr {s t : State} {k : Nat} (hx : (t.core k).x = (s.core k).x) (hy : (t.core k).y = (s.core k).y)
    (hm : t.measRam = s.measRam) (he : t.exch = s.exch) (sp a : Nat) : t.dataRd k sp a = s.dataRd k sp a := by
  unfold State.dataRd State.mr State.ex
  rw [hx, hy, hm, he]

/-- Every word reads the same where only the rest of core k differs. -/
theorem MemKept.of {s t : State} {k : Nat} (h : SegXY (s.core k) (t.core k)) (hm : t.measRam = s.measRam) (he : t.exch = s.exch) :
    MemKept k s t := fun sp a _ => State.dataRd_congr h.2.1 h.2.2 hm he sp a

theorem Core.locate_space {c : Core} {k an : Nat} {d : Int} {w : Bool} {sp a : Nat} (h : c.locate k an d w = some (sp, a)) :
    sp < 4 := by
  unfold Core.locate at h
  dsimp only at h
  split at h
  · cases h
  · have : descSpace (c.sg k (segOf (c.ar an))) = sp := by
      simp only [Option.some.injEq, Prod.mk.injEq] at h; exact h.1
    rw [← this]; unfold descSpace; omega

theorem State.setBad_core (s : State) (m a : Nat) (b : Bool) (k : Nat) : (s.setBad m a b).core k = s.core k := rfl
theorem State.setBad_dataRd (s : State) (m a : Nat) (b : Bool) (k sp i : Nat) : (s.setBad m a b).dataRd k sp i = s.dataRd k sp i := rfl

theorem State.dataWr_X (s : State) (k a : Nat) (v : Native) :
    s.dataWr k 0 a v = (s.modCore k fun c => { c with x := Tab.set (fun _ => 0) c.x a v }).setBad (9 + k) a false := rfl
theorem State.dataWr_Y (s : State) (k a : Nat) (v : Native) :
    s.dataWr k 1 a v = (s.modCore k fun c => { c with y := Tab.set (fun _ => 0) c.y a v }).setBad (18 + k) a false := rfl
theorem State.dataWr_M (s : State) (k a : Nat) (v : Native) : s.dataWr k 2 a v = s.setMr a v := rfl
theorem State.dataWr_E (s : State) (k a : Nat) (v : Native) : s.dataWr k 3 a v = s.setEx a v := rfl
theorem State.dataRd_X (s : State) (k a : Nat) : s.dataRd k 0 a = Tab.get (fun _ => 0) (s.core k).x a := rfl
theorem State.dataRd_Y (s : State) (k a : Nat) : s.dataRd k 1 a = Tab.get (fun _ => 0) (s.core k).y a := rfl
theorem State.dataRd_M (s : State) (k a : Nat) : s.dataRd k 2 a = s.mr a := rfl
theorem State.dataRd_E (s : State) (k a : Nat) : s.dataRd k 3 a = s.ex a := rfl

theorem State.setEx_core (s : State) (a : Nat) (v : Native) (k : Nat) : (s.setEx a v).core k = s.core k := by
  unfold State.setEx State.core; rfl
theorem State.setMr_core (s : State) (a : Nat) (v : Native) (k : Nat) : (s.setMr a v).core k = s.core k := by
  unfold State.setMr State.core; rfl
theorem State.mr_setMr_same (s : State) (a : Nat) (v : Native) : (s.setMr a v).mr a = v := by
  unfold State.setMr State.mr; exact Tab.get_set_same ..
theorem State.mr_setMr_ne (s : State) {a b : Nat} (v : Native) (h : b % 0x80000 ≠ a % 0x80000) : (s.setMr a v).mr b = s.mr b := by
  unfold State.setMr State.mr; exact Tab.get_set_ne _ _ _ h
theorem State.ex_setEx_same (s : State) (a : Nat) (v : Native) : (s.setEx a v).ex a = v := by
  unfold State.setEx State.ex; exact Tab.get_set_same ..
theorem State.ex_setEx_ne (s : State) {a b : Nat} (v : Native) (h : b % 0x10000 ≠ a % 0x10000) : (s.setEx a v).ex b = s.ex b := by
  unfold State.setEx State.ex; exact Tab.get_set_ne _ _ _ h
theorem State.mr_setEx (s : State) (a b : Nat) (v : Native) : (s.setEx a v).mr b = s.mr b := by unfold State.setEx State.mr; rfl
theorem State.ex_setMr (s : State) (a b : Nat) (v : Native) : (s.setMr a v).ex b = s.ex b := by unfold State.setMr State.ex; rfl
theorem State.modCore_mr (s : State) (k b : Nat) (f : Core → Core) : (s.modCore k f).mr b = s.mr b := rfl
theorem State.modCore_ex (s : State) (k b : Nat) (f : Core → Core) : (s.modCore k f).ex b = s.ex b := rfl

theorem wordOf_XY (a : Nat) : wordOf 0 a = a ∧ wordOf 1 a = a := ⟨rfl, rfl⟩

/-- What a store leaves: the word it names takes the value, every other word reads as before. -/
theorem State.dataWr_stored (s : State) (k sp a : Nat) (v : Native) (hsp : sp < 4) : MemStored k s (s.dataWr k sp a v) sp a v := by
  unfold MemStored
  have four : ∀ n, n < 4 → n = 0 ∨ n = 1 ∨ n = 2 ∨ n = 3 := by omega
  rcases four sp hsp with rfl | rfl | rfl | rfl
  · rw [State.dataWr_X]
    simp only [State.setBad_dataRd]
    refine ⟨by rw [State.dataRd_X, State.core_modCore_same]; exact Tab.get_set_same .., ?_⟩
    intro sp' a' h4 hne
    rcases four sp' h4 with rfl | rfl | rfl | rfl
    · rw [State.dataRd_X, State.dataRd_X, State.core_modCore_same]
      exact Tab.get_set_ne _ _ _ (by simpa [wordOf] using hne)
    · rw [State.dataRd_Y, State.dataRd_Y, State.core_modCore_same]
    · exact State.modCore_mr ..
    · exact State.modCore_ex ..
  · rw [State.dataWr_Y]
    simp only [State.setBad_dataRd]
    refine ⟨by rw [State.dataRd_Y, State.core_modCore_same]; exact Tab.get_set_same .., ?_⟩
    intro sp' a' h4 hne
    rcases four sp' h4 with rfl | rfl | rfl | rfl
    · rw [State.dataRd_X, State.dataRd_X, State.core_modCore_same]
    · rw [State.dataRd_Y, State.dataRd_Y, State.core_modCore_same]
      exact Tab.get_set_ne _ _ _ (by simpa [wordOf] using hne)
    · exact State.modCore_mr ..
    · exact State.modCore_ex ..
  · rw [State.dataWr_M]
    refine ⟨State.mr_setMr_same .., ?_⟩
    intro sp' a' h4 hne
    rcases four sp' h4 with rfl | rfl | rfl | rfl
    · rw [State.dataRd_X, State.dataRd_X, State.setMr_core]
    · rw [State.dataRd_Y, State.dataRd_Y, State.setMr_core]
    · exact State.mr_setMr_ne _ _ (by simpa [wordOf] using hne)
    · exact State.ex_setMr ..
  · rw [State.dataWr_E]
    refine ⟨State.ex_setEx_same .., ?_⟩
    intro sp' a' h4 hne
    rcases four sp' h4 with rfl | rfl | rfl | rfl
    · rw [State.dataRd_X, State.dataRd_X, State.setEx_core]
    · rw [State.dataRd_Y, State.dataRd_Y, State.setEx_core]
    · exact State.mr_setEx ..
    · exact State.ex_setEx_ne _ _ (by simpa [wordOf] using hne)

/-- What a store changes beside memory: nothing of the core but its data memories. -/
theorem State.dataWr_core (s : State) (k sp a : Nat) (v : Native) (hsp : sp < 4) :
    ∃ x y, (s.dataWr k sp a v).core k = { s.core k with x := x, y := y } := by
  rcases (by omega : sp = 0 ∨ sp = 1 ∨ sp = 2 ∨ sp = 3) with rfl | rfl | rfl | rfl
  · refine ⟨Tab.set (fun _ => 0) (s.core k).x a v, (s.core k).y, ?_⟩
    rw [State.dataWr_X, State.setBad_core, State.core_modCore_same]
  · refine ⟨(s.core k).x, Tab.set (fun _ => 0) (s.core k).y a v, ?_⟩
    rw [State.dataWr_Y, State.setBad_core, State.core_modCore_same]
  · exact ⟨(s.core k).x, (s.core k).y, by rw [State.dataWr_M, State.setMr_core]⟩
  · exact ⟨(s.core k).x, (s.core k).y, by rw [State.dataWr_E, State.setEx_core]⟩

theorem OutsideMem.of_mem (s : State) (k : Nat) (m e : Tab Native) (b : Tab Bool) :
    OutsideMem k s { s with measRam := m, exch := e, bad := b } := ⟨fun _ _ => rfl, fun _ _ _ => rfl, rfl⟩

theorem OutsideMem.of_core (s : State) (k : Nat) (c : Core) (b : Tab Bool) :
    OutsideMem k s ({ s.setCore k c with bad := b } : State) :=
  ⟨fun _ hj => s.core_setCore_ne c hj, fun _ _ _ => rfl, rfl⟩

theorem OutsideMem.of_dataWr (s : State) (k sp a : Nat) (v : Native) (hsp : sp < 4) : OutsideMem k s (s.dataWr k sp a v) := by
  rcases (by omega : sp = 0 ∨ sp = 1 ∨ sp = 2 ∨ sp = 3) with rfl | rfl | rfl | rfl
  · rw [State.dataWr_X]
    unfold State.setBad State.modCore; exact OutsideMem.of_core ..
  · rw [State.dataWr_Y]
    unfold State.setBad State.modCore; exact OutsideMem.of_core ..
  · rw [State.dataWr_M]
    unfold State.setMr; exact OutsideMem.of_mem ..
  · rw [State.dataWr_E]
    unfold State.setEx; exact OutsideMem.of_mem ..

theorem OutsideMem.trans {k : Nat} {s t u : State} (h : OutsideMem k s t) (g : OutsideMem k t u) : OutsideMem k s u := by
  refine ⟨fun j hj => (g.1 j hj).trans (h.1 j hj), fun p o ho => (g.2.1 p o ho).trans (h.2.1 p o ho), ?_⟩
  have h1 := h.2.2
  have h2 := g.2.2
  rw [← h1, ← h2]

theorem OutsideFree.trans {k : Nat} {s t u : State} (h : OutsideFree k s t) (g : OutsideFree k t u) : OutsideFree k s u := by
  refine ⟨fun j hj => (g.1 j hj).trans (h.1 j hj), fun p o ho => (g.2.1 p o ho).trans (h.2.1 p o ho), ?_⟩
  have h1 := h.2.2
  have h2 := g.2.2
  rw [← h1, ← h2]

theorem Outside.free {k : Nat} {s t : State} (h : Outside k s t) : OutsideFree k s t := by
  refine ⟨h.1, h.2.1, ?_⟩
  have h1 := h.2.2
  rw [← h1]

theorem OutsideFree.mem {k : Nat} {s t : State} (h : OutsideFree k s t) : OutsideMem k s t := by
  refine ⟨h.1, h.2.1, ?_⟩
  have h1 := h.2.2
  rw [← h1]

theorem Outside.meas {k : Nat} {s t : State} (h : Outside k s t) : t.measRam = s.measRam := by rw [← h.2.2]
theorem Outside.ex {k : Nat} {s t : State} (h : Outside k s t) : t.exch = s.exch := by rw [← h.2.2]

/-- Every word reads the same after an instruction is finished. -/
theorem State.finish_mem (s : State) (k t : Nat) (q : Issue) (sp a : Nat) :
    ((s.modCore k fun c => c.finish t q).stopIfDue k).dataRd k sp a = s.dataRd k sp a := by
  obtain ⟨h1, -, h3⟩ := s.finish_spec k t q
  exact State.dataRd_congr h1.2.2.2.2.2.2.1 h1.2.2.2.2.2.2.2 h3.meas h3.ex sp a

/-! ## Address generation and accesses -/

/-- The state after address generation and its access: An moved, B.MFOLD noted, the cycles counted, a free number used up. -/
def State.accessed (s : State) (k an : Nat) (m : BitVec 2) (sp : Nat) : State :=
  (s.modCore k fun c => (c.noteFold k an).postModify k an m).chargeAccess k sp

theorem State.loadVia_ok {s : State} {k an : Nat} {d : Int} {m : BitVec 2} {sp a : Nat} (h : s.readsAt k an d sp a) :
    s.loadVia k an d m = .ok (s.accessed k an m sp, s.dataRd k sp a, s.accessExtra sp) := by
  unfold State.loadVia
  simp only [h.1, h.2]
  rfl

theorem State.loadVia_segment {s : State} {k an : Nat} {d : Int} {m : BitVec 2} (h : (s.core k).locate k an d false = none) :
    s.loadVia k an d m = .error (vSEGMENT, an) := by
  unfold State.loadVia
  simp only [h]

theorem State.loadVia_dataErr {s : State} {k an : Nat} {d : Int} {m : BitVec 2} {sp a : Nat}
    (h : (s.core k).locate k an d false = some (sp, a)) (hb : s.isBad (spaceMem k sp) a = true) :
    s.loadVia k an d m = .error (vDATAERR, sp) := by
  unfold State.loadVia
  simp only [h, hb]
  rfl

theorem State.storeVia_ok {s : State} {k an : Nat} {d : Int} {m : BitVec 2} {sp a : Nat} {v : Native}
    (h : (s.core k).locate k an d true = some (sp, a)) :
    s.storeVia k an d m v = .ok ((s.accessed k an m sp).dataWr k sp a v) := by
  unfold State.storeVia
  simp only [h]
  rfl

theorem State.storeVia_segment {s : State} {k an : Nat} {d : Int} {m : BitVec 2} {v : Native}
    (h : (s.core k).locate k an d true = none) : s.storeVia k an d m v = .error (vSEGMENT, an) := by
  unfold State.storeVia
  simp only [h]

theorem OutsideFree.of_core (s : State) (k : Nat) (c : Core) (n : Nat) :
    OutsideFree k s ({ s.setCore k c with freeCtr := n } : State) :=
  ⟨fun _ hj => s.core_setCore_ne c hj, fun _ _ _ => rfl, rfl⟩

theorem State.core_bump (s : State) (k : Nat) : s.bump.core k = s.core k := rfl

theorem OutsideFree.of_bump (s : State) (k : Nat) : OutsideFree k s s.bump := ⟨fun _ _ => rfl, fun _ _ _ => rfl, rfl⟩

/-- The core after an access: only An, B.MFOLD and the cycle counts may differ. -/
theorem State.accessed_core (s : State) (k an : Nat) (m : BitVec 2) (sp : Nat) :
    ∃ cyc clk, (s.accessed k an m sp).core k = { ((s.core k).noteFold k an).postModify k an m with cyc := cyc, clk := clk } := by
  unfold State.accessed State.chargeAccess
  generalize (s.modCore k fun c => (c.noteFold k an).postModify k an m).accessExtra sp = x
  refine ⟨(((s.core k).noteFold k an).postModify k an m).cyc + x, (((s.core k).noteFold k an).postModify k an m).clk + x, ?_⟩
  rw [State.core_bump, State.core_modCore_same, State.core_modCore_same]

theorem State.accessed_free (s : State) (k an : Nat) (m : BitVec 2) (sp : Nat) : OutsideFree k s (s.accessed k an m sp) := by
  unfold State.accessed State.chargeAccess
  exact ((Outside.setCore s k _).trans (Outside.setCore _ k _)).free.trans (OutsideFree.of_bump _ k)

@[simp] theorem Core.noteFold_dr (c : Core) (k an : Nat) (n : BitVec 4) : (c.noteFold k an).dr n = c.dr n := by
  unfold Core.noteFold; split <;> rfl
@[simp] theorem Core.noteFold_ar (c : Core) (k an n : Nat) : (c.noteFold k an).ar n = c.ar n := by
  unfold Core.noteFold; split <;> rfl
@[simp] theorem Core.noteFold_ac (c : Core) (k an n : Nat) : (c.noteFold k an).ac n = c.ac n := by
  unfold Core.noteFold; split <;> rfl
@[simp] theorem Core.noteFold_sg (c : Core) (k an j n : Nat) : (c.noteFold k an).sg j n = c.sg j n := by
  unfold Core.noteFold; split <;> rfl
@[simp] theorem Core.noteFold_rest (c : Core) (k an : Nat) : (c.noteFold k an).rest = c.rest := by
  unfold Core.noteFold; split <;> rfl

/-- B.MFOLD is sticky (rule R446). -/
theorem Core.noteFold_bits (c : Core) (k an b : Nat) :
    (c.noteFold k an).bits.getLsbD b = if b = 3 then (c.bits.getLsbD 3 || c.foldsAt k an) else c.bits.getLsbD b := by
  unfold Core.noteFold
  cases h : c.foldsAt k an
  · by_cases hb : b = 3 <;> simp [hb]
  · simp only [if_true, Core.bits_hwBit c 3 b true (by omega)]; simp

@[simp] theorem Core.postModify_dr (c : Core) (k an : Nat) (m : BitVec 2) (n : BitVec 4) : (c.postModify k an m).dr n = c.dr n := by
  unfold Core.postModify; split <;> rfl
@[simp] theorem Core.postModify_ac (c : Core) (k an : Nat) (m : BitVec 2) (n : Nat) : (c.postModify k an m).ac n = c.ac n := by
  unfold Core.postModify; split <;> rfl
@[simp] theorem Core.postModify_bits (c : Core) (k an : Nat) (m : BitVec 2) : (c.postModify k an m).bits = c.bits := by
  unfold Core.postModify; split <;> rfl
@[simp] theorem Core.postModify_rest (c : Core) (k an : Nat) (m : BitVec 2) : (c.postModify k an m).rest = c.rest := by
  unfold Core.postModify; split <;> rfl
theorem Core.postModify_ar_ne (c : Core) (k an : Nat) (m : BitVec 2) {n : Nat} (h : n ≠ an) : (c.postModify k an m).ar n = c.ar n := by
  unfold Core.postModify; split
  · rfl
  · exact Core.ar_setA_ne _ _ h

/-- Post-modify looks at An and its segment only. -/
theorem Core.postModify_ar_congr {c d : Core} {k an : Nat} {m : BitVec 2} (h : d.ar an = c.ar an) (hs : d.seg = c.seg) :
    (d.postModify k an m).ar an = (c.postModify k an m).ar an := by
  have hg : d.sg k (segOf (c.ar an)) = c.sg k (segOf (c.ar an)) := by unfold Core.sg; rw [hs]
  unfold Core.postModify
  rw [h, hg]
  split
  · exact h
  · rw [Core.ar_setA_same, Core.ar_setA_same]

theorem Core.noteFold_seg (c : Core) (k an : Nat) : (c.noteFold k an).seg = c.seg := by
  unfold Core.noteFold; split <;> rfl

/-! ## The stack -/

/-- The state after A7 has moved for a push or pop and its access is charged. -/
def State.stackAt (s : State) (k o sp : Nat) : State :=
  (s.modCore k fun c => { c.setA 7 (withOff (c.ar 7) o) with
    cyc := c.cyc + s.accessExtra sp, clk := c.clk + s.accessExtra sp }).bump

theorem State.pushWord_ok {s : State} {k sp a : Nat} {v : Native} (h : s.pushesTo k sp a) :
    s.pushWord k v = .ok ((s.stackAt k (offOf ((s.core k).ar 7) - 1) sp).dataWr k sp a v) := by
  unfold State.pushWord
  have h0 : ¬ offOf ((s.core k).ar 7) = 0 := by have := h.1; omega
  simp only [h0, if_false, h.2]
  rfl

theorem State.popWord_ok {s : State} {k sp a : Nat} (h : s.popsFrom k sp a) :
    s.popWord k = .ok (s.stackAt k (offOf ((s.core k).ar 7) + 1) sp, s.dataRd k sp a) := by
  unfold State.popWord
  have h0 : ¬ offOf ((s.core k).ar 7) ≥ descLimit ((s.core k).sg k 7) := by have := h.1; omega
  simp only [h0, if_false, h.2.1, h.2.2]
  rfl

theorem State.stackAt_core (s : State) (k o sp : Nat) :
    ∃ cyc clk, (s.stackAt k o sp).core k = { (s.core k).setA 7 (withOff ((s.core k).ar 7) o) with cyc := cyc, clk := clk } := by
  refine ⟨(s.core k).cyc + s.accessExtra sp, (s.core k).clk + s.accessExtra sp, ?_⟩
  unfold State.stackAt
  rw [State.core_bump, State.core_modCore_same]

theorem State.stackAt_free (s : State) (k o sp : Nat) : OutsideFree k s (s.stackAt k o sp) := by
  unfold State.stackAt
  exact (Outside.setCore s k _).free.trans (OutsideFree.of_bump _ k)

theorem a7_bits (v : BitVec 27) : (v &&& 0x0FFFFFF#27) ||| 0x7000000#27 = (7#3 : BitVec 3) ++ v.setWidth 24 := by
  apply BitVec.eq_of_getLsbD_eq
  intro i hi
  rw [BitVec.getLsbD_append]
  interval_cases i <;> simp

theorem a7_toNat (v : BitVec 27) : ((v &&& 0x0FFFFFF#27) ||| 0x7000000#27).toNat = 7 * 2 ^ 24 + v.toNat % 2 ^ 24 := by
  rw [a7_bits]
  show ((7#3 ++ v.setWidth 24 : BitVec (3 + 24))).toNat = _
  rw [BitVec.toNat_append, ← Nat.shiftLeft_add_eq_or_of_lt (BitVec.isLt _), BitVec.toNat_setWidth]
  rfl

theorem offOf_seven (v : BitVec 27) : offOf ((v &&& 0x0FFFFFF#27) ||| 0x7000000#27) = v.toNat % 2 ^ 24 := by
  unfold offOf
  rw [a7_toNat]
  omega

theorem segOf_seven (v : BitVec 27) : segOf ((v &&& 0x0FFFFFF#27) ||| 0x7000000#27) = 7 := by
  unfold segOf
  rw [a7_toNat]
  omega

/-- A7 after its offset moves to `o` (rules R438, R447). -/
theorem StackMoved.of_setA (c : Core) (o : Nat) :
    offOf ((c.setA 7 (withOff (c.ar 7) o)).ar 7) = o % 2 ^ 24 ∧ segOf ((c.setA 7 (withOff (c.ar 7) o)).ar 7) = 7 := by
  rw [Core.ar_setA_same, if_pos rfl]
  refine ⟨?_, segOf_seven _⟩
  rw [offOf_seven]
  unfold withOff
  rw [BitVec.toNat_ofNat]
  omega

end Sys2Proof.Machine
end

