-- ==== Sys2Proof/Laws/State.lean ====
section
/-! SUPPORT. What each field of the state reads after the plain updates: storing a register, a shadow copy, a word of host
memory, putting something on a pin, using up a free number. One lemma per field and update, true by unfolding. -/

namespace Sys2Proof.Machine

@[simp] theorem State.setReg_pending (s : State) (p o : Nat) (v : Word) : (s.setReg p o v).pending = s.pending := by rw [State.setReg]
@[simp] theorem State.setReg_inReset (s : State) (p o : Nat) (v : Word) : (s.setReg p o v).inReset = s.inReset := by rw [State.setReg]
@[simp] theorem State.setReg_shadow (s : State) (p o : Nat) (v : Word) : (s.setReg p o v).shadow = s.shadow := by rw [State.setReg]
@[simp] theorem State.setReg_grp (s : State) (p o : Nat) (v : Word) : (s.setReg p o v).grp = s.grp := by rw [State.setReg]
@[simp] theorem State.setReg_goCnt (s : State) (p o : Nat) (v : Word) : (s.setReg p o v).goCnt = s.goCnt := by rw [State.setReg]
@[simp] theorem State.setReg_hostMem (s : State) (p o : Nat) (v : Word) : (s.setReg p o v).hostMem = s.hostMem := by rw [State.setReg]
@[simp] theorem State.setReg_hostRead (s : State) (p o : Nat) (v : Word) : (s.setReg p o v).hostRead = s.hostRead := by rw [State.setReg]
@[simp] theorem State.setReg_outbox (s : State) (p o : Nat) (v : Word) : (s.setReg p o v).outbox = s.outbox := by rw [State.setReg]
@[simp] theorem State.setReg_freeCtr (s : State) (p o : Nat) (v : Word) : (s.setReg p o v).freeCtr = s.freeCtr := by rw [State.setReg]
@[simp] theorem State.setReg_msixReq (s : State) (p o : Nat) (v : Word) : (s.setReg p o v).msixReq = s.msixReq := by rw [State.setReg]
@[simp] theorem State.setReg_msixMask (s : State) (p o : Nat) (v : Word) : (s.setReg p o v).msixMask = s.msixMask := by rw [State.setReg]
@[simp] theorem State.setReg_msixPba (s : State) (p o : Nat) (v : Word) : (s.setReg p o v).msixPba = s.msixPba := by rw [State.setReg]
@[simp] theorem State.setReg_msixFuncMask (s : State) (p o : Nat) (v : Word) : (s.setReg p o v).msixFuncMask = s.msixFuncMask := by rw [State.setReg]
@[simp] theorem State.setReg_msixOn (s : State) (p o : Nat) (v : Word) : (s.setReg p o v).msixOn = s.msixOn := by rw [State.setReg]
@[simp] theorem State.setReg_cores (s : State) (p o : Nat) (v : Word) : (s.setReg p o v).cores = s.cores := by rw [State.setReg]
@[simp] theorem State.setReg_measRam (s : State) (p o : Nat) (v : Word) : (s.setReg p o v).measRam = s.measRam := by rw [State.setReg]
@[simp] theorem State.setReg_exch (s : State) (p o : Nat) (v : Word) : (s.setReg p o v).exch = s.exch := by rw [State.setReg]
@[simp] theorem State.setReg_bad (s : State) (p o : Nat) (v : Word) : (s.setReg p o v).bad = s.bad := by rw [State.setReg]
@[simp] theorem State.setReg_tb (s : State) (p o : Nat) (v : Word) : (s.setReg p o v).tb = s.tb := by rw [State.setReg]
@[simp] theorem State.setReg_disc (s : State) (p o : Nat) (v : Word) : (s.setReg p o v).disc = s.disc := by rw [State.setReg]
@[simp] theorem State.setReg_touts (s : State) (p o : Nat) (v : Word) : (s.setReg p o v).touts = s.touts := by rw [State.setReg]
@[simp] theorem State.setReg_pulses (s : State) (p o : Nat) (v : Word) : (s.setReg p o v).pulses = s.pulses := by rw [State.setReg]
@[simp] theorem State.setReg_ppsLast (s : State) (p o : Nat) (v : Word) : (s.setReg p o v).ppsLast = s.ppsLast := by rw [State.setReg]
@[simp] theorem State.setReg_tinArms (s : State) (p o : Nat) (v : Word) : (s.setReg p o v).tinArms = s.tinArms := by rw [State.setReg]
@[simp] theorem State.setReg_tins (s : State) (p o : Nat) (v : Word) : (s.setReg p o v).tins = s.tins := by rw [State.setReg]
@[simp] theorem State.setReg_sol (s : State) (p o : Nat) (v : Word) : (s.setReg p o v).sol = s.sol := by rw [State.setReg]
@[simp] theorem State.setReg_lanes (s : State) (p o : Nat) (v : Word) : (s.setReg p o v).lanes = s.lanes := by rw [State.setReg]
@[simp] theorem State.setReg_chains (s : State) (p o : Nat) (v : Word) : (s.setReg p o v).chains = s.chains := by rw [State.setReg]
@[simp] theorem State.setReg_groups (s : State) (p o : Nat) (v : Word) : (s.setReg p o v).groups = s.groups := by rw [State.setReg]
@[simp] theorem State.setReg_fecs (s : State) (p o : Nat) (v : Word) : (s.setReg p o v).fecs = s.fecs := by rw [State.setReg]
@[simp] theorem State.setReg_rl (s : State) (p o : Nat) (v : Word) : (s.setReg p o v).rl = s.rl := by rw [State.setReg]
@[simp] theorem State.setReg_jobs (s : State) (p o : Nat) (v : Word) : (s.setReg p o v).jobs = s.jobs := by rw [State.setReg]
@[simp] theorem State.setReg_jobSeq (s : State) (p o : Nat) (v : Word) : (s.setReg p o v).jobSeq = s.jobSeq := by rw [State.setReg]
@[simp] theorem State.setReg_nextSnap (s : State) (p o : Nat) (v : Word) : (s.setReg p o v).nextSnap = s.nextSnap := by rw [State.setReg]
@[simp] theorem State.setReg_floorJob (s : State) (p o : Nat) (v : Word) : (s.setReg p o v).floorJob = s.floorJob := by rw [State.setReg]
@[simp] theorem State.setReg_rrPhase (s : State) (p o : Nat) (v : Word) : (s.setReg p o v).rrPhase = s.rrPhase := by rw [State.setReg]
@[simp] theorem State.setReg_cells (s : State) (p o : Nat) (v : Word) : (s.setReg p o v).cells = s.cells := by rw [State.setReg]
@[simp] theorem State.setReg_chans (s : State) (p o : Nat) (v : Word) : (s.setReg p o v).chans = s.chans := by rw [State.setReg]
@[simp] theorem State.setReg_placeHeat (s : State) (p o : Nat) (v : Word) : (s.setReg p o v).placeHeat = s.placeHeat := by rw [State.setReg]
@[simp] theorem State.setReg_subs (s : State) (p o : Nat) (v : Word) : (s.setReg p o v).subs = s.subs := by rw [State.setReg]
@[simp] theorem State.setReg_nav (s : State) (p o : Nat) (v : Word) : (s.setReg p o v).nav = s.nav := by rw [State.setReg]
@[simp] theorem State.setReg_auth (s : State) (p o : Nat) (v : Word) : (s.setReg p o v).auth = s.auth := by rw [State.setReg]
@[simp] theorem State.setReg_eth (s : State) (p o : Nat) (v : Word) : (s.setReg p o v).eth = s.eth := by rw [State.setReg]
@[simp] theorem State.setReg_ptp (s : State) (p o : Nat) (v : Word) : (s.setReg p o v).ptp = s.ptp := by rw [State.setReg]
@[simp] theorem State.setReg_steps (s : State) (p o : Nat) (v : Word) : (s.setReg p o v).steps = s.steps := by rw [State.setReg]
@[simp] theorem State.setReg_uarts (s : State) (p o : Nat) (v : Word) : (s.setReg p o v).uarts = s.uarts := by rw [State.setReg]
@[simp] theorem State.setReg_assay (s : State) (p o : Nat) (v : Word) : (s.setReg p o v).assay = s.assay := by rw [State.setReg]
@[simp] theorem State.setReg_upd (s : State) (p o : Nat) (v : Word) : (s.setReg p o v).upd = s.upd := by rw [State.setReg]
@[simp] theorem State.setReg_boot (s : State) (p o : Nat) (v : Word) : (s.setReg p o v).boot = s.boot := by rw [State.setReg]
@[simp] theorem State.setReg_flash (s : State) (p o : Nat) (v : Word) : (s.setReg p o v).flash = s.flash := by rw [State.setReg]
@[simp] theorem State.setReg_alive (s : State) (p o : Nat) (v : Word) : (s.setReg p o v).alive = s.alive := by rw [State.setReg]
@[simp] theorem State.setReg_fuses (s : State) (p o : Nat) (v : Word) : (s.setReg p o v).fuses = s.fuses := by rw [State.setReg]
@[simp] theorem State.setReg_armAt (s : State) (p o : Nat) (v : Word) : (s.setReg p o v).armAt = s.armAt := by rw [State.setReg]
@[simp] theorem State.setReg_el (s : State) (p o : Nat) (v : Word) : (s.setReg p o v).el = s.el := by rw [State.setReg]
@[simp] theorem State.setReg_heat (s : State) (p o : Nat) (v : Word) : (s.setReg p o v).heat = s.heat := by rw [State.setReg]
@[simp] theorem State.setReg_cmd (s : State) (p o : Nat) (v : Word) : (s.setReg p o v).cmd = s.cmd := by rw [State.setReg]
@[simp] theorem State.setReg_host (s : State) (p o : Nat) (v : Word) : (s.setReg p o v).host = s.host := by rw [State.setReg]
@[simp] theorem State.setReg_fault (s : State) (p o : Nat) (v : Word) : (s.setReg p o v).fault = s.fault := by rw [State.setReg]
@[simp] theorem State.setReg_log (s : State) (p o : Nat) (v : Word) : (s.setReg p o v).log = s.log := by rw [State.setReg]
@[simp] theorem State.setReg_bk (s : State) (p o : Nat) (v : Word) : (s.setReg p o v).bk = s.bk := by rw [State.setReg]
@[simp] theorem State.setReg_io33 (s : State) (p o : Nat) (v : Word) : (s.setReg p o v).io33 = s.io33 := by rw [State.setReg]
@[simp] theorem State.setReg_snaps (s : State) (p o : Nat) (v : Word) : (s.setReg p o v).snaps = s.snaps := by rw [State.setReg]
@[simp] theorem State.setReg_snapMem (s : State) (p o : Nat) (v : Word) : (s.setReg p o v).snapMem = s.snapMem := by rw [State.setReg]
@[simp] theorem State.setReg_work (s : State) (p o : Nat) (v : Word) : (s.setReg p o v).work = s.work := by rw [State.setReg]
@[simp] theorem State.setReg_lateFrames (s : State) (p o : Nat) (v : Word) : (s.setReg p o v).lateFrames = s.lateFrames := by rw [State.setReg]
@[simp] theorem State.setReg_lateUnits (s : State) (p o : Nat) (v : Word) : (s.setReg p o v).lateUnits = s.lateUnits := by rw [State.setReg]
@[simp] theorem State.setReg_por (s : State) (p o : Nat) (v : Word) : (s.setReg p o v).por = s.por := by rw [State.setReg]

@[simp] theorem State.setShad_pending (s : State) (p o : Nat) (v : Word) : (s.setShad p o v).pending = s.pending := by rw [State.setShad]
@[simp] theorem State.setShad_inReset (s : State) (p o : Nat) (v : Word) : (s.setShad p o v).inReset = s.inReset := by rw [State.setShad]
@[simp] theorem State.setShad_regs (s : State) (p o : Nat) (v : Word) : (s.setShad p o v).regs = s.regs := by rw [State.setShad]
@[simp] theorem State.setShad_grp (s : State) (p o : Nat) (v : Word) : (s.setShad p o v).grp = s.grp := by rw [State.setShad]
@[simp] theorem State.setShad_goCnt (s : State) (p o : Nat) (v : Word) : (s.setShad p o v).goCnt = s.goCnt := by rw [State.setShad]
@[simp] theorem State.setShad_hostMem (s : State) (p o : Nat) (v : Word) : (s.setShad p o v).hostMem = s.hostMem := by rw [State.setShad]
@[simp] theorem State.setShad_hostRead (s : State) (p o : Nat) (v : Word) : (s.setShad p o v).hostRead = s.hostRead := by rw [State.setShad]
@[simp] theorem State.setShad_outbox (s : State) (p o : Nat) (v : Word) : (s.setShad p o v).outbox = s.outbox := by rw [State.setShad]
@[simp] theorem State.setShad_freeCtr (s : State) (p o : Nat) (v : Word) : (s.setShad p o v).freeCtr = s.freeCtr := by rw [State.setShad]
@[simp] theorem State.setShad_msixReq (s : State) (p o : Nat) (v : Word) : (s.setShad p o v).msixReq = s.msixReq := by rw [State.setShad]
@[simp] theorem State.setShad_msixMask (s : State) (p o : Nat) (v : Word) : (s.setShad p o v).msixMask = s.msixMask := by rw [State.setShad]
@[simp] theorem State.setShad_msixPba (s : State) (p o : Nat) (v : Word) : (s.setShad p o v).msixPba = s.msixPba := by rw [State.setShad]
@[simp] theorem State.setShad_msixFuncMask (s : State) (p o : Nat) (v : Word) : (s.setShad p o v).msixFuncMask = s.msixFuncMask := by rw [State.setShad]
@[simp] theorem State.setShad_msixOn (s : State) (p o : Nat) (v : Word) : (s.setShad p o v).msixOn = s.msixOn := by rw [State.setShad]
@[simp] theorem State.setShad_cores (s : State) (p o : Nat) (v : Word) : (s.setShad p o v).cores = s.cores := by rw [State.setShad]
@[simp] theorem State.setShad_measRam (s : State) (p o : Nat) (v : Word) : (s.setShad p o v).measRam = s.measRam := by rw [State.setShad]
@[simp] theorem State.setShad_exch (s : State) (p o : Nat) (v : Word) : (s.setShad p o v).exch = s.exch := by rw [State.setShad]
@[simp] theorem State.setShad_bad (s : State) (p o : Nat) (v : Word) : (s.setShad p o v).bad = s.bad := by rw [State.setShad]
@[simp] theorem State.setShad_tb (s : State) (p o : Nat) (v : Word) : (s.setShad p o v).tb = s.tb := by rw [State.setShad]
@[simp] theorem State.setShad_disc (s : State) (p o : Nat) (v : Word) : (s.setShad p o v).disc = s.disc := by rw [State.setShad]
@[simp] theorem State.setShad_touts (s : State) (p o : Nat) (v : Word) : (s.setShad p o v).touts = s.touts := by rw [State.setShad]
@[simp] theorem State.setShad_pulses (s : State) (p o : Nat) (v : Word) : (s.setShad p o v).pulses = s.pulses := by rw [State.setShad]
@[simp] theorem State.setShad_ppsLast (s : State) (p o : Nat) (v : Word) : (s.setShad p o v).ppsLast = s.ppsLast := by rw [State.setShad]
@[simp] theorem State.setShad_tinArms (s : State) (p o : Nat) (v : Word) : (s.setShad p o v).tinArms = s.tinArms := by rw [State.setShad]
@[simp] theorem State.setShad_tins (s : State) (p o : Nat) (v : Word) : (s.setShad p o v).tins = s.tins := by rw [State.setShad]
@[simp] theorem State.setShad_sol (s : State) (p o : Nat) (v : Word) : (s.setShad p o v).sol = s.sol := by rw [State.setShad]
@[simp] theorem State.setShad_lanes (s : State) (p o : Nat) (v : Word) : (s.setShad p o v).lanes = s.lanes := by rw [State.setShad]
@[simp] theorem State.setShad_chains (s : State) (p o : Nat) (v : Word) : (s.setShad p o v).chains = s.chains := by rw [State.setShad]
@[simp] theorem State.setShad_groups (s : State) (p o : Nat) (v : Word) : (s.setShad p o v).groups = s.groups := by rw [State.setShad]
@[simp] theorem State.setShad_fecs (s : State) (p o : Nat) (v : Word) : (s.setShad p o v).fecs = s.fecs := by rw [State.setShad]
@[simp] theorem State.setShad_rl (s : State) (p o : Nat) (v : Word) : (s.setShad p o v).rl = s.rl := by rw [State.setShad]
@[simp] theorem State.setShad_jobs (s : State) (p o : Nat) (v : Word) : (s.setShad p o v).jobs = s.jobs := by rw [State.setShad]
@[simp] theorem State.setShad_jobSeq (s : State) (p o : Nat) (v : Word) : (s.setShad p o v).jobSeq = s.jobSeq := by rw [State.setShad]
@[simp] theorem State.setShad_nextSnap (s : State) (p o : Nat) (v : Word) : (s.setShad p o v).nextSnap = s.nextSnap := by rw [State.setShad]
@[simp] theorem State.setShad_floorJob (s : State) (p o : Nat) (v : Word) : (s.setShad p o v).floorJob = s.floorJob := by rw [State.setShad]
@[simp] theorem State.setShad_rrPhase (s : State) (p o : Nat) (v : Word) : (s.setShad p o v).rrPhase = s.rrPhase := by rw [State.setShad]
@[simp] theorem State.setShad_cells (s : State) (p o : Nat) (v : Word) : (s.setShad p o v).cells = s.cells := by rw [State.setShad]
@[simp] theorem State.setShad_chans (s : State) (p o : Nat) (v : Word) : (s.setShad p o v).chans = s.chans := by rw [State.setShad]
@[simp] theorem State.setShad_placeHeat (s : State) (p o : Nat) (v : Word) : (s.setShad p o v).placeHeat = s.placeHeat := by rw [State.setShad]
@[simp] theorem State.setShad_subs (s : State) (p o : Nat) (v : Word) : (s.setShad p o v).subs = s.subs := by rw [State.setShad]
@[simp] theorem State.setShad_nav (s : State) (p o : Nat) (v : Word) : (s.setShad p o v).nav = s.nav := by rw [State.setShad]
@[simp] theorem State.setShad_auth (s : State) (p o : Nat) (v : Word) : (s.setShad p o v).auth = s.auth := by rw [State.setShad]
@[simp] theorem State.setShad_eth (s : State) (p o : Nat) (v : Word) : (s.setShad p o v).eth = s.eth := by rw [State.setShad]
@[simp] theorem State.setShad_ptp (s : State) (p o : Nat) (v : Word) : (s.setShad p o v).ptp = s.ptp := by rw [State.setShad]
@[simp] theorem State.setShad_steps (s : State) (p o : Nat) (v : Word) : (s.setShad p o v).steps = s.steps := by rw [State.setShad]
@[simp] theorem State.setShad_uarts (s : State) (p o : Nat) (v : Word) : (s.setShad p o v).uarts = s.uarts := by rw [State.setShad]
@[simp] theorem State.setShad_assay (s : State) (p o : Nat) (v : Word) : (s.setShad p o v).assay = s.assay := by rw [State.setShad]
@[simp] theorem State.setShad_upd (s : State) (p o : Nat) (v : Word) : (s.setShad p o v).upd = s.upd := by rw [State.setShad]
@[simp] theorem State.setShad_boot (s : State) (p o : Nat) (v : Word) : (s.setShad p o v).boot = s.boot := by rw [State.setShad]
@[simp] theorem State.setShad_flash (s : State) (p o : Nat) (v : Word) : (s.setShad p o v).flash = s.flash := by rw [State.setShad]
@[simp] theorem State.setShad_alive (s : State) (p o : Nat) (v : Word) : (s.setShad p o v).alive = s.alive := by rw [State.setShad]
@[simp] theorem State.setShad_fuses (s : State) (p o : Nat) (v : Word) : (s.setShad p o v).fuses = s.fuses := by rw [State.setShad]
@[simp] theorem State.setShad_armAt (s : State) (p o : Nat) (v : Word) : (s.setShad p o v).armAt = s.armAt := by rw [State.setShad]
@[simp] theorem State.setShad_el (s : State) (p o : Nat) (v : Word) : (s.setShad p o v).el = s.el := by rw [State.setShad]
@[simp] theorem State.setShad_heat (s : State) (p o : Nat) (v : Word) : (s.setShad p o v).heat = s.heat := by rw [State.setShad]
@[simp] theorem State.setShad_cmd (s : State) (p o : Nat) (v : Word) : (s.setShad p o v).cmd = s.cmd := by rw [State.setShad]
@[simp] theorem State.setShad_host (s : State) (p o : Nat) (v : Word) : (s.setShad p o v).host = s.host := by rw [State.setShad]
@[simp] theorem State.setShad_fault (s : State) (p o : Nat) (v : Word) : (s.setShad p o v).fault = s.fault := by rw [State.setShad]
@[simp] theorem State.setShad_log (s : State) (p o : Nat) (v : Word) : (s.setShad p o v).log = s.log := by rw [State.setShad]
@[simp] theorem State.setShad_bk (s : State) (p o : Nat) (v : Word) : (s.setShad p o v).bk = s.bk := by rw [State.setShad]
@[simp] theorem State.setShad_io33 (s : State) (p o : Nat) (v : Word) : (s.setShad p o v).io33 = s.io33 := by rw [State.setShad]
@[simp] theorem State.setShad_snaps (s : State) (p o : Nat) (v : Word) : (s.setShad p o v).snaps = s.snaps := by rw [State.setShad]
@[simp] theorem State.setShad_snapMem (s : State) (p o : Nat) (v : Word) : (s.setShad p o v).snapMem = s.snapMem := by rw [State.setShad]
@[simp] theorem State.setShad_work (s : State) (p o : Nat) (v : Word) : (s.setShad p o v).work = s.work := by rw [State.setShad]
@[simp] theorem State.setShad_lateFrames (s : State) (p o : Nat) (v : Word) : (s.setShad p o v).lateFrames = s.lateFrames := by rw [State.setShad]
@[simp] theorem State.setShad_lateUnits (s : State) (p o : Nat) (v : Word) : (s.setShad p o v).lateUnits = s.lateUnits := by rw [State.setShad]
@[simp] theorem State.setShad_por (s : State) (p o : Nat) (v : Word) : (s.setShad p o v).por = s.por := by rw [State.setShad]

@[simp] theorem State.setHm_pending (s : State) (a : Nat) (v : Word) : (s.setHm a v).pending = s.pending := by rw [State.setHm]
@[simp] theorem State.setHm_inReset (s : State) (a : Nat) (v : Word) : (s.setHm a v).inReset = s.inReset := by rw [State.setHm]
@[simp] theorem State.setHm_regs (s : State) (a : Nat) (v : Word) : (s.setHm a v).regs = s.regs := by rw [State.setHm]
@[simp] theorem State.setHm_shadow (s : State) (a : Nat) (v : Word) : (s.setHm a v).shadow = s.shadow := by rw [State.setHm]
@[simp] theorem State.setHm_grp (s : State) (a : Nat) (v : Word) : (s.setHm a v).grp = s.grp := by rw [State.setHm]
@[simp] theorem State.setHm_goCnt (s : State) (a : Nat) (v : Word) : (s.setHm a v).goCnt = s.goCnt := by rw [State.setHm]
@[simp] theorem State.setHm_hostRead (s : State) (a : Nat) (v : Word) : (s.setHm a v).hostRead = s.hostRead := by rw [State.setHm]
@[simp] theorem State.setHm_outbox (s : State) (a : Nat) (v : Word) : (s.setHm a v).outbox = s.outbox := by rw [State.setHm]
@[simp] theorem State.setHm_freeCtr (s : State) (a : Nat) (v : Word) : (s.setHm a v).freeCtr = s.freeCtr := by rw [State.setHm]
@[simp] theorem State.setHm_msixReq (s : State) (a : Nat) (v : Word) : (s.setHm a v).msixReq = s.msixReq := by rw [State.setHm]
@[simp] theorem State.setHm_msixMask (s : State) (a : Nat) (v : Word) : (s.setHm a v).msixMask = s.msixMask := by rw [State.setHm]
@[simp] theorem State.setHm_msixPba (s : State) (a : Nat) (v : Word) : (s.setHm a v).msixPba = s.msixPba := by rw [State.setHm]
@[simp] theorem State.setHm_msixFuncMask (s : State) (a : Nat) (v : Word) : (s.setHm a v).msixFuncMask = s.msixFuncMask := by rw [State.setHm]
@[simp] theorem State.setHm_msixOn (s : State) (a : Nat) (v : Word) : (s.setHm a v).msixOn = s.msixOn := by rw [State.setHm]
@[simp] theorem State.setHm_cores (s : State) (a : Nat) (v : Word) : (s.setHm a v).cores = s.cores := by rw [State.setHm]
@[simp] theorem State.setHm_measRam (s : State) (a : Nat) (v : Word) : (s.setHm a v).measRam = s.measRam := by rw [State.setHm]
@[simp] theorem State.setHm_exch (s : State) (a : Nat) (v : Word) : (s.setHm a v).exch = s.exch := by rw [State.setHm]
@[simp] theorem State.setHm_bad (s : State) (a : Nat) (v : Word) : (s.setHm a v).bad = s.bad := by rw [State.setHm]
@[simp] theorem State.setHm_tb (s : State) (a : Nat) (v : Word) : (s.setHm a v).tb = s.tb := by rw [State.setHm]
@[simp] theorem State.setHm_disc (s : State) (a : Nat) (v : Word) : (s.setHm a v).disc = s.disc := by rw [State.setHm]
@[simp] theorem State.setHm_touts (s : State) (a : Nat) (v : Word) : (s.setHm a v).touts = s.touts := by rw [State.setHm]
@[simp] theorem State.setHm_pulses (s : State) (a : Nat) (v : Word) : (s.setHm a v).pulses = s.pulses := by rw [State.setHm]
@[simp] theorem State.setHm_ppsLast (s : State) (a : Nat) (v : Word) : (s.setHm a v).ppsLast = s.ppsLast := by rw [State.setHm]
@[simp] theorem State.setHm_tinArms (s : State) (a : Nat) (v : Word) : (s.setHm a v).tinArms = s.tinArms := by rw [State.setHm]
@[simp] theorem State.setHm_tins (s : State) (a : Nat) (v : Word) : (s.setHm a v).tins = s.tins := by rw [State.setHm]
@[simp] theorem State.setHm_sol (s : State) (a : Nat) (v : Word) : (s.setHm a v).sol = s.sol := by rw [State.setHm]
@[simp] theorem State.setHm_lanes (s : State) (a : Nat) (v : Word) : (s.setHm a v).lanes = s.lanes := by rw [State.setHm]
@[simp] theorem State.setHm_chains (s : State) (a : Nat) (v : Word) : (s.setHm a v).chains = s.chains := by rw [State.setHm]
@[simp] theorem State.setHm_groups (s : State) (a : Nat) (v : Word) : (s.setHm a v).groups = s.groups := by rw [State.setHm]
@[simp] theorem State.setHm_fecs (s : State) (a : Nat) (v : Word) : (s.setHm a v).fecs = s.fecs := by rw [State.setHm]
@[simp] theorem State.setHm_rl (s : State) (a : Nat) (v : Word) : (s.setHm a v).rl = s.rl := by rw [State.setHm]
@[simp] theorem State.setHm_jobs (s : State) (a : Nat) (v : Word) : (s.setHm a v).jobs = s.jobs := by rw [State.setHm]
@[simp] theorem State.setHm_jobSeq (s : State) (a : Nat) (v : Word) : (s.setHm a v).jobSeq = s.jobSeq := by rw [State.setHm]
@[simp] theorem State.setHm_nextSnap (s : State) (a : Nat) (v : Word) : (s.setHm a v).nextSnap = s.nextSnap := by rw [State.setHm]
@[simp] theorem State.setHm_floorJob (s : State) (a : Nat) (v : Word) : (s.setHm a v).floorJob = s.floorJob := by rw [State.setHm]
@[simp] theorem State.setHm_rrPhase (s : State) (a : Nat) (v : Word) : (s.setHm a v).rrPhase = s.rrPhase := by rw [State.setHm]
@[simp] theorem State.setHm_cells (s : State) (a : Nat) (v : Word) : (s.setHm a v).cells = s.cells := by rw [State.setHm]
@[simp] theorem State.setHm_chans (s : State) (a : Nat) (v : Word) : (s.setHm a v).chans = s.chans := by rw [State.setHm]
@[simp] theorem State.setHm_placeHeat (s : State) (a : Nat) (v : Word) : (s.setHm a v).placeHeat = s.placeHeat := by rw [State.setHm]
@[simp] theorem State.setHm_subs (s : State) (a : Nat) (v : Word) : (s.setHm a v).subs = s.subs := by rw [State.setHm]
@[simp] theorem State.setHm_nav (s : State) (a : Nat) (v : Word) : (s.setHm a v).nav = s.nav := by rw [State.setHm]
@[simp] theorem State.setHm_auth (s : State) (a : Nat) (v : Word) : (s.setHm a v).auth = s.auth := by rw [State.setHm]
@[simp] theorem State.setHm_eth (s : State) (a : Nat) (v : Word) : (s.setHm a v).eth = s.eth := by rw [State.setHm]
@[simp] theorem State.setHm_ptp (s : State) (a : Nat) (v : Word) : (s.setHm a v).ptp = s.ptp := by rw [State.setHm]
@[simp] theorem State.setHm_steps (s : State) (a : Nat) (v : Word) : (s.setHm a v).steps = s.steps := by rw [State.setHm]
@[simp] theorem State.setHm_uarts (s : State) (a : Nat) (v : Word) : (s.setHm a v).uarts = s.uarts := by rw [State.setHm]
@[simp] theorem State.setHm_assay (s : State) (a : Nat) (v : Word) : (s.setHm a v).assay = s.assay := by rw [State.setHm]
@[simp] theorem State.setHm_upd (s : State) (a : Nat) (v : Word) : (s.setHm a v).upd = s.upd := by rw [State.setHm]
@[simp] theorem State.setHm_boot (s : State) (a : Nat) (v : Word) : (s.setHm a v).boot = s.boot := by rw [State.setHm]
@[simp] theorem State.setHm_flash (s : State) (a : Nat) (v : Word) : (s.setHm a v).flash = s.flash := by rw [State.setHm]
@[simp] theorem State.setHm_alive (s : State) (a : Nat) (v : Word) : (s.setHm a v).alive = s.alive := by rw [State.setHm]
@[simp] theorem State.setHm_fuses (s : State) (a : Nat) (v : Word) : (s.setHm a v).fuses = s.fuses := by rw [State.setHm]
@[simp] theorem State.setHm_armAt (s : State) (a : Nat) (v : Word) : (s.setHm a v).armAt = s.armAt := by rw [State.setHm]
@[simp] theorem State.setHm_el (s : State) (a : Nat) (v : Word) : (s.setHm a v).el = s.el := by rw [State.setHm]
@[simp] theorem State.setHm_heat (s : State) (a : Nat) (v : Word) : (s.setHm a v).heat = s.heat := by rw [State.setHm]
@[simp] theorem State.setHm_cmd (s : State) (a : Nat) (v : Word) : (s.setHm a v).cmd = s.cmd := by rw [State.setHm]
@[simp] theorem State.setHm_host (s : State) (a : Nat) (v : Word) : (s.setHm a v).host = s.host := by rw [State.setHm]
@[simp] theorem State.setHm_fault (s : State) (a : Nat) (v : Word) : (s.setHm a v).fault = s.fault := by rw [State.setHm]
@[simp] theorem State.setHm_log (s : State) (a : Nat) (v : Word) : (s.setHm a v).log = s.log := by rw [State.setHm]
@[simp] theorem State.setHm_bk (s : State) (a : Nat) (v : Word) : (s.setHm a v).bk = s.bk := by rw [State.setHm]
@[simp] theorem State.setHm_io33 (s : State) (a : Nat) (v : Word) : (s.setHm a v).io33 = s.io33 := by rw [State.setHm]
@[simp] theorem State.setHm_snaps (s : State) (a : Nat) (v : Word) : (s.setHm a v).snaps = s.snaps := by rw [State.setHm]
@[simp] theorem State.setHm_snapMem (s : State) (a : Nat) (v : Word) : (s.setHm a v).snapMem = s.snapMem := by rw [State.setHm]
@[simp] theorem State.setHm_work (s : State) (a : Nat) (v : Word) : (s.setHm a v).work = s.work := by rw [State.setHm]
@[simp] theorem State.setHm_lateFrames (s : State) (a : Nat) (v : Word) : (s.setHm a v).lateFrames = s.lateFrames := by rw [State.setHm]
@[simp] theorem State.setHm_lateUnits (s : State) (a : Nat) (v : Word) : (s.setHm a v).lateUnits = s.lateUnits := by rw [State.setHm]
@[simp] theorem State.setHm_por (s : State) (a : Nat) (v : Word) : (s.setHm a v).por = s.por := by rw [State.setHm]

@[simp] theorem State.emit_pending (s : State) (o : Output) : (s.emit o).pending = s.pending := by rw [State.emit]
@[simp] theorem State.emit_inReset (s : State) (o : Output) : (s.emit o).inReset = s.inReset := by rw [State.emit]
@[simp] theorem State.emit_regs (s : State) (o : Output) : (s.emit o).regs = s.regs := by rw [State.emit]
@[simp] theorem State.emit_shadow (s : State) (o : Output) : (s.emit o).shadow = s.shadow := by rw [State.emit]
@[simp] theorem State.emit_grp (s : State) (o : Output) : (s.emit o).grp = s.grp := by rw [State.emit]
@[simp] theorem State.emit_goCnt (s : State) (o : Output) : (s.emit o).goCnt = s.goCnt := by rw [State.emit]
@[simp] theorem State.emit_hostMem (s : State) (o : Output) : (s.emit o).hostMem = s.hostMem := by rw [State.emit]
@[simp] theorem State.emit_hostRead (s : State) (o : Output) : (s.emit o).hostRead = s.hostRead := by rw [State.emit]
@[simp] theorem State.emit_freeCtr (s : State) (o : Output) : (s.emit o).freeCtr = s.freeCtr := by rw [State.emit]
@[simp] theorem State.emit_msixReq (s : State) (o : Output) : (s.emit o).msixReq = s.msixReq := by rw [State.emit]
@[simp] theorem State.emit_msixMask (s : State) (o : Output) : (s.emit o).msixMask = s.msixMask := by rw [State.emit]
@[simp] theorem State.emit_msixPba (s : State) (o : Output) : (s.emit o).msixPba = s.msixPba := by rw [State.emit]
@[simp] theorem State.emit_msixFuncMask (s : State) (o : Output) : (s.emit o).msixFuncMask = s.msixFuncMask := by rw [State.emit]
@[simp] theorem State.emit_msixOn (s : State) (o : Output) : (s.emit o).msixOn = s.msixOn := by rw [State.emit]
@[simp] theorem State.emit_cores (s : State) (o : Output) : (s.emit o).cores = s.cores := by rw [State.emit]
@[simp] theorem State.emit_measRam (s : State) (o : Output) : (s.emit o).measRam = s.measRam := by rw [State.emit]
@[simp] theorem State.emit_exch (s : State) (o : Output) : (s.emit o).exch = s.exch := by rw [State.emit]
@[simp] theorem State.emit_bad (s : State) (o : Output) : (s.emit o).bad = s.bad := by rw [State.emit]
@[simp] theorem State.emit_tb (s : State) (o : Output) : (s.emit o).tb = s.tb := by rw [State.emit]
@[simp] theorem State.emit_disc (s : State) (o : Output) : (s.emit o).disc = s.disc := by rw [State.emit]
@[simp] theorem State.emit_touts (s : State) (o : Output) : (s.emit o).touts = s.touts := by rw [State.emit]
@[simp] theorem State.emit_pulses (s : State) (o : Output) : (s.emit o).pulses = s.pulses := by rw [State.emit]
@[simp] theorem State.emit_ppsLast (s : State) (o : Output) : (s.emit o).ppsLast = s.ppsLast := by rw [State.emit]
@[simp] theorem State.emit_tinArms (s : State) (o : Output) : (s.emit o).tinArms = s.tinArms := by rw [State.emit]
@[simp] theorem State.emit_tins (s : State) (o : Output) : (s.emit o).tins = s.tins := by rw [State.emit]
@[simp] theorem State.emit_sol (s : State) (o : Output) : (s.emit o).sol = s.sol := by rw [State.emit]
@[simp] theorem State.emit_lanes (s : State) (o : Output) : (s.emit o).lanes = s.lanes := by rw [State.emit]
@[simp] theorem State.emit_chains (s : State) (o : Output) : (s.emit o).chains = s.chains := by rw [State.emit]
@[simp] theorem State.emit_groups (s : State) (o : Output) : (s.emit o).groups = s.groups := by rw [State.emit]
@[simp] theorem State.emit_fecs (s : State) (o : Output) : (s.emit o).fecs = s.fecs := by rw [State.emit]
@[simp] theorem State.emit_rl (s : State) (o : Output) : (s.emit o).rl = s.rl := by rw [State.emit]
@[simp] theorem State.emit_jobs (s : State) (o : Output) : (s.emit o).jobs = s.jobs := by rw [State.emit]
@[simp] theorem State.emit_jobSeq (s : State) (o : Output) : (s.emit o).jobSeq = s.jobSeq := by rw [State.emit]
@[simp] theorem State.emit_nextSnap (s : State) (o : Output) : (s.emit o).nextSnap = s.nextSnap := by rw [State.emit]
@[simp] theorem State.emit_floorJob (s : State) (o : Output) : (s.emit o).floorJob = s.floorJob := by rw [State.emit]
@[simp] theorem State.emit_rrPhase (s : State) (o : Output) : (s.emit o).rrPhase = s.rrPhase := by rw [State.emit]
@[simp] theorem State.emit_cells (s : State) (o : Output) : (s.emit o).cells = s.cells := by rw [State.emit]
@[simp] theorem State.emit_chans (s : State) (o : Output) : (s.emit o).chans = s.chans := by rw [State.emit]
@[simp] theorem State.emit_placeHeat (s : State) (o : Output) : (s.emit o).placeHeat = s.placeHeat := by rw [State.emit]
@[simp] theorem State.emit_subs (s : State) (o : Output) : (s.emit o).subs = s.subs := by rw [State.emit]
@[simp] theorem State.emit_nav (s : State) (o : Output) : (s.emit o).nav = s.nav := by rw [State.emit]
@[simp] theorem State.emit_auth (s : State) (o : Output) : (s.emit o).auth = s.auth := by rw [State.emit]
@[simp] theorem State.emit_eth (s : State) (o : Output) : (s.emit o).eth = s.eth := by rw [State.emit]
@[simp] theorem State.emit_ptp (s : State) (o : Output) : (s.emit o).ptp = s.ptp := by rw [State.emit]
@[simp] theorem State.emit_steps (s : State) (o : Output) : (s.emit o).steps = s.steps := by rw [State.emit]
@[simp] theorem State.emit_uarts (s : State) (o : Output) : (s.emit o).uarts = s.uarts := by rw [State.emit]
@[simp] theorem State.emit_assay (s : State) (o : Output) : (s.emit o).assay = s.assay := by rw [State.emit]
@[simp] theorem State.emit_upd (s : State) (o : Output) : (s.emit o).upd = s.upd := by rw [State.emit]
@[simp] theorem State.emit_boot (s : State) (o : Output) : (s.emit o).boot = s.boot := by rw [State.emit]
@[simp] theorem State.emit_flash (s : State) (o : Output) : (s.emit o).flash = s.flash := by rw [State.emit]
@[simp] theorem State.emit_alive (s : State) (o : Output) : (s.emit o).alive = s.alive := by rw [State.emit]
@[simp] theorem State.emit_fuses (s : State) (o : Output) : (s.emit o).fuses = s.fuses := by rw [State.emit]
@[simp] theorem State.emit_armAt (s : State) (o : Output) : (s.emit o).armAt = s.armAt := by rw [State.emit]
@[simp] theorem State.emit_el (s : State) (o : Output) : (s.emit o).el = s.el := by rw [State.emit]
@[simp] theorem State.emit_heat (s : State) (o : Output) : (s.emit o).heat = s.heat := by rw [State.emit]
@[simp] theorem State.emit_cmd (s : State) (o : Output) : (s.emit o).cmd = s.cmd := by rw [State.emit]
@[simp] theorem State.emit_host (s : State) (o : Output) : (s.emit o).host = s.host := by rw [State.emit]
@[simp] theorem State.emit_fault (s : State) (o : Output) : (s.emit o).fault = s.fault := by rw [State.emit]
@[simp] theorem State.emit_log (s : State) (o : Output) : (s.emit o).log = s.log := by rw [State.emit]
@[simp] theorem State.emit_bk (s : State) (o : Output) : (s.emit o).bk = s.bk := by rw [State.emit]
@[simp] theorem State.emit_io33 (s : State) (o : Output) : (s.emit o).io33 = s.io33 := by rw [State.emit]
@[simp] theorem State.emit_snaps (s : State) (o : Output) : (s.emit o).snaps = s.snaps := by rw [State.emit]
@[simp] theorem State.emit_snapMem (s : State) (o : Output) : (s.emit o).snapMem = s.snapMem := by rw [State.emit]
@[simp] theorem State.emit_work (s : State) (o : Output) : (s.emit o).work = s.work := by rw [State.emit]
@[simp] theorem State.emit_lateFrames (s : State) (o : Output) : (s.emit o).lateFrames = s.lateFrames := by rw [State.emit]
@[simp] theorem State.emit_lateUnits (s : State) (o : Output) : (s.emit o).lateUnits = s.lateUnits := by rw [State.emit]
@[simp] theorem State.emit_por (s : State) (o : Output) : (s.emit o).por = s.por := by rw [State.emit]

@[simp] theorem State.bump_pending (s : State) : (s.bump).pending = s.pending := by rw [State.bump]
@[simp] theorem State.bump_inReset (s : State) : (s.bump).inReset = s.inReset := by rw [State.bump]
@[simp] theorem State.bump_regs (s : State) : (s.bump).regs = s.regs := by rw [State.bump]
@[simp] theorem State.bump_shadow (s : State) : (s.bump).shadow = s.shadow := by rw [State.bump]
@[simp] theorem State.bump_grp (s : State) : (s.bump).grp = s.grp := by rw [State.bump]
@[simp] theorem State.bump_goCnt (s : State) : (s.bump).goCnt = s.goCnt := by rw [State.bump]
@[simp] theorem State.bump_hostMem (s : State) : (s.bump).hostMem = s.hostMem := by rw [State.bump]
@[simp] theorem State.bump_hostRead (s : State) : (s.bump).hostRead = s.hostRead := by rw [State.bump]
@[simp] theorem State.bump_outbox (s : State) : (s.bump).outbox = s.outbox := by rw [State.bump]
@[simp] theorem State.bump_msixReq (s : State) : (s.bump).msixReq = s.msixReq := by rw [State.bump]
@[simp] theorem State.bump_msixMask (s : State) : (s.bump).msixMask = s.msixMask := by rw [State.bump]
@[simp] theorem State.bump_msixPba (s : State) : (s.bump).msixPba = s.msixPba := by rw [State.bump]
@[simp] theorem State.bump_msixFuncMask (s : State) : (s.bump).msixFuncMask = s.msixFuncMask := by rw [State.bump]
@[simp] theorem State.bump_msixOn (s : State) : (s.bump).msixOn = s.msixOn := by rw [State.bump]
@[simp] theorem State.bump_cores (s : State) : (s.bump).cores = s.cores := by rw [State.bump]
@[simp] theorem State.bump_measRam (s : State) : (s.bump).measRam = s.measRam := by rw [State.bump]
@[simp] theorem State.bump_exch (s : State) : (s.bump).exch = s.exch := by rw [State.bump]
@[simp] theorem State.bump_bad (s : State) : (s.bump).bad = s.bad := by rw [State.bump]
@[simp] theorem State.bump_tb (s : State) : (s.bump).tb = s.tb := by rw [State.bump]
@[simp] theorem State.bump_disc (s : State) : (s.bump).disc = s.disc := by rw [State.bump]
@[simp] theorem State.bump_touts (s : State) : (s.bump).touts = s.touts := by rw [State.bump]
@[simp] theorem State.bump_pulses (s : State) : (s.bump).pulses = s.pulses := by rw [State.bump]
@[simp] theorem State.bump_ppsLast (s : State) : (s.bump).ppsLast = s.ppsLast := by rw [State.bump]
@[simp] theorem State.bump_tinArms (s : State) : (s.bump).tinArms = s.tinArms := by rw [State.bump]
@[simp] theorem State.bump_tins (s : State) : (s.bump).tins = s.tins := by rw [State.bump]
@[simp] theorem State.bump_sol (s : State) : (s.bump).sol = s.sol := by rw [State.bump]
@[simp] theorem State.bump_lanes (s : State) : (s.bump).lanes = s.lanes := by rw [State.bump]
@[simp] theorem State.bump_chains (s : State) : (s.bump).chains = s.chains := by rw [State.bump]
@[simp] theorem State.bump_groups (s : State) : (s.bump).groups = s.groups := by rw [State.bump]
@[simp] theorem State.bump_fecs (s : State) : (s.bump).fecs = s.fecs := by rw [State.bump]
@[simp] theorem State.bump_rl (s : State) : (s.bump).rl = s.rl := by rw [State.bump]
@[simp] theorem State.bump_jobs (s : State) : (s.bump).jobs = s.jobs := by rw [State.bump]
@[simp] theorem State.bump_jobSeq (s : State) : (s.bump).jobSeq = s.jobSeq := by rw [State.bump]
@[simp] theorem State.bump_nextSnap (s : State) : (s.bump).nextSnap = s.nextSnap := by rw [State.bump]
@[simp] theorem State.bump_floorJob (s : State) : (s.bump).floorJob = s.floorJob := by rw [State.bump]
@[simp] theorem State.bump_rrPhase (s : State) : (s.bump).rrPhase = s.rrPhase := by rw [State.bump]
@[simp] theorem State.bump_cells (s : State) : (s.bump).cells = s.cells := by rw [State.bump]
@[simp] theorem State.bump_chans (s : State) : (s.bump).chans = s.chans := by rw [State.bump]
@[simp] theorem State.bump_placeHeat (s : State) : (s.bump).placeHeat = s.placeHeat := by rw [State.bump]
@[simp] theorem State.bump_subs (s : State) : (s.bump).subs = s.subs := by rw [State.bump]
@[simp] theorem State.bump_nav (s : State) : (s.bump).nav = s.nav := by rw [State.bump]
@[simp] theorem State.bump_auth (s : State) : (s.bump).auth = s.auth := by rw [State.bump]
@[simp] theorem State.bump_eth (s : State) : (s.bump).eth = s.eth := by rw [State.bump]
@[simp] theorem State.bump_ptp (s : State) : (s.bump).ptp = s.ptp := by rw [State.bump]
@[simp] theorem State.bump_steps (s : State) : (s.bump).steps = s.steps := by rw [State.bump]
@[simp] theorem State.bump_uarts (s : State) : (s.bump).uarts = s.uarts := by rw [State.bump]
@[simp] theorem State.bump_assay (s : State) : (s.bump).assay = s.assay := by rw [State.bump]
@[simp] theorem State.bump_upd (s : State) : (s.bump).upd = s.upd := by rw [State.bump]
@[simp] theorem State.bump_boot (s : State) : (s.bump).boot = s.boot := by rw [State.bump]
@[simp] theorem State.bump_flash (s : State) : (s.bump).flash = s.flash := by rw [State.bump]
@[simp] theorem State.bump_alive (s : State) : (s.bump).alive = s.alive := by rw [State.bump]
@[simp] theorem State.bump_fuses (s : State) : (s.bump).fuses = s.fuses := by rw [State.bump]
@[simp] theorem State.bump_armAt (s : State) : (s.bump).armAt = s.armAt := by rw [State.bump]
@[simp] theorem State.bump_el (s : State) : (s.bump).el = s.el := by rw [State.bump]
@[simp] theorem State.bump_heat (s : State) : (s.bump).heat = s.heat := by rw [State.bump]
@[simp] theorem State.bump_cmd (s : State) : (s.bump).cmd = s.cmd := by rw [State.bump]
@[simp] theorem State.bump_host (s : State) : (s.bump).host = s.host := by rw [State.bump]
@[simp] theorem State.bump_fault (s : State) : (s.bump).fault = s.fault := by rw [State.bump]
@[simp] theorem State.bump_log (s : State) : (s.bump).log = s.log := by rw [State.bump]
@[simp] theorem State.bump_bk (s : State) : (s.bump).bk = s.bk := by rw [State.bump]
@[simp] theorem State.bump_io33 (s : State) : (s.bump).io33 = s.io33 := by rw [State.bump]
@[simp] theorem State.bump_snaps (s : State) : (s.bump).snaps = s.snaps := by rw [State.bump]
@[simp] theorem State.bump_snapMem (s : State) : (s.bump).snapMem = s.snapMem := by rw [State.bump]
@[simp] theorem State.bump_work (s : State) : (s.bump).work = s.work := by rw [State.bump]
@[simp] theorem State.bump_lateFrames (s : State) : (s.bump).lateFrames = s.lateFrames := by rw [State.bump]
@[simp] theorem State.bump_lateUnits (s : State) : (s.bump).lateUnits = s.lateUnits := by rw [State.bump]
@[simp] theorem State.bump_por (s : State) : (s.bump).por = s.por := by rw [State.bump]

@[simp] theorem State.emit_outbox (s : State) (o : Output) : (s.emit o).outbox = o :: s.outbox := by rw [State.emit]
@[simp] theorem State.bump_freeCtr (s : State) : s.bump.freeCtr = s.freeCtr + 1 := by rw [State.bump]

end Sys2Proof.Machine
end

