-- ==== Sys2Proof/Laws/Ops.lean ====
section
/-! SUPPORT. What the shared operations over registers, interrupts and errors can do: the register each writes, and that
everything else stays but the interrupt requests and messages. -/

namespace Sys2Proof.Machine

/-- What two alike states have in common beside registers. -/
def State.rest (s : State) : State :=
  { s with regs := [], msixReq := 0, msixPba := 0, outbox := s.outbox.filter fun o => !o.isMessage }

theorem alike_iff {s t : State} : Alike s t ↔ (∀ a, s.cell a = t.cell a) ∧ s.rest = t.rest := by
  constructor
  · rintro ⟨h1, h2, h3⟩
    refine ⟨h1, ?_⟩
    rw [← h3] at h2 ⊢
    simp only [State.rest]
    rw [h2]
  · rintro ⟨h1, h2⟩
    refine ⟨h1, congrArg State.outbox h2, ?_⟩
    have : ({ s.rest with regs := t.regs, outbox := t.outbox, msixReq := t.msixReq, msixPba := t.msixPba } : State) =
      { t.rest with regs := t.regs, outbox := t.outbox, msixReq := t.msixReq, msixPba := t.msixPba } := by rw [h2]
    exact this

theorem Alike.refl (s : State) : Alike s s := alike_iff.2 ⟨fun _ => rfl, rfl⟩

theorem Alike.trans {s t u : State} (h : Alike s t) (g : Alike t u) : Alike s u := by
  rw [alike_iff] at *
  exact ⟨fun a => (h.1 a).trans (g.1 a), h.2.trans g.2⟩

theorem State.reg_cell (s : State) (p o : Nat) : s.reg p o = s.cell (addr p o) := rfl

@[simp] theorem State.cell_setReg (s : State) (p o : Nat) (v : Word) (a : Nat) :
    (s.setReg p o v).cell a = if a = addr p o then v else s.cell a := by
  unfold State.cell State.setReg
  split
  · next h => subst h; simp
  · next h => exact Tab.get_set_ne _ _ _ h

@[simp] theorem State.rest_setReg (s : State) (p o : Nat) (v : Word) : (s.setReg p o v).rest = s.rest := rfl

@[simp] theorem State.cell_emit (s : State) (o : Output) (a : Nat) : (s.emit o).cell a = s.cell a := rfl
@[simp] theorem State.cell_bump (s : State) (a : Nat) : s.bump.cell a = s.cell a := rfl

@[simp] theorem State.cell_msixSend (s : State) (v a : Nat) : (s.msixSend v).cell a = s.cell a := by
  unfold State.msixSend; split <;> (try split) <;> rfl

@[simp] theorem State.rest_msixSend (s : State) (v : Nat) : (s.msixSend v).rest = s.rest := by
  unfold State.msixSend; split <;> (try split) <;> rfl

@[simp] theorem State.cell_syncVec (s : State) (v a : Nat) : (s.syncVec v).cell a = s.cell a := by
  unfold State.syncVec
  simp only
  split
  · split
    · rfl
    · exact State.cell_msixSend _ v a
  · rfl

@[simp] theorem State.rest_syncVec (s : State) (v : Nat) : (s.syncVec v).rest = s.rest := by
  unfold State.syncVec
  simp only
  split
  · split
    · rfl
    · exact State.rest_msixSend _ v
  · rfl

@[simp] theorem State.cell_syncIrq (s : State) (a : Nat) : s.syncIrq.cell a = s.cell a := by
  unfold State.syncIrq
  generalize List.range 32 = l
  induction l generalizing s with
  | nil => rfl
  | cons v l ih => rw [List.foldl_cons, ih, State.cell_syncVec]

@[simp] theorem State.rest_syncIrq (s : State) : s.syncIrq.rest = s.rest := by
  unfold State.syncIrq
  generalize List.range 32 = l
  induction l generalizing s with
  | nil => rfl
  | cons v l ih => rw [List.foldl_cons, ih, State.rest_syncVec]

/-- Raising an event writes PG_IRQ_RAW and nothing else but requests and messages. -/
theorem State.cell_raise_irq (s : State) (p bit a : Nat) : (s.raise p bit).cell a = (s.irq p bit).cell a := by
  unfold State.raise State.irq
  simp only
  split
  · rw [State.cell_syncVec]
  · rfl

@[simp] theorem State.cell_raise (s : State) (p bit a : Nat) :
    (s.raise p bit).cell a = if a = addr p 0x014 then s.cell a ||| BitVec.ofNat 32 (2 ^ bit) else s.cell a := by
  rw [State.cell_raise_irq]; unfold State.irq; rw [State.cell_setReg]
  split
  · next h => rw [h]; rfl
  · rfl

@[simp] theorem State.rest_raise (s : State) (p bit : Nat) : (s.raise p bit).rest = s.rest := by
  unfold State.raise
  simp only
  split
  · rw [State.rest_syncVec, State.rest_setReg]
  · rfl

@[simp] theorem State.cell_irq (s : State) (p bit a : Nat) :
    (s.irq p bit).cell a = if a = addr p 0x014 then s.cell a ||| BitVec.ofNat 32 (2 ^ bit) else s.cell a := by
  rw [← State.cell_raise_irq, State.cell_raise]

@[simp] theorem State.rest_irq (s : State) (p bit : Nat) : (s.irq p bit).rest = s.rest := rfl

@[simp] theorem State.rest_count (s : State) (p o : Nat) : (s.count p o).rest = s.rest := rfl

@[simp] theorem State.cell_count (s : State) (p o a : Nat) :
    (s.count p o).cell a = if a = addr p o then cntUp (s.cell a) else s.cell a := by
  unfold State.count; rw [State.cell_setReg]
  split
  · next h => rw [h]; rfl
  · rfl

@[simp] theorem State.rest_countErr (s : State) (p : Nat) : (s.countErr p).rest = s.rest := by
  unfold State.countErr
  simp only
  split
  · rw [State.rest_raise, State.rest_count]
  · rfl

@[simp] theorem State.rest_capErr (s : State) (p code off : Nat) : (s.capErr p code off).rest = s.rest := by
  unfold State.capErr
  simp only
  split
  · exact State.rest_countErr s p
  · rw [State.rest_raise, State.rest_setReg, State.rest_countErr]

@[simp] theorem State.rest_setRf (s : State) (p o hi lo x : Nat) : (s.setRf p o hi lo x).rest = s.rest := rfl

@[simp] theorem State.cell_setRf (s : State) (p o hi lo x a : Nat) :
    (s.setRf p o hi lo x).cell a = if a = addr p o then setFld (s.cell a) hi lo x else s.cell a := by
  unfold State.setRf; rw [State.cell_setReg]
  split
  · next h => rw [h]; rfl
  · rfl

theorem Alike.reg {s t : State} (h : Alike s t) (p o : Nat) : s.reg p o = t.reg p o := h.1 _

theorem Alike.rf {s t : State} (h : Alike s t) (p o hi lo : Nat) : s.rf p o hi lo = t.rf p o hi lo := by
  unfold State.rf; rw [h.reg]

theorem Alike.symm {s t : State} (h : Alike s t) : Alike t s := by
  rw [alike_iff] at *; exact ⟨fun a => (h.1 a).symm, h.2.symm⟩

theorem Alike.setReg {s t : State} (h : Alike s t) (p o : Nat) (v : Word) : Alike (s.setReg p o v) (t.setReg p o v) := by
  rw [alike_iff] at *
  exact ⟨fun a => by simp [h.1], by simp [h.2]⟩

theorem Alike.setRf {s t : State} (h : Alike s t) (p o hi lo x : Nat) : Alike (s.setRf p o hi lo x) (t.setRf p o hi lo x) := by
  unfold State.setRf; rw [h.reg]; exact h.setReg _ _ _

theorem Alike.count {s t : State} (h : Alike s t) (p o : Nat) : Alike (s.count p o) (t.count p o) := by
  unfold State.count; rw [h.reg]; exact h.setReg _ _ _

theorem Alike.irq {s t : State} (h : Alike s t) (p bit : Nat) : Alike (s.irq p bit) (t.irq p bit) := by
  unfold State.irq; rw [h.reg]; exact h.setReg _ _ _

/-- Raising an event sets its bit. -/
theorem alike_raise (s : State) (p bit : Nat) : Alike (s.raise p bit) (s.irq p bit) :=
  alike_iff.2 ⟨State.cell_raise_irq s p bit, by rw [State.rest_raise, State.rest_irq]⟩

theorem Alike.raise {s t : State} (h : Alike s t) (p bit : Nat) : Alike (s.raise p bit) (t.raise p bit) :=
  (alike_raise s p bit).trans ((h.irq p bit).trans (alike_raise t p bit).symm)

theorem Alike.raise_irq {s t : State} (h : Alike s t) (p bit : Nat) : Alike (s.raise p bit) (t.irq p bit) :=
  (alike_raise s p bit).trans (h.irq p bit)

theorem Alike.countErr {s t : State} (h : Alike s t) (p : Nat) : Alike (s.countErr p) (t.countErr p) := by
  unfold State.countErr
  simp only
  rw [h.reg]
  split
  · exact (h.count _ _).raise _ _
  · exact h.count _ _

theorem Alike.capErr {s t : State} (h : Alike s t) (p code off : Nat) : Alike (s.capErr p code off) (t.capErr p code off) := by
  unfold State.capErr
  simp only
  rw [(h.countErr p).reg]
  split
  · exact h.countErr p
  · exact ((h.countErr p).setReg _ _ _).raise _ _

theorem Alike.emit {s t : State} (h : Alike s t) (o : Output) : Alike (s.emit o) (t.emit o) := by
  obtain ⟨h1, h2, h3⟩ := h
  refine ⟨h1, ?_, ?_⟩
  · show List.filter _ (o :: s.outbox) = List.filter _ (o :: t.outbox)
    rw [List.filter_cons, List.filter_cons, h2]
  · rw [← h3]; rfl

theorem alike_syncIrq (s : State) : Alike s.syncIrq s := alike_iff.2 ⟨State.cell_syncIrq s, State.rest_syncIrq s⟩

theorem alike_msixSend (s : State) (v : Nat) : Alike (s.msixSend v) s := alike_iff.2 ⟨fun a => State.cell_msixSend s v a, State.rest_msixSend s v⟩

theorem State.rest_pending (s : State) : s.rest.pending = s.pending := rfl
theorem State.rest_inReset (s : State) : s.rest.inReset = s.inReset := rfl
theorem State.rest_shadow (s : State) : s.rest.shadow = s.shadow := rfl
theorem State.rest_grp (s : State) : s.rest.grp = s.grp := rfl
theorem State.rest_goCnt (s : State) : s.rest.goCnt = s.goCnt := rfl
theorem State.rest_hostMem (s : State) : s.rest.hostMem = s.hostMem := rfl
theorem State.rest_hostRead (s : State) : s.rest.hostRead = s.hostRead := rfl
theorem State.rest_freeCtr (s : State) : s.rest.freeCtr = s.freeCtr := rfl
theorem State.rest_msixMask (s : State) : s.rest.msixMask = s.msixMask := rfl
theorem State.rest_msixFuncMask (s : State) : s.rest.msixFuncMask = s.msixFuncMask := rfl
theorem State.rest_msixOn (s : State) : s.rest.msixOn = s.msixOn := rfl
theorem State.rest_cores (s : State) : s.rest.cores = s.cores := rfl
theorem State.rest_measRam (s : State) : s.rest.measRam = s.measRam := rfl
theorem State.rest_exch (s : State) : s.rest.exch = s.exch := rfl
theorem State.rest_bad (s : State) : s.rest.bad = s.bad := rfl
theorem State.rest_tb (s : State) : s.rest.tb = s.tb := rfl
theorem State.rest_disc (s : State) : s.rest.disc = s.disc := rfl
theorem State.rest_touts (s : State) : s.rest.touts = s.touts := rfl
theorem State.rest_pulses (s : State) : s.rest.pulses = s.pulses := rfl
theorem State.rest_ppsLast (s : State) : s.rest.ppsLast = s.ppsLast := rfl
theorem State.rest_tinArms (s : State) : s.rest.tinArms = s.tinArms := rfl
theorem State.rest_tins (s : State) : s.rest.tins = s.tins := rfl
theorem State.rest_sol (s : State) : s.rest.sol = s.sol := rfl
theorem State.rest_lanes (s : State) : s.rest.lanes = s.lanes := rfl
theorem State.rest_chains (s : State) : s.rest.chains = s.chains := rfl
theorem State.rest_groups (s : State) : s.rest.groups = s.groups := rfl
theorem State.rest_fecs (s : State) : s.rest.fecs = s.fecs := rfl
theorem State.rest_rl (s : State) : s.rest.rl = s.rl := rfl
theorem State.rest_jobs (s : State) : s.rest.jobs = s.jobs := rfl
theorem State.rest_jobSeq (s : State) : s.rest.jobSeq = s.jobSeq := rfl
theorem State.rest_nextSnap (s : State) : s.rest.nextSnap = s.nextSnap := rfl
theorem State.rest_floorJob (s : State) : s.rest.floorJob = s.floorJob := rfl
theorem State.rest_rrPhase (s : State) : s.rest.rrPhase = s.rrPhase := rfl
theorem State.rest_cells (s : State) : s.rest.cells = s.cells := rfl
theorem State.rest_chans (s : State) : s.rest.chans = s.chans := rfl
theorem State.rest_placeHeat (s : State) : s.rest.placeHeat = s.placeHeat := rfl
theorem State.rest_subs (s : State) : s.rest.subs = s.subs := rfl
theorem State.rest_nav (s : State) : s.rest.nav = s.nav := rfl
theorem State.rest_auth (s : State) : s.rest.auth = s.auth := rfl
theorem State.rest_eth (s : State) : s.rest.eth = s.eth := rfl
theorem State.rest_ptp (s : State) : s.rest.ptp = s.ptp := rfl
theorem State.rest_steps (s : State) : s.rest.steps = s.steps := rfl
theorem State.rest_uarts (s : State) : s.rest.uarts = s.uarts := rfl
theorem State.rest_assay (s : State) : s.rest.assay = s.assay := rfl
theorem State.rest_upd (s : State) : s.rest.upd = s.upd := rfl
theorem State.rest_boot (s : State) : s.rest.boot = s.boot := rfl
theorem State.rest_flash (s : State) : s.rest.flash = s.flash := rfl
theorem State.rest_alive (s : State) : s.rest.alive = s.alive := rfl
theorem State.rest_fuses (s : State) : s.rest.fuses = s.fuses := rfl
theorem State.rest_armAt (s : State) : s.rest.armAt = s.armAt := rfl
theorem State.rest_el (s : State) : s.rest.el = s.el := rfl
theorem State.rest_heat (s : State) : s.rest.heat = s.heat := rfl
theorem State.rest_cmd (s : State) : s.rest.cmd = s.cmd := rfl
theorem State.rest_host (s : State) : s.rest.host = s.host := rfl
theorem State.rest_fault (s : State) : s.rest.fault = s.fault := rfl
theorem State.rest_log (s : State) : s.rest.log = s.log := rfl
theorem State.rest_bk (s : State) : s.rest.bk = s.bk := rfl
theorem State.rest_io33 (s : State) : s.rest.io33 = s.io33 := rfl
theorem State.rest_snaps (s : State) : s.rest.snaps = s.snaps := rfl
theorem State.rest_snapMem (s : State) : s.rest.snapMem = s.snapMem := rfl
theorem State.rest_work (s : State) : s.rest.work = s.work := rfl
theorem State.rest_lateFrames (s : State) : s.rest.lateFrames = s.lateFrames := rfl
theorem State.rest_lateUnits (s : State) : s.rest.lateUnits = s.lateUnits := rfl
theorem State.rest_por (s : State) : s.rest.por = s.por := rfl

@[simp] theorem State.raise_pending (s : State) (p bit : Nat) : (s.raise p bit).pending = s.pending := by
  rw [← State.rest_pending (s.raise p bit), State.rest_raise, State.rest_pending]
@[simp] theorem State.raise_inReset (s : State) (p bit : Nat) : (s.raise p bit).inReset = s.inReset := by
  rw [← State.rest_inReset (s.raise p bit), State.rest_raise, State.rest_inReset]
@[simp] theorem State.raise_shadow (s : State) (p bit : Nat) : (s.raise p bit).shadow = s.shadow := by
  rw [← State.rest_shadow (s.raise p bit), State.rest_raise, State.rest_shadow]
@[simp] theorem State.raise_grp (s : State) (p bit : Nat) : (s.raise p bit).grp = s.grp := by
  rw [← State.rest_grp (s.raise p bit), State.rest_raise, State.rest_grp]
@[simp] theorem State.raise_goCnt (s : State) (p bit : Nat) : (s.raise p bit).goCnt = s.goCnt := by
  rw [← State.rest_goCnt (s.raise p bit), State.rest_raise, State.rest_goCnt]
@[simp] theorem State.raise_hostMem (s : State) (p bit : Nat) : (s.raise p bit).hostMem = s.hostMem := by
  rw [← State.rest_hostMem (s.raise p bit), State.rest_raise, State.rest_hostMem]
@[simp] theorem State.raise_hostRead (s : State) (p bit : Nat) : (s.raise p bit).hostRead = s.hostRead := by
  rw [← State.rest_hostRead (s.raise p bit), State.rest_raise, State.rest_hostRead]
@[simp] theorem State.raise_freeCtr (s : State) (p bit : Nat) : (s.raise p bit).freeCtr = s.freeCtr := by
  rw [← State.rest_freeCtr (s.raise p bit), State.rest_raise, State.rest_freeCtr]
@[simp] theorem State.raise_msixMask (s : State) (p bit : Nat) : (s.raise p bit).msixMask = s.msixMask := by
  rw [← State.rest_msixMask (s.raise p bit), State.rest_raise, State.rest_msixMask]
@[simp] theorem State.raise_msixFuncMask (s : State) (p bit : Nat) : (s.raise p bit).msixFuncMask = s.msixFuncMask := by
  rw [← State.rest_msixFuncMask (s.raise p bit), State.rest_raise, State.rest_msixFuncMask]
@[simp] theorem State.raise_msixOn (s : State) (p bit : Nat) : (s.raise p bit).msixOn = s.msixOn := by
  rw [← State.rest_msixOn (s.raise p bit), State.rest_raise, State.rest_msixOn]
@[simp] theorem State.raise_cores (s : State) (p bit : Nat) : (s.raise p bit).cores = s.cores := by
  rw [← State.rest_cores (s.raise p bit), State.rest_raise, State.rest_cores]
@[simp] theorem State.raise_measRam (s : State) (p bit : Nat) : (s.raise p bit).measRam = s.measRam := by
  rw [← State.rest_measRam (s.raise p bit), State.rest_raise, State.rest_measRam]
@[simp] theorem State.raise_exch (s : State) (p bit : Nat) : (s.raise p bit).exch = s.exch := by
  rw [← State.rest_exch (s.raise p bit), State.rest_raise, State.rest_exch]
@[simp] theorem State.raise_bad (s : State) (p bit : Nat) : (s.raise p bit).bad = s.bad := by
  rw [← State.rest_bad (s.raise p bit), State.rest_raise, State.rest_bad]
@[simp] theorem State.raise_tb (s : State) (p bit : Nat) : (s.raise p bit).tb = s.tb := by
  rw [← State.rest_tb (s.raise p bit), State.rest_raise, State.rest_tb]
@[simp] theorem State.raise_disc (s : State) (p bit : Nat) : (s.raise p bit).disc = s.disc := by
  rw [← State.rest_disc (s.raise p bit), State.rest_raise, State.rest_disc]
@[simp] theorem State.raise_touts (s : State) (p bit : Nat) : (s.raise p bit).touts = s.touts := by
  rw [← State.rest_touts (s.raise p bit), State.rest_raise, State.rest_touts]
@[simp] theorem State.raise_pulses (s : State) (p bit : Nat) : (s.raise p bit).pulses = s.pulses := by
  rw [← State.rest_pulses (s.raise p bit), State.rest_raise, State.rest_pulses]
@[simp] theorem State.raise_ppsLast (s : State) (p bit : Nat) : (s.raise p bit).ppsLast = s.ppsLast := by
  rw [← State.rest_ppsLast (s.raise p bit), State.rest_raise, State.rest_ppsLast]
@[simp] theorem State.raise_tinArms (s : State) (p bit : Nat) : (s.raise p bit).tinArms = s.tinArms := by
  rw [← State.rest_tinArms (s.raise p bit), State.rest_raise, State.rest_tinArms]
@[simp] theorem State.raise_tins (s : State) (p bit : Nat) : (s.raise p bit).tins = s.tins := by
  rw [← State.rest_tins (s.raise p bit), State.rest_raise, State.rest_tins]
@[simp] theorem State.raise_sol (s : State) (p bit : Nat) : (s.raise p bit).sol = s.sol := by
  rw [← State.rest_sol (s.raise p bit), State.rest_raise, State.rest_sol]
@[simp] theorem State.raise_lanes (s : State) (p bit : Nat) : (s.raise p bit).lanes = s.lanes := by
  rw [← State.rest_lanes (s.raise p bit), State.rest_raise, State.rest_lanes]
@[simp] theorem State.raise_chains (s : State) (p bit : Nat) : (s.raise p bit).chains = s.chains := by
  rw [← State.rest_chains (s.raise p bit), State.rest_raise, State.rest_chains]
@[simp] theorem State.raise_groups (s : State) (p bit : Nat) : (s.raise p bit).groups = s.groups := by
  rw [← State.rest_groups (s.raise p bit), State.rest_raise, State.rest_groups]
@[simp] theorem State.raise_fecs (s : State) (p bit : Nat) : (s.raise p bit).fecs = s.fecs := by
  rw [← State.rest_fecs (s.raise p bit), State.rest_raise, State.rest_fecs]
@[simp] theorem State.raise_rl (s : State) (p bit : Nat) : (s.raise p bit).rl = s.rl := by
  rw [← State.rest_rl (s.raise p bit), State.rest_raise, State.rest_rl]
@[simp] theorem State.raise_jobs (s : State) (p bit : Nat) : (s.raise p bit).jobs = s.jobs := by
  rw [← State.rest_jobs (s.raise p bit), State.rest_raise, State.rest_jobs]
@[simp] theorem State.raise_jobSeq (s : State) (p bit : Nat) : (s.raise p bit).jobSeq = s.jobSeq := by
  rw [← State.rest_jobSeq (s.raise p bit), State.rest_raise, State.rest_jobSeq]
@[simp] theorem State.raise_nextSnap (s : State) (p bit : Nat) : (s.raise p bit).nextSnap = s.nextSnap := by
  rw [← State.rest_nextSnap (s.raise p bit), State.rest_raise, State.rest_nextSnap]
@[simp] theorem State.raise_floorJob (s : State) (p bit : Nat) : (s.raise p bit).floorJob = s.floorJob := by
  rw [← State.rest_floorJob (s.raise p bit), State.rest_raise, State.rest_floorJob]
@[simp] theorem State.raise_rrPhase (s : State) (p bit : Nat) : (s.raise p bit).rrPhase = s.rrPhase := by
  rw [← State.rest_rrPhase (s.raise p bit), State.rest_raise, State.rest_rrPhase]
@[simp] theorem State.raise_cells (s : State) (p bit : Nat) : (s.raise p bit).cells = s.cells := by
  rw [← State.rest_cells (s.raise p bit), State.rest_raise, State.rest_cells]
@[simp] theorem State.raise_chans (s : State) (p bit : Nat) : (s.raise p bit).chans = s.chans := by
  rw [← State.rest_chans (s.raise p bit), State.rest_raise, State.rest_chans]
@[simp] theorem State.raise_placeHeat (s : State) (p bit : Nat) : (s.raise p bit).placeHeat = s.placeHeat := by
  rw [← State.rest_placeHeat (s.raise p bit), State.rest_raise, State.rest_placeHeat]
@[simp] theorem State.raise_subs (s : State) (p bit : Nat) : (s.raise p bit).subs = s.subs := by
  rw [← State.rest_subs (s.raise p bit), State.rest_raise, State.rest_subs]
@[simp] theorem State.raise_nav (s : State) (p bit : Nat) : (s.raise p bit).nav = s.nav := by
  rw [← State.rest_nav (s.raise p bit), State.rest_raise, State.rest_nav]
@[simp] theorem State.raise_auth (s : State) (p bit : Nat) : (s.raise p bit).auth = s.auth := by
  rw [← State.rest_auth (s.raise p bit), State.rest_raise, State.rest_auth]
@[simp] theorem State.raise_eth (s : State) (p bit : Nat) : (s.raise p bit).eth = s.eth := by
  rw [← State.rest_eth (s.raise p bit), State.rest_raise, State.rest_eth]
@[simp] theorem State.raise_ptp (s : State) (p bit : Nat) : (s.raise p bit).ptp = s.ptp := by
  rw [← State.rest_ptp (s.raise p bit), State.rest_raise, State.rest_ptp]
@[simp] theorem State.raise_steps (s : State) (p bit : Nat) : (s.raise p bit).steps = s.steps := by
  rw [← State.rest_steps (s.raise p bit), State.rest_raise, State.rest_steps]
@[simp] theorem State.raise_uarts (s : State) (p bit : Nat) : (s.raise p bit).uarts = s.uarts := by
  rw [← State.rest_uarts (s.raise p bit), State.rest_raise, State.rest_uarts]
@[simp] theorem State.raise_assay (s : State) (p bit : Nat) : (s.raise p bit).assay = s.assay := by
  rw [← State.rest_assay (s.raise p bit), State.rest_raise, State.rest_assay]
@[simp] theorem State.raise_upd (s : State) (p bit : Nat) : (s.raise p bit).upd = s.upd := by
  rw [← State.rest_upd (s.raise p bit), State.rest_raise, State.rest_upd]
@[simp] theorem State.raise_boot (s : State) (p bit : Nat) : (s.raise p bit).boot = s.boot := by
  rw [← State.rest_boot (s.raise p bit), State.rest_raise, State.rest_boot]
@[simp] theorem State.raise_flash (s : State) (p bit : Nat) : (s.raise p bit).flash = s.flash := by
  rw [← State.rest_flash (s.raise p bit), State.rest_raise, State.rest_flash]
@[simp] theorem State.raise_alive (s : State) (p bit : Nat) : (s.raise p bit).alive = s.alive := by
  rw [← State.rest_alive (s.raise p bit), State.rest_raise, State.rest_alive]
@[simp] theorem State.raise_fuses (s : State) (p bit : Nat) : (s.raise p bit).fuses = s.fuses := by
  rw [← State.rest_fuses (s.raise p bit), State.rest_raise, State.rest_fuses]
@[simp] theorem State.raise_armAt (s : State) (p bit : Nat) : (s.raise p bit).armAt = s.armAt := by
  rw [← State.rest_armAt (s.raise p bit), State.rest_raise, State.rest_armAt]
@[simp] theorem State.raise_el (s : State) (p bit : Nat) : (s.raise p bit).el = s.el := by
  rw [← State.rest_el (s.raise p bit), State.rest_raise, State.rest_el]
@[simp] theorem State.raise_heat (s : State) (p bit : Nat) : (s.raise p bit).heat = s.heat := by
  rw [← State.rest_heat (s.raise p bit), State.rest_raise, State.rest_heat]
@[simp] theorem State.raise_cmd (s : State) (p bit : Nat) : (s.raise p bit).cmd = s.cmd := by
  rw [← State.rest_cmd (s.raise p bit), State.rest_raise, State.rest_cmd]
@[simp] theorem State.raise_host (s : State) (p bit : Nat) : (s.raise p bit).host = s.host := by
  rw [← State.rest_host (s.raise p bit), State.rest_raise, State.rest_host]
@[simp] theorem State.raise_fault (s : State) (p bit : Nat) : (s.raise p bit).fault = s.fault := by
  rw [← State.rest_fault (s.raise p bit), State.rest_raise, State.rest_fault]
@[simp] theorem State.raise_log (s : State) (p bit : Nat) : (s.raise p bit).log = s.log := by
  rw [← State.rest_log (s.raise p bit), State.rest_raise, State.rest_log]
@[simp] theorem State.raise_bk (s : State) (p bit : Nat) : (s.raise p bit).bk = s.bk := by
  rw [← State.rest_bk (s.raise p bit), State.rest_raise, State.rest_bk]
@[simp] theorem State.raise_io33 (s : State) (p bit : Nat) : (s.raise p bit).io33 = s.io33 := by
  rw [← State.rest_io33 (s.raise p bit), State.rest_raise, State.rest_io33]
@[simp] theorem State.raise_snaps (s : State) (p bit : Nat) : (s.raise p bit).snaps = s.snaps := by
  rw [← State.rest_snaps (s.raise p bit), State.rest_raise, State.rest_snaps]
@[simp] theorem State.raise_snapMem (s : State) (p bit : Nat) : (s.raise p bit).snapMem = s.snapMem := by
  rw [← State.rest_snapMem (s.raise p bit), State.rest_raise, State.rest_snapMem]
@[simp] theorem State.raise_work (s : State) (p bit : Nat) : (s.raise p bit).work = s.work := by
  rw [← State.rest_work (s.raise p bit), State.rest_raise, State.rest_work]
@[simp] theorem State.raise_lateFrames (s : State) (p bit : Nat) : (s.raise p bit).lateFrames = s.lateFrames := by
  rw [← State.rest_lateFrames (s.raise p bit), State.rest_raise, State.rest_lateFrames]
@[simp] theorem State.raise_lateUnits (s : State) (p bit : Nat) : (s.raise p bit).lateUnits = s.lateUnits := by
  rw [← State.rest_lateUnits (s.raise p bit), State.rest_raise, State.rest_lateUnits]
@[simp] theorem State.raise_por (s : State) (p bit : Nat) : (s.raise p bit).por = s.por := by
  rw [← State.rest_por (s.raise p bit), State.rest_raise, State.rest_por]

@[simp] theorem State.countErr_pending (s : State) (p : Nat) : (s.countErr p).pending = s.pending := by
  rw [← State.rest_pending (s.countErr p), State.rest_countErr, State.rest_pending]
@[simp] theorem State.countErr_inReset (s : State) (p : Nat) : (s.countErr p).inReset = s.inReset := by
  rw [← State.rest_inReset (s.countErr p), State.rest_countErr, State.rest_inReset]
@[simp] theorem State.countErr_shadow (s : State) (p : Nat) : (s.countErr p).shadow = s.shadow := by
  rw [← State.rest_shadow (s.countErr p), State.rest_countErr, State.rest_shadow]
@[simp] theorem State.countErr_grp (s : State) (p : Nat) : (s.countErr p).grp = s.grp := by
  rw [← State.rest_grp (s.countErr p), State.rest_countErr, State.rest_grp]
@[simp] theorem State.countErr_goCnt (s : State) (p : Nat) : (s.countErr p).goCnt = s.goCnt := by
  rw [← State.rest_goCnt (s.countErr p), State.rest_countErr, State.rest_goCnt]
@[simp] theorem State.countErr_hostMem (s : State) (p : Nat) : (s.countErr p).hostMem = s.hostMem := by
  rw [← State.rest_hostMem (s.countErr p), State.rest_countErr, State.rest_hostMem]
@[simp] theorem State.countErr_hostRead (s : State) (p : Nat) : (s.countErr p).hostRead = s.hostRead := by
  rw [← State.rest_hostRead (s.countErr p), State.rest_countErr, State.rest_hostRead]
@[simp] theorem State.countErr_freeCtr (s : State) (p : Nat) : (s.countErr p).freeCtr = s.freeCtr := by
  rw [← State.rest_freeCtr (s.countErr p), State.rest_countErr, State.rest_freeCtr]
@[simp] theorem State.countErr_msixMask (s : State) (p : Nat) : (s.countErr p).msixMask = s.msixMask := by
  rw [← State.rest_msixMask (s.countErr p), State.rest_countErr, State.rest_msixMask]
@[simp] theorem State.countErr_msixFuncMask (s : State) (p : Nat) : (s.countErr p).msixFuncMask = s.msixFuncMask := by
  rw [← State.rest_msixFuncMask (s.countErr p), State.rest_countErr, State.rest_msixFuncMask]
@[simp] theorem State.countErr_msixOn (s : State) (p : Nat) : (s.countErr p).msixOn = s.msixOn := by
  rw [← State.rest_msixOn (s.countErr p), State.rest_countErr, State.rest_msixOn]
@[simp] theorem State.countErr_cores (s : State) (p : Nat) : (s.countErr p).cores = s.cores := by
  rw [← State.rest_cores (s.countErr p), State.rest_countErr, State.rest_cores]
@[simp] theorem State.countErr_measRam (s : State) (p : Nat) : (s.countErr p).measRam = s.measRam := by
  rw [← State.rest_measRam (s.countErr p), State.rest_countErr, State.rest_measRam]
@[simp] theorem State.countErr_exch (s : State) (p : Nat) : (s.countErr p).exch = s.exch := by
  rw [← State.rest_exch (s.countErr p), State.rest_countErr, State.rest_exch]
@[simp] theorem State.countErr_bad (s : State) (p : Nat) : (s.countErr p).bad = s.bad := by
  rw [← State.rest_bad (s.countErr p), State.rest_countErr, State.rest_bad]
@[simp] theorem State.countErr_tb (s : State) (p : Nat) : (s.countErr p).tb = s.tb := by
  rw [← State.rest_tb (s.countErr p), State.rest_countErr, State.rest_tb]
@[simp] theorem State.countErr_disc (s : State) (p : Nat) : (s.countErr p).disc = s.disc := by
  rw [← State.rest_disc (s.countErr p), State.rest_countErr, State.rest_disc]
@[simp] theorem State.countErr_touts (s : State) (p : Nat) : (s.countErr p).touts = s.touts := by
  rw [← State.rest_touts (s.countErr p), State.rest_countErr, State.rest_touts]
@[simp] theorem State.countErr_pulses (s : State) (p : Nat) : (s.countErr p).pulses = s.pulses := by
  rw [← State.rest_pulses (s.countErr p), State.rest_countErr, State.rest_pulses]
@[simp] theorem State.countErr_ppsLast (s : State) (p : Nat) : (s.countErr p).ppsLast = s.ppsLast := by
  rw [← State.rest_ppsLast (s.countErr p), State.rest_countErr, State.rest_ppsLast]
@[simp] theorem State.countErr_tinArms (s : State) (p : Nat) : (s.countErr p).tinArms = s.tinArms := by
  rw [← State.rest_tinArms (s.countErr p), State.rest_countErr, State.rest_tinArms]
@[simp] theorem State.countErr_tins (s : State) (p : Nat) : (s.countErr p).tins = s.tins := by
  rw [← State.rest_tins (s.countErr p), State.rest_countErr, State.rest_tins]
@[simp] theorem State.countErr_sol (s : State) (p : Nat) : (s.countErr p).sol = s.sol := by
  rw [← State.rest_sol (s.countErr p), State.rest_countErr, State.rest_sol]
@[simp] theorem State.countErr_lanes (s : State) (p : Nat) : (s.countErr p).lanes = s.lanes := by
  rw [← State.rest_lanes (s.countErr p), State.rest_countErr, State.rest_lanes]
@[simp] theorem State.countErr_chains (s : State) (p : Nat) : (s.countErr p).chains = s.chains := by
  rw [← State.rest_chains (s.countErr p), State.rest_countErr, State.rest_chains]
@[simp] theorem State.countErr_groups (s : State) (p : Nat) : (s.countErr p).groups = s.groups := by
  rw [← State.rest_groups (s.countErr p), State.rest_countErr, State.rest_groups]
@[simp] theorem State.countErr_fecs (s : State) (p : Nat) : (s.countErr p).fecs = s.fecs := by
  rw [← State.rest_fecs (s.countErr p), State.rest_countErr, State.rest_fecs]
@[simp] theorem State.countErr_rl (s : State) (p : Nat) : (s.countErr p).rl = s.rl := by
  rw [← State.rest_rl (s.countErr p), State.rest_countErr, State.rest_rl]
@[simp] theorem State.countErr_jobs (s : State) (p : Nat) : (s.countErr p).jobs = s.jobs := by
  rw [← State.rest_jobs (s.countErr p), State.rest_countErr, State.rest_jobs]
@[simp] theorem State.countErr_jobSeq (s : State) (p : Nat) : (s.countErr p).jobSeq = s.jobSeq := by
  rw [← State.rest_jobSeq (s.countErr p), State.rest_countErr, State.rest_jobSeq]
@[simp] theorem State.countErr_nextSnap (s : State) (p : Nat) : (s.countErr p).nextSnap = s.nextSnap := by
  rw [← State.rest_nextSnap (s.countErr p), State.rest_countErr, State.rest_nextSnap]
@[simp] theorem State.countErr_floorJob (s : State) (p : Nat) : (s.countErr p).floorJob = s.floorJob := by
  rw [← State.rest_floorJob (s.countErr p), State.rest_countErr, State.rest_floorJob]
@[simp] theorem State.countErr_rrPhase (s : State) (p : Nat) : (s.countErr p).rrPhase = s.rrPhase := by
  rw [← State.rest_rrPhase (s.countErr p), State.rest_countErr, State.rest_rrPhase]
@[simp] theorem State.countErr_cells (s : State) (p : Nat) : (s.countErr p).cells = s.cells := by
  rw [← State.rest_cells (s.countErr p), State.rest_countErr, State.rest_cells]
@[simp] theorem State.countErr_chans (s : State) (p : Nat) : (s.countErr p).chans = s.chans := by
  rw [← State.rest_chans (s.countErr p), State.rest_countErr, State.rest_chans]
@[simp] theorem State.countErr_placeHeat (s : State) (p : Nat) : (s.countErr p).placeHeat = s.placeHeat := by
  rw [← State.rest_placeHeat (s.countErr p), State.rest_countErr, State.rest_placeHeat]
@[simp] theorem State.countErr_subs (s : State) (p : Nat) : (s.countErr p).subs = s.subs := by
  rw [← State.rest_subs (s.countErr p), State.rest_countErr, State.rest_subs]
@[simp] theorem State.countErr_nav (s : State) (p : Nat) : (s.countErr p).nav = s.nav := by
  rw [← State.rest_nav (s.countErr p), State.rest_countErr, State.rest_nav]
@[simp] theorem State.countErr_auth (s : State) (p : Nat) : (s.countErr p).auth = s.auth := by
  rw [← State.rest_auth (s.countErr p), State.rest_countErr, State.rest_auth]
@[simp] theorem State.countErr_eth (s : State) (p : Nat) : (s.countErr p).eth = s.eth := by
  rw [← State.rest_eth (s.countErr p), State.rest_countErr, State.rest_eth]
@[simp] theorem State.countErr_ptp (s : State) (p : Nat) : (s.countErr p).ptp = s.ptp := by
  rw [← State.rest_ptp (s.countErr p), State.rest_countErr, State.rest_ptp]
@[simp] theorem State.countErr_steps (s : State) (p : Nat) : (s.countErr p).steps = s.steps := by
  rw [← State.rest_steps (s.countErr p), State.rest_countErr, State.rest_steps]
@[simp] theorem State.countErr_uarts (s : State) (p : Nat) : (s.countErr p).uarts = s.uarts := by
  rw [← State.rest_uarts (s.countErr p), State.rest_countErr, State.rest_uarts]
@[simp] theorem State.countErr_assay (s : State) (p : Nat) : (s.countErr p).assay = s.assay := by
  rw [← State.rest_assay (s.countErr p), State.rest_countErr, State.rest_assay]
@[simp] theorem State.countErr_upd (s : State) (p : Nat) : (s.countErr p).upd = s.upd := by
  rw [← State.rest_upd (s.countErr p), State.rest_countErr, State.rest_upd]
@[simp] theorem State.countErr_boot (s : State) (p : Nat) : (s.countErr p).boot = s.boot := by
  rw [← State.rest_boot (s.countErr p), State.rest_countErr, State.rest_boot]
@[simp] theorem State.countErr_flash (s : State) (p : Nat) : (s.countErr p).flash = s.flash := by
  rw [← State.rest_flash (s.countErr p), State.rest_countErr, State.rest_flash]
@[simp] theorem State.countErr_alive (s : State) (p : Nat) : (s.countErr p).alive = s.alive := by
  rw [← State.rest_alive (s.countErr p), State.rest_countErr, State.rest_alive]
@[simp] theorem State.countErr_fuses (s : State) (p : Nat) : (s.countErr p).fuses = s.fuses := by
  rw [← State.rest_fuses (s.countErr p), State.rest_countErr, State.rest_fuses]
@[simp] theorem State.countErr_armAt (s : State) (p : Nat) : (s.countErr p).armAt = s.armAt := by
  rw [← State.rest_armAt (s.countErr p), State.rest_countErr, State.rest_armAt]
@[simp] theorem State.countErr_el (s : State) (p : Nat) : (s.countErr p).el = s.el := by
  rw [← State.rest_el (s.countErr p), State.rest_countErr, State.rest_el]
@[simp] theorem State.countErr_heat (s : State) (p : Nat) : (s.countErr p).heat = s.heat := by
  rw [← State.rest_heat (s.countErr p), State.rest_countErr, State.rest_heat]
@[simp] theorem State.countErr_cmd (s : State) (p : Nat) : (s.countErr p).cmd = s.cmd := by
  rw [← State.rest_cmd (s.countErr p), State.rest_countErr, State.rest_cmd]
@[simp] theorem State.countErr_host (s : State) (p : Nat) : (s.countErr p).host = s.host := by
  rw [← State.rest_host (s.countErr p), State.rest_countErr, State.rest_host]
@[simp] theorem State.countErr_fault (s : State) (p : Nat) : (s.countErr p).fault = s.fault := by
  rw [← State.rest_fault (s.countErr p), State.rest_countErr, State.rest_fault]
@[simp] theorem State.countErr_log (s : State) (p : Nat) : (s.countErr p).log = s.log := by
  rw [← State.rest_log (s.countErr p), State.rest_countErr, State.rest_log]
@[simp] theorem State.countErr_bk (s : State) (p : Nat) : (s.countErr p).bk = s.bk := by
  rw [← State.rest_bk (s.countErr p), State.rest_countErr, State.rest_bk]
@[simp] theorem State.countErr_io33 (s : State) (p : Nat) : (s.countErr p).io33 = s.io33 := by
  rw [← State.rest_io33 (s.countErr p), State.rest_countErr, State.rest_io33]
@[simp] theorem State.countErr_snaps (s : State) (p : Nat) : (s.countErr p).snaps = s.snaps := by
  rw [← State.rest_snaps (s.countErr p), State.rest_countErr, State.rest_snaps]
@[simp] theorem State.countErr_snapMem (s : State) (p : Nat) : (s.countErr p).snapMem = s.snapMem := by
  rw [← State.rest_snapMem (s.countErr p), State.rest_countErr, State.rest_snapMem]
@[simp] theorem State.countErr_work (s : State) (p : Nat) : (s.countErr p).work = s.work := by
  rw [← State.rest_work (s.countErr p), State.rest_countErr, State.rest_work]
@[simp] theorem State.countErr_lateFrames (s : State) (p : Nat) : (s.countErr p).lateFrames = s.lateFrames := by
  rw [← State.rest_lateFrames (s.countErr p), State.rest_countErr, State.rest_lateFrames]
@[simp] theorem State.countErr_lateUnits (s : State) (p : Nat) : (s.countErr p).lateUnits = s.lateUnits := by
  rw [← State.rest_lateUnits (s.countErr p), State.rest_countErr, State.rest_lateUnits]
@[simp] theorem State.countErr_por (s : State) (p : Nat) : (s.countErr p).por = s.por := by
  rw [← State.rest_por (s.countErr p), State.rest_countErr, State.rest_por]

@[simp] theorem State.capErr_pending (s : State) (p code off : Nat) : (s.capErr p code off).pending = s.pending := by
  rw [← State.rest_pending (s.capErr p code off), State.rest_capErr, State.rest_pending]
@[simp] theorem State.capErr_inReset (s : State) (p code off : Nat) : (s.capErr p code off).inReset = s.inReset := by
  rw [← State.rest_inReset (s.capErr p code off), State.rest_capErr, State.rest_inReset]
@[simp] theorem State.capErr_shadow (s : State) (p code off : Nat) : (s.capErr p code off).shadow = s.shadow := by
  rw [← State.rest_shadow (s.capErr p code off), State.rest_capErr, State.rest_shadow]
@[simp] theorem State.capErr_grp (s : State) (p code off : Nat) : (s.capErr p code off).grp = s.grp := by
  rw [← State.rest_grp (s.capErr p code off), State.rest_capErr, State.rest_grp]
@[simp] theorem State.capErr_goCnt (s : State) (p code off : Nat) : (s.capErr p code off).goCnt = s.goCnt := by
  rw [← State.rest_goCnt (s.capErr p code off), State.rest_capErr, State.rest_goCnt]
@[simp] theorem State.capErr_hostMem (s : State) (p code off : Nat) : (s.capErr p code off).hostMem = s.hostMem := by
  rw [← State.rest_hostMem (s.capErr p code off), State.rest_capErr, State.rest_hostMem]
@[simp] theorem State.capErr_hostRead (s : State) (p code off : Nat) : (s.capErr p code off).hostRead = s.hostRead := by
  rw [← State.rest_hostRead (s.capErr p code off), State.rest_capErr, State.rest_hostRead]
@[simp] theorem State.capErr_freeCtr (s : State) (p code off : Nat) : (s.capErr p code off).freeCtr = s.freeCtr := by
  rw [← State.rest_freeCtr (s.capErr p code off), State.rest_capErr, State.rest_freeCtr]
@[simp] theorem State.capErr_msixMask (s : State) (p code off : Nat) : (s.capErr p code off).msixMask = s.msixMask := by
  rw [← State.rest_msixMask (s.capErr p code off), State.rest_capErr, State.rest_msixMask]
@[simp] theorem State.capErr_msixFuncMask (s : State) (p code off : Nat) : (s.capErr p code off).msixFuncMask = s.msixFuncMask := by
  rw [← State.rest_msixFuncMask (s.capErr p code off), State.rest_capErr, State.rest_msixFuncMask]
@[simp] theorem State.capErr_msixOn (s : State) (p code off : Nat) : (s.capErr p code off).msixOn = s.msixOn := by
  rw [← State.rest_msixOn (s.capErr p code off), State.rest_capErr, State.rest_msixOn]
@[simp] theorem State.capErr_cores (s : State) (p code off : Nat) : (s.capErr p code off).cores = s.cores := by
  rw [← State.rest_cores (s.capErr p code off), State.rest_capErr, State.rest_cores]
@[simp] theorem State.capErr_measRam (s : State) (p code off : Nat) : (s.capErr p code off).measRam = s.measRam := by
  rw [← State.rest_measRam (s.capErr p code off), State.rest_capErr, State.rest_measRam]
@[simp] theorem State.capErr_exch (s : State) (p code off : Nat) : (s.capErr p code off).exch = s.exch := by
  rw [← State.rest_exch (s.capErr p code off), State.rest_capErr, State.rest_exch]
@[simp] theorem State.capErr_bad (s : State) (p code off : Nat) : (s.capErr p code off).bad = s.bad := by
  rw [← State.rest_bad (s.capErr p code off), State.rest_capErr, State.rest_bad]
@[simp] theorem State.capErr_tb (s : State) (p code off : Nat) : (s.capErr p code off).tb = s.tb := by
  rw [← State.rest_tb (s.capErr p code off), State.rest_capErr, State.rest_tb]
@[simp] theorem State.capErr_disc (s : State) (p code off : Nat) : (s.capErr p code off).disc = s.disc := by
  rw [← State.rest_disc (s.capErr p code off), State.rest_capErr, State.rest_disc]
@[simp] theorem State.capErr_touts (s : State) (p code off : Nat) : (s.capErr p code off).touts = s.touts := by
  rw [← State.rest_touts (s.capErr p code off), State.rest_capErr, State.rest_touts]
@[simp] theorem State.capErr_pulses (s : State) (p code off : Nat) : (s.capErr p code off).pulses = s.pulses := by
  rw [← State.rest_pulses (s.capErr p code off), State.rest_capErr, State.rest_pulses]
@[simp] theorem State.capErr_ppsLast (s : State) (p code off : Nat) : (s.capErr p code off).ppsLast = s.ppsLast := by
  rw [← State.rest_ppsLast (s.capErr p code off), State.rest_capErr, State.rest_ppsLast]
@[simp] theorem State.capErr_tinArms (s : State) (p code off : Nat) : (s.capErr p code off).tinArms = s.tinArms := by
  rw [← State.rest_tinArms (s.capErr p code off), State.rest_capErr, State.rest_tinArms]
@[simp] theorem State.capErr_tins (s : State) (p code off : Nat) : (s.capErr p code off).tins = s.tins := by
  rw [← State.rest_tins (s.capErr p code off), State.rest_capErr, State.rest_tins]
@[simp] theorem State.capErr_sol (s : State) (p code off : Nat) : (s.capErr p code off).sol = s.sol := by
  rw [← State.rest_sol (s.capErr p code off), State.rest_capErr, State.rest_sol]
@[simp] theorem State.capErr_lanes (s : State) (p code off : Nat) : (s.capErr p code off).lanes = s.lanes := by
  rw [← State.rest_lanes (s.capErr p code off), State.rest_capErr, State.rest_lanes]
@[simp] theorem State.capErr_chains (s : State) (p code off : Nat) : (s.capErr p code off).chains = s.chains := by
  rw [← State.rest_chains (s.capErr p code off), State.rest_capErr, State.rest_chains]
@[simp] theorem State.capErr_groups (s : State) (p code off : Nat) : (s.capErr p code off).groups = s.groups := by
  rw [← State.rest_groups (s.capErr p code off), State.rest_capErr, State.rest_groups]
@[simp] theorem State.capErr_fecs (s : State) (p code off : Nat) : (s.capErr p code off).fecs = s.fecs := by
  rw [← State.rest_fecs (s.capErr p code off), State.rest_capErr, State.rest_fecs]
@[simp] theorem State.capErr_rl (s : State) (p code off : Nat) : (s.capErr p code off).rl = s.rl := by
  rw [← State.rest_rl (s.capErr p code off), State.rest_capErr, State.rest_rl]
@[simp] theorem State.capErr_jobs (s : State) (p code off : Nat) : (s.capErr p code off).jobs = s.jobs := by
  rw [← State.rest_jobs (s.capErr p code off), State.rest_capErr, State.rest_jobs]
@[simp] theorem State.capErr_jobSeq (s : State) (p code off : Nat) : (s.capErr p code off).jobSeq = s.jobSeq := by
  rw [← State.rest_jobSeq (s.capErr p code off), State.rest_capErr, State.rest_jobSeq]
@[simp] theorem State.capErr_nextSnap (s : State) (p code off : Nat) : (s.capErr p code off).nextSnap = s.nextSnap := by
  rw [← State.rest_nextSnap (s.capErr p code off), State.rest_capErr, State.rest_nextSnap]
@[simp] theorem State.capErr_floorJob (s : State) (p code off : Nat) : (s.capErr p code off).floorJob = s.floorJob := by
  rw [← State.rest_floorJob (s.capErr p code off), State.rest_capErr, State.rest_floorJob]
@[simp] theorem State.capErr_rrPhase (s : State) (p code off : Nat) : (s.capErr p code off).rrPhase = s.rrPhase := by
  rw [← State.rest_rrPhase (s.capErr p code off), State.rest_capErr, State.rest_rrPhase]
@[simp] theorem State.capErr_cells (s : State) (p code off : Nat) : (s.capErr p code off).cells = s.cells := by
  rw [← State.rest_cells (s.capErr p code off), State.rest_capErr, State.rest_cells]
@[simp] theorem State.capErr_chans (s : State) (p code off : Nat) : (s.capErr p code off).chans = s.chans := by
  rw [← State.rest_chans (s.capErr p code off), State.rest_capErr, State.rest_chans]
@[simp] theorem State.capErr_placeHeat (s : State) (p code off : Nat) : (s.capErr p code off).placeHeat = s.placeHeat := by
  rw [← State.rest_placeHeat (s.capErr p code off), State.rest_capErr, State.rest_placeHeat]
@[simp] theorem State.capErr_subs (s : State) (p code off : Nat) : (s.capErr p code off).subs = s.subs := by
  rw [← State.rest_subs (s.capErr p code off), State.rest_capErr, State.rest_subs]
@[simp] theorem State.capErr_nav (s : State) (p code off : Nat) : (s.capErr p code off).nav = s.nav := by
  rw [← State.rest_nav (s.capErr p code off), State.rest_capErr, State.rest_nav]
@[simp] theorem State.capErr_auth (s : State) (p code off : Nat) : (s.capErr p code off).auth = s.auth := by
  rw [← State.rest_auth (s.capErr p code off), State.rest_capErr, State.rest_auth]
@[simp] theorem State.capErr_eth (s : State) (p code off : Nat) : (s.capErr p code off).eth = s.eth := by
  rw [← State.rest_eth (s.capErr p code off), State.rest_capErr, State.rest_eth]
@[simp] theorem State.capErr_ptp (s : State) (p code off : Nat) : (s.capErr p code off).ptp = s.ptp := by
  rw [← State.rest_ptp (s.capErr p code off), State.rest_capErr, State.rest_ptp]
@[simp] theorem State.capErr_steps (s : State) (p code off : Nat) : (s.capErr p code off).steps = s.steps := by
  rw [← State.rest_steps (s.capErr p code off), State.rest_capErr, State.rest_steps]
@[simp] theorem State.capErr_uarts (s : State) (p code off : Nat) : (s.capErr p code off).uarts = s.uarts := by
  rw [← State.rest_uarts (s.capErr p code off), State.rest_capErr, State.rest_uarts]
@[simp] theorem State.capErr_assay (s : State) (p code off : Nat) : (s.capErr p code off).assay = s.assay := by
  rw [← State.rest_assay (s.capErr p code off), State.rest_capErr, State.rest_assay]
@[simp] theorem State.capErr_upd (s : State) (p code off : Nat) : (s.capErr p code off).upd = s.upd := by
  rw [← State.rest_upd (s.capErr p code off), State.rest_capErr, State.rest_upd]
@[simp] theorem State.capErr_boot (s : State) (p code off : Nat) : (s.capErr p code off).boot = s.boot := by
  rw [← State.rest_boot (s.capErr p code off), State.rest_capErr, State.rest_boot]
@[simp] theorem State.capErr_flash (s : State) (p code off : Nat) : (s.capErr p code off).flash = s.flash := by
  rw [← State.rest_flash (s.capErr p code off), State.rest_capErr, State.rest_flash]
@[simp] theorem State.capErr_alive (s : State) (p code off : Nat) : (s.capErr p code off).alive = s.alive := by
  rw [← State.rest_alive (s.capErr p code off), State.rest_capErr, State.rest_alive]
@[simp] theorem State.capErr_fuses (s : State) (p code off : Nat) : (s.capErr p code off).fuses = s.fuses := by
  rw [← State.rest_fuses (s.capErr p code off), State.rest_capErr, State.rest_fuses]
@[simp] theorem State.capErr_armAt (s : State) (p code off : Nat) : (s.capErr p code off).armAt = s.armAt := by
  rw [← State.rest_armAt (s.capErr p code off), State.rest_capErr, State.rest_armAt]
@[simp] theorem State.capErr_el (s : State) (p code off : Nat) : (s.capErr p code off).el = s.el := by
  rw [← State.rest_el (s.capErr p code off), State.rest_capErr, State.rest_el]
@[simp] theorem State.capErr_heat (s : State) (p code off : Nat) : (s.capErr p code off).heat = s.heat := by
  rw [← State.rest_heat (s.capErr p code off), State.rest_capErr, State.rest_heat]
@[simp] theorem State.capErr_cmd (s : State) (p code off : Nat) : (s.capErr p code off).cmd = s.cmd := by
  rw [← State.rest_cmd (s.capErr p code off), State.rest_capErr, State.rest_cmd]
@[simp] theorem State.capErr_host (s : State) (p code off : Nat) : (s.capErr p code off).host = s.host := by
  rw [← State.rest_host (s.capErr p code off), State.rest_capErr, State.rest_host]
@[simp] theorem State.capErr_fault (s : State) (p code off : Nat) : (s.capErr p code off).fault = s.fault := by
  rw [← State.rest_fault (s.capErr p code off), State.rest_capErr, State.rest_fault]
@[simp] theorem State.capErr_log (s : State) (p code off : Nat) : (s.capErr p code off).log = s.log := by
  rw [← State.rest_log (s.capErr p code off), State.rest_capErr, State.rest_log]
@[simp] theorem State.capErr_bk (s : State) (p code off : Nat) : (s.capErr p code off).bk = s.bk := by
  rw [← State.rest_bk (s.capErr p code off), State.rest_capErr, State.rest_bk]
@[simp] theorem State.capErr_io33 (s : State) (p code off : Nat) : (s.capErr p code off).io33 = s.io33 := by
  rw [← State.rest_io33 (s.capErr p code off), State.rest_capErr, State.rest_io33]
@[simp] theorem State.capErr_snaps (s : State) (p code off : Nat) : (s.capErr p code off).snaps = s.snaps := by
  rw [← State.rest_snaps (s.capErr p code off), State.rest_capErr, State.rest_snaps]
@[simp] theorem State.capErr_snapMem (s : State) (p code off : Nat) : (s.capErr p code off).snapMem = s.snapMem := by
  rw [← State.rest_snapMem (s.capErr p code off), State.rest_capErr, State.rest_snapMem]
@[simp] theorem State.capErr_work (s : State) (p code off : Nat) : (s.capErr p code off).work = s.work := by
  rw [← State.rest_work (s.capErr p code off), State.rest_capErr, State.rest_work]
@[simp] theorem State.capErr_lateFrames (s : State) (p code off : Nat) : (s.capErr p code off).lateFrames = s.lateFrames := by
  rw [← State.rest_lateFrames (s.capErr p code off), State.rest_capErr, State.rest_lateFrames]
@[simp] theorem State.capErr_lateUnits (s : State) (p code off : Nat) : (s.capErr p code off).lateUnits = s.lateUnits := by
  rw [← State.rest_lateUnits (s.capErr p code off), State.rest_capErr, State.rest_lateUnits]
@[simp] theorem State.capErr_por (s : State) (p code off : Nat) : (s.capErr p code off).por = s.por := by
  rw [← State.rest_por (s.capErr p code off), State.rest_capErr, State.rest_por]

@[simp] theorem State.syncIrq_pending (s : State) : (s.syncIrq).pending = s.pending := by
  rw [← State.rest_pending (s.syncIrq), State.rest_syncIrq, State.rest_pending]
@[simp] theorem State.syncIrq_inReset (s : State) : (s.syncIrq).inReset = s.inReset := by
  rw [← State.rest_inReset (s.syncIrq), State.rest_syncIrq, State.rest_inReset]
@[simp] theorem State.syncIrq_shadow (s : State) : (s.syncIrq).shadow = s.shadow := by
  rw [← State.rest_shadow (s.syncIrq), State.rest_syncIrq, State.rest_shadow]
@[simp] theorem State.syncIrq_grp (s : State) : (s.syncIrq).grp = s.grp := by
  rw [← State.rest_grp (s.syncIrq), State.rest_syncIrq, State.rest_grp]
@[simp] theorem State.syncIrq_goCnt (s : State) : (s.syncIrq).goCnt = s.goCnt := by
  rw [← State.rest_goCnt (s.syncIrq), State.rest_syncIrq, State.rest_goCnt]
@[simp] theorem State.syncIrq_hostMem (s : State) : (s.syncIrq).hostMem = s.hostMem := by
  rw [← State.rest_hostMem (s.syncIrq), State.rest_syncIrq, State.rest_hostMem]
@[simp] theorem State.syncIrq_hostRead (s : State) : (s.syncIrq).hostRead = s.hostRead := by
  rw [← State.rest_hostRead (s.syncIrq), State.rest_syncIrq, State.rest_hostRead]
@[simp] theorem State.syncIrq_freeCtr (s : State) : (s.syncIrq).freeCtr = s.freeCtr := by
  rw [← State.rest_freeCtr (s.syncIrq), State.rest_syncIrq, State.rest_freeCtr]
@[simp] theorem State.syncIrq_msixMask (s : State) : (s.syncIrq).msixMask = s.msixMask := by
  rw [← State.rest_msixMask (s.syncIrq), State.rest_syncIrq, State.rest_msixMask]
@[simp] theorem State.syncIrq_msixFuncMask (s : State) : (s.syncIrq).msixFuncMask = s.msixFuncMask := by
  rw [← State.rest_msixFuncMask (s.syncIrq), State.rest_syncIrq, State.rest_msixFuncMask]
@[simp] theorem State.syncIrq_msixOn (s : State) : (s.syncIrq).msixOn = s.msixOn := by
  rw [← State.rest_msixOn (s.syncIrq), State.rest_syncIrq, State.rest_msixOn]
@[simp] theorem State.syncIrq_cores (s : State) : (s.syncIrq).cores = s.cores := by
  rw [← State.rest_cores (s.syncIrq), State.rest_syncIrq, State.rest_cores]
@[simp] theorem State.syncIrq_measRam (s : State) : (s.syncIrq).measRam = s.measRam := by
  rw [← State.rest_measRam (s.syncIrq), State.rest_syncIrq, State.rest_measRam]
@[simp] theorem State.syncIrq_exch (s : State) : (s.syncIrq).exch = s.exch := by
  rw [← State.rest_exch (s.syncIrq), State.rest_syncIrq, State.rest_exch]
@[simp] theorem State.syncIrq_bad (s : State) : (s.syncIrq).bad = s.bad := by
  rw [← State.rest_bad (s.syncIrq), State.rest_syncIrq, State.rest_bad]
@[simp] theorem State.syncIrq_tb (s : State) : (s.syncIrq).tb = s.tb := by
  rw [← State.rest_tb (s.syncIrq), State.rest_syncIrq, State.rest_tb]
@[simp] theorem State.syncIrq_disc (s : State) : (s.syncIrq).disc = s.disc := by
  rw [← State.rest_disc (s.syncIrq), State.rest_syncIrq, State.rest_disc]
@[simp] theorem State.syncIrq_touts (s : State) : (s.syncIrq).touts = s.touts := by
  rw [← State.rest_touts (s.syncIrq), State.rest_syncIrq, State.rest_touts]
@[simp] theorem State.syncIrq_pulses (s : State) : (s.syncIrq).pulses = s.pulses := by
  rw [← State.rest_pulses (s.syncIrq), State.rest_syncIrq, State.rest_pulses]
@[simp] theorem State.syncIrq_ppsLast (s : State) : (s.syncIrq).ppsLast = s.ppsLast := by
  rw [← State.rest_ppsLast (s.syncIrq), State.rest_syncIrq, State.rest_ppsLast]
@[simp] theorem State.syncIrq_tinArms (s : State) : (s.syncIrq).tinArms = s.tinArms := by
  rw [← State.rest_tinArms (s.syncIrq), State.rest_syncIrq, State.rest_tinArms]
@[simp] theorem State.syncIrq_tins (s : State) : (s.syncIrq).tins = s.tins := by
  rw [← State.rest_tins (s.syncIrq), State.rest_syncIrq, State.rest_tins]
@[simp] theorem State.syncIrq_sol (s : State) : (s.syncIrq).sol = s.sol := by
  rw [← State.rest_sol (s.syncIrq), State.rest_syncIrq, State.rest_sol]
@[simp] theorem State.syncIrq_lanes (s : State) : (s.syncIrq).lanes = s.lanes := by
  rw [← State.rest_lanes (s.syncIrq), State.rest_syncIrq, State.rest_lanes]
@[simp] theorem State.syncIrq_chains (s : State) : (s.syncIrq).chains = s.chains := by
  rw [← State.rest_chains (s.syncIrq), State.rest_syncIrq, State.rest_chains]
@[simp] theorem State.syncIrq_groups (s : State) : (s.syncIrq).groups = s.groups := by
  rw [← State.rest_groups (s.syncIrq), State.rest_syncIrq, State.rest_groups]
@[simp] theorem State.syncIrq_fecs (s : State) : (s.syncIrq).fecs = s.fecs := by
  rw [← State.rest_fecs (s.syncIrq), State.rest_syncIrq, State.rest_fecs]
@[simp] theorem State.syncIrq_rl (s : State) : (s.syncIrq).rl = s.rl := by
  rw [← State.rest_rl (s.syncIrq), State.rest_syncIrq, State.rest_rl]
@[simp] theorem State.syncIrq_jobs (s : State) : (s.syncIrq).jobs = s.jobs := by
  rw [← State.rest_jobs (s.syncIrq), State.rest_syncIrq, State.rest_jobs]
@[simp] theorem State.syncIrq_jobSeq (s : State) : (s.syncIrq).jobSeq = s.jobSeq := by
  rw [← State.rest_jobSeq (s.syncIrq), State.rest_syncIrq, State.rest_jobSeq]
@[simp] theorem State.syncIrq_nextSnap (s : State) : (s.syncIrq).nextSnap = s.nextSnap := by
  rw [← State.rest_nextSnap (s.syncIrq), State.rest_syncIrq, State.rest_nextSnap]
@[simp] theorem State.syncIrq_floorJob (s : State) : (s.syncIrq).floorJob = s.floorJob := by
  rw [← State.rest_floorJob (s.syncIrq), State.rest_syncIrq, State.rest_floorJob]
@[simp] theorem State.syncIrq_rrPhase (s : State) : (s.syncIrq).rrPhase = s.rrPhase := by
  rw [← State.rest_rrPhase (s.syncIrq), State.rest_syncIrq, State.rest_rrPhase]
@[simp] theorem State.syncIrq_cells (s : State) : (s.syncIrq).cells = s.cells := by
  rw [← State.rest_cells (s.syncIrq), State.rest_syncIrq, State.rest_cells]
@[simp] theorem State.syncIrq_chans (s : State) : (s.syncIrq).chans = s.chans := by
  rw [← State.rest_chans (s.syncIrq), State.rest_syncIrq, State.rest_chans]
@[simp] theorem State.syncIrq_placeHeat (s : State) : (s.syncIrq).placeHeat = s.placeHeat := by
  rw [← State.rest_placeHeat (s.syncIrq), State.rest_syncIrq, State.rest_placeHeat]
@[simp] theorem State.syncIrq_subs (s : State) : (s.syncIrq).subs = s.subs := by
  rw [← State.rest_subs (s.syncIrq), State.rest_syncIrq, State.rest_subs]
@[simp] theorem State.syncIrq_nav (s : State) : (s.syncIrq).nav = s.nav := by
  rw [← State.rest_nav (s.syncIrq), State.rest_syncIrq, State.rest_nav]
@[simp] theorem State.syncIrq_auth (s : State) : (s.syncIrq).auth = s.auth := by
  rw [← State.rest_auth (s.syncIrq), State.rest_syncIrq, State.rest_auth]
@[simp] theorem State.syncIrq_eth (s : State) : (s.syncIrq).eth = s.eth := by
  rw [← State.rest_eth (s.syncIrq), State.rest_syncIrq, State.rest_eth]
@[simp] theorem State.syncIrq_ptp (s : State) : (s.syncIrq).ptp = s.ptp := by
  rw [← State.rest_ptp (s.syncIrq), State.rest_syncIrq, State.rest_ptp]
@[simp] theorem State.syncIrq_steps (s : State) : (s.syncIrq).steps = s.steps := by
  rw [← State.rest_steps (s.syncIrq), State.rest_syncIrq, State.rest_steps]
@[simp] theorem State.syncIrq_uarts (s : State) : (s.syncIrq).uarts = s.uarts := by
  rw [← State.rest_uarts (s.syncIrq), State.rest_syncIrq, State.rest_uarts]
@[simp] theorem State.syncIrq_assay (s : State) : (s.syncIrq).assay = s.assay := by
  rw [← State.rest_assay (s.syncIrq), State.rest_syncIrq, State.rest_assay]
@[simp] theorem State.syncIrq_upd (s : State) : (s.syncIrq).upd = s.upd := by
  rw [← State.rest_upd (s.syncIrq), State.rest_syncIrq, State.rest_upd]
@[simp] theorem State.syncIrq_boot (s : State) : (s.syncIrq).boot = s.boot := by
  rw [← State.rest_boot (s.syncIrq), State.rest_syncIrq, State.rest_boot]
@[simp] theorem State.syncIrq_flash (s : State) : (s.syncIrq).flash = s.flash := by
  rw [← State.rest_flash (s.syncIrq), State.rest_syncIrq, State.rest_flash]
@[simp] theorem State.syncIrq_alive (s : State) : (s.syncIrq).alive = s.alive := by
  rw [← State.rest_alive (s.syncIrq), State.rest_syncIrq, State.rest_alive]
@[simp] theorem State.syncIrq_fuses (s : State) : (s.syncIrq).fuses = s.fuses := by
  rw [← State.rest_fuses (s.syncIrq), State.rest_syncIrq, State.rest_fuses]
@[simp] theorem State.syncIrq_armAt (s : State) : (s.syncIrq).armAt = s.armAt := by
  rw [← State.rest_armAt (s.syncIrq), State.rest_syncIrq, State.rest_armAt]
@[simp] theorem State.syncIrq_el (s : State) : (s.syncIrq).el = s.el := by
  rw [← State.rest_el (s.syncIrq), State.rest_syncIrq, State.rest_el]
@[simp] theorem State.syncIrq_heat (s : State) : (s.syncIrq).heat = s.heat := by
  rw [← State.rest_heat (s.syncIrq), State.rest_syncIrq, State.rest_heat]
@[simp] theorem State.syncIrq_cmd (s : State) : (s.syncIrq).cmd = s.cmd := by
  rw [← State.rest_cmd (s.syncIrq), State.rest_syncIrq, State.rest_cmd]
@[simp] theorem State.syncIrq_host (s : State) : (s.syncIrq).host = s.host := by
  rw [← State.rest_host (s.syncIrq), State.rest_syncIrq, State.rest_host]
@[simp] theorem State.syncIrq_fault (s : State) : (s.syncIrq).fault = s.fault := by
  rw [← State.rest_fault (s.syncIrq), State.rest_syncIrq, State.rest_fault]
@[simp] theorem State.syncIrq_log (s : State) : (s.syncIrq).log = s.log := by
  rw [← State.rest_log (s.syncIrq), State.rest_syncIrq, State.rest_log]
@[simp] theorem State.syncIrq_bk (s : State) : (s.syncIrq).bk = s.bk := by
  rw [← State.rest_bk (s.syncIrq), State.rest_syncIrq, State.rest_bk]
@[simp] theorem State.syncIrq_io33 (s : State) : (s.syncIrq).io33 = s.io33 := by
  rw [← State.rest_io33 (s.syncIrq), State.rest_syncIrq, State.rest_io33]
@[simp] theorem State.syncIrq_snaps (s : State) : (s.syncIrq).snaps = s.snaps := by
  rw [← State.rest_snaps (s.syncIrq), State.rest_syncIrq, State.rest_snaps]
@[simp] theorem State.syncIrq_snapMem (s : State) : (s.syncIrq).snapMem = s.snapMem := by
  rw [← State.rest_snapMem (s.syncIrq), State.rest_syncIrq, State.rest_snapMem]
@[simp] theorem State.syncIrq_work (s : State) : (s.syncIrq).work = s.work := by
  rw [← State.rest_work (s.syncIrq), State.rest_syncIrq, State.rest_work]
@[simp] theorem State.syncIrq_lateFrames (s : State) : (s.syncIrq).lateFrames = s.lateFrames := by
  rw [← State.rest_lateFrames (s.syncIrq), State.rest_syncIrq, State.rest_lateFrames]
@[simp] theorem State.syncIrq_lateUnits (s : State) : (s.syncIrq).lateUnits = s.lateUnits := by
  rw [← State.rest_lateUnits (s.syncIrq), State.rest_syncIrq, State.rest_lateUnits]
@[simp] theorem State.syncIrq_por (s : State) : (s.syncIrq).por = s.por := by
  rw [← State.rest_por (s.syncIrq), State.rest_syncIrq, State.rest_por]

/-! ## Words met -/

/-- A word that is not marked is met without effect. -/
theorem State.meet_of_good {s : State} {mem a : Nat} (page : Nat) (h : s.isBad mem a = false) : s.meet page mem a = s := by
  simp [State.meet, h]

/-- A marked word is counted and captured on the page that owns its memory (rules R53, R56). -/
theorem State.meet_of_bad {s : State} {mem a : Nat} (page : Nat) (h : s.isBad mem a = true) :
    s.meet page mem a = s.capErr page 0x20 0 := by
  simp [State.meet, h]

@[simp] theorem State.rest_meet (s : State) (page mem a : Nat) : (s.meet page mem a).rest = s.rest := by
  unfold State.meet
  split
  · exact State.rest_capErr ..
  · rfl

/-- Words of exchange memory that are not marked are met without effect. -/
theorem State.meetEx_of_good {s : State} {base n : Nat} (h : ∀ i, i < n → s.isBad 28 ((base + i) % 0x10000) = false) :
    s.meetEx base n = s := by
  unfold State.meetEx
  have h' : ∀ i ∈ List.range n, s.isBad 28 ((base + i) % 0x10000) = false := fun i hi => h i (List.mem_range.1 hi)
  generalize List.range n = l at h'
  induction l with
  | nil => rfl
  | cons i l ih =>
    rw [List.foldl, State.meet_of_good _ (h' i (by simp))]
    exact ih fun j hj => h' j (by simp [hj])

/-- Meeting words of exchange memory writes the page's error registers and nothing else. -/
@[simp] theorem State.rest_meetEx (s : State) (base n : Nat) : (s.meetEx base n).rest = s.rest := by
  unfold State.meetEx
  generalize List.range n = l
  induction l generalizing s with
  | nil => rfl
  | cons i l ih => rw [List.foldl, ih, State.rest_meet]

/-- Whether a word is marked, after one is marked or unmarked. -/
theorem State.isBad_setBad (s : State) (mem a m b : Nat) (v : Bool) :
    (s.setBad mem a v).isBad m b = if badKey m b = badKey mem a then v else s.isBad m b := Tab.get_set _ _ _ _ _

end Sys2Proof.Machine
end

