-- ==== Sys2Proof/Laws/Events.lean ====
section
/-! SUPPORT. What writing a log record, raising and clearing a fault class, and taking a sensor's sample leave alone. -/

namespace Sys2Proof.Machine

@[simp] theorem State.setRf_pending (s : State) (p o hi lo x : Nat) : (s.setRf p o hi lo x).pending = s.pending := by rw [State.setRf, State.setReg_pending]
@[simp] theorem State.setRf_inReset (s : State) (p o hi lo x : Nat) : (s.setRf p o hi lo x).inReset = s.inReset := by rw [State.setRf, State.setReg_inReset]
@[simp] theorem State.setRf_chans (s : State) (p o hi lo x : Nat) : (s.setRf p o hi lo x).chans = s.chans := by rw [State.setRf, State.setReg_chans]
@[simp] theorem State.setRf_cmd (s : State) (p o hi lo x : Nat) : (s.setRf p o hi lo x).cmd = s.cmd := by rw [State.setRf, State.setReg_cmd]
@[simp] theorem State.setRf_jobs (s : State) (p o hi lo x : Nat) : (s.setRf p o hi lo x).jobs = s.jobs := by rw [State.setRf, State.setReg_jobs]
@[simp] theorem State.setRf_cores (s : State) (p o hi lo x : Nat) : (s.setRf p o hi lo x).cores = s.cores := by rw [State.setRf, State.setReg_cores]
@[simp] theorem State.setRf_exch (s : State) (p o hi lo x : Nat) : (s.setRf p o hi lo x).exch = s.exch := by rw [State.setRf, State.setReg_exch]
@[simp] theorem State.setRf_fuses (s : State) (p o hi lo x : Nat) : (s.setRf p o hi lo x).fuses = s.fuses := by rw [State.setRf, State.setReg_fuses]
@[simp] theorem State.setRf_bk (s : State) (p o hi lo x : Nat) : (s.setRf p o hi lo x).bk = s.bk := by rw [State.setRf, State.setReg_bk]
@[simp] theorem State.setRf_tb (s : State) (p o hi lo x : Nat) : (s.setRf p o hi lo x).tb = s.tb := by rw [State.setRf, State.setReg_tb]
@[simp] theorem State.setRf_el (s : State) (p o hi lo x : Nat) : (s.setRf p o hi lo x).el = s.el := by rw [State.setRf, State.setReg_el]
@[simp] theorem State.setRf_heat (s : State) (p o hi lo x : Nat) : (s.setRf p o hi lo x).heat = s.heat := by rw [State.setRf, State.setReg_heat]
@[simp] theorem State.setRf_assay (s : State) (p o hi lo x : Nat) : (s.setRf p o hi lo x).assay = s.assay := by rw [State.setRf, State.setReg_assay]
@[simp] theorem State.setRf_upd (s : State) (p o hi lo x : Nat) : (s.setRf p o hi lo x).upd = s.upd := by rw [State.setRf, State.setReg_upd]

@[simp] theorem State.setSvc_pending (s : State) (v : Nat) : (s.setSvc v).pending = s.pending := by rw [State.setSvc, State.setRf_pending]
@[simp] theorem State.setSvc_inReset (s : State) (v : Nat) : (s.setSvc v).inReset = s.inReset := by rw [State.setSvc, State.setRf_inReset]
@[simp] theorem State.setSvc_chans (s : State) (v : Nat) : (s.setSvc v).chans = s.chans := by rw [State.setSvc, State.setRf_chans]
@[simp] theorem State.setSvc_cmd (s : State) (v : Nat) : (s.setSvc v).cmd = s.cmd := by rw [State.setSvc, State.setRf_cmd]
@[simp] theorem State.setSvc_jobs (s : State) (v : Nat) : (s.setSvc v).jobs = s.jobs := by rw [State.setSvc, State.setRf_jobs]
@[simp] theorem State.setSvc_cores (s : State) (v : Nat) : (s.setSvc v).cores = s.cores := by rw [State.setSvc, State.setRf_cores]
@[simp] theorem State.setSvc_exch (s : State) (v : Nat) : (s.setSvc v).exch = s.exch := by rw [State.setSvc, State.setRf_exch]
@[simp] theorem State.setSvc_fuses (s : State) (v : Nat) : (s.setSvc v).fuses = s.fuses := by rw [State.setSvc, State.setRf_fuses]
@[simp] theorem State.setSvc_bk (s : State) (v : Nat) : (s.setSvc v).bk = s.bk := by rw [State.setSvc, State.setRf_bk]
@[simp] theorem State.setSvc_tb (s : State) (v : Nat) : (s.setSvc v).tb = s.tb := by rw [State.setSvc, State.setRf_tb]
@[simp] theorem State.setSvc_el (s : State) (v : Nat) : (s.setSvc v).el = s.el := by rw [State.setSvc, State.setRf_el]
@[simp] theorem State.setSvc_heat (s : State) (v : Nat) : (s.setSvc v).heat = s.heat := by rw [State.setSvc, State.setRf_heat]
@[simp] theorem State.setSvc_assay (s : State) (v : Nat) : (s.setSvc v).assay = s.assay := by rw [State.setSvc, State.setRf_assay]
@[simp] theorem State.setSvc_upd (s : State) (v : Nat) : (s.setSvc v).upd = s.upd := by rw [State.setSvc, State.setRf_upd]

@[simp] theorem State.count_pending (s : State) (p o : Nat) : (s.count p o).pending = s.pending := by rw [State.count, State.setReg_pending]
@[simp] theorem State.count_inReset (s : State) (p o : Nat) : (s.count p o).inReset = s.inReset := by rw [State.count, State.setReg_inReset]
@[simp] theorem State.count_chans (s : State) (p o : Nat) : (s.count p o).chans = s.chans := by rw [State.count, State.setReg_chans]
@[simp] theorem State.count_cmd (s : State) (p o : Nat) : (s.count p o).cmd = s.cmd := by rw [State.count, State.setReg_cmd]
@[simp] theorem State.count_jobs (s : State) (p o : Nat) : (s.count p o).jobs = s.jobs := by rw [State.count, State.setReg_jobs]
@[simp] theorem State.count_cores (s : State) (p o : Nat) : (s.count p o).cores = s.cores := by rw [State.count, State.setReg_cores]
@[simp] theorem State.count_exch (s : State) (p o : Nat) : (s.count p o).exch = s.exch := by rw [State.count, State.setReg_exch]
@[simp] theorem State.count_fuses (s : State) (p o : Nat) : (s.count p o).fuses = s.fuses := by rw [State.count, State.setReg_fuses]
@[simp] theorem State.count_bk (s : State) (p o : Nat) : (s.count p o).bk = s.bk := by rw [State.count, State.setReg_bk]
@[simp] theorem State.count_tb (s : State) (p o : Nat) : (s.count p o).tb = s.tb := by rw [State.count, State.setReg_tb]
@[simp] theorem State.count_el (s : State) (p o : Nat) : (s.count p o).el = s.el := by rw [State.count, State.setReg_el]
@[simp] theorem State.count_heat (s : State) (p o : Nat) : (s.count p o).heat = s.heat := by rw [State.count, State.setReg_heat]
@[simp] theorem State.count_assay (s : State) (p o : Nat) : (s.count p o).assay = s.assay := by rw [State.count, State.setReg_assay]
@[simp] theorem State.count_upd (s : State) (p o : Nat) : (s.count p o).upd = s.upd := by rw [State.count, State.setReg_upd]

@[simp] theorem State.logPut_pending (s : State) (src sev code a : Nat) (w : Word) : (s.logPut src sev code a w).pending = s.pending := by
  unfold State.logPut
  dsimp only
  split <;> split <;> simp
@[simp] theorem State.logPut_inReset (s : State) (src sev code a : Nat) (w : Word) : (s.logPut src sev code a w).inReset = s.inReset := by
  unfold State.logPut
  dsimp only
  split <;> split <;> simp
@[simp] theorem State.logPut_chans (s : State) (src sev code a : Nat) (w : Word) : (s.logPut src sev code a w).chans = s.chans := by
  unfold State.logPut
  dsimp only
  split <;> split <;> simp
@[simp] theorem State.logPut_cmd (s : State) (src sev code a : Nat) (w : Word) : (s.logPut src sev code a w).cmd = s.cmd := by
  unfold State.logPut
  dsimp only
  split <;> split <;> simp
@[simp] theorem State.logPut_jobs (s : State) (src sev code a : Nat) (w : Word) : (s.logPut src sev code a w).jobs = s.jobs := by
  unfold State.logPut
  dsimp only
  split <;> split <;> simp
@[simp] theorem State.logPut_cores (s : State) (src sev code a : Nat) (w : Word) : (s.logPut src sev code a w).cores = s.cores := by
  unfold State.logPut
  dsimp only
  split <;> split <;> simp
@[simp] theorem State.logPut_exch (s : State) (src sev code a : Nat) (w : Word) : (s.logPut src sev code a w).exch = s.exch := by
  unfold State.logPut
  dsimp only
  split <;> split <;> simp
@[simp] theorem State.logPut_fuses (s : State) (src sev code a : Nat) (w : Word) : (s.logPut src sev code a w).fuses = s.fuses := by
  unfold State.logPut
  dsimp only
  split <;> split <;> simp
@[simp] theorem State.logPut_bk (s : State) (src sev code a : Nat) (w : Word) : (s.logPut src sev code a w).bk = s.bk := by
  unfold State.logPut
  dsimp only
  split <;> split <;> simp
@[simp] theorem State.logPut_tb (s : State) (src sev code a : Nat) (w : Word) : (s.logPut src sev code a w).tb = s.tb := by
  unfold State.logPut
  dsimp only
  split <;> split <;> simp
@[simp] theorem State.logPut_el (s : State) (src sev code a : Nat) (w : Word) : (s.logPut src sev code a w).el = s.el := by
  unfold State.logPut
  dsimp only
  split <;> split <;> simp
@[simp] theorem State.logPut_heat (s : State) (src sev code a : Nat) (w : Word) : (s.logPut src sev code a w).heat = s.heat := by
  unfold State.logPut
  dsimp only
  split <;> split <;> simp
@[simp] theorem State.logPut_assay (s : State) (src sev code a : Nat) (w : Word) : (s.logPut src sev code a w).assay = s.assay := by
  unfold State.logPut
  dsimp only
  split <;> split <;> simp
@[simp] theorem State.logPut_upd (s : State) (src sev code a : Nat) (w : Word) : (s.logPut src sev code a w).upd = s.upd := by
  unfold State.logPut
  dsimp only
  split <;> split <;> simp

@[simp] theorem State.logAdd_pending (s : State) (src sev code a : Nat) (w : Word) : (s.logAdd src sev code a w).pending = s.pending := by
  unfold State.logAdd
  dsimp only
  split <;> simp
@[simp] theorem State.logAdd_inReset (s : State) (src sev code a : Nat) (w : Word) : (s.logAdd src sev code a w).inReset = s.inReset := by
  unfold State.logAdd
  dsimp only
  split <;> simp
@[simp] theorem State.logAdd_chans (s : State) (src sev code a : Nat) (w : Word) : (s.logAdd src sev code a w).chans = s.chans := by
  unfold State.logAdd
  dsimp only
  split <;> simp
@[simp] theorem State.logAdd_cmd (s : State) (src sev code a : Nat) (w : Word) : (s.logAdd src sev code a w).cmd = s.cmd := by
  unfold State.logAdd
  dsimp only
  split <;> simp
@[simp] theorem State.logAdd_jobs (s : State) (src sev code a : Nat) (w : Word) : (s.logAdd src sev code a w).jobs = s.jobs := by
  unfold State.logAdd
  dsimp only
  split <;> simp
@[simp] theorem State.logAdd_cores (s : State) (src sev code a : Nat) (w : Word) : (s.logAdd src sev code a w).cores = s.cores := by
  unfold State.logAdd
  dsimp only
  split <;> simp
@[simp] theorem State.logAdd_exch (s : State) (src sev code a : Nat) (w : Word) : (s.logAdd src sev code a w).exch = s.exch := by
  unfold State.logAdd
  dsimp only
  split <;> simp
@[simp] theorem State.logAdd_fuses (s : State) (src sev code a : Nat) (w : Word) : (s.logAdd src sev code a w).fuses = s.fuses := by
  unfold State.logAdd
  dsimp only
  split <;> simp
@[simp] theorem State.logAdd_bk (s : State) (src sev code a : Nat) (w : Word) : (s.logAdd src sev code a w).bk = s.bk := by
  unfold State.logAdd
  dsimp only
  split <;> simp
@[simp] theorem State.logAdd_tb (s : State) (src sev code a : Nat) (w : Word) : (s.logAdd src sev code a w).tb = s.tb := by
  unfold State.logAdd
  dsimp only
  split <;> simp
@[simp] theorem State.logAdd_el (s : State) (src sev code a : Nat) (w : Word) : (s.logAdd src sev code a w).el = s.el := by
  unfold State.logAdd
  dsimp only
  split <;> simp
@[simp] theorem State.logAdd_heat (s : State) (src sev code a : Nat) (w : Word) : (s.logAdd src sev code a w).heat = s.heat := by
  unfold State.logAdd
  dsimp only
  split <;> simp
@[simp] theorem State.logAdd_assay (s : State) (src sev code a : Nat) (w : Word) : (s.logAdd src sev code a w).assay = s.assay := by
  unfold State.logAdd
  dsimp only
  split <;> simp
@[simp] theorem State.logAdd_upd (s : State) (src sev code a : Nat) (w : Word) : (s.logAdd src sev code a w).upd = s.upd := by
  unfold State.logAdd
  dsimp only
  split <;> simp

@[simp] theorem State.logOwn_pending (s : State) (code a : Nat) (w : Word) : (s.logOwn code a w).pending = s.pending := by
  rw [State.logOwn, State.bump_pending, State.bump_pending, State.logAdd_pending]
@[simp] theorem State.logOwn_inReset (s : State) (code a : Nat) (w : Word) : (s.logOwn code a w).inReset = s.inReset := by
  rw [State.logOwn, State.bump_inReset, State.bump_inReset, State.logAdd_inReset]
@[simp] theorem State.logOwn_chans (s : State) (code a : Nat) (w : Word) : (s.logOwn code a w).chans = s.chans := by
  rw [State.logOwn, State.bump_chans, State.bump_chans, State.logAdd_chans]
@[simp] theorem State.logOwn_cmd (s : State) (code a : Nat) (w : Word) : (s.logOwn code a w).cmd = s.cmd := by
  rw [State.logOwn, State.bump_cmd, State.bump_cmd, State.logAdd_cmd]
@[simp] theorem State.logOwn_jobs (s : State) (code a : Nat) (w : Word) : (s.logOwn code a w).jobs = s.jobs := by
  rw [State.logOwn, State.bump_jobs, State.bump_jobs, State.logAdd_jobs]
@[simp] theorem State.logOwn_cores (s : State) (code a : Nat) (w : Word) : (s.logOwn code a w).cores = s.cores := by
  rw [State.logOwn, State.bump_cores, State.bump_cores, State.logAdd_cores]
@[simp] theorem State.logOwn_exch (s : State) (code a : Nat) (w : Word) : (s.logOwn code a w).exch = s.exch := by
  rw [State.logOwn, State.bump_exch, State.bump_exch, State.logAdd_exch]
@[simp] theorem State.logOwn_fuses (s : State) (code a : Nat) (w : Word) : (s.logOwn code a w).fuses = s.fuses := by
  rw [State.logOwn, State.bump_fuses, State.bump_fuses, State.logAdd_fuses]
@[simp] theorem State.logOwn_bk (s : State) (code a : Nat) (w : Word) : (s.logOwn code a w).bk = s.bk := by
  rw [State.logOwn, State.bump_bk, State.bump_bk, State.logAdd_bk]
@[simp] theorem State.logOwn_tb (s : State) (code a : Nat) (w : Word) : (s.logOwn code a w).tb = s.tb := by
  rw [State.logOwn, State.bump_tb, State.bump_tb, State.logAdd_tb]
@[simp] theorem State.logOwn_el (s : State) (code a : Nat) (w : Word) : (s.logOwn code a w).el = s.el := by
  rw [State.logOwn, State.bump_el, State.bump_el, State.logAdd_el]
@[simp] theorem State.logOwn_heat (s : State) (code a : Nat) (w : Word) : (s.logOwn code a w).heat = s.heat := by
  rw [State.logOwn, State.bump_heat, State.bump_heat, State.logAdd_heat]
@[simp] theorem State.logOwn_assay (s : State) (code a : Nat) (w : Word) : (s.logOwn code a w).assay = s.assay := by
  rw [State.logOwn, State.bump_assay, State.bump_assay, State.logAdd_assay]
@[simp] theorem State.logOwn_upd (s : State) (code a : Nat) (w : Word) : (s.logOwn code a w).upd = s.upd := by
  rw [State.logOwn, State.bump_upd, State.bump_upd, State.logAdd_upd]

@[simp] theorem State.assertQuench_pending (s : State) (cls unit : Nat) : (s.assertQuench cls unit).pending = s.pending := by
  unfold State.assertQuench
  dsimp only
  split_ifs <;> simp
@[simp] theorem State.assertQuench_inReset (s : State) (cls unit : Nat) : (s.assertQuench cls unit).inReset = s.inReset := by
  unfold State.assertQuench
  dsimp only
  split_ifs <;> simp
@[simp] theorem State.assertQuench_chans (s : State) (cls unit : Nat) : (s.assertQuench cls unit).chans = s.chans := by
  unfold State.assertQuench
  dsimp only
  split_ifs <;> simp
@[simp] theorem State.assertQuench_cmd (s : State) (cls unit : Nat) : (s.assertQuench cls unit).cmd = s.cmd := by
  unfold State.assertQuench
  dsimp only
  split_ifs <;> simp
@[simp] theorem State.assertQuench_jobs (s : State) (cls unit : Nat) : (s.assertQuench cls unit).jobs = s.jobs := by
  unfold State.assertQuench
  dsimp only
  split_ifs <;> simp
@[simp] theorem State.assertQuench_cores (s : State) (cls unit : Nat) : (s.assertQuench cls unit).cores = s.cores := by
  unfold State.assertQuench
  dsimp only
  split_ifs <;> simp
@[simp] theorem State.assertQuench_exch (s : State) (cls unit : Nat) : (s.assertQuench cls unit).exch = s.exch := by
  unfold State.assertQuench
  dsimp only
  split_ifs <;> simp
@[simp] theorem State.assertQuench_fuses (s : State) (cls unit : Nat) : (s.assertQuench cls unit).fuses = s.fuses := by
  unfold State.assertQuench
  dsimp only
  split_ifs <;> simp
@[simp] theorem State.assertQuench_bk (s : State) (cls unit : Nat) : (s.assertQuench cls unit).bk = s.bk := by
  unfold State.assertQuench
  dsimp only
  split_ifs <;> simp
@[simp] theorem State.assertQuench_tb (s : State) (cls unit : Nat) : (s.assertQuench cls unit).tb = s.tb := by
  unfold State.assertQuench
  dsimp only
  split_ifs <;> simp
@[simp] theorem State.assertQuench_el (s : State) (cls unit : Nat) : (s.assertQuench cls unit).el = s.el := by
  unfold State.assertQuench
  dsimp only
  split_ifs <;> simp
@[simp] theorem State.assertQuench_heat (s : State) (cls unit : Nat) : (s.assertQuench cls unit).heat = s.heat := by
  unfold State.assertQuench
  dsimp only
  split_ifs <;> simp
@[simp] theorem State.assertQuench_assay (s : State) (cls unit : Nat) : (s.assertQuench cls unit).assay = s.assay := by
  unfold State.assertQuench
  dsimp only
  split_ifs <;> simp
@[simp] theorem State.assertQuench_upd (s : State) (cls unit : Nat) : (s.assertQuench cls unit).upd = s.upd := by
  unfold State.assertQuench
  dsimp only
  split_ifs <;> simp

@[simp] theorem State.raiseClass_pending (s : State) (cls unit : Nat) : (s.raiseClass cls unit).pending = s.pending := by
  unfold State.raiseClass
  dsimp only
  split_ifs <;> (try split) <;> simp
@[simp] theorem State.raiseClass_inReset (s : State) (cls unit : Nat) : (s.raiseClass cls unit).inReset = s.inReset := by
  unfold State.raiseClass
  dsimp only
  split_ifs <;> (try split) <;> simp
@[simp] theorem State.raiseClass_chans (s : State) (cls unit : Nat) : (s.raiseClass cls unit).chans = s.chans := by
  unfold State.raiseClass
  dsimp only
  split_ifs <;> (try split) <;> simp
@[simp] theorem State.raiseClass_cmd (s : State) (cls unit : Nat) : (s.raiseClass cls unit).cmd = s.cmd := by
  unfold State.raiseClass
  dsimp only
  split_ifs <;> (try split) <;> simp
@[simp] theorem State.raiseClass_jobs (s : State) (cls unit : Nat) : (s.raiseClass cls unit).jobs = s.jobs := by
  unfold State.raiseClass
  dsimp only
  split_ifs <;> (try split) <;> simp
@[simp] theorem State.raiseClass_cores (s : State) (cls unit : Nat) : (s.raiseClass cls unit).cores = s.cores := by
  unfold State.raiseClass
  dsimp only
  split_ifs <;> (try split) <;> simp
@[simp] theorem State.raiseClass_exch (s : State) (cls unit : Nat) : (s.raiseClass cls unit).exch = s.exch := by
  unfold State.raiseClass
  dsimp only
  split_ifs <;> (try split) <;> simp
@[simp] theorem State.raiseClass_fuses (s : State) (cls unit : Nat) : (s.raiseClass cls unit).fuses = s.fuses := by
  unfold State.raiseClass
  dsimp only
  split_ifs <;> (try split) <;> simp
@[simp] theorem State.raiseClass_bk (s : State) (cls unit : Nat) : (s.raiseClass cls unit).bk = s.bk := by
  unfold State.raiseClass
  dsimp only
  split_ifs <;> (try split) <;> simp
@[simp] theorem State.raiseClass_tb (s : State) (cls unit : Nat) : (s.raiseClass cls unit).tb = s.tb := by
  unfold State.raiseClass
  dsimp only
  split_ifs <;> (try split) <;> simp
@[simp] theorem State.raiseClass_el (s : State) (cls unit : Nat) : (s.raiseClass cls unit).el = s.el := by
  unfold State.raiseClass
  dsimp only
  split_ifs <;> (try split) <;> simp
@[simp] theorem State.raiseClass_heat (s : State) (cls unit : Nat) : (s.raiseClass cls unit).heat = s.heat := by
  unfold State.raiseClass
  dsimp only
  split_ifs <;> (try split) <;> simp
@[simp] theorem State.raiseClass_assay (s : State) (cls unit : Nat) : (s.raiseClass cls unit).assay = s.assay := by
  unfold State.raiseClass
  dsimp only
  split_ifs <;> (try split) <;> simp
@[simp] theorem State.raiseClass_upd (s : State) (cls unit : Nat) : (s.raiseClass cls unit).upd = s.upd := by
  unfold State.raiseClass
  dsimp only
  split_ifs <;> (try split) <;> simp

@[simp] theorem State.clearClass_pending (s : State) (cls unit : Nat) : (s.clearClass cls unit).pending = s.pending := by
  unfold State.clearClass
  dsimp only
  split_ifs <;> simp
@[simp] theorem State.clearClass_inReset (s : State) (cls unit : Nat) : (s.clearClass cls unit).inReset = s.inReset := by
  unfold State.clearClass
  dsimp only
  split_ifs <;> simp
@[simp] theorem State.clearClass_chans (s : State) (cls unit : Nat) : (s.clearClass cls unit).chans = s.chans := by
  unfold State.clearClass
  dsimp only
  split_ifs <;> simp
@[simp] theorem State.clearClass_cmd (s : State) (cls unit : Nat) : (s.clearClass cls unit).cmd = s.cmd := by
  unfold State.clearClass
  dsimp only
  split_ifs <;> simp
@[simp] theorem State.clearClass_jobs (s : State) (cls unit : Nat) : (s.clearClass cls unit).jobs = s.jobs := by
  unfold State.clearClass
  dsimp only
  split_ifs <;> simp
@[simp] theorem State.clearClass_cores (s : State) (cls unit : Nat) : (s.clearClass cls unit).cores = s.cores := by
  unfold State.clearClass
  dsimp only
  split_ifs <;> simp
@[simp] theorem State.clearClass_exch (s : State) (cls unit : Nat) : (s.clearClass cls unit).exch = s.exch := by
  unfold State.clearClass
  dsimp only
  split_ifs <;> simp
@[simp] theorem State.clearClass_fuses (s : State) (cls unit : Nat) : (s.clearClass cls unit).fuses = s.fuses := by
  unfold State.clearClass
  dsimp only
  split_ifs <;> simp
@[simp] theorem State.clearClass_bk (s : State) (cls unit : Nat) : (s.clearClass cls unit).bk = s.bk := by
  unfold State.clearClass
  dsimp only
  split_ifs <;> simp
@[simp] theorem State.clearClass_tb (s : State) (cls unit : Nat) : (s.clearClass cls unit).tb = s.tb := by
  unfold State.clearClass
  dsimp only
  split_ifs <;> simp
@[simp] theorem State.clearClass_el (s : State) (cls unit : Nat) : (s.clearClass cls unit).el = s.el := by
  unfold State.clearClass
  dsimp only
  split_ifs <;> simp
@[simp] theorem State.clearClass_heat (s : State) (cls unit : Nat) : (s.clearClass cls unit).heat = s.heat := by
  unfold State.clearClass
  dsimp only
  split_ifs <;> simp
@[simp] theorem State.clearClass_assay (s : State) (cls unit : Nat) : (s.clearClass cls unit).assay = s.assay := by
  unfold State.clearClass
  dsimp only
  split_ifs <;> simp
@[simp] theorem State.clearClass_upd (s : State) (cls unit : Nat) : (s.clearClass cls unit).upd = s.upd := by
  unfold State.clearClass
  dsimp only
  split_ifs <;> simp

/-- A sensor's sample stands in its place, whatever it raises. -/
@[simp] theorem State.sensed_sens (s : State) (i : Nat) (x : Sensor) :
    (s.sensed i x).assay.sens = Tab.set (fun _ => {}) s.assay.sens i x := by
  unfold State.sensed
  dsimp only
  split_ifs <;> simp [State.modAssay]

/-- A voltage monitor's sample is taken against its limits, debounced. -/
theorem State.voltSample_same (s : State) (k : Nat) (v : Int) :
    Tab.get (fun _ => ({} : Sensor)) (s.voltSample k v).assay.sens (8 + k) =
      (let l := s.vlim k
       let fm : Int := (s.rf 0x0C1 0x0C4 7 0 : Nat)
       let hy : Int := (s.rf 0x0C1 0x0C4 15 8 : Nat)
       (Tab.get (fun _ => {}) s.assay.sens (8 + k)).sample v (decide (v < l.1 ∨ v > l.2))
        (decide (l.1 + hy ≤ v ∧ v ≤ l.2 - hy)) (decide (v < l.1 - fm ∨ v > l.2 + fm))
        (decide (l.1 - fm + hy ≤ v ∧ v ≤ l.2 + fm - hy)) (decide (v < l.1)) (s.rf 0x0C1 0x0C4 23 16)) := by
  rw [State.voltSample, State.sensed_sens, Tab.get_set_same]

/-- Another voltage monitor's sample leaves a sensor as it was. -/
theorem State.voltSample_other (s : State) {k i : Nat} (v : Int) (h : i ≠ 8 + k) :
    Tab.get (fun _ => ({} : Sensor)) (s.voltSample k v).assay.sens i = Tab.get (fun _ => {}) s.assay.sens i := by
  rw [State.voltSample, State.sensed_sens, Tab.get_set_ne _ _ _ h]

/-- After the samples of all 24 voltage monitors, monitor 18's sensor stands as its own sample left it. -/
theorem State.voltSamples_18 (v : List Int) (s : State) :
    Tab.get (fun _ => ({} : Sensor)) ((List.range 24).foldl (fun s k => s.voltSample k (v.getD k 0)) s).assay.sens 26 =
      Tab.get (fun _ => {}) (((List.range 18).foldl (fun s k => s.voltSample k (v.getD k 0)) s).voltSample 18 (v.getD 18 0)).assay.sens 26 := by
  have keep : ∀ (l : List Nat) (s : State), 18 ∉ l → Tab.get (fun _ => ({} : Sensor))
      (l.foldl (fun s k => s.voltSample k (v.getD k 0)) s).assay.sens 26 = Tab.get (fun _ => {}) s.assay.sens 26 := by
    intro l
    induction l with
    | nil => intro s _; rfl
    | cons k r ih =>
      intro s h
      rw [List.foldl, ih _ (fun hr => h (by simp [hr])), State.voltSample_other _ _ (by simp at h; omega)]
  rw [show List.range 24 = List.range 18 ++ 18 :: [19, 20, 21, 22, 23] from rfl, List.foldl_append, List.foldl_cons,
    keep [19, 20, 21, 22, 23] _ (by decide)]

end Sys2Proof.Machine
end

