-- ==== Sys2Proof/Laws/Memory.lean ====
section
/-! SUPPORT. The block's memories: a word reads what was last written there, other words read as before, and every memory
operation keeps the canonical form. -/

namespace Sys2Proof.Machine

theorem Tab.below_del {α : Type} {n : Nat} {t : Tab α} (k : Nat) (h : Tab.below n t = true) : Tab.below n (Tab.del t k) = true := by
  simp only [Tab.below, List.all_eq_true] at *
  exact fun e he => h e (List.mem_of_mem_filter he)

theorem Tab.below_put {α : Type} {n k : Nat} {t : Tab α} (x : α) (h : Tab.below n t = true) (hk : k < n) :
    Tab.below n (Tab.put t k x) = true := by
  induction t with
  | nil => simp [Tab.put, Tab.below, hk]
  | cons e r ih =>
    obtain ⟨i, v⟩ := e
    simp only [Tab.below, List.all_cons, Bool.and_eq_true] at h
    unfold Tab.put
    split
    · simp only [Tab.below, List.all_cons, Bool.and_eq_true]
      exact ⟨by simp [hk], h⟩
    · simp only [Tab.below, List.all_cons, Bool.and_eq_true]
      exact ⟨h.1, ih h.2⟩

/-- A write below the size keeps a memory's canonical form. -/
theorem Memory.wf_set {α : Type} [DecidableEq α] {n k : Nat} {d : Nat → α} {t : Tab α} (x : α) (h : Memory.wf n d t = true)
    (hk : k < n) : Memory.wf n d (Tab.set d t k x) = true := by
  simp only [Memory.wf, Bool.and_eq_true] at *
  refine ⟨Tab.wf_set d k x h.1, ?_⟩
  unfold Tab.set
  split
  · exact Tab.below_del k h.2
  · exact Tab.below_put x (Tab.below_del k h.2) hk

theorem State.memWf_reset : State.reset.memWf = true := by decide

/-- The five memories, one condition each. -/
theorem State.memWf_iff (s : State) : s.memWf = true ↔
    Memory.wf 0x10000 (fun _ => 0) s.exch = true ∧ Memory.wf 0x80000 (fun _ => 0) s.measRam = true ∧
      Tab.wf (fun _ => 0) s.snapMem = true ∧ Tab.wf (fun _ => 0) s.bk.ret = true ∧ Tab.wf (fun _ => 0xFF) s.flash = true := by
  simp [State.memWf, and_assoc]

/-- What leaves the five memories alone keeps their form. -/
theorem State.memWf_of_same {s t : State} (h : s.memWf = true) (h1 : t.exch = s.exch) (h2 : t.measRam = s.measRam)
    (h3 : t.snapMem = s.snapMem) (h4 : t.bk.ret = s.bk.ret) (h5 : t.flash = s.flash) : t.memWf = true := by
  rw [State.memWf_iff] at *
  rw [h1, h2, h3, h4, h5]
  exact h

theorem State.memWf_setEx {s : State} (a : Nat) (v : Native) (h : s.memWf = true) : (s.setEx a v).memWf = true := by
  rw [State.memWf_iff] at *
  exact ⟨Memory.wf_set v h.1 (Nat.mod_lt _ (by decide)), h.2⟩

theorem State.memWf_setMr {s : State} (a : Nat) (v : Native) (h : s.memWf = true) : (s.setMr a v).memWf = true := by
  rw [State.memWf_iff] at *
  exact ⟨h.1, Memory.wf_set v h.2.1 (Nat.mod_lt _ (by decide)), h.2.2⟩

theorem State.memWf_setExByte {s : State} (base i : Nat) (b : Byte) (h : s.memWf = true) : (s.setExByte base i b).memWf = true :=
  State.memWf_setEx _ _ h

theorem State.memWf_putExBytes {s : State} (a i : Nat) (l : List Byte) (h : s.memWf = true) : (s.putExBytes a i l).memWf = true := by
  induction l generalizing s i with
  | nil => exact h
  | cons b r ih => exact ih (i + 1) (State.memWf_setExByte a i b h)

theorem State.memWf_putExWords {s : State} (base : Nat) (l : List Native) (h : s.memWf = true) : (s.putExWords base l).memWf = true := by
  unfold State.putExWords
  induction List.range l.length generalizing s with
  | nil => exact h
  | cons i r ih => exact ih (State.memWf_setEx _ _ h)

theorem State.memWf_setHm {s : State} (a : Nat) (v : Word) (h : s.memWf = true) : (s.setHm a v).memWf = true :=
  State.memWf_of_same h rfl rfl rfl rfl rfl

theorem State.memWf_putRec {s : State} (loc : Bool) (base : Nat) (ws : List Word) (h : s.memWf = true) :
    (s.putRec loc base ws).memWf = true := by
  fun_induction State.putRec s loc base ws with
  | case1 => exact h
  | case2 => exact State.memWf_setEx _ _ h
  | case3 => exact State.memWf_setHm _ _ h
  | case4 s base a b rest _ ih => exact ih (State.memWf_setEx _ _ h)
  | case5 s base a b rest _ ih => exact ih (State.memWf_setHm _ _ (State.memWf_setHm _ _ h))

theorem State.memWf_dataWr {s : State} (k space a : Nat) (v : Native) (h : s.memWf = true) : (s.dataWr k space a v).memWf = true := by
  unfold State.dataWr
  split
  · exact State.memWf_of_same h rfl rfl rfl rfl rfl
  · split
    · exact State.memWf_of_same h rfl rfl rfl rfl rfl
    · split
      · exact State.memWf_setMr _ _ h
      · exact State.memWf_setEx _ _ h

theorem State.memWf_setRet {s : State} (r : Nat) (v : Row) (h : s.memWf = true) : (s.setRet r v).memWf = true := by
  rw [State.memWf_iff] at *
  exact ⟨h.1, h.2.1, h.2.2.1, Tab.wf_set _ r v h.2.2.2.1, h.2.2.2.2⟩

theorem State.memWf_modBk {s : State} (f : Backup → Backup) (h : s.memWf = true) (hf : ∀ b, (f b).ret = b.ret) :
    (s.modBk f).memWf = true := State.memWf_of_same h rfl rfl rfl (hf _) rfl

theorem State.memWf_retain {s : State} (r : Nat) (v : Row) (h : s.memWf = true) : (s.retain r v).memWf = true := by
  unfold State.retain
  have h1 := State.memWf_setRet r v h
  generalize s.setRet r v = s1 at *
  exact State.memWf_modBk _ (State.memWf_setRet 1 _ h1) fun _ => rfl

theorem State.memWf_flProgram {s : State} (a : Nat) (l : List Byte) (h : s.memWf = true) : (s.flProgram a l).memWf = true := by
  induction l generalizing s a with
  | nil => exact h
  | cons b r ih =>
    refine ih (a + 1) ?_
    rw [State.memWf_iff] at *
    exact ⟨h.1, h.2.1, h.2.2.1, h.2.2.2.1, Tab.wf_set _ a _ h.2.2.2.2⟩

theorem Tab.wfFrom_filter {α : Type} [DecidableEq α] (d : Nat → α) (p : Nat × α → Bool) {b : Nat} {t : Tab α}
    (h : Tab.wfFrom d b t = true) : Tab.wfFrom d b (t.filter p) = true := by
  induction t generalizing b with
  | nil => rfl
  | cons e r ih =>
    obtain ⟨i, v⟩ := e
    simp only [Tab.wfFrom, Bool.and_eq_true, decide_eq_true_eq] at h
    rw [List.filter_cons]
    split
    · simp only [Tab.wfFrom, Bool.and_eq_true, decide_eq_true_eq]
      exact ⟨h.1, ih h.2⟩
    · exact Tab.wfFrom_le d (ih h.2) (by omega)

theorem State.memWf_flErase {s : State} (a n : Nat) (h : s.memWf = true) : (s.flErase a n).memWf = true := by
  rw [State.memWf_iff] at *
  exact ⟨h.1, h.2.1, h.2.2.1, h.2.2.2.1, Tab.wfFrom_filter _ _ h.2.2.2.2⟩

theorem State.memWf_putSample {s : State} (n i : Nat) (y : Int × Int) (h : s.memWf = true) : (s.putSample n i y).memWf = true := by
  unfold State.putSample
  split
  · exact h
  · rw [State.memWf_iff] at *
    exact ⟨h.1, h.2.1, Tab.wf_set _ _ _ h.2.2.1, h.2.2.2⟩

theorem State.memWf_putMemWord {s : State} (mem a v : Nat) (h : s.memWf = true) : (s.putMemWord mem a v).memWf = true := by
  unfold State.putMemWord
  split
  · exact State.memWf_of_same h rfl rfl rfl rfl rfl
  split
  · exact State.memWf_of_same h rfl rfl rfl rfl rfl
  split
  · exact State.memWf_of_same h rfl rfl rfl rfl rfl
  rw [State.memWf_iff] at *
  split
  · exact ⟨h.1, Memory.wf_set _ h.2.1 (Nat.mod_lt _ (by decide)), h.2.2⟩
  split
  · exact ⟨Memory.wf_set _ h.1 (Nat.mod_lt _ (by decide)), h.2⟩
  split
  · exact ⟨h.1, h.2.1, Tab.wf_set _ _ _ h.2.2.1, h.2.2.2⟩
  split
  · exact ⟨h.1, h.2.1, h.2.2.1, Tab.wf_set _ _ _ h.2.2.2.1, h.2.2.2.2⟩
  · exact h

/-! ## Reads after writes -/

theorem State.ex_setEx (s : State) (a b : Nat) (v : Native) :
    (s.setEx a v).ex b = if b % 0x10000 = a % 0x10000 then v else s.ex b := Tab.get_set _ _ _ _ _

theorem State.mr_setMr (s : State) (a b : Nat) (v : Native) :
    (s.setMr a v).mr b = if b % 0x80000 = a % 0x80000 then v else s.mr b := Tab.get_set _ _ _ _ _

theorem State.hm_setHm (s : State) (a b : Nat) (v : Word) : (s.setHm a v).hm b = if b / 4 = a / 4 then v else s.hm b :=
  Tab.get_set _ _ _ _ _

theorem State.retRow_setRet (s : State) (r q : Nat) (v : Row) : (s.setRet r v).retRow q = if q = r then v else s.retRow q :=
  Tab.get_set _ _ _ _ _

end Sys2Proof.Machine
end

