-- ==== Sys2Proof/Tests/Slice0.lean ====
section
/-! SUPPORT. The model's own tests: the smoke test of WellFormed, a few figures that spec/ works out, and for every statement
with hypotheses a state and operands that meet them, clause by clause, at the ends of their ranges where a run reaches them. -/

namespace Sys2Proof.Machine

set_option Elab.async false

/-! ## Sample states -/

/-- A running Malith 5 ms after its lock, in heat 7 with 1 ms left. -/
def tRun : State := { State.reset with
  inReset := false, el := 5 * msUnits, heat := 7,
  tb := { now := 5 * msUnits, everLocked := true, pllLock := true, healthy := true, stepped := true, hStart := 5 * msUnits,
          hEnd := 6 * msUnits },
  regs := [(addr 0x000 0x054, 3), (addr 0x000 0x058, 0x00030000)] }

/-- A state with some registers set: page, offset, value. -/
def State.put (s : State) (l : List (Nat × Nat × Nat)) : State :=
  l.foldl (fun s e => s.setReg e.1 e.2.1 (BitVec.ofNat 32 e.2.2)) s

/-- The running Malith with one core, booked for 1,000 cycles. -/
def tCore (k : Nat) (c : Core) : State := { tRun with cores := [(k, c)], regs := tRun.regs ++ [(addr (0x0A0 + k) 0x04C, 1000)] }

/-- A core that runs, with some registers. -/
def tC : Core :=
  { st := .run, pc := 0x200, lc := 3,
    d := [(1, BitVec.ofInt 72 (-5)), (2, BitVec.ofInt 72 (-(2 ^ 71))), (3, 7), (4, BitVec.ofInt 72 (-1)), (6, 0xFFFFF0000000000003)],
    a := [(0, 5), (1, 0x1000010), (2, 0x0FFFFFF), (4, 0x1000003), (7, 0x70000C8)],
    acc := [(1, { bits := 3, cplx := true, psh := 5 })] }

/-- Core 0 with a bad word in its X memory. -/
def tBad : State := { tCore 0 tC with bad := [(badKey (spaceMem 0 0) 5, true)] }

/-- Core 0 with a bad word in the row of its program counter, and in the next row as it stands at the end of one. -/
def tRow : State := { tCore 0 tC with bad := [(badKey 0 0x40, true)] }
def tNextRow : State := { tCore 0 { tC with pc := 0x206 } with bad := [(badKey 0 0x41, true)] }

/-- The running Malith with a live entry of a class. -/
def State.withEnt (s : State) (i cls : Nat) : State := s.setEnt i { st := .live, gen := 1, cls := cls, host := true }

/-- A subscription to host memory in MEAS slot 63, with DMA permitted. -/
def tSub : State := { tRun.withEnt 5 6 with subs := [(5, { slot := 63 })], host := { tRun.host with dma := true, bme := true } }

/-- A lane page with a rate commanded, and the ring of commands off. -/
def tSpi : State := tRun.put [(0x000, 0x050, 1)]

/-- Arguments 3 to 15 of a record, from the listed words. -/
def tArgs (l : List (Nat × Word)) : List Word := (List.range 13).map fun i => Tab.get (fun _ => 0) l (i + 3)

/-- A record of version 3 with sequence number 9. -/
def tF (handle : Word) (l : List (Nat × Word)) : CmdFields := ⟨3, false, false, false, 0, 9, handle, tArgs l⟩

/-- The tuned front-end of an L1 band, and a qualified lane. -/
def tFec : Fec := { st := .ready, lock := true, lockEl := some 0, haveTune := true, table := List.replicate 15 0 ++ [0xFF] ++ List.replicate 64 0,
                    tune := [0, 0, 0, 0, 0, 0, 0, 0, 0x60, 0, 0xE7, 0x5D, 0, 0, 0x50, 1] ++ List.replicate 128 0 }
def tLane : Lane := { st := .qualified, everReal := true, lastNom := 160000000, ccOk := true, cfg := [0xF0, 1, 0, 0, 0, 0], bookCfg := [0xF0, 1, 0, 0, 0, 0] }

/-- The running Malith with its rings in exchange memory, two qualified lanes and two front-ends; streams 0 and 1. -/
def tCmd : State := { tRun.put [(0x003, 0x040, 3), (0x003, 0x058, 0x8000), (0x010, 0x048, 1), (0x010, 0x064, 8), (0x011, 0x048, 1), (0x011, 0x04C, 1),
    (0x011, 0x064, 8), (0x018, 0x00C, 1)] with
  lanes := [(0, tLane), (1, { tLane with bookCfg := [0xF0, 1, 1, 0, 0, 0] })], fecs := [(0, tFec), (1, tFec)] }

/-- The same with a live object. -/
def tObj (i cls : Nat) : State := tCmd.withEnt i cls

/-- The running Malith in Anneal: SVC 2, lane 0 qualified, its front-end ready, and its page committed for streams. -/
def tAnneal : State := { tRun.put [(0x000, 0x054, 2), (0x010, 0x048, 1)] with lanes := [(0, tLane)], fecs := [(0, tFec)] }

/-- A channel of Anneal that has waited 10 s. -/
def tTry : State := { tAnneal with
  el := ofNs 10000000000, boot := { tried := [(1, 1)] }, chans := [(8191, { prm := { signal := 1, prn := 1 } })],
  cmd := { ents := [(8191, { st := .live, gen := 1, cls := 15, sys := true })] } }

/-- A quench by the host, and a recovery that may start. -/
def tQuench : State := { tRun with fault := { phase := .quenched, svcBefore := 3, recReq := true } }

/-- Lane 7 in a state. -/
def tLaneSt (st : LaneSt) : State := { tRun with lanes := [(7, { tLane with st := st, cand := true, blk := some ⟨3, 1024, 10 ^ 11, 0, 65536, false, false, false, false, 0, [], 0⟩ })] }

/-- Front-end 7 as given. -/
def tFe (x : Fec) : State := { tRun with fecs := [(7, x)] }

/-- Slot 7 of the return lane with a job, and front-end 0 locked. -/
def tInj (j : InjJob) (rl : RlSt) : State := { tRun with fecs := [(0, tFec)], el := ofNs 1000000000, rl := { st := rl, next := ofNs 1000000001, jobs := [(7, j)] } }

/-- A search job of entry 8191. -/
def tJob (j : Job) : State := { tRun with jobs := [(8191, j)] }

/-- Channel 8191 as given. -/
def tCh (c : Chan) : State := { tRun.withEnt 8191 1 with chans := [(8191, c)] }

/-- OSNMA on and the root key in force. -/
def tAuth : State := { tRun.put [(0x072, 0x040, 0xA0001)] with
  auth := { pk := 2, root := 2 }, el := ofNs 10000000000, sol := { have_ := true, fix := 1 } }

/-- The disciplining logic as given, 1 s after its last update, with REFIN as its source. -/
def tDisc (d : Disc) : State := { tRun.put [(0x081, 0x040, 2)] with el := ofNs 1000000000, disc := d }

/-- A schedule of entry 8191 whose next edge lies in the heat in progress. -/
def tSch (x : Sched) : State := { tRun.withEnt 8191 4 with touts := [(8191, { x with start := 550000, loaded := true })] }

/-- An armed handle of input 3. -/
def tArm (x : TinIn) : State := { tRun.withEnt 5 5 with tinArms := [(5, { input := 3, edge := 3, armed := true })], tins := [(3, x)] }

/-- Port 3 as given, in mode 1, with the values of its PTP configuration and of its other registers. -/
def tPort (p : EthPort) (l : List (Nat × Nat × Nat)) : State := { tRun.put ([(0x093, 0x040, 1)] ++ l) with
  el := ofNs 10000000000, eth := [(3, { p with link := true })] }

/-- A message of version 2.1 in domain 0 from port identity 65536. -/
def tHdr : PtpHdr := { dt := 0, src := 65536, seq := 9, who := 4 }

/-- A reset Malith with two commands waiting. -/
def tQueue : State := { State.reset with pending := [.perstN, .powerOnReset 750 800 1800] }

/-! ## Well-formed commands: one ill-formed term for each check, and a well-formed one beside it -/

theorem test_wf_args : Instr.wf (.chCreate { tF 0 [] with args := [0] }) = false ∧ Instr.wf (.timeReepoch { tF 0 [] with args := List.replicate 14 0 }) = false ∧
    Instr.wf (.chCreate (tF 0 [])) = true := by decide

theorem test_wf_heat : Instr.wf (.heatBoundary { chans := [{ idx := 8192 }] }) = false ∧
    Instr.wf (.heatBoundary { jobs := [{ idx := 8192 }] }) = false ∧ Instr.wf (.heatBoundary { overruns := [23] }) = false ∧
    Instr.wf (.heatBoundary { temper := [{ island := 64, mean := 0, min := 0 }] }) = false ∧
    Instr.wf (.heatBoundary { chans := [{ idx := 8191 }], jobs := [{ idx := 8191 }], overruns := [22], temper := [{ island := 63, mean := 0, min := 0 }] }) =
      true := by decide

theorem test_wf_frame : Instr.wf (.frame 0 0 80 .missing 0 [] []) = false ∧ Instr.wf (.frame 0 0 79 (.high 0 true) 0 [] []) = false ∧
    Instr.wf (.tinEdge 0 true 0 80) = false ∧ Instr.wf (.frame 0 0 79 (.high 1 true) 0 [] []) = true ∧
      Instr.wf (.tinEdge 0 true 0 79) = true := by decide

theorem test_wf_inav : Instr.wf (.inavPage 0 {}) = false ∧ Instr.wf (.inavPage 37 {}) = false ∧
    Instr.wf (.inavPage 36 { tags := [⟨36, 5, 40, true⟩] }) = false ∧
      Instr.wf (.inavPage 36 { tags := [⟨36, 12, 40, true⟩] }) = true := by decide

theorem test_wf_entries : Instr.wf (.toutEdge 8192) = false ∧ Instr.wf (.trigger 8192) = false ∧ Instr.wf (.toutEdge 8191) = true := by decide

theorem test_wf_ptp : Instr.wf (.sync 0 { dt := 0, src := 2 ^ 80 } false 0) = false ∧ Instr.wf (.followUp 0 { dt := 0, seq := 65536 } 0) = false ∧
    Instr.wf (.delayReq 0 { dt := 0, domain := 256 }) = false ∧ Instr.wf (.delayReq 0 { dt := 0, ver := 16 }) = false ∧
    Instr.wf (.delayReq 0 { dt := 0, minor := 16 }) = false ∧
      Instr.wf (.delayReq 0 { dt := 0, src := 2 ^ 80 - 1, seq := 65535 }) = true := by decide

theorem test_wf_announce : Instr.wf (.announce 0 { dt := 0 } { gm := 2 ^ 64 }) = false ∧ Instr.wf (.announce 0 { dt := 0 } { gm := 0, prio1 := 256 }) = false ∧
    Instr.wf (.announce 0 { dt := 0 } { gm := 0, cls := 256 }) = false ∧
      Instr.wf (.announce 0 { dt := 0 } { gm := 0, acc := 256 }) = false ∧
    Instr.wf (.announce 0 { dt := 0 } { gm := 0, var := 65536 }) = false ∧
      Instr.wf (.announce 0 { dt := 0 } { gm := 0, prio2 := 256 }) = false ∧
    Instr.wf (.announce 0 { dt := 0 } { gm := 0, steps := 65536 }) = false ∧
      Instr.wf (.announce 0 { dt := 0 } { gm := 0, flags := 65536 }) = false ∧
    Instr.wf (.announce 0 { dt := 0 } { gm := 0, tsrc := 256 }) = false ∧
      Instr.wf (.announce 0 { dt := 0 } { gm := 2 ^ 64 - 1 }) = true := by decide

theorem test_wf_lengths : Instr.wf (.spiRead false 0 0 0) = false ∧ Instr.wf (.spiRead false 0 0 1) = true ∧
    Instr.wf (.sensorSample 0 [] []) = false ∧ Instr.wf (.sensorSample 0 (List.replicate 8 0) (List.replicate 24 0)) = true ∧
    Instr.wf (.data 0 0 0 0 [1]) = true := by decide

theorem test_wf_data : Instr.wf (.data 0 0 0 0 (List.replicate 4097 0)) = false := by decide +kernel

/-! ## Small checks of the model against figures that spec/ works out -/

/-- No row of spec/opcode_table.json gives bits. -/
theorem test_no_bits : decodeTableWord 32 0x12345678 = none ∧ State.reset.withFetchWord 32 0x12345678 = State.reset := ⟨rfl, rfl⟩

/-- The grains of a channel: the worked example of spec/03_heats_ledger_handles.md. -/
theorem test_grains : grainsOf 15 81840000 = 1199 ∧ grainsOf 15 40920000 = 600 ∧ grainsOf 5 81840000 = 400 ∧ grainsOf 5 40920000 = 200 ∧
    grainsOf 3 81840000 = 240 ∧ grainsOf 3 40920000 = 120 := by decide +kernel

/-- The pools at reset read CORR_FREE, SRCH_FREE, PFW_FREE, PUSR_FREE and OUT_FREE's reset values (rule R142). -/
theorem test_pools : poolCap 1 = 0x000927C0 ∧ poolCap 2 = 0x00007530 ∧ poolCap 3 = 0x00401640 ∧ poolCap 4 = 0x00155CC0 ∧ poolCap 5 = 0x00001000 := by
  decide

/-- The frame of the worked example of spec/04_sample_lanes.md: framing version 1, L 32 bit times; its streams 8 to 11. -/
theorem test_frame_slots : let c : List Word := [0xF0, 0x3F3F, 0x0B0A0908, 0x00000908, 0x0B0A0908, 0x00000908]
    cfgL c = 32 ∧ cfgK c 8 = 4 ∧ cfgK c 9 = 4 ∧ cfgK c 10 = 2 ∧ cfgK c 11 = 2 := by decide +kernel

/-- Edges of the worked example of spec/10_time_base_outputs.md, in 10 ps steps; the first after its load is 59,526. -/
theorem test_schedule : let x : Sched := { start := 189345630000000000000, periodNs := 1000000000, div := 4800, width := 50000 }
    x.t10 59526 = x.start + 1240125000000 ∧ x.t10 59527 = x.start + 1240145833333 ∧ x.t10 59528 = x.start + 1240166666667 ∧
    x.t10 59529 = x.start + 1240187500000 := by decide

/-- Cell 37 of the worked example of spec/13_casak_signal_datapath.md: MPY and MVAD with SH 8. -/
theorem test_power : let v := ofHalves 181000 (BitVec.ofInt 36 (-52000))
    dotReal v v = 35465000000 ∧ ({ bits := 35465000000, sh := 8 } : AccReg).scaled = (138535156, false) := by decide +kernel

/-- ADD of −5 and 7; of the most negative word and −1, with B.OVF (rules R451, R459). -/
theorem test_add : ∃ t u, exec (.add 0 (.r16 1 3)) (tCore 0 tC) = .next t ∧ (t.core 0).dr 1 = 2 ∧ (t.core 0).pc = 0x202 ∧
    exec (.add 0 (.r16 2 4)) (tCore 0 tC) = .next u ∧ (u.core 0).dr 2 = BitVec.ofNat 72 (2 ^ 71 - 1) ∧ (u.core 0).bits.getLsbD 0 = true :=
  ⟨_, _, rfl, by decide +kernel, by decide +kernel, rfl, by decide +kernel, by decide +kernel⟩

/-- A write of LANE7.FRAME goes to its shadow copy; one out of range is refused with BAD_ARG (rules R76, R82, R83). -/
theorem test_register_write : ∃ t u, exec (.registerWrite 0x17040 0xF1 0xF) tRun = .next t ∧ t.shad 0x017 0x040 = 0xF1 ∧ t.reg 0x017 0x040 = 0xF0 ∧
    exec (.registerWrite 0x17040 6 0xF) tRun = .next u ∧ u.shad 0x017 0x040 = 0xF0 ∧ u.rf 0x017 0x020 7 0 = 0x05 :=
  ⟨_, _, rfl, by decide +kernel, by decide +kernel, rfl, by decide +kernel, by decide +kernel⟩

/-- A native word through the exchange window is written and read whole (rule R498). -/
theorem test_exchange : ∃ t u, exec (.exchangeWordWrite 0xFFFF 0x12) { tRun with host := { stage := 0x3456789ABCDEF012 } } = .next t ∧
    t.ex 0xFFFF = 0x123456789ABCDEF012 ∧ exec (.exchangeRead 0xFFFF 0) t = .next u ∧ u.hostRead = 0xBCDEF012 :=
  ⟨_, _, rfl, by decide +kernel, rfl, by decide +kernel⟩

/-! ## Witnesses: states and operands that meet the hypotheses of the statements -/

/-- Hypotheses of MovesAndLogic, SumsAndOverflow, ShiftsAndRotations, ProductsAndFields, AddressRegisters, BitVariables, BranchesTake. -/
theorem witness_casak_ready :
    (tCore 0 tC).ready 0 ∧
    (tCore 6 { tC with user := true, cyc := 999 }).ready 6 ∧
    (tCore 8 { tC with slot := .fall, lc := 0 }).ready 8 ∧
    (tCore 3 { tC with repAct := true, lc := 1 }).ready 3 ∧
    (tCore 0 tC).readyCtl 0 ∧
    (tCore 8 tC).readyCtl 8 := by
  unfold State.readyCtl State.ready
  decide +kernel

/-- Hypotheses of SumsAndOverflow (ADDC, SUBC), ProductsAndFields and BitVariables (fields and spans at their ends). -/
theorem witness_sums :
    bitRW (0x007 : BitVec 12).toNat = true ∧
    bitRW (0xFFF : BitVec 12).toNat = true ∧
    ((0x47 : BitVec 7).toNat ≤ 71 ∧ 1 ≤ (0x48 : BitVec 7).toNat ∧ (0x48 : BitVec 7).toNat ≤ 72) ∧
    (0xFFF : BitVec 12).toNat + (1 : BitVec 7).toNat ≤ 4096 ∧
    (0xFB8 : BitVec 12).toNat + (72 : BitVec 7).toNat ≤ 4096 := by
  decide +kernel

/-- Hypotheses of DivisionAndExtremes. -/
theorem witness_division :
    (tCore 0 tC).ready 0 ∧
    (0xE : BitVec 4).getLsbD 0 = false ∧
    ((tCore 0 tC).core 0).repAct = false ∧
    (((tCore 0 tC).core 0).dr 3 ≠ 0 ∧ ¬ ((((tCore 0 tC).core 0).dr 1).toInt = -(2 ^ 71) ∧ (((tCore 0 tC).core 0).dr 3).toInt = -1)) ∧
    ((((tCore 0 tC).core 0).dr 2).toInt = -(2 ^ 71) ∧ (((tCore 0 tC).core 0).dr 4).toInt = -1) ∧
    (((tCore 0 tC).core 0).dr 0 = 0 ∧ ((tCore 0 tC).core 0).bits.getLsbD 0x011 = false) := by
  unfold State.ready
  decide +kernel

/-- Hypotheses of LoadsAndStores, CallsAndReturns. -/
theorem witness_loads_stores :
    (tCore 0 tC).ready 0 ∧
    ((MemForm.m16 0 5 1).mod ≠ 3 ∧ (tCore 0 tC).readsAt 0 (MemForm.m16 0 5 1).an (MemForm.m16 0 5 1).disp 0 5) ∧
    ((MemForm.m 1 5 0x1FFF).mod ≠ 3 ∧ (tCore 0 tC).readsAt 0 (MemForm.m 1 5 0x1FFF).an (MemForm.m 1 5 0x1FFF).disp 1 15) ∧
    ((tCore 0 tC).core 0).locate 0 (MemForm.m16 0 5 1).an (MemForm.m16 0 5 1).disp true = some (0, 5) ∧
    ((tCore 0 tC).core 0).locate 0 0 0 true = some (0, 5) ∧
    (tCore 0 tC).pushesTo 0 0 (xyWords 0 - 57) ∧
    (tCore 0 tC).popsFrom 0 0 (xyWords 0 - 56) ∧
    (((tCore 0 tC).core 0).user = false ∧ ((tCore 0 tC).core 0).repAct = false) ∧
    (tCore 0 tC).readsAt 0 (1 : BitVec 3).toNat 0 1 16 ∧
    descBad 0 (2 : BitVec 3).toNat ((tCore 0 tC).dataRd 0 1 16) = false ∧
    descBad 0 (2 : BitVec 3).toNat (((tCore 0 tC).core 0).dr 0) = false := by
  unfold State.pushesTo State.popsFrom State.readsAt State.ready
  decide +kernel

/-- Hypotheses of TrapsInterruptsAndReturns. -/
theorem witness_exceptions :
    (tCore 0 { tC with bits := BitVec.ofNat 4096 (2 ^ 0x011) }).ready 0 ∧
    ((tCore 0 { tC with bits := BitVec.ofNat 4096 (2 ^ 0x011) }).core 0).bits.getLsbD 0x011 = true ∧
    (((tCore 0 tC).core 0).dr 5 = 0 ∧ ((tCore 0 tC).core 0).slot = .no) ∧
    (tCore 0 tC).pushesTo 0 0 (xyWords 0 - 57) ∧
    (tCore 0 { tC with bits := BitVec.ofNat 4096 (2 ^ 0x010 + 2 ^ 0x021 + 2 ^ 0x204) }).canIssue 0 = true ∧
    ((tCore 0 { tC with bits := BitVec.ofNat 4096 (2 ^ 0x010 + 2 ^ 0x021 + 2 ^ 0x204) }).core 0).bits.getLsbD 0x010 = true ∧
    ((tCore 0 { tC with bits := BitVec.ofNat 4096 (2 ^ 0x010 + 2 ^ 0x021 + 2 ^ 0x204) }).core 0).wakeBit = some (vTRIG, 3) ∧
    (((tCore 0 tC).core 0).skip = false ∧ ¬ (((tCore 0 tC).core 0).repAct = true ∧
      (((tCore 0 tC).core 0).repN = true ∨ ((tCore 0 tC).core 0).repFirst = true))) ∧
    ((tCore 0 tC).core 0).wakeBit = none ∧
    (tCore 0 { tC with bits := BitVec.ofNat 4096 (2 ^ 0x020 + 2 ^ 0x200) }).readyCtl 0 ∧
    ((tCore 0 { tC with bits := BitVec.ofNat 4096 (2 ^ 0x020 + 2 ^ 0x200) }).core 0).wakeBit ≠ none := by
  unfold State.pushesTo State.readyCtl State.ready
  decide +kernel

/-- Hypotheses of RepeatsAndBudget. -/
theorem witness_repeats :
    ((tCore 0 { tC with lc := 4096 }).readyCtl 0 ∧ ((tCore 0 { tC with lc := 4096 }).core 0).lc.toNat ≤ 4096) ∧
    (tCore 0 { tC with lc := 0 }).readyCtl 0 ∧
    (((tCore 7 { tC with user := true, cyc := 1000 }).core 7).st = .run ∧
      ((tCore 7 { tC with user := true, cyc := 1000 }).core 7).user = true) ∧
    (tCore 7 { tC with user := true, cyc := 1000 }).rf (corePage 7) 0x04C 19 0 ≤
      ((tCore 7 { tC with user := true, cyc := 1000 }).core 7).cyc := by
  unfold State.readyCtl State.ready
  decide +kernel

/-- Hypotheses of FaultsBeforeAnyEffect. -/
theorem witness_faults :
    ((tCore 0 tC).ready 0 ∧ tBad.ready 0) ∧
    (5 : BitVec 4).getLsbD 0 = true ∧
    (71 < (72 : BitVec 7).toNat ∧ 72 < (73 : BitVec 7).toNat) ∧
    bitRW (0x200 : BitVec 12).toNat = false ∧
    ((tCore 0 { tC with slot := .to 0x40 }).ready 0 ∧ ((tCore 0 { tC with slot := .to 0x40 }).core 0).slot ≠ .no) ∧
    ((tCore 0 { tC with repAct := true }).ready 0 ∧ ((tCore 0 { tC with repAct := true }).core 0).repAct = true) ∧
    ((((tCore 0 tC).core 0).ac (MacForm.dr 1 0 0).acc).cplx = true ∧ (((tCore 0 tC).core 0).ac (MacForm.dr 0 0 0).acc).cplx = false) ∧
    ((tCore 6 { tC with user := true }).ready 6 ∧ ((tCore 6 { tC with user := true }).core 6).user = true) ∧
    ((MemForm.m16 2 5 0).mod ≠ 3 ∧ ((tCore 0 tC).core 0).locate 0 (MemForm.m16 2 5 0).an (MemForm.m16 2 5 0).disp false = none) ∧
    ((tCore 0 tC).core 0).locate 0 (MemForm.m16 2 5 0).an (MemForm.m16 2 5 0).disp true = none ∧
    ((tBad.core 0).locate 0 (MemForm.m16 0 5 0).an (MemForm.m16 0 5 0).disp false = some (0, 5) ∧ tBad.isBad (spaceMem 0 0) 5 = true) ∧
    (tRow.canIssue 0 = true ∧ tRow.isBad 0 (((tRow.core 0).pc + BitVec.ofNat 16 0).toNat / 8) = true) ∧
    (tNextRow.canIssue 0 = true ∧ tNextRow.isBad 0 (((tNextRow.core 0).pc + BitVec.ofNat 16 (4 - 1)).toNat / 8) = true) ∧
    (tNextRow.isBad 0 (((tNextRow.core 0).pc + BitVec.ofNat 16 0).toNat / 8) = false ∧
      tNextRow.isBad 0 (((tNextRow.core 0).pc + BitVec.ofNat 16 1).toNat / 8) = false ∧ (tNextRow.core 0).skip = false) := by
  unfold State.ready
  decide +kernel

/-- Hypotheses of MultiplyAccumulate. -/
theorem witness_mac :
    (tCore 0 tC).ready 0 ∧
    MacOperands 0 (tCore 0 tC) (.dr 1 1 3) (((tCore 0 tC).core 0).dr 1) (((tCore 0 tC).core 0).dr 3) [] ((tCore 0 tC).core 0) false ∧
    MacOperands 0 (tCore 0 tC) (.d16 0 0 3 true false) 0 0 [0] (((tCore 0 tC).core 0).postModify 0 0 1) (((tCore 0 tC).core 0).foldsAt 0 0) ∧
    MacOperands 0 (tCore 0 tC) (.d16 0 0 0 false true) 0 0 [0, 4]
      ((((tCore 0 tC).core 0).postModify 0 0 0).postModify 0 4 1) (((tCore 0 tC).core 0).foldsAt 0 0 || ((tCore 0 tC).core 0).foldsAt 0 4) ∧
    ((((tCore 0 tC).core 0).ac (MacForm.dr 1 1 3).acc).cplx = true ∧
      (((tCore 0 tC).core 0).ac (MacForm.d16 0 0 3 true false).acc).cplx = false) := by
  refine ⟨by unfold State.ready; decide +kernel, Or.inl ⟨1, 1, 3, rfl, rfl, rfl, rfl, rfl, rfl⟩,
    Or.inr (Or.inl ⟨0, 0, true, 5, rfl, by unfold State.readsAt; decide +kernel, by decide +kernel, by decide +kernel, rfl, rfl, rfl⟩),
    Or.inr (Or.inr ⟨0, 0, 0, false, true, 5, 3, by decide, rfl, by unfold State.readsAt; decide +kernel,
      by unfold State.readsAt; decide +kernel, by decide +kernel, by decide +kernel, rfl, rfl, rfl⟩), by decide +kernel⟩

/-- Hypotheses of AccumulatorMoves. -/
theorem witness_accumulators :
    (79 : BitVec 7).toNat ≤ 79 ∧
    ((((tCore 0 tC).core 0).dr 3).toNat / 2 ^ 23 = 0 ∧ (((tCore 0 tC).core 0).dr 3).toNat / 2 ^ 16 % 128 ≤ 79) := by
  decide +kernel

/-- Hypotheses of ResetsAndPowerStates. -/
theorem witness_resets :
    (tRun.inReset = false ∧ tRun.hostSpi = false ∧ tRun.host.d3hot = false ∧ tRun.host.perst = false) ∧
    (tRun.rf 0x0B0 0x040 5 0 = 0 ∧ (tRun.put [(0x0B0, 0x040, 0xB)]).rf 0x0B0 0x040 5 0 ≠ 0) ∧
    ((549 < 550 ∧ 699 < 700 ∧ 1499 < 1500) ∧ (570 ≤ 570 ∧ 720 ≤ 720 ∧ 1520 ≤ 1520)) ∧
    (550 ≤ 550 ∧ 700 ≤ 700 ∧ 1500 ≤ 1500 ∧ tRun.por = 0) := by
  decide +kernel

/-- Hypotheses of HostPortEvents. -/
theorem witness_host_port :
    tRun.rf 0x0B0 0x040 5 0 ≠ (if true then 1 + ((0 : Fin 3).val + 1) * 2 + ((1 : Fin 2).val + 1) * 8 else 0) ∧
    (({ tRun.put [(0x093, 0x0A0, 1)] with host := { dma := true } } : State).ringActive 11 0 = true ∧ ringOf 11 = some (0x093, 0x0A0)) ∧
    (({ tRun.put [(0x003, 0x040, 1)] with host := { dma := true } } : State).ringActive 1 0 = true ∧ ringOf 1 = some (0x003, 0x040)) ∧
    (tSub.ringActive 4 63 = true ∧ ringOf 4 = none ∧ tSub.subAt 63 = some (5, { slot := 63 })) ∧
    (tSub.reg 0x0B0 0x048).getLsbD 31 = false := by
  decide +kernel

/-- Hypotheses of PageHeaders. -/
theorem witness_page_headers :
    (tRun.hears 0x010 ∧ tRun.hears 0x0A7 ∧ pageType 0x010 ≠ none ∧ pageType 0x0A7 ≠ none ∧ pageType 0x001 ≠ none) ∧
    (capSrst 0x010 = true ∧ tRun.locked 0x010 = false ∧ winLive tRun 0x010 = false) ∧
    (capSrst 0x001 = false ∧ tRun.hears 0x001 ∧ tRun.locked 0x001 = false) ∧
    ((tRun.put [(0x010, 0x00C, 5)]).hears 0x010 ∧ (tRun.put [(0x010, 0x00C, 5)]).locked 0x010 = true) ∧
    (winLive ({ tRun with rl := { jobs := [(0, {})] } } : State) 0x018 = true ∧ capSrst 0x018 = true) ∧
    (tRun.hears 0x020 ∧ tRun.locked 0x020 = false ∧ tRun.enabled 0x020 = false) ∧
    (capShadow 0x010 = true ∧ (0xFFFFFFFD : Word).getLsbD 1 = false) ∧
    (0x10024 : BitVec 20).toNat = addr (0x010 : BitVec 8).toNat 0x024 := by
  unfold State.hears
  decide +kernel

/-- Hypotheses of RegisterWrites. -/
theorem witness_register_writes :
    (tRun.hears ((0x10040 : BitVec 20).toNat / 0x1000) ∧ (0 : BitVec 4) ≠ 0xF) ∧
    (tRun.hears ((0x0F000 : BitVec 20).toNat / 0x1000) ∧ pageType 0x00F = none) ∧
    (pageType 0x010 = some .lane ∧ regAt 0x010 0x0D0 = none ∧ tRun.locked 0x010 = false) ∧
    ((regAt 0x010 0x040).any (fun r => r.flds.all (fun f => f.ok 0xF1) && r.mask .cnt == 0 && r.mask .rws != 0) = true) ∧
    ((regAt 0x010 0x040).any (fun r => r.flds.any (fun f => !f.ok 6 && (f.acc == .rw || f.acc == .rws || f.acc == .wo))) = true) ∧
    ((regAt 0x010 0x0BC).any (fun r => r.flds == [⟨0, 32, .cnt, .any⟩]) = true) ∧
    (tRun.hears 0x000 ∧ capShadow 0x017 = true ∧ tRun.locked 0x017 = false ∧
      ((tRun.put [(0x017, 0x02C, 4)]).reg 0x017 0x02C).getLsbD 2 = true) ∧
    tRun.vecReq 31 = false ∧
    ({ tRun.put [(0x000, 0x440, 0x403), (0x010, 0x014, 0x10000), (0x010, 0x018, 0x10000)] with msixOn := true, msixMask := 0 } : State).vecReq 3 = true := by
  unfold State.hears
  decide +kernel

/-- Hypotheses of ReadsThatLatch. -/
theorem witness_reads :
    (tRun.winOff = false ∧ State.reset.winOff = true) ∧
    (({ tRun with lanes := [(7, { blk := some ⟨3, 1024, 10 ^ 11, 0, 65536, false, false, false, false, 0, [], 0⟩ })] } : State).lane 7).blk =
      some ⟨3, 1024, 10 ^ 11, 0, 65536, false, false, false, false, 0, [], 0⟩ ∧
    ({ (tRun.withEnt 8191 4).put [(0x082, 0x084, 8191)] with touts := [(8191, {})] } : State).hasSched 8191 = true ∧
    (((tRun.withEnt 8191 4).ent 8191).st = .live ∧ (tRun.put [(0x082, 0x084, 8191)]).rf 0x082 0x084 12 0 = 8191) ∧
    (tRun.assay.inWdog = false ∧ (tRun.uartCfg 2).getLsbD 6 = false ∧ (tRun.uart 2).rx = []) ∧
    (({ tRun with uarts := [(2, { rx := [(0x41, true, false)] })] } : State).uart 2).rx = (0x41, true, false) :: [] := by
  decide +kernel

/-- Hypotheses of SpiTarget. -/
theorem witness_spi :
    (tSpi.inReset = false ∧ tSpi.hostSpi = true) ∧
    (spiHdrOk 1 0 = false ∧ spiHdrOk 0 0x100000 = false ∧ spiHdrOk 0 2 = false ∧ spiHdrOk 0 0x0FFFFC = true ∧ spiHdrOk 0 0 = true) ∧
    crc8 (spiHeader false true (0x010040 : BitVec 24).toNat ++ spiBytes 0x12345678) ≠
      (crc8 (spiHeader false true 0x010040 ++ spiBytes 0x12345678) + 1) % 256 ∧
    crc8 (spiHeader false false (0x010040 : BitVec 24).toNat ++ spiBytes 0x12345678) =
      (BitVec.ofNat 8 (crc8 (spiHeader false false 0x010040 ++ spiBytes 0x12345678))).toNat ∧
    ((0x000FFC : BitVec 24).toNat < 0x1000 ∧ (0x0FFFF8 : BitVec 24).toNat + 4 < 2 ^ 20) := by
  decide +kernel

/-- Hypotheses of UartLines. -/
theorem witness_uart :
    ((tRun.after 0).uartRxOn 2 = true ∧ (tRun.after 5).uartRxOn 0 = true) ∧
    (((tRun.after 0).uartCfg 2).getLsbD 6 = false ∧ ((tRun.after 0).uart 2).rx.length < 256) ∧
    (2 ≤ b2n ((List.replicate 160 true).getD 7 true) + b2n ((List.replicate 160 true).getD 8 true) +
        b2n ((List.replicate 160 true).getD 9 true) ∧ ((({ tRun with uarts := [(2, { feWait := true })] } : State).after 0).uart 2).feWait = true) ∧
    (¬ 2 ≤ b2n ((List.replicate 16 false).getD 7 true) + b2n ((List.replicate 16 false).getD 8 true) +
        b2n ((List.replicate 16 false).getD 9 true) ∧ ((tRun.after 0).uart 2).feWait = false ∧
      ∀ i ∈ List.range 8, (0xFF : Byte).getLsbD i = (decide (i < 8) && decide (2 ≤ b2n ((List.replicate 16 false).getD (16 * (i + 1) + 7) true) +
        b2n ((List.replicate 16 false).getD (16 * (i + 1) + 8) true) + b2n ((List.replicate 16 false).getD (16 * (i + 1) + 9) true)))) ∧
    (((0 : Byte) = 0 ∧ (fld ((tRun.after 0).uartCfg 2) 2 1 = 0 ∨ false = false) ∧ false = false)) ∧
    (((({ tRun with uarts := [(1, { rx := List.replicate 256 (0, false, false) })] } : State).after 0).uart 1).rx.length) ≥ 256 ∧
    (((({ tRun with uarts := [(1, { lineDead := true })] } : State).after 0).uart 1).lineDead = true ∧
      16 * uartBits (tRun.uartCfg 1) ≤ 16 * 10) ∧
    ((({ tRun with uarts := [(1, { inBreak := true })] } : State).after 0).uart 1).inBreak = true ∧
    ((tRun.after 0).enabled 0x0B3 = true ∧ (tRun.after 0).uartAssay 2 = false ∧
      ofNs (1000000 * (tRun.after 0).rf 0x0B3 0x048 13 0) ≤ 10 ^ 10 * tickUnits) ∧
    ((({ tRun with uarts := [(1, { rx := [(1, false, false)], idleDone := false })] } : State).after 0).uart 1).lastEl +
      (tRun.after 0).bitUnits 1 (4 * uartBits (tRun.uartCfg 1)) ≤ tRun.el ∧
    ((({ tRun with uarts := [(1, { sending := some 1, tx := [2] })] } : State).after 0).uart 1).sending = some 1 ∧
    (¬ ((tRun.uartCfg 1).getLsbD 4 = true ∧ (tRun.uart 1).ctsHigh = true)) ∧
    (tRun.hears 0x0B1 ∧ tRun.subsOn 0 = false ∧ tRun.uartAssay 0 = false ∧ (tRun.uart 0).tx.length < 256) ∧
    256 ≤ (({ tRun with uarts := [(2, { tx := List.replicate 256 0 })] } : State).uart 2).tx.length := by
  unfold State.hears
  decide +kernel

/-- Hypotheses of LogBackupAuthority. -/
theorem witness_log_backup :
    (tRun.log.next < tRun.log.mirrored + 4096 ∧
      ({ log := { next := 4095 } } : State).log.next < ({ log := { next := 4095 } } : State).log.mirrored + 4096) ∧
    (tRun.assayServes = true ∧ tRun.hears 0x0C2 ∧ tRun.assayHalted = false ∧ 0x80 ≤ fld (0xFFFF0480 : Word) 7 0 ∧
      fld (0xFFFF0480 : Word) 10 8 ≤ 4) ∧
    (({ tRun with log := { next := 17, mirrored := 1, flashOk := true } } : State).after 0).log.mirrored + 16 ≤
      (({ tRun with log := { next := 17, mirrored := 1, flashOk := true } } : State).after 0).log.next ∧
    (0 < 1 % 255 ∧ 239 % 255 + 16 ≤ 255 ∧ (tRun.after 0).flash = []) ∧
    (tRun.retRecent 95 = false ∧ ({ tRun with assay := { retEl := [(95, some 0)] } } : State).retRecent 95 = true) ∧
    (tRun.hears 0x0C5 ∧ tRun.locked 0x0C5 = false ∧ (tRun.put [(0x0C5, 0x054, 96)]).rf 0x0C5 0x054 6 0 ≥ 96 ∧
      tRun.rf 0x0C5 0x054 6 0 < 96) ∧
    (({ onBat := true } : Backup).onBat = true ∧ ({ onBat := true } : Backup).vbatAbsent = false) ∧
    (tRun.tb.stepped = true ∧ tRun.tb.healthy = true ∧ tRun.bk.syncEl = none) ∧
    (tRun.hears 0x0C0 ∧ tRun.fuse 937 937 = 0 ∧ ({ tRun with fuses := BitVec.ofNat 4096 (2 ^ 937) } : State).fuse 937 937 = 1) ∧
    (({ tRun with el := ofNs 10000000000, armAt := some 0 } : State).after 0).armAt = some 0 ∧
    0 + ofNs 10000000000 ≤ (({ tRun with el := ofNs 10000000000, armAt := some 0 } : State).after 0).el := by
  unfold State.hears
  decide +kernel

/-- Hypotheses of UpdatePath. -/
theorem witness_update :
    (tRun.hears 0x0C3 ∧ tRun.assayHalted = false ∧ tRun.upd.op = 0 ∧ tRun.trialPending = false ∧ tRun.upd.session = false ∧
      tRun.upd.st = .idle) ∧
    (0x480 ≤ (tRun.put [(0x0C3, 0x044, 0x480)]).rf 0x0C3 0x044 22 0 ∧
      (tRun.put [(0x0C3, 0x044, 0x400000)]).rf 0x0C3 0x044 22 0 ≤ 0x400000) ∧
    ({ (tRun.put [(0x0C3, 0x04C, 4096), (0x0C3, 0x050, 0x100)]) with upd := { st := .ready, imgLen := 0x1100 } } : State).rf 0x0C3 0x04C 12 0 ≤ 4096 ∧
    (tRun.put [(0x0C3, 0x04C, 4096), (0x0C3, 0x050, 0x100)]).rf 0x0C3 0x050 22 0 % 256 = 0 ∧
    (tRun.put [(0x0C3, 0x04C, 4096), (0x0C3, 0x050, 0x100)]).rf 0x0C3 0x050 22 0 +
      (tRun.put [(0x0C3, 0x04C, 4096), (0x0C3, 0x050, 0x100)]).rf 0x0C3 0x04C 12 0 ≤ 0x1100 ∧
    ((({ tRun with upd := { slots := [(0, { ok := true, key := 1 })] } } : State).slot 0).key = 1 ∧
      (({ tRun with upd := { slots := [(0, { ok := true, key := 1 })] } } : State).slot 0).ok = true) ∧
    ((({ tRun with upd := { op := 5, st := .verifying } } : State).after 0).upd.op = 5 ∧ (tRun.after 0).assayServes = true) ∧
    (({ tRun with upd := { trialEl := some 0 } } : State).after 0).upd.trialEl = some 0 ∧
    (2 < (tRun.after 0).svc ∧ (tRun.after 0).el ≤ 0 + ofNs 30000000000 ∧ ((tRun.after 0).slot 0).flags % 2 = 0) ∧
    (({ tRun with upd := { slots := [(0, { flags := 1, rollback := 1 })] } } : State).after 0).arb <
      ((({ tRun with upd := { slots := [(0, { flags := 1, rollback := 1 })] } } : State).after 0).slot 0).rollback ∧
    0 + ofNs 30000000000 ≤ (({ tRun with el := ofNs 30000000000 } : State).after 0).el ∧
    (64 ≤ 64 ∧ 30001 * ofNs 1000000 ≤ (({ tRun with el := ofNs 30001000000 } : State).after 0).el - 0) := by
  unfold State.hears
  decide +kernel

/-- A VDDIO_B monitor about to fault while the flash is programmed. -/
def tVolts : State := { tRun with upd := { op := 2, st := .writing }, assay := { sens := [(26, { faultRun := 99 })] } }

/-- The voltages of that millisecond. -/
def tVoltsIn : List Int := List.replicate 18 1800 ++ [0, 0] ++ List.replicate 4 1800

/-- Hypotheses of UpdatePath (a VDDIO_B fault). -/
theorem witness_update_supply :
    ((tVolts.after 0).assayOn = true ∧ (tVolts.after 0).upd.op = 2 ∧
      (Tab.get (fun _ => ({} : Sensor)) (tVolts.after 0).assay.sens 26).fault = false) ∧
    (Tab.get (fun _ => ({} : Sensor)) ((List.range 24).foldl (fun s k => s.voltSample k (tVoltsIn.getD k 0))
      (tVolts.after 0)).assay.sens 26).fault = true :=
  ⟨by decide +kernel, (congrArg Sensor.fault ((State.voltSamples_18 tVoltsIn (tVolts.after 0)).trans
    (State.voltSample_same _ 18 _))).trans (by decide +kernel)⟩

/-- Hypotheses of RecoverySession. -/
theorem witness_recovery_session :
    ((tRun.put [(0x000, 0x054, 5)]).after 0).inRecovery = true ∧
    (((tRun.put [(0x000, 0x054, 5)]).after 0).upd.sesSeq ≠ some (7 : Byte).toNat ∧
      ((tRun.put [(0x000, 0x054, 5)]).after 0).upd.sesWait = none) ∧
    (({ tRun.put [(0x000, 0x054, 5)] with upd := { sesSeq := some 7 } } : State).after 0).upd.sesSeq = some (7 : Byte).toNat ∧
    (((tRun.put [(0x000, 0x054, 5)]).after 0).trialPending = false ∧ ((tRun.put [(0x000, 0x054, 5)]).after 0).upd.op = 0) ∧
    (((tRun.put [(0x000, 0x054, 5)]).after 0).upd.st = .idle ∧ 0x480 ≤ (0x480 : Word).toNat ∧ (0x400000 : Word).toNat ≤ 0x400000) ∧
    ((0x100 : Word).toNat % 256 = 0 ∧ 1 ≤ [(1 : Byte)].length ∧ (0x100 : Word).toNat + [(1 : Byte)].length ≤ 0x101) ∧
    (115200 ≤ (115200 : Word).toNat ∧ (3000000 : Word).toNat ≤ 3000000) ∧
    (({ tRun with upd := { sesNext := some (230400, 0) }, el := ofNs 10000000 } : State).after 0).upd.sesNext = some (230400, 0) ∧
    0 + ofNs 10000000 ≤ (({ tRun with el := ofNs 10000000 } : State).after 0).el ∧
    (({ tRun.put [(0x000, 0x054, 5)] with upd := { sesBaud := true }, el := ofNs 60000000000 } : State).after 0).inRecovery = true := by
  decide +kernel

/-- Hypotheses of CryptoService. -/
theorem witness_crypto :
    (tRun.assayServes = true ∧ tRun.assay.queue.length < 256 ∧
      ({ queue := List.replicate 255 ⟨0, 0, [], [], [], 0, 0⟩ } : AssaySt).queue.length < 256) ∧
    ({ queue := [⟨1, 2, [], [3], [], 0, 0⟩] } : AssaySt).queue = ⟨1, 2, [], [3], [], 0, 0⟩ :: [] ∧
    (∀ b, tRun.isBad 28 b = false) :=
  ⟨by decide +kernel, rfl, fun _ => rfl⟩

/-- Hypotheses of AssayIsland. -/
theorem witness_assay :
    (tRun.assayOn = true ∧ tRun.assayServes = true ∧ tRun.svc = 3 ∧ tRun.inReset = false) ∧
    ({ tRun with assay := { inWdog := true } } : State).assay.inWdog = true ∧
    (({ tRun with heat := 16 } : State).heat % 16 = 0 ∧ (16 : Nat) ≠ tRun.assay.winHeat) ∧
    (({ tRun with assay := { loopEn := true } } : State).assayOn = true ∧ ({ tRun with assay := { loopEn := true } } : State).assayHalted = false ∧
      tRun.assay.loopEn = false ∧ ({ assay := { down := 3 } } : State).assay.down = 3) ∧
    (∀ r ∈ (List.range 34).map fun i =>
      (({ tRun with assay := { temper := (List.range 34).map fun i => (i, { min := some 21 }) } } : State).temper i).request, r = (-5 : Int)) ∧
    (((10 : Int) ∈ (List.range 34).map fun i => (({ tRun with assay := { temper := [(16, { any := true })], loopEn := true } } : State).temper i).request)) ∧
    (({ tRun with assay := { avsReq := some 755 } } : State).assay.avsReq = some 755 ∧ tRun.fault.raised.contains (clsSUPPLY, 0) = false) ∧
    ((({ tRun with assay := { avsReq := some 755, avsTries := 3 } } : State).after 0).assay.avsTries ≥ 3 ∧
      (tRun.after 0).assay.avsEl + ofNs 1000000 ≤ (tRun.after 0).el) := by
  decide +kernel

/-- Hypotheses of HardwareWatch. -/
theorem witness_hardware_watch :
    (tRun.assayOn = true ∧ 50000 < (50001 : Int).natAbs ∧ 50000 < (-50001 : Int).natAbs ∧ ¬ 50000 < (-50000 : Int).natAbs) ∧
    (2 ≤ Tab.get (fun _ => 0) ({ clkBad := [(18, 2)] } : AssaySt).clkBad (18 : Fin 26).val ∧
      Tab.get (fun _ => false) ({ clkBad := [(18, 2)] } : AssaySt).clkOut 18 = false) ∧
    ((27 : Fin 55).val < 28 ∧ (46 : Fin 55).val = 46 ∧ (tRun.after 0).assayHalted = false ∧
      (({ tRun with el := ofNs 1000000000 } : State).after 0).assay.supEl + ofNs 1000000000 ≤
      (({ tRun with el := ofNs 1000000000 } : State).after 0).el) ∧
    (tRun.isBad 28 0xFFFF = false ∧ 79 < memBits 28 + 8 ∧ 0 < memBits 28 + 8 ∧ (79 : Nat) ≠ 0 ∧ tRun.isBad 8 0 = false ∧ 71 < memBits 8 + 8) ∧
    ¬ 140 < (tRun.after 0).rf 0x0C0 0x044 17 10 := by
  decide +kernel

/-- Hypotheses of IntakeTakesRecords, and of every statement about an accepted command. -/
theorem witness_takes_command :
    tCmd.takesCommand (tF 0 []) ∧
    (tObj 8191 1).takesCommand (tF (mkHandle 1 1 8191) []) ∧
    tCmd.takesCommand { tF 0 [] with fence := true } ∧
    ((tCmd.put [(0x000, 0x054, 4)]).takesCommand (tF 0 []) ∧ (tCmd.put [(0x000, 0x054, 4)]).svc = 4) ∧
    (tCmd.svc = 3 ∧ tCmd.cmdSel = 3 ∧ (tF 0 []).ver.toNat = tCmd.cmdSel ∧ (2 : BitVec 8).toNat ≠ tCmd.cmdSel) ∧
    ((tObj 8191 1).jfind 9 = none ∧ opClass 0x0202 = some (hCls (mkHandle 1 1 8191)) ∧
      (tCmd.ent (hIdx (mkHandle 1 1 8191))).st ≠ .live) := by
  refine ⟨?_, ?_, ?_, ?_, ?_, ?_⟩ <;> (try unfold State.takesCommand) <;> (try unfold State.hears) <;> decide +kernel

/-- Hypotheses of IntakeTakesRecords (a record after which nothing more can start). -/
theorem witness_settled :
    (startCmd (tCmd.recorded 0x0102 (tF 0 [(3, 1)])) (recordOf 0x0102 (tF 0 [(3, 1)]))).settled ∧
    (startCmd ((tObj 8191 1).recorded 0x0203 (tF (mkHandle 1 1 8191) [])) (recordOf 0x0203 (tF (mkHandle 1 1 8191) []))).settled ∧
    (startCmd (tCmd.recorded 0x0501 (tF 0 [(5, 10000000), (7, 1000), (8, 1), (9, 10)])) (recordOf 0x0501 (tF 0 [(5, 10000000), (7, 1000), (8, 1), (9, 10)]))).settled := by
  unfold State.settled
  decide +kernel

/-- Hypotheses of QueriesAnswer. -/
theorem witness_queries :
    ((1 : BitVec 8).toNat = 1 ∧ badWord (recordOf 0x0101 (tF 0 [(3, 3)])) [(3, 0xFF)] [] = none) ∧
    (1 ≤ fld ((recordOf 0x0101 (tF 0 [(3, 3)])).w 3) 7 0 ∧ fld ((recordOf 0x0101 (tF 0 [(3, 3)])).w 3) 7 0 ≤ 3 ∧ tCmd.hostLive = false) ∧
    (badWord (recordOf 0x0102 (tF 0 [(3, 6)])) [(3, 0xF)] [(3, decide (1 ≤ 6 ∧ 6 ≤ 6))] = none) ∧
    (hGen (mkHandle 0 0 8191) = 0 ∧ badWord (recordOf 0x0103 (tF (mkHandle 0 0 8191) [])) [] [] = none) ∧
    (hGen (mkHandle 7 1 8191) ≠ 0 ∧ hCls (mkHandle 7 1 8191) = 7 ∧ ((tObj 8191 1).ent (hIdx (mkHandle 7 1 8191))).st = .live ∧
      ((tObj 8191 1).ent (hIdx (mkHandle 7 1 8191))).gen = hGen (mkHandle 7 1 8191)) := by
  decide +kernel

/-- Hypotheses of CreatorsAccept (CH_CREATE). -/
theorem witness_ch_create :
    (tCmd.freeHead = some 0 ∧ tCmd.classRoom 1 = true) ∧
    (tCmd.recorded 0x0201 (tF 0 [(3, 0x14C00101)])).chanRefused (recordOf 0x0201 (tF 0 [(3, 0x14C00101)])) = none ∧
    grainsOf 3 ((tCmd.recorded 0x0201 (tF 0 [(3, 0x14C00101)])).streamRate 0) ≤ (tCmd.recorded 0x0201 (tF 0 [(3, 0x14C00101)])).poolFree 1 ∧
    cyclesOf true ≤ (tCmd.recorded 0x0201 (tF 0 [(3, 0x14C00101)])).poolFree 3 ∧
    (tCmd.recorded 0x0201 (tF 0 [(3, 0x14C00101)])).placeFor 100 false = some 0 := by
  decide +kernel

/-- Hypotheses of CreatorsAccept. -/
theorem witness_creators :
    (tCmd.recorded 0x0301 (tF 0 [(3, 0x01000101), (4, 0x101), (6, 0), (11, 0x30000)])).srchRefused (recordOf 0x0301 (tF 0 [(3, 0x01000101), (4, 0x101), (6, 0), (11, 0x30000)])) = none ∧
    (tCmd.recorded 0x0401 (tF 0 [(3, 0x101), (6, 0x101)])).injBad (recordOf 0x0401 (tF 0 [(3, 0x101), (6, 0x101)])) = none ∧
    (tCmd.classRoom 2 = true ∧ tCmd.classRoom 3 = true ∧ tCmd.classRoom 4 = true ∧ tCmd.classRoom 5 = true ∧ tCmd.classRoom 6 = true ∧
      tCmd.classRoom 7 = true) ∧
    tCmd.hasInj 0 = false ∧
    (toutBad (recordOf 0x0501 (tF 0 [(3, 7), (5, 10000000), (7, 1000), (8, 1), (9, 10), (11, 2)])) = none ∧ tCmd.schedsOf 7 < 8) ∧
    (ofNs 2000000 * 100 : Nat) ≤ (tCmd.start10 0 10000000 0 : Int) * (unitsPerNs : Nat) - (tCmd.tb.now * 100 : Nat) ∧
    (tCmd.start10 0 10000000 0 : Int) * (unitsPerNs : Nat) - (tCmd.tb.now * 100 : Nat) ≤ (ofNs (10 ^ 15) * 100 : Nat) ∧
    (tinBad (tCmd.recorded 0x0601 (tF 0 [(3, 0x1F), (6, 1)])) (recordOf 0x0601 (tF 0 [(3, 0x1F), (6, 1)])) = none ∧
      (tCmd.armsOf 3).length < 4) ∧
    (tCmd.recorded 0x0701 (tF 0 [(3, 0x111), (4, 0x7F), (10, 0x10000004)])).subRefused (recordOf 0x0701 (tF 0 [(3, 0xA11), (4, 0x7F), (10, 0x10000004)])) = none ∧
    subMax (recordOf 0x0701 (tF 0 [(3, 0xA11), (4, 0x7F), (10, 0x10000004)])).words ≤
      (tCmd.recorded 0x0701 (tF 0 [(3, 0xA11), (4, 0x7F), (10, 0x10000004)])).poolFree 5 ∧
    (tCmd.recorded 0x0801 (tF 0 [(3, 0x127), (4, 0xFFFF0100), (5, 0xFFFFFFFF), (14, 0xA01)])).combRefused (recordOf 0x0801 (tF 0 [(3, 0x127), (4, 0xFFFF0100), (5, 0xFFFFFFFF), (14, 0xA01)])) = none ∧
    ((tCmd.recorded 0x0801 (tF 0 [(3, 0x127), (4, 0xFFFF0100), (5, 0xFFFFFFFF), (14, 0xA01)])).alloc 7 true false).2.combUnfit (recordOf 0x0801 (tF 0 [(3, 0x127), (4, 0xFFFF0100), (5, 0xFFFFFFFF), (14, 0xA01)])) = none := by
  decide +kernel

/-- Hypotheses of EndersAndTimeAccept (the commands that end an object). -/
theorem witness_enders :
    ((tObj 8191 1).checkHandle 0x0203 (mkHandle 1 1 8191) = none ∧ (tObj 0 2).checkHandle 0x0302 (mkHandle 2 1 0) = none) ∧
    ((tObj 1 3).checkHandle 0x0402 (mkHandle 3 1 1) = none ∧ (tObj 1 4).checkHandle 0x0502 (mkHandle 4 1 1) = none) ∧
    ((tObj 1 5).checkHandle 0x0602 (mkHandle 5 1 1) = none ∧ (tObj 1 6).checkHandle 0x0702 (mkHandle 6 1 1) = none ∧
      (tObj 1 7).checkHandle 0x0802 (mkHandle 7 1 1) = none) ∧
    badWord (recordOf 0x0203 (tF (mkHandle 1 1 8191) [])) [] [] = none ∧
    ({ tObj 1 7 with groups := [(0, { entry := 1, n := 2, out := 32, st := .active })] } : State).combUsers 32 = 0 := by
  decide +kernel

/-- Hypotheses of EndersAndTimeAccept (CH_MODIFY). -/
theorem witness_modify :
    (tObj 1 1).checkHandle 0x0202 (mkHandle 1 1 1) = none ∧
    ((tObj 1 1).recorded 0x0202 (tF (mkHandle 1 1 1) [(3, 0x101), (12, 2)])).modRefused (recordOf 0x0202 (tF (mkHandle 1 1 1) [(3, 0x101), (12, 2)])) { prm := { signal := 1, prn := 1 } } = none ∧
    cyclesOf false ≤ ({ tObj 1 1 with cmd := { (tObj 1 1).cmd with books := [⟨3, 500, .entry 1, 1⟩] } } : State).bookedBy (.entry 1) 3 := by
  decide +kernel

/-- Hypotheses of EndersAndTimeAccept (the time commands). -/
theorem witness_time_commands :
    (({ tCmd with tb := { tCmd.tb with stepped := false } } : State).tb.stepped = false ∧ tCmd.tb.corr = none ∧ tCmd.tb.healthy = true) ∧
    stepBad (tCmd.recorded 0x0901 (tF 0 [(6, 999999999)])) (recordOf 0x0901 (tF 0 [(6, 999999999)])) = none ∧
    stepBad (tCmd.recorded 0x0901 (tF 0 [(3, 1)])) (recordOf 0x0901 (tF 0 [(3, 1)])) = none ∧
    ({ tCmd with sol := { have_ := true, fix := 1, timeStd := 99999 } } : State).navFresh = true ∧
    (slewOff (recordOf 0x0902 (tF 0 [(3, 1), (5, 1)])) = 1 ∧ 1 ≤ tCmd.rf 0x080 0x05C 17 0 ∧ tCmd.disc.st ≠ .locking ∧
      tCmd.disc.st ≠ .locked) ∧
    badWord (recordOf 0x0902 (tF 0 [(3, 1), (5, 1)])) [(3, 0xFFFFFFFF), (4, 0xFFFF), (5, 0x3FFFF)] [(4, true), (5, decide (1 ≤ tCmd.rf 0x080 0x05C 17 0))] = none ∧
    (tCmd.tb.stepped = true ∧ tCmd.tb.epoch ≠ 0xFFFF ∧ (tCmd.core 8).st ≠ .halted ∧ tCmd.fuse 937 937 = 0 ∧
      ({ tCmd with armAt := some 0 } : State).armAt ≠ none) := by
  decide +kernel

/-- Hypotheses of StartUp. -/
theorem witness_start_up :
    (State.reset.inReset = true ∧ (0x8 : BitVec 4).getLsbD 3 = true ∧ State.reset.fuse 938 938 = 0) ∧
    (([750, 800, 1499] : List Nat).getD 2 0 < 1500 ∧ ¬ ([550, 700, 1500] : List Nat).getD 2 0 < 1500 + (if State.reset.por.getLsbD 2 then 20 else 0) ∧
      ([750, 800, 1519] : List Nat).getD 2 0 < 1500 + (if ({ State.reset with por := 4 } : State).por.getLsbD 2 then 20 else 0)) ∧
    (1890 ≤ 1890 ∧ 3135 ≤ 3135) ∧
    ((({ State.reset with inReset := false, boot := { rom := true, slot := some 1 } } : State).after 7).svc ≠ 5 ∧
      (({ State.reset with inReset := false, boot := { rom := true, slot := some 1 } } : State).after 7).boot.noSlot = none ∧
      (({ State.reset with inReset := false, boot := { rom := true, slot := some 1 } } : State).after 7).boot.slot ≠ none ∧
      (State.reset.after 7).boot.slot = none) ∧
    (({ tRun with boot := { noSlot := some 0 }, el := ofNs 10000000000 } : State).after 0).boot.noSlot = some 0 ∧
    ((({ tRun with boot := { noSlot := some 0 }, el := ofNs 10000000000 } : State).after 0).assayServes = true ∧
      (({ tRun with boot := { noSlot := some 0 }, el := ofNs 10000000000 } : State).after 0).svc ≠ 5) ∧
    0 + ofNs 10000000000 ≤ (({ tRun with boot := { noSlot := some 0 }, el := ofNs 10000000000 } : State).after 0).el ∧
    ((({ State.reset with inReset := false, boot := { rom := true } } : State).after 7).inReset = false ∧
      (({ State.reset with inReset := false, boot := { rom := true } } : State).after 7).tb.pllLock = false) ∧
    ((({ State.reset with inReset := false, boot := { rom := true } } : State).after 7).tb.everLocked = false ∧
      (({ State.reset with inReset := false, boot := { rom := true } } : State).after 7).boot.rom = true) ∧
    ((({ State.reset with inReset := false, bk := { rtcValid := true } } : State).after 7).bk.rtcValid = true ∧
      (State.reset.after 7).bk.rtcValid = false) ∧
    ((({ tRun with tb := { tRun.tb with pllLock := false } } : State).after 0).tb.pllLock = false ∧
      (({ tRun with tb := { tRun.tb with pllLock := false } } : State).after 0).tb.everLocked = true) ∧
    (tAnneal.annealing = true ∧ tAnneal.boot.made = false ∧ (tAnneal.lane 0).st = .qualified ∧ (tAnneal.fec 0).st = .ready) ∧
    ((tAnneal.reg 0x010 0x048).getLsbD 0 = true ∧ tAnneal.retUsable = false ∧ tAnneal.hasChan 8191 = false) ∧
    ((tTry.after 0).annealing = true ∧ (tTry.after 0).hasChan 8191 = true ∧ ((tTry.after 0).ent 8191).cls = 15 ∧
      ((tTry.after 0).chan 8191).lockedOnce = false) ∧
    (((tTry.after 0).chan 8191).tryEl + ofNs 10000000000 ≤ (tTry.after 0).el ∧ prnOk 1 2 = true ∧ (1, 2) ∉ (tTry.after 0).boot.tried) ∧
    ((∀ q ∈ List.range 2, prnOk 1 q = true → (1, q) ∈ (tTry.after 0).boot.tried)) ∧
    (({ tAnneal with boot := { slot := some 1 } } : State).boot.slot = some 1 ∧ tAnneal.running = true ∧ tAnneal.svc = 2 ∧
      tAnneal.atBoundary = true) ∧
    ((tTry.ent 8191).cls = 15 ∧ (tTry.ent 8191).st = .live) := by
  decide +kernel

/-- Hypotheses of HeatsAndPlacement. -/
theorem witness_heats :
    (tRun.inReset = false ∧ tRun.tb.everLocked = true ∧ tRun.tb.corr = none) ∧
    ((tRun.put [(0x001, 0x070, 0x10701)]).rf 0x001 0x070 0 0 = 1 ∧ (tRun.put [(0x001, 0x070, 0x10701)]).rf 0x001 0x070 15 8 ≠ 0) ∧
    (tRun.heat % (tRun.put [(0x001, 0x070, 0x10701)]).rf 0x001 0x070 15 8 = 0 ∧ tRun.placeHeat ≠ tRun.heat ∧ tRun.fault.phase = .run) ∧
    (tRun.put [(0x001, 0x070, 0x10701)]).nextMove ((tRun.put [(0x001, 0x070, 0x10701)]).rf 0x001 0x070 31 16) = (0, none) := by
  decide +kernel

/-- Hypotheses of QuenchAndRecovery. -/
theorem witness_quench :
    (tRun.hears 0x0C4 ∧ tQuench.hears 0x0C4) ∧
    (tRun.fault.phase = .run ∧ tQuench.fault.phase = .quenched ∧ (0xA4 : Byte) ≠ 0xA5) ∧
    (tRun.sol.have_ = false ∧ tQuench.fault.raised = [] ∧ tRun.fault.raised = [] ∧ tRun.fault.phase ≠ .quenched) ∧
    ({ tQuench with fault := { tQuench.fault with raised := [(clsSUPPLY, 0)] } } : State).fault.raised ≠ [] ∧
    (tQuench.mayRecover = true ∧ tQuench.atBoundary = true ∧ tQuench.fault.reloadNeed = false) ∧
    ({ tQuench with fault := { tQuench.fault with reloadNeed := true } } : State).fault.svcBefore = 3 ∧
    ({ tQuench with fault := { tQuench.fault with reloadNeed := true, svcBefore := 2 } } : State).mayRecover = true ∧
    (({ tQuench with fault := { phase := .recovering, endHeat := 7 } } : State).fault.endHeat ≤ tQuench.heat ∧
      tQuench.inReset = false) := by
  refine ⟨?_, ?_, ?_, ?_, ?_, ?_, ?_, ?_⟩ <;> (try unfold State.hears) <;> decide +kernel

/-- Hypotheses of LaneStates. -/
theorem witness_lanes :
    (((tLaneSt .qualified).after 0).inReset = false ∧ (((tLaneSt .qualified).after 0).lane 7).st ≠ .off ∧
      fld (((tLaneSt .qualified).after 0).reg 0x017 0x0B8) 16 0 = 0) ∧
    ((((tLaneSt .stopped).after 0).lane 7).st = .stopped ∧ (((tLaneSt .absent).after 0).lane 7).st = .absent ∧
      (((tLaneSt .acquire).after 0).lane 7).st = .acquire) ∧
    ((((tLaneSt .framing).after 0).lane 7).st = .framing ∧ (((tLaneSt .notQualified).after 0).lane 7).st = .notQualified) ∧
    (({ tRun with el := ofNs 100000000, lanes := [(7, { st := .stopped, fillRun := true })] } : State).after 0).lane 7 =
      { st := .stopped, fillRun := true } ∧
    0 + ofNs 100000000 ≤ (({ tRun with el := ofNs 100000000 } : State).after 0).el ∧
    (((((tLaneSt .framing).after 0).lane 7).cand = true ∧ true = true ∧ 2 * 16 = cfgL (((tLaneSt .framing).after 0).lane 7).cfg)) ∧
    badHeader (((tLaneSt .framing).after 0).lane 7).cfg 0 = false ∧
    ((((tLaneSt .qualified).after 0).lane 7).blk = some ⟨3, 1024, 10 ^ 11, 0, 65536, false, false, false, false, 0, [], 0⟩ ∧ 1024 ≤ (1024 : Nat)) ∧
    (¬ ((tLaneSt .qualified).after 0).tb.hEnd ≤ ((tLaneSt .qualified).after 0).tb.now + 79 * unitsPerNs / 100 ∧
      ((tLaneSt .qualified).after 1250000).tb.everLocked = true ∧
      ((tLaneSt .qualified).after 1250000).tb.hEnd ≤ ((tLaneSt .qualified).after 1250000).tb.now + 0) ∧
    (2 * 32 = cfgL ((({ tLane with pend := some [0xF0, 0x100, 0, 0, 0, 0, 0] } : Lane).pend).getD tLane.cfg) ∨
      2 * 16 = cfgL ((({ tLane with pend := some [0xF0, 0x100, 0, 0, 0, 0, 0] } : Lane).pend).getD tLane.cfg)) ∧
    ((((tLaneSt .qualified).after 0).lane 7).fillRun = false ∧ (((tLaneSt .qualified).after 0).lane 7).gapPend = false ∧
      (((tLaneSt .qualified).after 0).lane 7).everReal = true ∧ (((tLaneSt .qualified).after 0).lane 7).pend = none) ∧
    (badHeader [0xF1, 1, 0, 0, 0, 0] 0xFF = true ∧
      (({ tRun with lanes := [(7, { tLane with st := .framing, cand := true, cfg := [0xF1, 1, 0, 0, 0, 0] })] } : State).lane 7).cand =
      true) := by
  decide +kernel

/-- Hypotheses of FrontEndLink. -/
theorem witness_front_end_link :
    ((tFe { st := .ready, q := [{ tag := .keepalive, op := 4, adr := 0 }] }).after 0).fec 7 =
      { st := .ready, q := { tag := .keepalive, op := 4, adr := 0 } :: [] } ∧
    ((0xFD : BitVec 8).getLsbD 1 = false ∧ (0x24 : BitVec 8).getLsbD 2 = true ∧ (0x24 : BitVec 8).getLsbD 5 = true ∧
      (0x04 : BitVec 8).getLsbD 5 = false) ∧
    ((2 ≤ ([0x04, BitVec.ofNat 8 (crc8 [0x04])] : List Byte).length ∧
        (([0x04, BitVec.ofNat 8 (crc8 [0x04])] : List Byte).getLastD 0).toNat = crc8 ([0x04, BitVec.ofNat 8 (crc8 [0x04])] : List Byte).dropLast) ∧
      ([0x04, BitVec.ofNat 8 (crc8 [0x04])] : List Byte).headD 0xFF ≠ 0xFF ∧
      ([0x04, BitVec.ofNat 8 (crc8 [0x04])] : List Byte).length = ({ tag := .keepalive, op := 4, adr := 0 } : UflReq).respLen + 2) ∧
    (¬ (([0x04, BitVec.ofNat 8 (crc8 [0x04] + 1)] : List Byte).getLastD 0).toNat = crc8 [0x04] ∧
      ([0x06, BitVec.ofNat 8 (crc8 [0x06])] : List Byte).headD 0xFF ≠ 0xFF ∧ (0x06 : BitVec 8).getLsbD 1 = true) ∧
    (((tFe { st := .powerup, tries := 3, q := [{ tag := .keepalive, op := 4, adr := 0 }] }).after 0).fec 7).tries = 3 ∧
    (((tFe { wait := true, q := [{ tag := .keepalive, op := 4, adr := 0 }] }).after 0).fec 7).waitEl + ofNs 1000 ≤ ((tFe {}).after 0).el ∧
    (({ tFe { st := .ready } with heat := 10 } : State).heat % 10 = 0 ∧ ((tFe { st := .ready }).fec 7).kaHeat ≠ some 10) ∧
    ((({ tFe { st := .discover } with el := ofNs 100000000 } : State).after 0).fec 7 = { st := .discover } ∧
      0 + ofNs 100000000 ≤ (({ tFe { st := .discover } with el := ofNs 100000000 } : State).after 0).el) ∧
    (({ tFe { st := .powerup, table := List.replicate 0x24 0 ++ [2] } with el := ofNs 10000000 } : State).after 0).fec 7 =
      { st := .powerup, table := List.replicate 0x24 0 ++ [2] } ∧
    (0 + 1 < ({ st := .powerup, table := List.replicate 0x24 0 ++ [2] } : Fec).scriptN ∧ ({ st := .powerup } : Fec).scriptN ≤ 0 + 1) ∧
    (((tFe { st := .lockwait }).after 0).fec 7).pollEl + ofNs 10000 ≤ ((tFe { st := .lockwait }).after 0).el ∧
    (((tFe { st := .lockwait }).after 0).fec 7).el + ofNs (1000 * bytesNum (((tFe { st := .lockwait }).after 0).fec 7).table 0x14 2) ≤
      ((tFe { st := .lockwait }).after 0).el := by
  decide +kernel

/-- Hypotheses of CalibrationAndGain. -/
theorem witness_calibration :
    ((tFe tFec).hears 0x027 ∧ (tFe tFec).locked 0x027 = false ∧ 1 ≤ fld (0x6400 : Word) 15 8 ∧ fld (0x6400 : Word) 15 8 ≤ 100) ∧
    ((tFe tFec).injLive = false ∧ (tFe tFec).rl.st ≠ .tail ∧ ((tFe tFec).fec 7).st = .ready ∧ (tInj {} .idle).injLive = true) ∧
    (1 ≤ fld (0xC0000 : Word) 18 16 ∧ fld (0xC0000 : Word) 18 16 ≤ 4 ∧ (0xC0000 : Word).getLsbD 19 = true) ∧
    (((tFe { tFec with st := .lockwait }).fec 7).st ≠ .ready ∧ ((tFe { tFec with st := .lockwait }).fec 7).st ≠ .fault) ∧
    (tFe tFec).guarded 7 0x4000 4 = false ∧ (tRun.atBoundary = true ∨ tRun.atBoundary = false) ∧
    (((tFe { tFec with st := .calibrate, calStep := 4, calHeat := 3 }).fec 7).calHeat + 4 ≤ (tFe tFec).heat ∧
      ((tFe { tFec with st := .calibrate, calStep := 1 }).fec 7).calBad = false) ∧
    (({ tFec with calBad := true, calReps := 16 } : Fec).calBad = true ∧ 16 ≤ ({ tFec with calBad := true, calReps := 16 } : Fec).calReps) ∧
    ((tAnneal.put [(0x030, 0x040, 3)]).streamAt 0 = some (0, 0) ∧ ((tAnneal.put [(0x030, 0x040, 3)]).cr 0 0x00).getLsbD 1 = true) ∧
    ((tAnneal.fec 0).hasGain = true ∧ tAnneal.feHeld 0 = false ∧ ({ fePer := 15 } : Chain).fePer ≥ fld (tAnneal.cr 0 0x04) 27 24) ∧
    (({ tRun with chains := [(31, { notches := [(3, { active := true, low := 2 ^ 15 })] })] } : State).chain 31).notch 3 =
      { active := true, low := 2 ^ 15 } ∧
    2 ^ fld (tRun.cr 31 0x0C) 31 28 ≤ 2 ^ 15 := by
  refine ⟨?_, ?_, ?_, ?_, ?_, ?_, ?_, ?_, ?_, ?_, ?_, ?_⟩ <;> (try unfold State.hears) <;> decide +kernel

/-- The return lane brought up to now. -/
def tRl (j : InjJob) (rl : RlSt) : State := ((tInj j rl).after 0).rlRun

/-- Hypotheses of InjectionJobs. -/
theorem witness_injection :
    (((tInj {} .idle).after 0).inReset = false ∧ (tRl { startEl := ofNs 1000000000 } .idle).hasInj 7 = true ∧
      ((tRl { startEl := ofNs 1000000000 } .idle).inj 7).st = .pendingLock ∧ (tRl { startEl := ofNs 1000000000 } .idle).injGo 7 = true) ∧
    (tRl { startEl := ofNs 1000000000 } .idle).el ≤ ofNs 1000000000 +
      ofNs (1000 * (tRl {} .idle).rf (0x020 + (tRl {} .idle).injFec) 0x04C 13 0) ∧
    (∀ e ∈ (tRl {} .leadIn).rl.jobs, e.2.st ≠ .joining) ∧
    ((tRl { startEl := ofNs 1000000000 } .leadIn).rl.st = .leadIn ∧ (tRl {} .active).el < (tRl {} .active).rl.next ∧
      (tRl {} .active).rl.st = .active ∧ (tRl {} .tail).rl.st = .tail ∧ ((tRl { afterTail := true } .tail).inj 7).afterTail = true ∧
      ((tRl {} .tail).inj 7).afterTail = false) ∧
    ((({ tInj {} .idle with fecs := [] } : State).after 0).injGo 7 = false ∧
      0 + ofNs (1000 * ((tInj {} .idle).after 0).rf 0x020 0x04C 13 0) ≤ (({ tInj {} .idle with fecs := [] } : State).after 0).el) ∧
    (((tRl { st := .suspended } .suspended).inj 7).st = .suspended ∧ (tRl { st := .suspended } .suspended).injGo 7 = true ∧
      (tRl { st := .suspended } .suspended).rl.st = .suspended) ∧
    ((tRl { st := .leadIn } .leadIn).rl.st = .leadIn ∧
      (tRl { st := .leadIn } .leadIn).rl.el + (tRl { st := .leadIn } .leadIn).frames256 ≤ (tRl { st := .leadIn } .leadIn).el) ∧
    (((tRl {} .leadIn).rl.jobs.filter fun e => e.1 = 7).length ≤ 1 ∧ ((tRl {} .leadIn).inj 7).st ≠ .leadIn) ∧
    ((∀ e ∈ (tRl {} .tail).rl.jobs, e.2.st ≠ .tailWait) ∧ (∃ e ∈ (tRl { st := .tailWait } .tail).rl.jobs, e.2.st = .tailWait) ∧
      (∀ e ∈ (tRl { st := .tailWait } .tail).rl.jobs, e.2.st ≠ .joining)) ∧
    (({ tCmd with heat := 100, rl := { st := .active, jobs := [(7, { st := .active, words := [0, 0, 0, 0, 0, 0, 0x101] })] } } : State).inj 7).winHeat + 100 ≤ 100 ∧
    (((0x101 : Word).getLsbD 0 = true ∧ (0x101 : Word).getLsbD (8 + 0) = true ∧ ∃ b ∈ tCmd.bandsOf 0, b.2 = 0)) := by
  decide +kernel

/-- A job of one sample whose snapshot holds as given. -/
def tCap (j : Job) (x : Snap) : State := { tRun with jobs := [(8191, { j with words := [0, 0, 0, 1] })], snaps := [(0, x)] }

/-- Hypotheses of SearchCaptures. -/
theorem witness_search :
    ((tJob { phase := .armed, startHeat := 7 }).hasJob 8191 = true ∧
      (tJob { phase := .armed, startHeat := 7 }).startDue ((tJob { phase := .armed, startHeat := 7 }).job 8191) = true) ∧
    (((tCap { phase := .capturing } { count := 10 ^ 9 }).after 0).hasJob 8191 = true ∧
      (((tCap { phase := .capturing } { count := 10 ^ 9 }).after 0).job 8191).phase = .capturing ∧
      ((tCap { phase := .capturing } { count := 10 ^ 9 }).after 0).running = true) ∧
    (jCount (((tCap { phase := .capturing } { count := 10 ^ 9 }).after 0).job 8191).words ≤
        (((tCap { phase := .capturing } { count := 10 ^ 9 }).after 0).snap 0).count ∧
      (((tCap { phase := .capturing } { count := 10 ^ 9 }).after 0).job 8191).spoilt = false ∧
      (((tCap { phase := .capturing, spoilt := true } {}).after 0).job 8191).spoilt = true) ∧
    (((tCap { phase := .capturing, spoilt := true } {}).jobs.filter fun e => e.1 = 8191).length = 1 ∧
      ((tCap { phase := .capturing, spoilt := true } {}).job 8191).cancelled = false ∧
      ((tCap { phase := .capturing, spoilt := true } {}).job 8191).torn = false) ∧
    (0 + 1 ≤ (tJob {}).rf 0x041 0x040 3 0 ∧
      (tJob {}).rf 0x041 0x040 3 0 < ({ impRestarts := 15 } : Job).impRestarts + 1) ∧
    (({ prio := 6, ageHeats := 4095 } : Job).prio < 7 ∧ (tJob {}).rf 0x001 0x06C 11 0 ≤ ({ prio := 6, ageHeats := 4095 } : Job).ageHeats) ∧
    (tJob {}).hears 0x041 := by
  refine ⟨?_, ?_, ?_, ?_, ?_, ?_, ?_⟩ <;> (try unfold State.hears) <;> decide +kernel

/-- Hypotheses of ChannelEvents. -/
theorem witness_channels :
    ((tCh { st := .pullin, pull := 40950 }).hasChan 8191 = true ∧
      10 * (tCh {}).rf 0x060 0x04C 11 0 ≤ ((tCh { st := .pullin, pull := 40950 }).chan 8191).pull) ∧
    (((tCh { st := .locked }).chan 8191).st = .locked ∧ (tCh { st := .locked }).streamAbsent 0 = true ∧
      (tCh {}).rf 0x060 0x04C 19 12 ≤ ({ low := 255 } : Chan).low) ∧
    1000 * ({ prm := { coastS := 30 }, coast := 30001 } : Chan).prm.coastS < ({ prm := { coastS := 30 }, coast := 30001 } : Chan).coast ∧
    (((tCh { syncHeats := 10000 }).chan 8191).bitSync = false ∧ 10000 ≤ ((tCh { syncHeats := 10000 }).chan 8191).syncHeats) ∧
    (((tCh { coupled := true, exclRun := 255 }).chan 8191).coupled = true ∧
      (tCh {}).rf 0x061 0x040 15 8 ≤ ((tCh { coupled := true, exclRun := 255 }).chan 8191).exclRun) ∧
    (tRun.inReset = false ∧ tRun.fault.phase = .run) := by
  decide +kernel

/-- Hypotheses of Navigation. -/
theorem witness_navigation :
    (rtcmLen [0xD3, 0, 2, 0x3F, 0xD0, 0, 0, 0] = some 8 ∧
      ({ tRun with uarts := [(2, { parse := [0xD3, 0, 2, 0x3F, 0xD0, 0, 0, 0] })] } : State).inReset = false) ∧
    (rtcmGood [0xD3, 0, 2, 0x3F, 0xD0, 0, 0, 0] 8 = false ∧ rtcmType [0xD3, 0, 2, 0x3F, 0xD0, 0, 0, 0] = 1021) ∧
    (rtcmGood [0xD3, 0, 2, 0x3E, 0xD0, 0xA4, 0xE0, 0] 8 = true ∧ rtcmType [0xD3, 0, 2, 0x3E, 0xD0, 0xA4, 0xE0, 0] = 1005) ∧
    (rtcmGood [0xD3, 0, 2, 0x43, 0x20, 0xD6, 0x9E, 0xCC] 8 = true ∧ rtcmType [0xD3, 0, 2, 0x43, 0x20, 0xD6, 0x9E, 0xCC] = 1074) ∧
    (tAuth.inReset = false ∧ (tAuth.reg 0x072 0x040).getLsbD 0 = true ∧ tAuth.fault.phase = .run ∧ tAuth.auth.pk = 2 ∧
      tAuth.auth.root = 2) ∧
    (tAuth.auth.unsupported = false ∧ tAuth.authTime = true ∧ tAuth.auth.kept = []) ∧
    (({ newData := true, answered := false } : InavIn).answered = false ∧
      ({ tags := [⟨36, 0, 40, true⟩] } : InavIn).tags = [⟨36, 0, 40, true⟩]) ∧
    (({ root := some (true, false) } : InavIn).root = some (true, false) ∧ ({ root := some (true, false) } : InavIn).pkr = none) ∧
    (tAuth.sat 36).adkd0 ≠ 3 ∧
    ((({ tAuth with auth := { reqEl := some 0 } } : State).after 0).auth.reqEl = some 0 ∧
      0 + ofNs (10000000 * (tAuth.after 0).rf 0x072 0x040 23 16) ≤ (tAuth.after 0).el) ∧
    (({ tRun with nav := { ind := 0x100 } } : State).nav.ind.getLsbD 8 = true ∧ Tab.get (fun _ => 0) tRun.nav.held 8 = 0) ∧
    (Tab.get (fun _ => 0) tRun.nav.gone 8 + ofNs (1000000000 * tRun.rf 0x071 0x058 23 16) ≤ ofNs 255000000000) ∧
    (tRun.fault.phase = .run ∧ 3 ≤ ({ st := .active, n := 3, members := [0, 1, 2] } : Group).members.length) ∧
    (∀ g, g < 8 → ∀ k ∈ (({ tRun.withEnt 7 7 with groups := [(0, { entry := 7, out := 32, n := 3, st := .active, members := [0, 1, 2] })] } : State).group g).members, k < 8) ∧
    (60 ≤ 59 + (if 6 ≤ 6 then 1 else 0) ∧ ({ prm := { eprompt := false } } : Chan).prm.eprompt = false ∧ (7 : Nat) ∈ [0, 1, 7] ∧ (7 : Nat) ≠ 0) ∧
    ({ tRun.withEnt 7 7 with groups := [(0, { entry := 7, out := 32, n := 3, st := .active, members := [0, 1, 2] })], nav := { calOk := 1 } } : State).groupOut 32 = some (0, { entry := 7, out := 32, n := 3, st := .active, members := [0, 1, 2] }) ∧
    (([(8191, 3, 4, 0)] : List (Nat × Int × Int × Int)).find? (fun e => e.1 == 8191) = some (8191, 3, 4, 0)) := by
  decide +kernel

/-- Hypotheses of TimeBaseAndLoop. -/
theorem witness_time_base :
    ((({ tRun with tb := { tRun.tb with pllLock := false } } : State).after 0).tb.pllLock = false ∧ (tRun.after 0).tb.pllLock = true) ∧
    (((tDisc { st := .refFault }).after 0).disc.st = .refFault ∧ ((tDisc {}).after 0).tb.refBad = false ∧
      ((tDisc {}).after 0).tb.lockEl + ofNs 1000000000 ≤ ((tDisc {}).after 0).el) ∧
    (tRun.tb.slew = none ∧ ({ tRun with tb := { tRun.tb with slew := some ⟨1, 5⟩ } } : State).tb.slew = some ⟨1, 5⟩) ∧
    (({ tRun with tb := { tRun.tb with slew := some ⟨2 ^ 40, 5⟩ } } : State).slewTicks ⟨2 ^ 40, 5⟩).isSome = true ∧
    (((tDisc {}).after 0).inReset = false ∧ ((tDisc {}).after 0).disc.lastEl + ofNs 999999000 ≤ ((tDisc {}).after 0).el ∧
      ((tDisc {}).after 0).discSrc ≠ 1) ∧
    (((tDisc { st := .freqAcq, meas := [(1, 1)], haveX := true }).after 0).disc.meas ≠ [] ∧
      ((tDisc { st := .freerun, meas := [(1, 1)] }).after 0).disc.st = .freerun) ∧
    absRat (meanRat ([((1 : Rat) / 10 ^ 9, (0 : Rat))].map (·.1)) - 0) ≤ (((tDisc {}).after 0).rf 0x081 0x050 15 0 : Nat) / 10 ^ 9 ∧
    absRat (meanRat ([((1 : Rat) / 10 ^ 9, (0 : Rat))].map (·.1))) < (((tDisc {}).after 0).rf 0x081 0x048 23 16 : Nat) / 10 ^ 9 ∧
    (((tDisc {}).after 0).rf 0x081 0x048 31 24 : Nat) / 10 ^ 9 < absRat (meanRat ([((256 : Rat) / 10 ^ 9, (0 : Rat))].map (·.1))) ∧
    (tRun.disc.updates < 16 ∧ 16 ≤ ({ updates := 16 } : Disc).updates ∧ (tRun.put [(0x081, 0x044, 0x200000)]).rf 0x081 0x044 21 21 = 1) ∧
    (tRun.rf 0x081 0x04C 7 0 ≤ ({ sinceValid := 255, st := .locked, yiHist := [1] } : Disc).sinceValid ∧
      ({ sinceValid := 255, st := .locked, yiHist := [1] } : Disc).yiHist ≠ []) := by
  decide +kernel

/-- Hypotheses of OutputsAndInputs. -/
theorem witness_outputs :
    ((tSch { periodNs := 100000 }).hasSched 8191 = true ∧ ((tSch { periodNs := 100000 }).sched 8191).loaded = true ∧
      ((tSch { periodNs := 100000 }).sched 8191).done = false) ∧
    (tSch { periodNs := 100000 }).edgeAt ((tSch { periodNs := 100000 }).sched 8191) 0 < (tSch {}).tb.hEnd ∧
    (tSch { periodNs := 100000 }).edgeAt ((tSch { periodNs := 100000 }).sched 8191) 0 ≤
      ((tSch { periodNs := 100000 }).after ((tSch { periodNs := 100000 }).ticksTo ((tSch { periodNs := 100000 }).edgeAt ((tSch { periodNs := 100000 }).sched 8191) 0))).tb.now ∧
    (((tSch { periodNs := 100000 }).sched 8191).finite = false ∧ ((tSch { periodNs := 100000 }).sched 8191).pin = true ∧
      ((tSch { target := 0x17, periodNs := 100000 }).sched 8191).pin = false) ∧
    ((tRun.after 1).gateOpen 0 = true ∧ (tRun.after 1).gateOpen 1 = true ∧ (tRun.after 1).gateOpen 2 = false ∧
      (tRun.after 1).quiet = false) ∧
    (((tSch { finite := true, left := 1, gate := 2 }).sched 8191).left = 1 ∧ (∀ q ∈ tRun.pulses, q.own ≠ some 8191)) ∧
    (tRun.firstPulse 7 = none ∧
      ({ tRun with pulses := [⟨7, 5 * msUnits + 1000, none⟩] } : State).firstPulse 7 = some ⟨7, 5 * msUnits + 1000, none⟩) ∧
    (5 * msUnits + 1000 ≤ (tRun.after (tRun.ticksTo (5 * msUnits + 1000))).tb.now ∧
      ([⟨7, 5 * msUnits, none⟩] : List Pulse).erase ⟨7, 5 * msUnits, none⟩ = []) ∧
    ({ tSch { done := true } with pulses := [⟨7, 5 * msUnits, some 8191⟩] } : State).firstPulse 7 = some ⟨7, 5 * msUnits, some 8191⟩ ∧
    ({ tRun with tb := { tRun.tb with now := 1000 * msUnits - msUnits / 4, hStart := 999 * msUnits, hEnd := 1000 * msUnits + msUnits } } : State).ppsNext.2 < 1000 * msUnits + msUnits ∧
    (tRun.rf 0x082 0x040 0 0 = 1 ∧ (tRun.put [(0x082, 0x040, 0x6402)]).rf 0x082 0x040 0 0 = 0) ∧
    (((tArm {}).after 0).inReset = false ∧ ((tArm {}).after 0).quiet = false ∧ (∃ a ∈ ((tArm {}).after 0).tinArms, a.2.input = 3 ∧
      a.2.edge % 2 = 1)) ∧
    ((tArm { lastEdge := some (5 * msUnits) }).after 0).el + 79 * unitsPerNs / 100 < 5 * msUnits + ofNs 100 ∧
    (((tArm { lastEdge := some 0 }).after 0).el ≥ 0 + ofNs 100 ∧ ((tArm {}).after 0).tin 3 = {}) ∧
    ((((tArm {}).after 0).tinArms.filter fun a => a.2.input == 3 && a.2.accepts true 500000) ≠ []) := by
  decide +kernel

/-- Hypotheses of EthernetLinks. -/
theorem witness_links :
    (((tPort {} []).after 0).inReset = false ∧ ((tPort {} []).after 0).ethMode 3 ≠ 0 ∧ ((tPort {} []).after 0).ptpRole 3 = 0 ∧
      (((tPort {} []).after 0).port 3).link = true) ∧
    ((tPort {} []).after 0).enabled 0x093 = true ∧
    (((({ tPort {} [] with eth := [] } : State).after 0).port 3).link = false ∧
      ((tPort {} [(0x093, 0x07C, 0x41)]).after 0).unicast 3 = true ∧ ((tPort {} [(0x093, 0x07C, 0x41)]).after 0).ptpRole 3 = 1) ∧
    (((tPort {} [(0x093, 0x040, 4)]).after 0).ethMode 3 = 4 ∧ (((tPort {} [(0x093, 0x040, 4)]).after 0).port 3).speed ≠ (2 : Fin 3).val) ∧
    ((((tPort { rxValid := true, qlRx := 15 } []).after 0).port 3).rxValid = true ∧ (((tPort {} []).after 0).port 3).rxValid = false) ∧
    ((((tPort {} [(0x093, 0x084, 1)]).after 0).reg 0x093 0x084).getLsbD 0 = true ∧
      (((tPort {} []).after 0).port 3).esmcEl + ofNs 1000000000 ≤ ((tPort {} []).after 0).el) ∧
    (((tPort { rxValid := true } []).after 0).port 3).qlEl + ofNs 5000000000 ≤ ((tPort { rxValid := true } []).after 0).el := by
  decide +kernel

/-- Hypotheses of PtpReceived. -/
theorem witness_ptp_received :
    (tPort {} [(0x093, 0x07C, 1)]).takesPtp 3 tHdr ∧
    ((((tPort { ps := psSLAVE, parent := 65536 } [(0x093, 0x07C, 1)]).after 0).port 3).follows 65536 = true ∧
      ((tPort {} [(0x093, 0x07C, 1)]).after 0).p2p 3 = false) ∧
    ((tPort { ps := psSLAVE, parent := 65536, annEl := ofNs 10000000000, paths := [0] } [(0x093, 0x07C, 5)]).after 0).measures 3 ∧
    (((tPort {} [(0x093, 0x07C, 5)]).after 0).p2p 3 = true ∧ (((tPort { paths := [0] } [(0x093, 0x07C, 5)]).after 0).port 3).paths ≠ []) ∧
    (((tPort { sync := some { src := 65536, seq := 9, t2 := 0, wait := true } } []).after 0).port 3).sync =
      some { src := 65536, seq := 9, t2 := 0, wait := true } ∧
    (((tPort { ps := psMASTER } []).after 0).ptpMute = false ∧ ((tPort { ps := psMASTER } []).after 0).unicast 3 = false ∧
      (((tPort { ps := psMASTER } []).after 0).port 3).ps = psMASTER) ∧
    ((((tPort { dreq := some { seq := 9, t3 := 0, steps := 0 } } []).after 0).port 3).dreq = some { seq := 9, t3 := 0, steps := 0 } ∧
      ((tPort {} []).after 0).halted = false) ∧
    (((tPort { ps := psUNCAL, parent := 65536 } []).after 0).port 3).ps = psUNCAL ∧
    ((((tPort {} [(0x093, 0x07C, 0xD)]).after 0).ptpCfg 3).getLsbD 3 = true ∧
      (((tPort {} [(0x093, 0x07C, 5)]).after 0).ptpCfg 3).getLsbD 3 = false) ∧
    (((tPort { pdreq := some { seq := 9, t3 := 0, steps := 0, src := 65536, t4 := some 0 } } []).after 0).port 3).pdreq =
      some { seq := 9, t3 := 0, steps := 0, src := 65536, t4 := some 0 } ∧
    ((((tPort { ps := psLISTENING } []).after 0).port 3).ps ≠ psDISABLED ∧
      (((tPort { ps := psLISTENING } []).after 0).port 3).ps ≠ psFAULTY ∧ 65536 / 65536 ≠ ((tPort {} []).after 0).clockId) ∧
    ((tPort {} [(0x093, 0x07C, 1)]).after 0).localRank.better (((tPort {} [(0x093, 0x07C, 1)]).after 0).rankOf { src := 65536, who := 4, ann := { gm := 1, prio1 := 1 } }) = false ∧
    127 < ((tPort {} [(0x093, 0x07C, 1)]).after 0).localClass.1 ∧
    (((tPort {} []).after 0).inReset = false ∧ (((tPort {} []).after 0).port 3).link = true ∧
      (((tPort {} []).after 0).reg 0x093 0x040).getLsbD 4 = false ∧ tHdr.ver = 2 ∧ tHdr.minor ≤ 1 ∧ tHdr.good = true ∧
      ({ tHdr with carrier := 1 } : PtpHdr).carrier ≠ fld (((tPort {} []).after 0).ptpCfg 3) 5 4) := by
  refine ⟨?_, ?_, ?_, ?_, ?_, ?_, ?_, ?_, ?_, ?_, ?_, ?_, ?_, ?_⟩ <;> (try unfold State.takesPtp) <;> (try unfold State.measures) <;> decide +kernel

/-- Hypotheses of PtpSent. -/
theorem witness_ptp_sent :
    ((((tPort { ps := psMASTER } []).after 0).port 3).ps = psMASTER ∧
      (((tPort {} []).after 0).port 3).syncEl + logUnits (((tPort {} []).after 0).logSync 3) ≤ ((tPort {} []).after 0).el) ∧
    (((tPort {} [(0x093, 0x07C, 0x41)]).after 0).unicast 3 = true ∧
      [({ who := 4, typ := 0, log2 := 0 } : Grant)].find? (fun g => g.who == 4 && g.typ == 0x0) = some { who := 4, typ := 0, log2 := 0 }) ∧
    (((tPort {} []).after 0).port 3).annTxEl + logUnits (((tPort {} []).after 0).logAnn 3) ≤ ((tPort {} []).after 0).el ∧
    (((tPort { ps := psPREMASTER } []).after 0).port 3).qualEl + (((tPort {} []).after 0).ptp.steps +
      1) * logUnits (((tPort {} []).after 0).logAnn 3) ≤ ((tPort {} []).after 0).el ∧
    (((tPort {} []).after 0).port 3).reqEl + logUnits (((tPort {} []).after 0).logDreq 3) ≤ ((tPort {} []).after 0).el ∧
    (((tPort {} []).after 0).port 3).annEl + fld (((tPort {} []).after 0).ptpCfg 3) 23 20 * logUnits (((tPort {} []).after 0).logAnn 3) ≤
      ((tPort {} []).after 0).el ∧
    (((tPort {} [(0x093, 0x07C, 2)]).after 0).ptpRole 3 = 2 ∧ (((tPort { ps := psLISTENING } []).after 0).port 3).parent = 0 ∧
      (((tPort { ps := psSLAVE, parent := 65536 } []).after 0).port 3).parent ≠ 0) ∧
    ((tPort { annEl := ofNs 10000000000 } [(0x093, 0x07C, 0x200001)]).after 0).el < ofNs 10000000000 +
      fld (((tPort {} [(0x093, 0x07C, 0x200001)]).after 0).ptpCfg 3) 23 20 * logUnits (((tPort {} []).after 0).logAnn 3) := by
  decide +kernel

/-- Hypotheses of UnicastGrants. -/
theorem witness_unicast :
    (tPort { ps := psMASTER } [(0x093, 0x07C, 0x41)]).takesPtp 3 tHdr ∧
    (((tPort { ps := psMASTER } [(0x093, 0x07C, 0x41)]).after 0).unicast 3 = true ∧
      ((tPort { ps := psMASTER } [(0x093, 0x07C, 0x41)]).after 0).mayGrant 3 4 0 (-7) 10 = true) ∧
    (({ tPort {} [] with fault := { phase := .quenched } } : State).halted = true ∧ ((tPort {} []).after 0).halted = false ∧
      (9 : Nat) < 10 ∧ (4 : Int) < 5) ∧
    (((tPort { umt := [(128, 4)] } [(0x093, 0x07C, 0x41)]).after 0).ptpRole 3 ≠ 2 ∧
      (∃ e ∈ (((tPort { umt := [(128, 4)] } []).after 0).port 3).umt, e.2 = 4)) ∧
    ((((tPort { mine := [{ who := 4, typ := 0, log2 := 0, dur := 40, endEl := ofNs 20000000000 }] } []).after 0).port 3).mine.find? (fun g => g.who == 4 && g.typ == 0) = some { who := 4, typ := 0, log2 := 0, dur := 40, endEl := ofNs 20000000000 }) ∧
    (((((tPort { mine := [{ who := 4, typ := 0, log2 := 0 }] } []).after 0).port 3).mine.filter fun g => g.who == 4 && g.typ == 0).length =
      1) ∧
    (ofNs 20000000000 ≤ ((tPort {} []).after 0).el + ofNs (40 * 250000000) ∧ 0 + ofNs 1000000000 ≤ ((tPort {} []).after 0).el ∧
      ((tPort {} []).after 0).el < ofNs 10000000000 + ofNs 1000000000) := by
  refine ⟨?_, ?_, ?_, ?_, ?_, ?_, ?_⟩ <;> (try unfold State.takesPtp) <;> decide +kernel

/-- Hypotheses of HostQueues. -/
theorem witness_host_queues :
    (((tPort {} [(0x093, 0x050, 0x0A000001)]).after 0).reg 0x093 0x050 = 0x0A000001 ∧ ((tPort {} []).after 0).ip6Of 3 = 0 ∧
      ((tPort {} [(0x093, 0x054, 1)]).after 0).ip6Of 3 ≠ 0) ∧
    (((tPort {} []).after 0).hqRun 3 = false ∧ ((tPort {} [(0x093, 0x0A0, 0x443)]).after 0).hqRun 3 = true) ∧
    (((tPort {} [(0x093, 0x0A0, 0x443)]).after 0).rf 0x093 0x0B8 9 0 + 1) % ((tPort {} [(0x093, 0x0A0, 0x443)]).after 0).rxqSize 3 ≠
      ((tPort {} [(0x093, 0x0A0, 0x443)]).after 0).rf 0x093 0x0B4 9 0 % ((tPort {} [(0x093, 0x0A0, 0x443)]).after 0).rxqSize 3 ∧
    (((tPort {} []).after 0).takesFrame 3 (List.replicate 2032 0xFF) = true ∧ ((tPort {} []).after 0).takesFrame 3 (List.replicate 2032 2) = false) ∧
    (((tPort {} []).after 0).sendsFirst 3 = false ∧ ((tPort { ps := psMASTER } [(0x093, 0x07C, 1)]).after 0).sendsFirst 3 = true) ∧
    ((List.replicate 2032 (0 : Byte)).length ≤ 2032 ∧ ((tPort {} [(0x093, 0x0A0, 0x443)]).after 0).hqLoc 3 = true ∧
      ((tPort {} []).after 0).hqLoc 3 = false) ∧
    ((tPort {} [(0x093, 0x0A0, 0x443), (0x093, 0x0BC, 1)]).after 0).rf 0x093 0x0C0 9 0 ≠
      ((tPort {} [(0x093, 0x0A0, 0x443), (0x093, 0x0BC, 1)]).after 0).rf 0x093 0x0BC 9 0 ∧
    (60 : Nat) ≤ (({ (tPort {} []) with exch := [(0, 60)] } : State).hqByte true 0 0).toNat +
      (({ (tPort {} []) with exch := [(0, 60)] } : State).hqByte true 0 1).toNat * 256 := by
  decide +kernel

/-- Hypotheses of RingIndices. -/
theorem witness_rings :
    (tCmd.hears 0x003 ∧ tCmd.locked 0x003 = false ∧ tRun.cmdRun = false ∧ tCmd.cmdRun = true ∧ tCmd.sqFull = false ∧ tCmd.sqEmpty = true) ∧
    (2 ^ tCmd.rf 0x003 0x04C 3 0 ≤ fld (0xFFF : Word) 11 0 ∧ fld (0 : Word) 11 0 < 2 ^ tCmd.rf 0x003 0x060 3 0) ∧
    (tRun.cmdLoc = false ∧ (tRun.ringBase 0x003 0x044 0x048 + tRun.rf 0x003 0x050 11 0 * 64) % 4 = 0 ∧
      tRun.ringBase 0x003 0x044 0x048 + tRun.rf 0x003 0x050 11 0 * 64 + 64 ≤ 2 ^ 64) ∧
    tCmd.noneWaits ∧
    ((tCmd.rf 0x003 0x068 11 0 + 1) % 2 ^ tCmd.rf 0x003 0x060 3 0 ≠ fld (0 : Word) 11 0 ∧
      ({ cmd := { held := [([], false)] } } : State).cmd.held = [([], false)]) ∧
    (tCmd.takesRun 0 0x003 0x040 2 ∧ (ringCtls.getD 0 (0, 0)) = (0x003, 0x040)) ∧
    tRun.takesRun 2 (ringCtls.getD 2 (0, 0)).1 (ringCtls.getD 2 (0, 0)).2 0x51 ∧
    tRun.takesRun 6 (ringCtls.getD 6 (0, 0)).1 (ringCtls.getD 6 (0, 0)).2 0x441 ∧
    (tRun.takesRun 1 (ringCtls.getD 1 (0, 0)).1 (ringCtls.getD 1 (0, 0)).2 1 ∧ tRun.heldResults = []) ∧
    (¬ (tRun.put [(0x003, 0x044, 32)]).basesFit 0 0x003 ((tRun.put [(0x003, 0x044, 32)]).rf 0x003 0x040 1 1) ∧
      (1 : Word).getLsbD 0 = true) ∧
    (tRun.hears 0x043 ∧ tRun.locked 0x043 = false ∧ 2 ^ tRun.rf 0x043 0x04C 3 0 ≤ fld (0xFFF : Word) 11 0 ∧
      (tRun.put [(0x043, 0x040, 3)]).ringOn 0x043 0x040 0 1 = true) ∧
    (({ tRun with jobs := [(5, { result := some [] })] } : State).heldResults = [5] ∧
      (tRun.rf 0x043 0x054 11 0 + 1) % 2 ^ tRun.rf 0x043 0x04C 3 0 ≠ 0) ∧
    (tRun.hears 0x071 ∧ tRun.locked 0x071 = false ∧ tRun.ringOn 0x071 0x080 0 1 = false ∧
      fld (0 : Word) 19 0 < 2 ^ tRun.rf 0x071 0x080 6 2) ∧
    ({ tRun.put [(0x071, 0x080, 0x29)] with host := { dma := true } } : State).ringOn 0x071 0x080 0 1 = true ∧
    (tRun.hears 0x070 ∧ tRun.locked 0x070 = false ∧ tSub.subAt 63 = some (5, { slot := 63 }) ∧ tRun.subAt 63 = none ∧
      2 ^ 0 ≤ fld (1 : Word) 19 0) ∧
    (tRun.hears (ethPage 3) ∧ tRun.locked (ethPage 3) = false ∧ tRun.txqSize 3 ≤ fld (0x3FF : Word) 9 0 ∧
      fld (0 : Word) 9 0 < tRun.rxqSize 3) := by
  refine ⟨?_, ?_, ?_, ?_, ?_, ?_, ?_, ?_, ?_, ?_, ?_, ?_, ?_, ?_, ?_, ?_⟩ <;> (try unfold State.hears) <;> (try unfold State.noneWaits) <;> (try unfold State.takesRun) <;> (try unfold State.basesFit) <;> decide +kernel

/-- Hypotheses of CorePages. -/
theorem witness_core_pages :
    (tRun.hears 0x0A6 ∧ tRun.locked 0x0A6 = false ∧ tRun.hears 0x0A8 ∧ (tRun.core 7).st = .stopped) ∧
    (((tCore 7 { tC with st := .wait, bits := BitVec.ofNat 4096 (2 ^ 0x022) }).core 7).bits.getLsbD 0x022 = true ∧
      (tCore 7 {}).hears 0x0A7) ∧
    (((tCore 7 tC).core 7).st = .run ∧ ((tCore 7 { tC with st := .wait }).core 7).wakeBit = none) ∧
    (descBad 7 0 0xFFFFFFFFFFFFFFFFFF = true ∧ descBad 7 0 0 = false) := by
  refine ⟨?_, ?_, ?_, ?_⟩ <;> (try unfold State.hears) <;> decide +kernel

/-- Hypotheses of StepRunsFront, IdleTick, StateAfterReset, QueueIsFifo, FusesStayBlown, FusesBlowOnlyByUpdate. -/
theorem witness_steps :
    tQueue.pending = .perstN :: [.powerOnReset 750 800 1800] ∧
    (State.reset.pending = [] ∧ State.reset.inReset = true ∧ ({ State.reset with inReset := false } : State).tb.everLocked = false) ∧
    (tRun.pending = [] ∧ tRun.inReset = false ∧ tRun.tb.everLocked = true ∧ tRun.tb.slew = none ∧ tRun.tb.now < tRun.tb.hEnd) ∧
    (pageType 0x000 = some .dev ∧ pageType 0x0C5 ≠ none) ∧
    (State.reset.blownAtLeast 0 ∧
      ({ State.reset with fuses := BitVec.ofNat 4096 (2 ^ 4095) } : State).blownAtLeast (BitVec.ofNat 4096 (2 ^ 4095))) ∧
    ((∃ t, step tQueue = .next t)) ∧
    ((∃ t, exec .perstN tRun = .next t)) := by
  refine ⟨by decide +kernel, by decide +kernel, by decide +kernel, by decide +kernel, ?_, ⟨_, rfl⟩, ⟨_, rfl⟩⟩
  unfold State.blownAtLeast
  decide +kernel

/-- Hypotheses of ExchangeWindow, ExceptionFrame. -/
theorem witness_window :
    (tRun.winOff = false ∧ (15 : Nat) < 16 ∧ (255 : Nat) < 256) ∧
    (0xFFFF : Nat) % 0x10000 ≠ (0 : BitVec 16).toNat ∧
    ({ tRun with host := { latch := some (3, 5) } } : State).winOff = false ∧
    (({ tRun with bad := [(badKey 28 0xFFFF, true)] } : State).isBad 28 (0xFFFF : BitVec 16).toNat = true ∧
      tRun.isBad 28 (0xFFFF : BitVec 16).toNat = false) := by
  decide +kernel

/-- An image of one segment in slot 0. -/
def tImage : State := { tRun with
  flash := (List.zip (List.range 0x18) [(0x55 : Byte), 0x47, 0x49, 0x4D, 1, 0, 0, 1, 0x80, 4, 0, 0, 0, 0, 0, 0, 1, 0, 0, 0, 1, 0, 1, 0] ++
    List.zip ((List.range 0x100).map (· +
      0x80)) ([(0 : Byte), 0, 0, 0, 0x80, 1, 0, 0, 0, 0, 0, 0, 8] ++ List.replicate 0xF3 0)).map fun (e : Nat × Byte) => (slotBase 0 +
      e.1, e.2) }

/-- Hypotheses of StartUp, UpdatePath and QuenchAndRecovery about images: an empty slot holds none; slot 0 holds one where its key
is accepted and its signature verifies, which are the answers of uninterpreted functions (log entry 14). -/
theorem witness_images : tRun.imageCode 0 ≠ 0 ∧ tRun.imageCode 1 ≠ 0 ∧ tImage.imageCode 1 ≠ 0 ∧
    (tImage.keyOk (tImage.flNum (slotBase 0 + 6) 1) (tImage.flBytes (slotBase 0 + 0x20) 96) = true →
      Config.p384Verify (tImage.flBytes (slotBase 0 + 0x20) 96) (tImage.flBytes (slotBase 0 + (tImage.flNum (slotBase 0 + 8) 4 - 96)) 96)
        (tImage.flBytes (slotBase 0) (tImage.flNum (slotBase 0 + 8) 4 - 96)) = true → tImage.imageCode 0 = 0) := by
  refine ⟨by decide +kernel, by decide +kernel, by decide +kernel, fun hk hs => ?_⟩
  have hf : tImage.imageForm (slotBase 0) = true := by decide +kernel
  have ha : ¬ tImage.flNum (slotBase 0 + 0x0C) 1 < tImage.arb := by decide +kernel
  have hv : tImage.flNum (slotBase 0 + 0x14) 2 ≤ 1 ∧ 1 ≤ tImage.flNum (slotBase 0 + 0x16) 2 := by decide +kernel
  simp only [State.imageCode, hf, hk, hs, ha, hv, and_self, Bool.true_eq_false, if_true, if_false]

end Sys2Proof.Machine
end

/-! ## Scope: every command, the idle tick, the state after reset, register writes -/

namespace Sys2Proof.Machine

/-! ### Every command answers a next state -/

/-- A meaning that chooses between two next states answers a next state. -/
theorem exists_next_ite {c : Prop} [Decidable c] {a b : Out} (ha : ∃ t, a = .next t) (hb : ∃ t, b = .next t) :
    ∃ t, (if c then a else b) = .next t := by
  split
  · exact ha
  · exact hb

/-- Settles O20: the meaning of a command is a next state outright, but for four that choose among next states. -/
theorem everyCommandCompletes : Obligations.EveryCommandCompletes := by
  intro c s
  cases c with
  | captureStart | aoaEvaluation => exact exists_next_ite ⟨_, rfl⟩ ⟨_, rfl⟩
  | character | inavPage => exact exists_next_ite ⟨_, rfl⟩ (exists_next_ite ⟨_, rfl⟩ ⟨_, rfl⟩)
  | _ => exact ⟨_, rfl⟩

/-! ### The idle tick -/

theorem step_of_no_command {s : State} (h : s.pending = []) : step s = .next (s.after 1) := by
  unfold step; rw [h]

theorem State.after_of_inReset {s : State} (h : s.inReset = true) (dt : Nat) : s.after dt = s := by
  simp [State.after, h]

theorem State.after_of_unlocked {s : State} (h : s.inReset = false) (hl : s.tb.everLocked = false) (dt : Nat) :
    s.after dt = { s with el := s.el + dt * tickUnits } := by
  simp [State.after, State.advance, h, hl]

theorem State.after_of_locked {s : State} (h : s.inReset = false) (hl : s.tb.everLocked = true) (dt : Nat) :
    s.after dt = s.advance (min dt (s.ticksTo s.tb.hEnd)) := by
  simp [State.after, h, hl]

/-- Without a slew the time base and elapsed time gain the applied rate in every tick. -/
theorem State.advance_of_no_slew {s : State} (hl : s.tb.everLocked = true) (hw : s.tb.slew = none) (n : Nat) :
    s.advance n = { s with el := s.el + n * s.tickPlain, tb := { s.tb with now := s.tb.now + n * s.tickPlain } } := by
  simp [State.advance, State.unitsIn, hl, hw]

/-- An instant still to come is at least one tick away. -/
theorem State.one_le_ticksTo {s : State} {t : Nat} (hw : s.tb.slew = none) (ht : s.tb.now < t) : 1 ≤ s.ticksTo t := by
  simp only [State.ticksTo, hw, ceilDiv]
  exact Nat.div_pos (by omega) (by omega)

/-- Settles O18: the time an empty queue lets pass is one tick, which no heat boundary cuts while the heat's end is to come. -/
theorem idleTick : Obligations.IdleTick := by
  intro s hp
  rw [step_of_no_command hp]
  refine ⟨fun hr => ?_, fun hr hl => ?_, fun hr hl hw ht => ?_⟩
  · rw [State.after_of_inReset hr]
  · rw [State.after_of_unlocked hr hl, Nat.one_mul]
  · rw [State.after_of_locked hr hl, Nat.min_eq_left (State.one_le_ticksTo hw ht), State.advance_of_no_slew hl hw, Nat.one_mul]

/-! ### The state after reset -/

/-- Mapped pages lie below page 0x0C6 (rule R61). -/
theorem lt_of_pageType {p : Nat} {t : PageType} (h : pageType p = some t) : p < 0x0C6 := by
  by_contra hp
  have hnone : pageType p = none := by
    unfold pageType
    repeat rw [if_neg (by omega)]
  rw [hnone] at h
  cases h

theorem addr_div {p off : Nat} (h : off < 0x1000) : addr p off / 0x1000 = p := by unfold addr; omega

theorem addr_mod {p off : Nat} (h : off < 0x1000) : addr p off % 0x1000 = off := by unfold addr; omega

theorem addr_inj {p q o o' : Nat} (ho : o < 0x1000) (ho' : o' < 0x1000) (h : addr p o = addr q o') : p = q ∧ o = o' := by
  unfold addr at h; omega

/-- What identifies a mapped page at reset: PG_ID and PG_VER (rules R64 to R66). -/
theorem regReset_ident {p : Nat} {t : PageType} (h : pageType p = some t) :
    regReset (addr p 0x000) = pgId p ∧ regReset (addr p 0x004) = 0x01010001 := by
  have hp := lt_of_pageType h
  have hlow : ∀ off, off < 0x1000 → ¬ addr p off ≥ 0x100000 := by unfold addr; omega
  constructor <;> simp [regReset, addr_div, addr_mod, hlow, h]

theorem pgId_of_pageType {p : Nat} {t : PageType} (h : pageType p = some t) :
    pgId p = BitVec.ofNat 32 (t.code + pageInst p * 0x10000 + 0x01000000) := by
  unfold pgId; rw [h]

/-- Settles O19: nothing is listed after reset, so every register and memory reads its reset value. -/
theorem stateAfterReset : Obligations.StateAfterReset := by
  refine ⟨rfl, rfl, fun _ => rfl, fun p t h => ?_, fun _ => ⟨rfl, rfl⟩, rfl, rfl, rfl, fun _ => rfl, State.memWf_reset⟩
  obtain ⟨hid, hver⟩ := regReset_ident h
  exact ⟨hver, hid.trans (pgId_of_pageType h)⟩

end Sys2Proof.Machine

/-! ## Register writes -/

namespace Sys2Proof.Machine

theorem ends_of_exec {c : Instr} {s t : State} (h : exec c s = .next t) : Ends c s t := ⟨t, h, Alike.refl t⟩

/-! ### How a write of one register goes (rules R9, R18, R62) -/

/-- A window that answers on a page takes the host's write there. -/
theorem State.hostWrite_of_hears {s : State} {a : Nat} (h : s.hears (a / 0x1000)) (v : Word) (be : Bool) :
    s.hostWrite a v be = s.regWrite hooks a v be := by
  obtain ⟨hp, hoff, haway, -⟩ := h
  have hnot : s.assayAway a = false := by
    rw [State.assayAway, Nat.mod_eq_of_lt hp, Bool.and_eq_false_imp]
    intro hw
    have := haway hw
    simp only [decide_eq_false_iff_not]
    omega
  simp [State.hostWrite, hoff, hnot]

theorem State.regWrite_partial (h : PageHooks) (s : State) (a : Nat) (v : Word) :
    s.regWrite h a v false = s.capErr 0x0B0 0x11 (a % 0x1000 / 4 * 4) := by
  simp [State.regWrite]

theorem pageType_ne_none_of_regAt {p off : Nat} {r : Reg} (hr : regAt p off = some r) : pageType p ≠ none := by
  intro ht
  simp [regAt, ht] at hr

section regWrite

variable {h : PageHooks} {s : State} {a p off : Nat} {v : Word} {r : Reg}
  (hp : a / 0x1000 = p) (hlt : p < 0x100) (hoff : a % 0x1000 / 4 * 4 = off)

include hp hlt hoff

theorem State.regWrite_unmapped (ht : pageType p = none) : s.regWrite h a v true = s.capErr 0x0B0 0x12 off := by
  simp [State.regWrite, hp, hoff, Nat.mod_eq_of_lt hlt, ht]

theorem State.regWrite_reserved (ht : pageType p ≠ none) (ho : 0x040 ≤ off) (hr : regAt p off = none) :
    s.regWrite h a v true = s := by
  simp [State.regWrite, hp, hoff, Nat.mod_eq_of_lt hlt, ht, Nat.not_lt.2 ho, hr]

/-- A write of a block register with no refusal is taken. -/
theorem State.regWrite_taken (ho : 0x040 ≤ off) (hr : regAt p off = some r)
    (hw : worst (regViol (s.locked p) r v ++ h.viol s p off v) = none) :
    s.regWrite h a v true = h.taken s p off v (s.takeWrite r p off v) := by
  simp [State.regWrite, hp, hoff, Nat.mod_eq_of_lt hlt, pageType_ne_none_of_regAt hr, Nat.not_lt.2 ho, hr, hw]

/-- A write of a block register with refusals is refused with the worst of them. -/
theorem State.regWrite_refused {c : Nat} (ho : 0x040 ≤ off) (hr : regAt p off = some r)
    (hw : worst (regViol (s.locked p) r v ++ h.viol s p off v) = some c) :
    s.regWrite h a v true = h.refused (s.capErr p c off) p off v c := by
  simp [State.regWrite, hp, hoff, Nat.mod_eq_of_lt hlt, pageType_ne_none_of_regAt hr, Nat.not_lt.2 ho, hr, hw]

end regWrite

/-! ### Refusals of a value -/

/-- Where all refusals have one code, that code is captured. -/
theorem worst_of_code {l : Viol} {c : Nat} (hne : l ≠ []) (hc : ∀ x ∈ l, x.2 = c) : worst l = some c := by
  match l, hne with
  | [x], _ => exact congrArg some (hc x List.mem_cons_self)
  | x :: y :: m, _ =>
    refine congrArg some (List.foldlRecOn (motive := fun b : Nat × Nat => b.2 = c) (y :: m) _ (hc x List.mem_cons_self) ?_)
    intro b hb z hz
    split
    · exact hc z (List.mem_cons_of_mem x hz)
    · exact hb

/-- On an unlocked page only a value out of its range is refused. -/
theorem regViol_unlocked (r : Reg) (v : Word) : regViol false r v =
    (r.flds.filter fun f => (f.acc = .rw || f.acc = .rws || f.acc = .wo) && !f.ok v).map fun f => (f.lo, 0x05) := by
  simp [regViol]

theorem regViol_eq_nil {r : Reg} {v : Word} (h : ∀ f ∈ r.flds, f.ok v = true) : regViol false r v = [] := by
  rw [regViol_unlocked, List.map_eq_nil_iff, List.filter_eq_nil_iff]
  intro f hf
  simp [h f hf]

theorem regViol_wo_any {locked : Bool} {r : Reg} {v : Word} (h : ∀ f ∈ r.flds, f.acc = .wo ∧ f.rng = .any) :
    regViol locked r v = [] := by
  rw [regViol, List.append_eq_nil_iff, List.map_eq_nil_iff, List.map_eq_nil_iff, List.filter_eq_nil_iff, List.filter_eq_nil_iff]
  refine ⟨fun f hf => ?_, fun f hf => ?_⟩ <;> obtain ⟨hacc, hrng⟩ := h f hf
  · simp [hacc]
  · simp [Fld.ok, hrng]

theorem worst_regViol_bad_arg {r : Reg} {v : Word} {f : Fld} (hf : f ∈ r.flds) (hv : f.ok v = false)
    (ha : f.acc = .rw ∨ f.acc = .rws ∨ f.acc = .wo) : worst (regViol false r v) = some 0x05 := by
  rw [regViol_unlocked]
  refine worst_of_code (List.ne_nil_of_mem (a := (f.lo, 0x05)) ?_) ?_
  · refine List.mem_map.2 ⟨f, List.mem_filter.2 ⟨hf, ?_⟩, rfl⟩
    simpa [hv, or_assoc] using ha
  · intro x hx
    obtain ⟨g, -, rfl⟩ := List.mem_map.1 hx
    rfl

/-! ### Taking a value -/

theorem Reg.mask_eq_zero {r : Reg} {a : Acc} (h : ∀ f ∈ r.flds, f.acc ≠ a) : r.mask a = 0 := by
  refine List.foldlRecOn (motive := (· = 0)) r.flds _ rfl fun m hm f hf => ?_
  rw [if_neg (h f hf), hm]

/-- A register without RW and W1C fields keeps what it holds. -/
theorem mix_none (v old : Word) : mix 0 v old &&& ~~~(v &&& 0) = old := by
  change (v &&& 0#32 ||| old &&& ~~~0#32) &&& ~~~(v &&& 0#32) = old
  rw [BitVec.and_zero, BitVec.zero_or, BitVec.not_zero, BitVec.and_allOnes, BitVec.and_allOnes]

/-- Registers not reached through a selector are kept at their own addresses (rules R354, R554). -/
theorem State.slotOf_eq_addr (s : State) {p : Nat} (off : Nat) (h1 : p ≠ 0x0C1) (h2 : p ≠ 0x071) : s.slotOf p off = addr p off := by
  simp [State.slotOf, h1, h2]

section takeWrite

variable {s : State} {r : Reg} {p off : Nat} {v : Word} (hslot : s.slotOf p off = addr p off)

include hslot

/-- A register without RWS fields and counters takes a value in its RW and W1C fields. -/
theorem State.takeWrite_rw (hc : r.mask .cnt = 0) (hr : r.mask .rws = 0) :
    s.takeWrite r p off v = s.setReg p off (mix (r.mask .rw) v (s.reg p off) &&& ~~~(v &&& r.mask .w1c)) := by
  simp [State.takeWrite, hslot, hc, hr, State.setRegAtSlot, State.setReg, State.regAtSlot, State.reg]

/-- RWS fields take the value in the shadow copy. -/
theorem State.takeWrite_rws (hc : r.mask .cnt = 0) (hr : r.mask .rws ≠ 0) :
    s.takeWrite r p off v = (s.setReg p off (mix (r.mask .rw) v (s.reg p off) &&& ~~~(v &&& r.mask .w1c))).setShad p off
      (mix (r.mask .rws) v (s.shad p off)) := by
  simp only [State.takeWrite, hslot, hc, if_neg hr]
  rfl

/-- A counter's CLR clears it (rule R86). -/
theorem State.takeWrite_counter (hf : r.flds = [⟨0, 32, .cnt, .any⟩]) (hv : v.getLsbD 31 = true) :
    s.takeWrite r p off v = s.setReg p off (setFld (s.reg p off) 16 0 0) := by
  have hm : ∀ a, a ≠ .cnt → r.mask a = 0 := fun a ha => Reg.mask_eq_zero (by simpa [hf] using ha.symm)
  have hc : (r.mask .cnt != 0) = true := by simp [Reg.mask, hf]
  simp only [State.takeWrite, hslot, hc, hv, hm .rw (by decide), hm .w1c (by decide), hm .rws (by decide), mix_none]
  rfl

/-- A register of WO fields stores nothing. -/
theorem State.takeWrite_wo (hf : ∀ f ∈ r.flds, f.acc = .wo) : s.takeWrite r p off v = s.setReg p off (s.reg p off) := by
  have hm : ∀ a, a ≠ .wo → r.mask a = 0 := fun a ha => Reg.mask_eq_zero fun f h => (hf f h).trans_ne ha.symm
  rw [State.takeWrite_rw hslot (hm .cnt (by decide)) (hm .rws (by decide)), hm .rw (by decide), hm .w1c (by decide), mix_none]

end takeWrite

/-- Storing what a register holds changes nothing that can be read. -/
theorem State.cell_setReg_self (s : State) (p off a : Nat) : (s.setReg p off (s.reg p off)).cell a = s.cell a := by
  rw [State.cell_setReg]
  split
  · next h => rw [h]; rfl
  · rfl

theorem State.reg_setReg_self (s : State) (p off q o : Nat) : (s.setReg p off (s.reg p off)).reg q o = s.reg q o :=
  State.cell_setReg_self s p off (addr q o)

theorem alike_setReg_self (s : State) (p off : Nat) : Alike (s.setReg p off (s.reg p off)) s :=
  alike_iff.2 ⟨State.cell_setReg_self s p off, State.rest_setReg s p off _⟩

/-! ### Writes of lane registers -/

/-- A page without a ring's control register keeps no LOC. -/
theorem State.keepLoc_of_not_ring {s : State} {p off : Nat} (h : (p, off) ∉ ringCtls) : s.keepLoc p off = s := by
  simp [State.keepLoc, h]

theorem not_ring_of_lane {p off : Nat} (hl : pageType p = some .lane) : (p, off) ∉ ringCtls := by
  have hall : ∀ e ∈ ringCtls, pageType e.1 ≠ some .lane := by decide
  exact fun h => hall _ h hl

theorem slotOf_lane (s : State) {p : Nat} (off : Nat) (hl : pageType p = some .lane) : s.slotOf p off = addr p off := by
  refine s.slotOf_eq_addr off ?_ ?_ <;> (rintro rfl; revert hl; decide)

theorem winViol_lane {s : State} {p off : Nat} {v : Word} (hl : pageType p = some .lane) (ho : 0x040 ≤ off) :
    winViol s p off v = [] := by
  have hp : p ≠ 0x0B1 := by rintro rfl; revert hl; decide
  simp [winViol, hp, Nat.not_lt.2 ho, hl]

theorem winTaken_lane {old s : State} {p off : Nat} {v : Word} (hl : pageType p = some .lane) :
    winTaken old p off v s = s := by
  simp [winTaken, State.keepLoc_of_not_ring (not_ring_of_lane hl), hl]

theorem winRefused_lane {s : State} {p off c : Nat} {v : Word} (hl : pageType p = some .lane) : winRefused s p off v c = s := by
  have hp : p ≠ 0x003 := by rintro rfl; revert hl; decide
  simp [winRefused, hp]

section lane

variable {s : State} {a p off : Nat} {v : Word} {r : Reg} (hp : a / 0x1000 = p) (hlt : p < 0x100)
  (hoff : a % 0x1000 / 4 * 4 = off) (hl : pageType p = some .lane) (ho : 0x040 ≤ off) (hr : regAt p off = some r)
  (hk : s.locked p = false)

include hp hlt hoff hl ho hr hk

/-- A lane page adds no refusal and no effect of its own to a write. -/
theorem regWrite_lane_taken (hv : ∀ f ∈ r.flds, f.ok v = true) : s.regWrite hooks a v true = s.takeWrite r p off v := by
  have hw : worst (regViol (s.locked p) r v ++ winViol s p off v) = none := by
    rw [hk, regViol_eq_nil hv, winViol_lane hl ho]; rfl
  exact (State.regWrite_taken hp hlt hoff ho hr hw).trans (winTaken_lane (old := s) (v := v) hl)

theorem regWrite_lane_refused {f : Fld} (hf : f ∈ r.flds) (hv : f.ok v = false) (ha : f.acc = .rw ∨ f.acc = .rws ∨ f.acc = .wo) :
    s.regWrite hooks a v true = s.capErr p 0x05 off := by
  have hw : worst (regViol (s.locked p) r v ++ winViol s p off v) = some 0x05 := by
    rw [hk, winViol_lane hl ho, List.append_nil, worst_regViol_bad_arg hf hv ha]
  exact (State.regWrite_refused hp hlt hoff ho hr hw).trans (winRefused_lane (c := 0x05) (v := v) hl)

end lane

/-! ### The DEV page: GROUP_COMMIT and IRQ_EOI (rules R76, R89) -/

/-- A register of the DEV page with WO fields only acts, and stores nothing. -/
theorem regWrite_dev_wo {s : State} {off : Nat} {v : Word} {r : Reg} (ho : 0x040 ≤ off) (hoff : addr 0x000 off % 0x1000 / 4 * 4 = off)
    (hp : addr 0x000 off / 0x1000 = 0x000) (hr : regAt 0x000 off = some r) (hf : ∀ f ∈ r.flds, f.acc = .wo ∧ f.rng = .any) :
    s.regWrite hooks (addr 0x000 off) v true = takenDev off v (s.setReg 0x000 off (s.reg 0x000 off)) := by
  have hviol : winViol s 0x000 off v = [] := by
    simp [winViol, Nat.not_lt.2 ho, show pageType 0x000 = some .dev from rfl]
  have hring : (0x000, off) ∉ ringCtls := by
    have hall : ∀ e ∈ ringCtls, e.1 ≠ 0x000 := by decide
    exact fun h => hall _ h rfl
  have hw : worst (regViol (s.locked 0x000) r v ++ winViol s 0x000 off v) = none := by
    rw [regViol_wo_any hf, hviol]; rfl
  refine (State.regWrite_taken hp (by decide) hoff ho hr hw).trans ?_
  rw [State.takeWrite_wo (s.slotOf_eq_addr off (by decide) (by decide)) fun f h => (hf f h).1]
  change takenDev off v (State.keepLoc _ 0x000 off) = _
  rw [State.keepLoc_of_not_ring hring]

/-- The pages a GO arms: those of the group that are not locked. -/
def State.groupPages (s : State) : List Nat :=
  (List.range 256).filter fun p => capShadow p && (s.reg p 0x02C).getLsbD 2 && !s.locked p

/-- Some pages armed for a commit. -/
def State.armPages (s : State) (ps : List Nat) : State := ps.foldl (fun s p => s.setRf p 0x02C 0 0 1) s

theorem State.groupGo_eq (s : State) : s.groupGo =
    { s.armPages s.groupPages with
      goCnt := s.goCnt + 1
      grp := ((s.armPages s.groupPages).grp.filter fun e => !s.groupPages.contains e.1)
        ++ s.groupPages.map fun p => (p, s.goCnt + 1) } := rfl

theorem State.mem_groupPages {s : State} {q : Nat} : q ∈ s.groupPages ↔
    q < 256 ∧ capShadow q = true ∧ (s.reg q 0x02C).getLsbD 2 = true ∧ s.locked q = false := by
  simp [State.groupPages, and_assoc]

/-- Arming pages writes registers only. -/
theorem State.armPages_frame (s : State) (ps : List Nat) : ∃ l, s.armPages ps = { s with regs := l } := by
  refine List.foldlRecOn (motive := fun t : State => ∃ l, t = { s with regs := l }) ps _ ⟨s.regs, rfl⟩ ?_
  rintro t ⟨l, rfl⟩ p -
  exact ⟨_, rfl⟩

theorem State.cell_armPages_of_ne {s : State} {ps : List Nat} {a : Nat} (h : ∀ p ∈ ps, a ≠ addr p 0x02C) :
    (s.armPages ps).cell a = s.cell a := by
  refine List.foldlRecOn (motive := fun t : State => t.cell a = s.cell a) ps _ rfl fun t ht p hp => ?_
  rw [State.cell_setRf, if_neg (h p hp), ht]

theorem getLsbD_setFld_one (v : Word) : (setFld v 0 0 1).getLsbD 0 = true := by
  simp [setFld]

theorem State.armed_setRf {s : State} {p q : Nat} (h : s.armed q = true ∨ q = p) : (s.setRf p 0x02C 0 0 1).armed q = true := by
  unfold State.armed at *
  rw [State.reg_cell] at *
  rw [State.cell_setRf]
  split
  · exact getLsbD_setFld_one _
  · next hne => exact h.resolve_right fun he => hne (he ▸ rfl)

theorem State.armed_armPages {s : State} {ps : List Nat} {q : Nat} (h : s.armed q = true ∨ q ∈ ps) : (s.armPages ps).armed q = true := by
  induction ps generalizing s with
  | nil => exact h.resolve_right List.not_mem_nil
  | cons p ps ih =>
    refine ih (s := s.setRf p 0x02C 0 0 1) ?_
    rcases h with h | h
    · exact .inl (State.armed_setRf (.inl h))
    · rcases List.mem_cons.1 h with rfl | h
      · exact .inl (State.armed_setRf (.inr rfl))
      · exact .inr h

theorem exec_groupCommit {s : State} (h : s.hears 0x000) :
    exec .groupCommit s = .next (s.setReg 0x000 0x060 (s.reg 0x000 0x060)).groupGo := by
  change Host.Outcome.next (s.hostWrite (addr 0x000 0x060) 1 true) = _
  rw [State.hostWrite_of_hears h, regWrite_dev_wo (r := ⟨0x060, 1, 4, 0x0, [⟨0, 1, .wo, .any⟩]⟩) (by decide) rfl rfl rfl (by decide)]
  rfl

/-! #### The end of an interrupt -/

theorem Tab.filter_del {α : Type} {f : Nat × α → Bool} {k : Nat} (h : ∀ x, f (k, x) = false) (t : Tab α) :
    (Tab.del t k).filter f = t.filter f := by
  rw [Tab.del, List.filter_filter]
  refine List.filter_congr fun e _ => ?_
  by_cases hk : e.1 = k
  · obtain ⟨i, x⟩ := e
    subst hk
    simp [h]
  · simp [hk]

theorem Tab.filter_put {α : Type} {f : Nat × α → Bool} {k : Nat} {x : α} (h : f (k, x) = false) (t : Tab α) :
    (Tab.put t k x).filter f = t.filter f := by
  induction t with
  | nil => simp [Tab.put, h]
  | cons e t ih =>
    rw [Tab.put]
    split
    · rw [List.filter_cons_of_neg (by simp [h])]
    · rw [List.filter_cons, List.filter_cons, ih]

/-- A write at a key that a selection passes over does not change the selection. -/
theorem Tab.filter_set {α : Type} [DecidableEq α] {f : Nat × α → Bool} {k : Nat} (h : ∀ x, f (k, x) = false)
    (d : Nat → α) (t : Tab α) (x : α) : (Tab.set d t k x).filter f = t.filter f := by
  unfold Tab.set
  split
  · exact Tab.filter_del h t
  · rw [Tab.ins, Tab.filter_put (h x), Tab.filter_del h]

/-- Storing what a register other than PG_IRQ_EN holds leaves every vector's request as it was. -/
theorem State.vecReq_setReg_self (s : State) {p off : Nat} (ho : addr p off % 0x1000 ≠ 0x018) (v : Nat) :
    (s.setReg p off (s.reg p off)).vecReq v = s.vecReq v := by
  have hpend : ∀ q, (s.setReg p off (s.reg p off)).pagePending q = s.pagePending q := by
    intro q
    simp only [State.pagePending, State.pnd, State.reg_setReg_self]
  have hpages : (s.setReg p off (s.reg p off)).pendingPages = s.pendingPages := by
    simp only [State.pendingPages, hpend]
    exact congrArg _ (Tab.filter_set (fun x => by simp [ho]) regReset s.regs (s.reg p off))
  simp only [State.vecReq, hpages, State.route, State.reg_setReg_self]

theorem State.msixSend_of_unmasked {s : State} {v : Nat} (hon : s.msixOn = true) (hf : s.msixFuncMask = false)
    (hm : s.msixMask.getLsbD v = false) : s.msixSend v = s.emit (.msix v) := by
  simp [State.msixSend, hon, hf, hm]

theorem exec_irqEoi {s : State} (h : s.hears 0x000) (v : Fin 32) :
    exec (.irqEoi v) s = .next (if s.vecReq v.val then (s.setReg 0x000 0x068 (s.reg 0x000 0x068)).msixSend v.val
      else s.setReg 0x000 0x068 (s.reg 0x000 0x068)) := by
  have hv : fld (BitVec.ofNat 32 v.val) 4 0 = v.val := by simp [fld]
  change Host.Outcome.next (s.hostWrite (addr 0x000 0x068) (BitVec.ofNat 32 v.val) true) = _
  rw [State.hostWrite_of_hears h, regWrite_dev_wo (r := ⟨0x068, 1, 4, 0x0, [⟨0, 5, .wo, .any⟩]⟩) (by decide) rfl rfl rfl (by decide)]
  simp only [takenDev, hv, State.vecReq_setReg_self s (p := 0x000) (off := 0x068) (by decide)]
  rfl

/-! ### The statement -/

theorem exec_registerWrite {s : State} {a : BitVec 20} (h : s.hears (a.toNat / 0x1000)) (v : Word) (be : BitVec 4) :
    exec (.registerWrite a v be) s = .next (s.regWrite hooks a.toNat v (be == 0xF)) :=
  congrArg _ (State.hostWrite_of_hears h v _)

theorem exec_clr {s : State} {a : BitVec 20} (h : s.hears (a.toNat / 0x1000)) :
    exec (.clr a) s = .next (s.regWrite hooks a.toNat 0x80000000 true) :=
  congrArg _ (State.hostWrite_of_hears h _ _)

/-- What a GO of the group does (rule R76). -/
theorem groupCommit_arms {s : State} (h : s.hears 0x000) : ∃ t, exec .groupCommit s = .next t ∧ t.goCnt = s.goCnt + 1 ∧
    (∀ q ∈ s.groupPages, t.armed q = true ∧ (q, s.goCnt + 1) ∈ t.grp) ∧
    (∀ a, (∀ q ∈ s.groupPages, a ≠ addr q 0x02C) → t.cell a = s.cell a) ∧
    ({ t with regs := s.regs, grp := s.grp, goCnt := s.goCnt } : State) = s := by
  have hpages : (s.setReg 0x000 0x060 (s.reg 0x000 0x060)).groupPages = s.groupPages := by
    simp only [State.groupPages, State.locked, State.reg_setReg_self]
  obtain ⟨l, hl⟩ := (s.setReg 0x000 0x060 (s.reg 0x000 0x060)).armPages_frame s.groupPages
  refine ⟨_, exec_groupCommit h, rfl, fun q hq => ?_, fun a ha => ?_, ?_⟩ <;> rw [State.groupGo_eq, hpages]
  · exact ⟨State.armed_armPages (.inr hq), List.mem_append_right _ (List.mem_map_of_mem hq)⟩
  · exact (State.cell_armPages_of_ne ha).trans (State.cell_setReg_self s 0x000 0x060 a)
  · rw [hl]; rfl

/-- Settles O27: a refusal by the access, a reserved place, a lane register's fields, a counter's CLR,
GROUP_COMMIT.GO, and the end of an interrupt, each by its lemma. -/
theorem registerWrites : Obligations.RegisterWrites := by
  intro s a
  dsimp only
  refine ⟨fun h => ⟨fun v be hbe => ?_, fun v ht => ?_, fun v ht ho hr => ?_, fun v r hl ho hr hk => ⟨fun hv hc => ?_, ?_, ?_⟩⟩,
    fun h => ⟨?_, fun v => ⟨fun hv => ?_, fun hv hon hf hm => ?_⟩⟩⟩
  · refine ends_of_exec ?_
    rw [exec_registerWrite h, beq_false_of_ne hbe, State.regWrite_partial]
  · refine ends_of_exec ?_
    rw [exec_registerWrite h, beq_self_eq_true, State.regWrite_unmapped rfl h.1 rfl ht]
  · rw [exec_registerWrite h, beq_self_eq_true, State.regWrite_reserved rfl h.1 rfl ht ho hr]
  · have hexec := exec_registerWrite h v 0xF
    rw [beq_self_eq_true, regWrite_lane_taken rfl h.1 rfl hl ho hr hk hv] at hexec
    refine ⟨fun hz => ends_of_exec ?_, fun hz => ends_of_exec ?_⟩
    · rw [hexec, State.takeWrite_rw (slotOf_lane s _ hl) hc hz]
    · rw [hexec, State.takeWrite_rws (slotOf_lane s _ hl) hc hz]
  · rintro ⟨f, hf, hv, hacc⟩
    refine ends_of_exec ?_
    rw [exec_registerWrite h, beq_self_eq_true, regWrite_lane_refused rfl h.1 rfl hl ho hr hk hf hv hacc]
  · intro hcnt
    have hv : ∀ f ∈ r.flds, f.ok 0x80000000 = true := by simp [hcnt, Fld.ok]
    refine ends_of_exec ?_
    rw [exec_clr h, regWrite_lane_taken rfl h.1 rfl hl ho hr hk hv, State.takeWrite_counter (slotOf_lane s _ hl) hcnt (by decide)]
  · obtain ⟨t, hexec, hcnt, harm, hcell, hframe⟩ := groupCommit_arms h
    refine ⟨t, hexec, hcnt, fun q hq hc hg hk => harm q (State.mem_groupPages.2 ⟨hq, hc, hg, hk⟩), fun q _ hq => ?_,
      fun c hc => ?_, hframe⟩
    · refine hcell _ fun p hp he => hq ?_
      obtain ⟨rfl, -⟩ := addr_inj (by decide) (by decide) he
      exact (State.mem_groupPages.1 hp).2
    · refine hcell c fun p hp he => hc ?_
      exact List.mem_map.2 ⟨p, List.mem_range.2 (State.mem_groupPages.1 hp).1, he.symm⟩
  · have hexec := exec_irqEoi h v
    rw [hv, if_neg Bool.false_ne_true] at hexec
    exact ⟨_, hexec, alike_setReg_self s 0x000 0x068⟩
  · have hexec := exec_irqEoi h v
    rw [hv, if_pos rfl, State.msixSend_of_unmasked (s := s.setReg 0x000 0x068 (s.reg 0x000 0x068)) hon hf hm] at hexec
    exact ⟨_, hexec, rfl, State.cell_setReg_self s 0x000 0x068⟩

end Sys2Proof.Machine

/-! ## Reads that latch -/

namespace Sys2Proof.Machine

/-- A window that answers gives the word, and latches beside it (rule R31). -/
theorem answers_of_readRow {c : Instr} {s t : State} {v w : Word} {f : State → State} (hon : s.winOff = false)
    (hc : exec c s = .next (s.readRow v f)) (hv : v = w) (ht : f s = t) : Answers c s w t := by
  subst hv ht
  refine ends_of_exec (hc.trans ?_)
  simp [State.readRow, hon]

/-- What STAMP_SEC_LO reads and latches on a lane with a block (rule R182). -/
theorem exec_stampSecLo {s : State} {n : Fin 8} {b : Block} (hb : (s.lane n.val).blk = some b) :
    exec (.stampSecLo n) s = .next (s.readRow (BitVec.ofNat 32 (b.stamp / 10 ^ 11)) fun s =>
      (((s.setReg (lanePage n) 0x094 (BitVec.ofNat 32 b.num)).setReg (lanePage n) 0x09C
        (BitVec.ofNat 32 (b.stamp / 10 ^ 11 / 2 ^ 32))).setReg (lanePage n) 0x0A0
        (BitVec.ofNat 32 (b.stamp / 100 % 10 ^ 9))).setReg (lanePage n) 0x0A4
        (BitVec.ofNat 32 (b.stamp % 100 * 65536 / 100 + b.epoch % 65536 * 65536))) := by
  have hview : viewLane s (lanePage n) 0x098 = some (BitVec.ofNat 32 (b.stamp / 10 ^ 11)) := by
    simp [viewLane, lanePage, hb]
  change Host.Outcome.next (s.readRow ((viewLane s (lanePage n) 0x098).getD 0) _) = _
  rw [hview]
  simp only [hb]
  rfl

/-- What SCH_NEXT_SEC reads and latches for a live schedule (rule R399). -/
theorem exec_schNextSec {s : State} (hs : s.hasSched (s.rf 0x082 0x084 12 0) = true)
    (hl : (s.ent (s.rf 0x082 0x084 12 0)).st = .live) :
    exec .schNextSec s = .next (let x := s.sched (s.rf 0x082 0x084 12 0)
      s.readRow (BitVec.ofNat 32 (x.t10 x.nextK / 10 ^ 11)) fun s =>
        s.setReg 0x082 0x090 (BitVec.ofNat 32 (x.t10 x.nextK / 100 % 10 ^ 9))) := by
  change execSchNextSec s = _
  simp [execSchNextSec, viewTout, hs, hl]

/-- A read of RXDATA pops the character it answers, where the UART's use leaves it to the host (rule R513). -/
theorem answers_rxdata {s : State} {u : Fin 3} {rest : List (BitVec 8 × Bool × Bool)} (hon : s.winOff = false)
    (hu : (s.uartCfg u.val).getLsbD 6 = false) (hrx : (s.uart u.val).rx.tail = rest) :
    Answers (.rxdata u) s (s.rxWord u.val) (s.modUart u.val fun x => { x with rx := rest }) := by
  refine answers_of_readRow hon rfl rfl ?_
  rw [State.rxPop, if_neg (by rw [hu]; decide), State.modUart, State.modUart, hrx]

/-- Settles O28: each read is a row whose answer and latched words come from the state before it. -/
theorem readsThatLatch : Obligations.ReadsThatLatch := by
  intro s
  refine ⟨fun hoff n u c hc => ?_, fun hon => ⟨?_, ?_, ?_, ?_, fun n => ?_, fun n b hb => ?_, fun hs hl => ?_,
    fun hw => ⟨?_, ?_⟩, fun u hu => ⟨fun hrx => ?_, fun c pe fe rest hrx => ?_⟩⟩⟩
  · have hrow : ∃ v f, exec c s = .next (s.readRow v f) := by
      fin_cases hc <;> exact ⟨_, _, rfl⟩
    obtain ⟨v, f, hrow⟩ := hrow
    rw [hrow, State.readRow, if_pos hoff]
  · exact answers_of_readRow hon rfl rfl rfl
  · exact answers_of_readRow hon rfl rfl rfl
  · exact answers_of_readRow hon rfl rfl rfl
  · exact answers_of_readRow hon rfl rfl rfl
  · exact answers_of_readRow hon rfl rfl rfl
  · exact answers_of_readRow hon (exec_stampSecLo hb) rfl rfl
  · exact answers_of_readRow hon (exec_schNextSec hs hl) rfl rfl
  · refine answers_of_readRow hon rfl ?_ rfl
    rw [hw]
    rfl
  · refine answers_of_readRow hon rfl ?_ rfl
    rw [hw]; rfl
  · have h := answers_rxdata hon hu (congrArg List.tail hrx)
    rwa [State.rxWord, if_neg (by rw [hu]; decide), hrx] at h
  · have h := answers_rxdata hon hu (congrArg List.tail hrx)
    rwa [State.rxWord, if_neg (by rw [hu]; decide), hrx] at h

end Sys2Proof.Machine

/-! ## The exchange window -/

namespace Sys2Proof.Machine

/-- Two words side by side, as a sum. -/
theorem toNat_append_add {n m : Nat} (x : BitVec n) (y : BitVec m) : (x ++ y).toNat = x.toNat * 2 ^ m + y.toNat := by
  rw [BitVec.toNat_append, ← Nat.shiftLeft_add_eq_or_of_lt y.isLt, Nat.shiftLeft_eq]

/-! ### Staging and writing -/

theorem exec_exchangeStageWrite {s : State} (hon : s.winOff = false) (hi : Bool) (v : Word) :
    exec (.exchangeStageWrite hi v) s = .next (s.exStage hi v) := by
  change Host.Outcome.next (if s.winOff then s else s.exStage hi v) = _
  rw [hon, if_neg (by decide)]

theorem exec_exchangeWordWrite {s : State} (hon : s.winOff = false) (w : BitVec 16) (v : Word) :
    exec (.exchangeWordWrite w v) s = .next (s.exWrite w.toNat v) := by
  change Host.Outcome.next (if s.winOff then s else s.exWrite w.toNat v) = _
  rw [hon, if_neg (by decide)]

theorem State.exStage_frame (s : State) (hi : Bool) (v : Word) :
    ({ s.exStage hi v with host := { (s.exStage hi v).host with stage := s.host.stage } } : State) = s := by
  simp only [State.exStage, State.modHost]

theorem State.stage_exStage_low (s : State) (v : Word) :
    (s.exStage false v).host.stage = s.host.stage.extractLsb' 32 32 ++ v := by
  change BitVec.ofNat 64 (s.host.stage.toNat / 2 ^ 32 * 2 ^ 32 + v.toNat) = _
  refine BitVec.eq_of_toNat_eq ?_
  rw [toNat_append_add, BitVec.toNat_ofNat, BitVec.extractLsb'_toNat]
  omega

theorem State.stage_exStage_high (s : State) (v : Word) :
    (s.exStage true v).host.stage = v ++ s.host.stage.extractLsb' 0 32 := by
  change BitVec.ofNat 64 (s.host.stage.toNat % 2 ^ 32 + v.toNat * 2 ^ 32) = _
  refine BitVec.eq_of_toNat_eq ?_
  rw [toNat_append_add, BitVec.toNat_ofNat, BitVec.extractLsb'_toNat]
  omega

/-! ### Reading -/

/-- A read of dword +0 meets the word and latches its upper 40 bits (rules R53, R498). -/
theorem exec_exchangeRead_first {s : State} (hon : s.winOff = false) (w : BitVec 16) :
    exec (.exchangeRead w 0) s = .next { (s.meet 0x003 28 w.toNat).modHost fun h => { h with
      latch := some (w.toNat, BitVec.ofNat 40 ((s.ex w.toNat).toNat / 2 ^ 32)) } with
      hostRead := BitVec.ofNat 32 (s.ex w.toNat).toNat } := by
  change Host.Outcome.next (s.readRow (s.exRead w.toNat 0) fun s => s.exLatch w.toNat 0) = _
  simp [State.readRow, hon, State.exRead, State.exLatch]

/-- The reads of the dwords above the first answer what the first latched of its word (rule R498). -/
theorem exec_exchangeRead_latched {u : State} {w : BitVec 16} {l : BitVec 40} (hon : u.winOff = false)
    (hl : u.host.latch = some (w.toNat, l)) {d : Fin 4} (hd : d ≠ 0) :
    exec (.exchangeRead w d) u = .next { u with hostRead := (if d = 1 then BitVec.ofNat 32 l.toNat
      else if d = 2 then BitVec.ofNat 32 (l.toNat / 2 ^ 32 % 256) else 0) } := by
  change Host.Outcome.next (u.readRow (u.exRead w.toNat d) fun s => s.exLatch w.toNat d) = _
  have hd' : d.val ≠ 0 := fun h => hd (Fin.ext h)
  have h1 : d.val = 1 ↔ d = 1 := by rw [Fin.ext_iff]; rfl
  have h2 : d.val = 2 ↔ d = 2 := by rw [Fin.ext_iff]; rfl
  have hkeep : ({ u.host with latch := some (w.toNat, l) } : HostSt) = u.host := by rw [← hl]
  simp [State.readRow, hon, State.exRead, State.exLatch, hl, hd', h1, h2, State.modHost, hkeep]

/-- A native word of its low 64 bits and its top byte. -/
theorem ofNat_72_eq_append (lo : BitVec 64) (v : Word) : BitVec.ofNat 72 (lo.toNat + fld v 7 0 * 2 ^ 64) = v.extractLsb' 0 8 ++ lo := by
  refine BitVec.eq_of_toNat_eq ?_
  rw [toNat_append_add, BitVec.toNat_ofNat, BitVec.extractLsb'_toNat, fld]
  omega

theorem State.exWrite_eq (s : State) (w : BitVec 16) (v : Word) : s.exWrite w.toNat v =
    (s.setEx w.toNat (v.extractLsb' 0 8 ++ s.host.stage)).modHost fun h => { h with stage := 0 } := by
  rw [State.exWrite, ofNat_72_eq_append]

/-- A word written is good (rule R53). -/
theorem State.isBad_setEx_same (s : State) (a : Nat) (v : Native) : (s.setEx a v).isBad 28 (a % 0x10000) = false := by
  simp [State.isBad, State.setEx]

/-- The dwords of a native word above the first, from its upper 40 bits. -/
theorem dwords_of_upper (x : Native) :
    BitVec.ofNat 32 (BitVec.ofNat 40 (x.toNat / 2 ^ 32)).toNat = x.extractLsb' 32 32 ∧
    BitVec.ofNat 32 ((BitVec.ofNat 40 (x.toNat / 2 ^ 32)).toNat / 2 ^ 32 % 256) = (x.extractLsb' 64 8).setWidth 32 := by
  constructor <;> refine BitVec.eq_of_toNat_eq ?_ <;>
    simp only [BitVec.toNat_ofNat, BitVec.toNat_setWidth, BitVec.extractLsb'_toNat, Nat.shiftRight_eq_div_pow] <;> omega

/-- Settles O29: what a stage, the writing dword and each reading dword do, each by its lemma. -/
theorem exchangeWindow : Obligations.ExchangeWindow := by
  intro s hon
  refine ⟨fun v => ⟨_, exec_exchangeStageWrite hon false v, s.stage_exStage_low v, s.exStage_frame false v⟩,
    fun v => ⟨_, exec_exchangeStageWrite hon true v, s.stage_exStage_high v, s.exStage_frame true v⟩,
    fun w v => ⟨_, (exec_exchangeWordWrite hon w v).trans (congrArg _ (s.exWrite_eq w v)), ?_, ?_, fun a ha => ?_, ?_, ?_⟩,
    fun w hb => ⟨_, exec_exchangeRead_first hon w, ?_, fun a => ?_⟩,
    fun w hb => ⟨_, exec_exchangeRead_first hon w, ?_, ?_, fun u hu hl => ⟨⟨_, exec_exchangeRead_latched hu hl (by decide), ?_, ?_⟩,
      ⟨_, exec_exchangeRead_latched hu hl (by decide), ?_, ?_⟩, ⟨_, exec_exchangeRead_latched hu hl (by decide), ?_⟩⟩⟩⟩
  · exact State.ex_setEx_same ..
  · rfl
  · exact State.ex_setEx_ne _ _ (by rwa [Nat.mod_eq_of_lt w.isLt])
  · have h := s.isBad_setEx_same w.toNat (v.extractLsb' 0 8 ++ s.host.stage)
    rwa [Nat.mod_eq_of_lt w.isLt] at h
  · rfl
  · rfl
  · rw [State.meet_of_bad _ hb]; rfl
  · rfl
  · rw [State.meet_of_good _ hb]; rfl
  · exact (dwords_of_upper _).1
  · exact hl
  · exact (dwords_of_upper _).2
  · exact hl
  · rfl

end Sys2Proof.Machine

/-! ## Crypto requests (rules R546 to R548) -/

namespace Sys2Proof.Machine

theorem State.length_exSpan (s : State) (a n : Nat) : (s.exSpan a n).length = n := by
  rw [State.exSpan, List.length_map, List.length_range]

theorem State.assay_meetEx (s : State) (base n : Nat) : (s.meetEx base n).assay = s.assay := by
  have h := congrArg State.assay (s.rest_meetEx base n)
  exact h

theorem State.ex_modAssay (s : State) (f : AssaySt → AssaySt) (a : Nat) : (s.modAssay f).ex a = s.ex a := rfl

theorem State.ex_bump (s : State) (a : Nat) : s.bump.ex a = s.ex a := rfl

/-- A change of Assay's part of the state by what it then is. -/
theorem State.modAssay_eq {s : State} {f : AssaySt → AssaySt} {x : AssaySt} (h : f s.assay = x) :
    s.modAssay f = { s with assay := x } := by
  rw [State.modAssay, h]

/-- Where no word of exchange memory is marked, words are met without effect. -/
theorem State.meetEx_of_no_bad {s : State} (h : ∀ b, s.isBad 28 b = false) (base n : Nat) : s.meetEx base n = s :=
  State.meetEx_of_good fun _ _ => h _

/-- Bytes stored in exchange memory change its words and their marks, and nothing else. -/
theorem State.putExBytes_frame (s : State) (a i : Nat) (l : List Byte) :
    ∃ e b, s.putExBytes a i l = { s with exch := e, bad := b } := by
  induction l generalizing s i with
  | nil => exact ⟨s.exch, s.bad, rfl⟩
  | cons x l ih =>
    obtain ⟨e, b, h⟩ := ih (s.setExByte a i x) (i + 1)
    exact ⟨e, b, h⟩

theorem State.putExBytes_setEx_frame (s : State) (a i : Nat) (l : List Byte) (j k : Nat) (v w : Native) :
    ∃ e b, ((s.putExBytes a i l).setEx j v).setEx k w = { s with exch := e, bad := b } := by
  obtain ⟨e, b, h⟩ := s.putExBytes_frame a i l
  rw [h]
  exact ⟨_, _, rfl⟩

/-- An answer takes its place in the ring of answers (rule R548). -/
theorem exec_cryptoAnswer {s : State} {q : Sealed} {rest : List Sealed} (hon : s.assayServes = true)
    (hq : s.assay.queue = q :: rest) : ∃ time, let a := 0xF400 + 2 * (s.assay.ansIdx % 256)
    exec .cryptoAnswer s = .next (((((s.putExBytes q.out 0 q.result.2).setEx a
      (BitVec.ofNat 72 (q.tag + q.result.1 * 2 ^ 16 + time * 2 ^ 24))).setEx (a + 1)
      (BitVec.ofNat 72 (crc32 (q.key ++ q.inp ++ q.sig)))).modAssay fun x =>
        { x with queue := rest, ansIdx := (x.ansIdx + 1) % 256, done := (x.done + 1) % 65536 }).bump) := by
  refine ⟨s.free (if q.op = 4 then 2000 else if q.op = 5 then 4000 else if q.op = 6 then 9000 else 3 * ceilDiv q.inp.length 1024), ?_⟩
  change execCryptoAnswer s = _
  simp only [execCryptoAnswer, hq, hon, Bool.not_true, if_neg Bool.false_ne_true]

/-- Settles O35: the request is sealed as the words it meets stand, and the first sealed is answered. -/
theorem cryptoService : Obligations.CryptoService := by
  intro s hon
  refine ⟨fun hlen => ⟨ends_of_exec ?_, fun hgood c => ?_⟩, fun q rest hq => ?_⟩
  · change execCryptoRequest s = _
    have hroom : (!s.assayServes || decide (s.assay.queue.length ≥ 256)) = false := by simp [hon, hlen]
    rw [execCryptoRequest, hroom, if_neg Bool.false_ne_true]
    simp only [State.length_exSpan, Nat.add_zero]
    refine congrArg _ (State.modAssay_eq ?_)
    simp only [State.assay_meetEx]
  · simp only [State.meetEx_of_no_bad hgood]
  · obtain ⟨time, hexec⟩ := exec_cryptoAnswer hon hq
    refine ⟨_, hexec, ?_, ⟨time, ?_⟩, ?_, ?_⟩
    · rw [State.ex_bump, State.ex_modAssay, State.ex_setEx_same]
    · rw [State.ex_bump, State.ex_modAssay, State.ex_setEx_ne _ _ (by omega), State.ex_setEx_same]
    all_goals
      obtain ⟨e, b, hput⟩ := s.putExBytes_setEx_frame q.out 0 q.result.2 (0xF400 + 2 * (s.assay.ansIdx % 256))
        (0xF400 + 2 * (s.assay.ansIdx % 256) + 1) (BitVec.ofNat 72 (q.tag + q.result.1 * 2 ^ 16 + time * 2 ^ 24))
        (BitVec.ofNat 72 (crc32 (q.key ++ q.inp ++ q.sig)))
      rw [hput]
      rfl

end Sys2Proof.Machine

/-! ## Fields of a register, and what the log and the fault classes leave alone -/

namespace Sys2Proof.Machine

/-! ### Fields -/

theorem testBit_ones_shiftLeft (n lo i : Nat) :
    ((2 ^ n - 1) <<< lo).testBit i = decide (lo ≤ i ∧ i < lo + n) := by
  rw [Nat.testBit_shiftLeft, Nat.testBit_two_pow_sub_one, ← Bool.decide_and]
  exact decide_eq_decide.2 (by omega)

/-- A bit of a register after one of its fields is written. -/
theorem getLsbD_setFld (v : Word) {hi lo i : Nat} (x : Nat) (hi32 : i < 32) :
    (setFld v hi lo x).getLsbD i = if lo ≤ i ∧ i ≤ hi then x.testBit (i - lo) else v.getLsbD i := by
  have hm : (((2 ^ (hi + 1 - lo) - 1) <<< lo).testBit i) = decide (lo ≤ i ∧ i ≤ hi) := by
    rw [testBit_ones_shiftLeft]
    exact decide_eq_decide.2 (by omega)
  have hx : (((x % 2 ^ (hi + 1 - lo)) <<< lo).testBit i) = (decide (lo ≤ i ∧ i ≤ hi) && x.testBit (i - lo)) := by
    rw [Nat.testBit_shiftLeft, Nat.testBit_mod_two_pow, ← Bool.and_assoc, ← Bool.decide_and]
    exact congrArg (· && _) (decide_eq_decide.2 (by omega))
  simp only [setFld, BitVec.getLsbD_or, BitVec.getLsbD_and, BitVec.getLsbD_not, BitVec.getLsbD_ofNat, hi32, hm, hx, decide_true,
    Bool.true_and]
  split
  · next h => simp [h]
  · next h => simp [h]

theorem testBit_fld (v : Word) (hi lo i : Nat) : (fld v hi lo).testBit i = (decide (i < hi + 1 - lo) && v.getLsbD (lo + i)) := by
  rw [fld, Nat.testBit_mod_two_pow, Nat.testBit_shiftRight]
  rfl

/-- A field reads what was written there, cut to its width. -/
theorem fld_setFld_same (v : Word) {hi lo : Nat} (x : Nat) (h : hi < 32) : fld (setFld v hi lo x) hi lo = x % 2 ^ (hi + 1 - lo) := by
  refine Nat.eq_of_testBit_eq fun i => ?_
  rw [testBit_fld, Nat.testBit_mod_two_pow]
  by_cases hi' : i < hi + 1 - lo
  · rw [getLsbD_setFld v x (by omega), if_pos (by omega), Nat.add_sub_cancel_left]
  · simp [hi']

/-- Another field reads as before. -/
theorem fld_setFld_of_disjoint (v : Word) {hi lo hi' lo' : Nat} (x : Nat) (h : hi' < 32) (hd : hi' < lo ∨ hi < lo') :
    fld (setFld v hi lo x) hi' lo' = fld v hi' lo' := by
  refine Nat.eq_of_testBit_eq fun i => ?_
  rw [testBit_fld, testBit_fld]
  by_cases hi' : i < hi' + 1 - lo'
  · rw [getLsbD_setFld v x (by omega), if_neg (by omega)]
  · simp [hi']

/-- An event bit reads 1 once it is set. -/
theorem getLsbD_or_two_pow (v : Word) {b : Nat} (hb : b < 32) : (v ||| BitVec.ofNat 32 (2 ^ b)).getLsbD b = true := by
  rw [BitVec.getLsbD_or, BitVec.getLsbD_ofNat, Nat.testBit_two_pow_self]
  simp [hb]

/-- Setting an event bit leaves the bits that are set. -/
theorem getLsbD_or_of_set {v w : Word} {b : Nat} (h : v.getLsbD b = true) : (v ||| w).getLsbD b = true := by
  simp [h]

/-! ### Registers of other pages -/

theorem addr_ne_of_page {a p o : Nat} (ho : o < 0x1000) (h : a / 0x1000 ≠ p) : a ≠ addr p o := by
  rintro rfl
  exact h (addr_div ho)

theorem State.cell_setReg_of_page {s : State} {a p o : Nat} {v : Word} (ho : o < 0x1000) (h : a / 0x1000 ≠ p) :
    (s.setReg p o v).cell a = s.cell a := by
  rw [State.cell_setReg, if_neg (addr_ne_of_page ho h)]

theorem State.cell_setRf_of_page {s : State} {a p o hi lo x : Nat} (ho : o < 0x1000) (h : a / 0x1000 ≠ p) :
    (s.setRf p o hi lo x).cell a = s.cell a := by
  rw [State.cell_setRf, if_neg (addr_ne_of_page ho h)]

theorem State.cell_count_of_page {s : State} {a p o : Nat} (ho : o < 0x1000) (h : a / 0x1000 ≠ p) :
    (s.count p o).cell a = s.cell a := by
  rw [State.cell_count, if_neg (addr_ne_of_page ho h)]

theorem State.cell_raise_of_page {s : State} {a p bit : Nat} (h : a / 0x1000 ≠ p) : (s.raise p bit).cell a = s.cell a := by
  rw [State.cell_raise, if_neg (addr_ne_of_page (by decide) h)]

/-- An event raised on a page sets its bit there. -/
theorem State.irq_raise_same (s : State) (p : Nat) {bit : Nat} (hb : bit < 32) : ((s.raise p bit).reg p 0x014).getLsbD bit = true := by
  rw [State.reg_cell, State.cell_raise, if_pos rfl]
  exact getLsbD_or_two_pow _ hb

/-! ### The log (rules R530, R532) -/

/-- The log's own part of the state set. -/
def State.setLog (s : State) (l : LogSt) : State := { s with log := l }

@[simp] theorem State.cell_setLog (s : State) (l : LogSt) (c : Nat) : (s.setLog l).cell c = s.cell c := by rw [State.setLog]; rfl
@[simp] theorem State.setLog_log (s : State) (l : LogSt) : (s.setLog l).log = l := by rw [State.setLog]
@[simp] theorem State.setLog_fault (s : State) (l : LogSt) : (s.setLog l).fault = s.fault := by rw [State.setLog]

section log

variable (s : State) (src sev code a : Nat) (w : Word)

/-- The log's part with a record written (rule R530). -/
def State.logTaken : LogSt :=
  let lost := decide (s.log.next ≥ s.log.mirrored + 4096)
  { s.log with
    ring := Tab.set (fun _ => 0) s.log.ring (s.log.next % 4096) (s.logRecord src sev code a w), next := s.log.next + 1,
    mirrored := if lost then s.log.mirrored + 1 else s.log.mirrored,
    times := (if lost then s.log.times.drop 1 else s.log.times) ++ [s.el] }

/-- A record written: the log's part, and the events NEW and LOST with their count on its page. -/
theorem State.logPut_eq : s.logPut src sev code a w =
    (let s1 := s.setLog (s.logTaken src sev code a w)
     let s2 := if sev ≥ s1.rf 0x0C2 0x044 2 0 then s1.raise 0x0C2 16 else s1
     if decide (s.log.next ≥ s.log.mirrored + 4096) then (s2.count 0x0C2 0x068).raise 0x0C2 17 else s2) := by
  rw [State.logPut, State.setLog, State.logTaken]

theorem State.cell_logPut {s : State} {c : Nat} (h : c / 0x1000 ≠ 0x0C2) : (s.logPut src sev code a w).cell c = s.cell c := by
  rw [State.logPut_eq]
  dsimp only
  split <;> split <;>
    simp only [State.cell_raise_of_page h, State.cell_count_of_page (show 0x068 < 0x1000 by decide) h, State.cell_setLog]

@[simp] theorem State.logPut_next : (s.logPut src sev code a w).log.next = s.log.next + 1 := by
  rw [State.logPut_eq]
  dsimp only
  split <;> split <;> simp [State.count, State.logTaken]

@[simp] theorem State.logPut_fault : (s.logPut src sev code a w).fault = s.fault := by
  rw [State.logPut_eq]
  dsimp only
  split <;> split <;> simp [State.count]

theorem State.cell_logAdd {s : State} {c : Nat} (h : c / 0x1000 ≠ 0x0C2) : (s.logAdd src sev code a w).cell c = s.cell c := by
  unfold State.logAdd
  dsimp only
  split <;> simp only [State.cell_logPut _ _ _ _ _ h]

theorem State.logAdd_next_gt : s.log.next < (s.logAdd src sev code a w).log.next := by
  unfold State.logAdd
  dsimp only
  split <;> simp only [State.logPut_next] <;> omega

@[simp] theorem State.logAdd_fault : (s.logAdd src sev code a w).fault = s.fault := by
  unfold State.logAdd
  dsimp only
  split <;> simp only [State.logPut_fault]

theorem State.cell_logOwn {s : State} {c : Nat} (h : c / 0x1000 ≠ 0x0C2) : (s.logOwn code a w).cell c = s.cell c := by
  rw [State.logOwn, State.cell_bump, State.cell_bump, State.cell_logAdd _ _ _ _ _ h]

theorem State.logOwn_next_gt : s.log.next < (s.logOwn code a w).log.next := by
  rw [State.logOwn, State.bump_log, State.bump_log]
  exact s.logAdd_next_gt ..

@[simp] theorem State.logOwn_fault : (s.logOwn code a w).fault = s.fault := by
  rw [State.logOwn, State.bump_fault, State.bump_fault, State.logAdd_fault]

end log

/-! ### The quench line and the fault classes (rules R570, R571) -/

/-- The pages a raised class writes: DEV for the service state, LOG and FAULT. -/
def faultPages : List Nat := [0x000, 0x0C2, 0x0C4]

theorem not_mem_faultPages {p : Nat} : p ∉ faultPages ↔ p ≠ 0x000 ∧ p ≠ 0x0C2 ∧ p ≠ 0x0C4 := by
  simp [faultPages]

/-- The fault unit's part of the state set. -/
def State.setFault (s : State) (f : FaultSt) : State := { s with fault := f }

@[simp] theorem State.cell_setFault (s : State) (f : FaultSt) (c : Nat) : (s.setFault f).cell c = s.cell c := by rw [State.setFault]; rfl
@[simp] theorem State.setFault_fault (s : State) (f : FaultSt) : (s.setFault f).fault = f := by rw [State.setFault]
@[simp] theorem State.setFault_log (s : State) (f : FaultSt) : (s.setFault f).log = s.log := by rw [State.setFault]

section fault

variable (s : State) (cls unit : Nat)

/-- The registers that show a quench: its cause, heat and time (rule R583). -/
def State.showCause : State :=
  (((s.setReg 0x0C4 0x040 (BitVec.ofNat 32 (cls + unit % 256 * 16 + min 0xFFFF (s.rf 0x0C4 0x040 31 16 + 1) * 65536))).setReg
    0x0C4 0x044 (BitVec.ofNat 32 s.heat)).setReg 0x0C4 0x048 (BitVec.ofNat 32 (secOf s.tb.now))).setReg
    0x0C4 0x04C (BitVec.ofNat 32 (nsOf s.tb.now))

/-- The fault unit's part once the line is asserted. -/
def State.quenching : FaultSt := { s.fault with
  phase := .quenched, qBoundary := true, tornHeat := s.heat, recReq := false,
  svcBefore := if s.fault.phase = QPhase.run then s.svc else s.fault.svcBefore }

/-- The line asserted: the cause shown, the fault unit quenched, the service state 4, the log told, and an event more where no class
stands. -/
theorem State.assertQuench_eq : s.assertQuench cls unit =
    (let t := ((((s.showCause cls unit).setFault s.quenching).raise 0x0C4 16).setSvc 4).logOwn 0x20 cls 0
     if t.fault.raised.isEmpty then t.raise 0x0C4 17 else t) := by
  rw [State.assertQuench, State.setFault, State.quenching, State.showCause]
  rfl

theorem State.cell_showCause {s : State} {c : Nat} (h : c / 0x1000 ≠ 0x0C4) : (s.showCause cls unit).cell c = s.cell c := by
  have keep : ∀ {t : State} {o : Nat} {v : Word}, o < 0x1000 → (t.setReg 0x0C4 o v).cell c = t.cell c :=
    fun ho => State.cell_setReg_of_page ho h
  simp only [State.showCause, keep (show 0x040 < 0x1000 by decide), keep (show 0x044 < 0x1000 by decide),
    keep (show 0x048 < 0x1000 by decide), keep (show 0x04C < 0x1000 by decide)]

theorem State.cell_assertQuench {s : State} {c : Nat} (h : c / 0x1000 ∉ faultPages) : (s.assertQuench cls unit).cell c = s.cell c := by
  obtain ⟨hdev, hlog, hflt⟩ := not_mem_faultPages.1 h
  rw [State.assertQuench_eq]
  dsimp only
  split <;> simp only [State.cell_raise_of_page hflt, State.cell_logOwn _ _ _ hlog, State.setSvc,
    State.cell_setRf_of_page (show 0x054 < 0x1000 by decide) hdev, State.cell_setFault, State.cell_showCause _ _ hflt]

@[simp] theorem State.assertQuench_raised : (s.assertQuench cls unit).fault.raised = s.fault.raised := by
  rw [State.assertQuench_eq]
  dsimp only
  split <;> simp [State.setSvc, State.setRf, State.quenching]

theorem State.assertQuench_next_gt : s.log.next < (s.assertQuench cls unit).log.next := by
  have hlog := State.logOwn_next_gt ((((s.showCause cls unit).setFault s.quenching).raise 0x0C4 16).setSvc 4) 0x20 cls 0
  have hsame : ((((s.showCause cls unit).setFault s.quenching).raise 0x0C4 16).setSvc 4).log = s.log := by
    simp [State.setSvc, State.setRf, State.showCause]
  rw [hsame] at hlog
  rw [State.assertQuench_eq]
  dsimp only
  split
  · rwa [State.raise_log]
  · exact hlog

/-- The fault unit's part with a class noted where it is one that lasts. -/
def State.noteClass : FaultSt :=
  if cls = clsCLOCK ∨ cls = clsSUPPLY ∨ cls = clsTHERMAL then
    (if s.fault.raised.contains (cls, unit) then s.fault else { s.fault with raised := s.fault.raised ++ [(cls, unit)] })
  else s.fault

theorem State.mem_raised_noteClass (h : cls = clsCLOCK ∨ cls = clsSUPPLY ∨ cls = clsTHERMAL) :
    (cls, unit) ∈ (s.noteClass cls unit).raised := by
  rw [State.noteClass, if_pos h]
  split
  · next hin => exact List.contains_iff_mem.1 hin
  · exact List.mem_append_right _ List.mem_cons_self

/-- A class raised: it is noted, and the line is asserted unless it stands already, or for Assay's class. -/
theorem State.raiseClass_cases : s.raiseClass cls unit = s.setFault (s.noteClass cls unit) ∨
    s.raiseClass cls unit = (s.setFault (s.noteClass cls unit)).assertQuench cls unit := by
  have hnote : (if cls = clsCLOCK ∨ cls = clsSUPPLY ∨ cls = clsTHERMAL then
      (if s.fault.raised.contains (cls, unit) then s
       else { s with fault := { s.fault with raised := s.fault.raised ++ [(cls, unit)] } })
    else s) = s.setFault (s.noteClass cls unit) := by
    rw [State.setFault, State.noteClass]
    split
    · split <;> rfl
    · rfl
  rw [State.raiseClass, hnote]
  split
  · exact .inl rfl
  · split
    · exact .inl rfl
    · exact .inr rfl

theorem State.cell_raiseClass {s : State} {c : Nat} (h : c / 0x1000 ∉ faultPages) : (s.raiseClass cls unit).cell c = s.cell c := by
  rcases s.raiseClass_cases cls unit with hr | hr <;> rw [hr]
  · rw [State.cell_setFault]
  · rw [State.cell_assertQuench cls unit h, State.cell_setFault]

theorem State.raiseClass_next_ge : s.log.next ≤ (s.raiseClass cls unit).log.next := by
  rcases s.raiseClass_cases cls unit with hr | hr <;> rw [hr]
  · rw [State.setFault_log]
  · exact (State.assertQuench_next_gt (s.setFault (s.noteClass cls unit)) cls unit).le

/-- A class that lasts stands after it is raised (rule R571). -/
theorem State.mem_raised_raiseClass (h : cls = clsCLOCK ∨ cls = clsSUPPLY ∨ cls = clsTHERMAL) :
    (cls, unit) ∈ (s.raiseClass cls unit).fault.raised := by
  have hnote := s.mem_raised_noteClass cls unit h
  rcases s.raiseClass_cases cls unit with hr | hr <;> rw [hr]
  · rwa [State.setFault_fault]
  · rwa [State.assertQuench_raised, State.setFault_fault]

end fault

end Sys2Proof.Machine

/-! ## Assay's island and its voltage loop (rules R28, R41 to R47, R523) -/

namespace Sys2Proof.Machine

/-! ### Changes of Assay's own part -/

@[simp] theorem State.modAssay_assay (s : State) (f : AssaySt → AssaySt) : (s.modAssay f).assay = f s.assay := by rw [State.modAssay]
@[simp] theorem State.modAssay_fault (s : State) (f : AssaySt → AssaySt) : (s.modAssay f).fault = s.fault := by rw [State.modAssay]
@[simp] theorem State.modAssay_log (s : State) (f : AssaySt → AssaySt) : (s.modAssay f).log = s.log := by rw [State.modAssay]
@[simp] theorem State.modAssay_regs (s : State) (f : AssaySt → AssaySt) : (s.modAssay f).regs = s.regs := by rw [State.modAssay]
@[simp] theorem State.modAssay_outbox (s : State) (f : AssaySt → AssaySt) : (s.modAssay f).outbox = s.outbox := by rw [State.modAssay]
@[simp] theorem State.cell_modAssay (s : State) (f : AssaySt → AssaySt) (a : Nat) : (s.modAssay f).cell a = s.cell a := by
  rw [State.modAssay]; rfl

@[simp] theorem State.modAssay_cores (s : State) (f : AssaySt → AssaySt) : (s.modAssay f).cores = s.cores := by rw [State.modAssay]
theorem State.core_modAssay (s : State) (f : AssaySt → AssaySt) (k : Nat) : (s.modAssay f).core k = s.core k := by
  rw [State.core, State.modAssay_cores, State.core]

@[simp] theorem State.modCore_assay (s : State) (k : Nat) (f : Core → Core) : (s.modCore k f).assay = s.assay := rfl
@[simp] theorem State.modCore_fault (s : State) (k : Nat) (f : Core → Core) : (s.modCore k f).fault = s.fault := rfl
@[simp] theorem State.modCore_log (s : State) (k : Nat) (f : Core → Core) : (s.modCore k f).log = s.log := rfl
theorem State.cell_modCore (s : State) (k : Nat) (f : Core → Core) (a : Nat) : (s.modCore k f).cell a = s.cell a := rfl

theorem State.core_eq_of_cores {s t : State} (h : t.cores = s.cores) (k : Nat) : t.core k = s.core k := by
  unfold State.core
  rw [h]

/-! ### The watchdog's reset of the island -/

/-- The update unit's part of the state set. -/
def State.setUpd (s : State) (u : Upd) : State := { s with upd := u }

@[simp] theorem State.setUpd_cores (s : State) (u : Upd) : (s.setUpd u).cores = s.cores := by rw [State.setUpd]
@[simp] theorem State.setUpd_assay (s : State) (u : Upd) : (s.setUpd u).assay = s.assay := by rw [State.setUpd]
@[simp] theorem State.setUpd_fault (s : State) (u : Upd) : (s.setUpd u).fault = s.fault := by rw [State.setUpd]
@[simp] theorem State.setUpd_log (s : State) (u : Upd) : (s.setUpd u).log = s.log := by rw [State.setUpd]
@[simp] theorem State.cell_setUpd (s : State) (u : Upd) (a : Nat) : (s.setUpd u).cell a = s.cell a := by rw [State.setUpd]; rfl

/-- The island back from its reset, which is counted. -/
def State.islandBack (s : State) : State :=
  let s1 := ((s.modAssay fun a => { a with inWdog := false }).restartM).count 0x0C0 0x060
  s1.setUpd { s1.upd with trialEl := s1.upd.trialEl.map fun _ => s.el }

theorem exec_watchdogReset {s : State} (hon : s.assayOn = true) : exec .watchdogReset s =
    .next ((s.modCore 8 fun c => { st := .stopped, iram := c.iram, x := c.x, y := c.y }).modAssay fun a => { a with inWdog := true }) := by
  change execWatchdogReset s = _
  rw [execWatchdogReset, hon, if_neg (by decide)]

theorem exec_assayIslandResetEnd {s : State} (hr : s.inReset = false) (hw : s.assay.inWdog = true) :
    exec .assayIslandResetEnd s = .next ((s.islandBack.raise 0x0C0 17).logOwn 0x1A (s.islandBack.rf 0x0C0 0x060 15 0) 0) := by
  change execAssayIslandResetEnd s = _
  simp only [execAssayIslandResetEnd, hr, hw, State.islandBack, State.setUpd, Bool.not_true, Bool.or_self, if_neg Bool.false_ne_true]

/-- A watchdog reset (rule R523). -/
theorem watchdogReset_spec {s : State} (hon : s.assayOn = true) : ∃ t, exec .watchdogReset s = .next t ∧
    t.assay = { s.assay with inWdog := true } ∧ (t.core 8).st = .stopped ∧ (∀ k, k ≠ 8 → t.core k = s.core k) ∧
    t.fault = s.fault ∧ t.regs = s.regs := by
  refine ⟨_, exec_watchdogReset hon, ?_, ?_, fun k hk => ?_, ?_, ?_⟩
  · rw [State.modAssay_assay, State.modCore_assay]
  · rw [State.core_modAssay, State.core_modCore_same]
  · rw [State.core_modAssay, State.core_modCore_ne _ _ hk]
  · rw [State.modAssay_fault, State.modCore_fault]
  · rw [State.modAssay_regs, State.modCore_regs]

/-- The end of a watchdog reset (rule R523). -/
theorem assayIslandResetEnd_spec {s : State} (hr : s.inReset = false) (hw : s.assay.inWdog = true) :
    ∃ t, exec .assayIslandResetEnd s = .next t ∧ t.assay = { s.assay with inWdog := false } ∧ (t.core 8).st = .run ∧
      (t.core 8).pc = 0 ∧ t.reg 0x0C0 0x060 = cntUp (s.reg 0x0C0 0x060) ∧ (t.reg 0x0C0 0x014).getLsbD 17 = true ∧
      t.fault = s.fault ∧ t.log.next ≠ s.log.next := by
  have hcores : s.islandBack.cores = s.restartM.cores := by
    rw [State.islandBack, State.setUpd_cores, State.count, State.setReg_cores]; rfl
  refine ⟨_, exec_assayIslandResetEnd hr hw, ?_, ?_, ?_, ?_, ?_, ?_, ?_⟩
  · simp [State.islandBack, State.count, State.restartM]
  · rw [State.core_eq_of_cores ((State.logOwn_cores ..).trans ((State.raise_cores ..).trans hcores)), State.restartM, State.core_modCore_same]
  · rw [State.core_eq_of_cores ((State.logOwn_cores ..).trans ((State.raise_cores ..).trans hcores)), State.restartM, State.core_modCore_same]
  · rw [State.reg_cell, State.cell_logOwn _ _ _ (by decide), State.cell_raise, if_neg (by decide), State.islandBack,
      State.cell_setUpd, State.cell_count, if_pos rfl, State.restartM, State.cell_modCore, State.cell_modAssay, State.reg_cell]
  · rw [State.reg_cell, State.cell_logOwn _ _ _ (by decide)]
    exact State.irq_raise_same _ _ (by decide)
  · simp [State.islandBack, State.count, State.restartM]
  · have hgt := State.logOwn_next_gt (s.islandBack.raise 0x0C0 17) 0x1A (s.islandBack.rf 0x0C0 0x060 15 0) 0
    have hlog : (s.islandBack.raise 0x0C0 17).log = s.log := by simp [State.islandBack, State.count, State.restartM]
    rw [hlog] at hgt
    exact hgt.ne'

/-! ### Stretching and the loop's start (rules R41, R42) -/

theorem exec_loopEnable {s : State} (hon : s.assayServes = true) (hsvc : s.svc = 3) :
    exec .loopEnable s = .next { s with assay := { s.assay with loopEn := true } } := by
  change execLoopEnable s = _
  rw [execLoopEnable, hon, hsvc, if_pos (by decide), State.modAssay]

@[simp] theorem State.temper_modTemper_same (s : State) (i : Nat) (f : Temper → Temper) : (s.modTemper i f).temper i = f (s.temper i) := by
  rw [State.modTemper, State.temper, State.modAssay_assay, Tab.get_set_same, State.temper]

theorem State.temper_modTemper_ne (s : State) {i j : Nat} (f : Temper → Temper) (h : j ≠ i) :
    (s.modTemper i f).temper j = s.temper j := by
  rw [State.modTemper, State.temper, State.modAssay_assay, Tab.get_set_ne _ _ _ h, State.temper]

@[simp] theorem State.temper_setRf (s : State) (p o hi lo x i : Nat) : (s.setRf p o hi lo x).temper i = s.temper i := by
  rw [State.temper, State.setRf_assay, State.temper]

theorem State.cell_modTemper (s : State) (i : Nat) (f : Temper → Temper) (a : Nat) : (s.modTemper i f).cell a = s.cell a :=
  State.cell_modAssay ..

theorem exec_stretch {s : State} (hr : s.inReset = false) (i : Fin 17) : exec (.stretch i) s =
    .next ((s.modTemper i.val fun t => { t with now := true, any := true }).setRf (temperReg i.val).1 (temperReg i.val).2 26 26 1) := by
  change execStretch i s = _
  rw [execStretch, hr, if_neg Bool.false_ne_true]

theorem exec_stretchEnd {s : State} (hr : s.inReset = false) (i : Fin 17) :
    exec (.stretchEnd i) s = .next (s.modTemper i.val fun t => { t with now := false }) := by
  change execStretchEnd i s = _
  rw [execStretchEnd, hr, if_neg Bool.false_ne_true]

/-- A stretch sets the island's sticky bit and touches no other island's monitor nor register (rule R41). -/
theorem stretch_spec {s : State} (hr : s.inReset = false) (i : Fin 17) : let r := temperReg i.val
    ∃ t, exec (.stretch i) s = .next t ∧ t.temper i.val = { s.temper i.val with now := true, any := true } ∧
      (∀ j, j ≠ i.val → t.temper j = s.temper j) ∧ t.reg r.1 r.2 = setFld (s.reg r.1 r.2) 26 26 1 ∧ RegsKept [addr r.1 r.2] s t := by
  refine ⟨_, exec_stretch hr i, ?_, fun j hj => ?_, ?_, fun a ha => ?_⟩
  · rw [State.temper_setRf, State.temper_modTemper_same]
  · rw [State.temper_setRf, State.temper_modTemper_ne _ _ hj]
  · rw [State.reg_cell, State.cell_setRf, if_pos rfl, State.cell_modTemper, State.reg_cell]
  · rw [State.cell_setRf, if_neg (by simpa using ha), State.cell_modTemper]

/-! ### The voltage loop (rules R43 to R45) -/

/-- Two islands have their registers apart. -/
theorem temperReg_addr_inj {i j : Nat} (hi : i < 17) (hj : j < 17)
    (h : addr (temperReg i).1 (temperReg i).2 = addr (temperReg j).1 (temperReg j).2) : i = j := by
  unfold temperReg addr at h
  split at h <;> split at h <;> omega

/-- An island's slack and request shown in its register. -/
def State.showTemper (s : State) (i : Nat) : State :=
  (s.setRf (temperReg i).1 (temperReg i).2 15 8 (min ((s.temper i).min.getD 0) 255)).setRf (temperReg i).1 (temperReg i).2 25 24
    (vreqCode (s.temper i).request)

theorem State.showTemper_frame (s : State) (l : List Nat) : ∃ r, l.foldl State.showTemper s = { s with regs := r } := by
  induction l generalizing s with
  | nil => exact ⟨s.regs, rfl⟩
  | cons i l ih =>
    obtain ⟨r, hr⟩ := ih (s.showTemper i)
    exact ⟨r, hr⟩

theorem State.cell_showTemper_ne (s : State) {i a : Nat} (h : a ≠ addr (temperReg i).1 (temperReg i).2) :
    (s.showTemper i).cell a = s.cell a := by
  rw [State.showTemper, State.cell_setRf, if_neg h, State.cell_setRf, if_neg h]

theorem vreqCode_lt (x : Int) : vreqCode x < 4 := by
  unfold vreqCode
  split_ifs <;> decide

theorem State.rf_showTemper_same (s : State) (i : Nat) :
    (s.showTemper i).rf (temperReg i).1 (temperReg i).2 15 8 = min ((s.temper i).min.getD 0) 255 ∧
    (s.showTemper i).rf (temperReg i).1 (temperReg i).2 25 24 = vreqCode (s.temper i).request := by
  have hreg : (s.showTemper i).reg (temperReg i).1 (temperReg i).2 = setFld (setFld (s.reg (temperReg i).1 (temperReg i).2) 15 8
      (min ((s.temper i).min.getD 0) 255)) 25 24 (vreqCode (s.temper i).request) := by
    rw [State.reg_cell, State.showTemper, State.cell_setRf, if_pos rfl, State.cell_setRf, if_pos rfl, State.reg_cell]
  rw [State.rf, State.rf, hreg]
  constructor
  · rw [fld_setFld_of_disjoint _ _ (by decide) (by decide), fld_setFld_same _ _ (by decide)]
    omega
  · rw [fld_setFld_same _ _ (by decide)]
    exact Nat.mod_eq_of_lt (vreqCode_lt _)

/-- All islands shown: each register reads its own island's slack and request. -/
theorem State.rf_showTempers (s : State) {l : List Nat} (hnd : l.Nodup) (hlt : ∀ j ∈ l, j < 17) {i : Nat} (hi : i ∈ l) :
    (l.foldl State.showTemper s).rf (temperReg i).1 (temperReg i).2 15 8 = min ((s.temper i).min.getD 0) 255 ∧
    (l.foldl State.showTemper s).rf (temperReg i).1 (temperReg i).2 25 24 = vreqCode (s.temper i).request := by
  have keep : ∀ (l : List Nat) (s : State), i ∉ l → (∀ j ∈ l, j < 17) → i < 17 →
      (l.foldl State.showTemper s).cell (addr (temperReg i).1 (temperReg i).2) = s.cell (addr (temperReg i).1 (temperReg i).2) := by
    intro l s hni hlt hi17
    refine List.foldlRecOn (motive := fun t : State => t.cell _ = s.cell _) l _ rfl fun t ht j hj => ?_
    rw [State.cell_showTemper_ne, ht]
    exact fun h => hni (temperReg_addr_inj hi17 (hlt j hj) h ▸ hj)
  induction l generalizing s with
  | nil => exact absurd hi List.not_mem_nil
  | cons j l ih =>
    obtain ⟨hj, hnd⟩ := List.nodup_cons.1 hnd
    rcases List.mem_cons.1 hi with rfl | hil
    · rw [List.foldl_cons, State.rf, State.rf, State.reg_cell, keep l _ hj (fun k hk => hlt k (List.mem_cons_of_mem _ hk))
        (hlt i List.mem_cons_self)]
      exact s.rf_showTemper_same i
    · have hstep := ih (s := s.showTemper j) hnd (fun k hk => hlt k (List.mem_cons_of_mem _ hk)) hil
      rw [List.foldl_cons]
      exact hstep

end Sys2Proof.Machine

namespace Sys2Proof.Machine

/-- The setpoint's move that the islands' requests ask for (rule R44). -/
def stepFor (reqs : List Int) (down : Nat) : Int :=
  if (10 : Int) ∈ reqs then 10 else if (5 : Int) ∈ reqs then 5
  else if (∀ r ∈ reqs, r = (-5 : Int)) ∧ 3 ≤ down then -5 else 0

/-- The windows in a row that asked for a fall, after one more (rule R44). -/
def downAfter (reqs : List Int) (down : Nat) : Nat :=
  if ¬ ((10 : Int) ∈ reqs ∨ (5 : Int) ∈ reqs) ∧ (∀ r ∈ reqs, r = (-5 : Int)) ∧ down < 3 then down + 1 else 0

/-- The count of windows that ask for a fall gives the move and the next count, whatever is asked. -/
theorem move_of_requests {A B C : Prop} [Decidable A] [Decidable B] [Decidable C] (n : Nat) :
    let dn := if decide A || decide B || !decide C then 0 else n + 1
    (if decide A = true then (10 : Int) else if decide B = true then 5 else if dn ≥ 4 then -5 else 0) =
      (if A then 10 else if B then 5 else if C ∧ 3 ≤ n then -5 else 0) ∧
    (if dn ≥ 4 then 0 else dn) = (if ¬ (A ∨ B) ∧ C ∧ n < 3 then n + 1 else 0) := by
  by_cases a : A
  · simp [a]
  by_cases b : B
  · simp [a, b]
  by_cases c : C
  · by_cases d : 3 ≤ n
    · simp [a, b, c, d]
    · simp [a, b, c, d, Nat.lt_of_not_le d]
  · simp [a, b, c]

theorem State.setpoint_of_off {s : State} (h : s.assay.loopEn = false ∨ s.assayHalted = true) (reqs : List Int) :
    s.setpoint reqs = s := by
  rw [State.setpoint, if_pos]
  rcases h with h | h <;> simp [h]

theorem State.setpoint_of_on {s : State} (hl : s.assay.loopEn = true) (hh : s.assayHalted = false) {reqs : List Int}
    (hne : reqs ≠ []) : s.setpoint reqs =
    (let s1 := s.modAssay fun a => { a with down := downAfter reqs s.assay.down }
     let mv := (clampInt s.floorMv 860 ((s.assay.setMv : Int) + stepFor reqs s.assay.down)).toNat
     if mv = s.assay.setMv then s1 else s1.avsSend mv) := by
  have h10 : (reqs.any fun x => x == 10) = decide ((10 : Int) ∈ reqs) := by
    rw [Bool.eq_iff_iff, List.any_eq_true]; simp
  have h5 : (reqs.any fun x => x == 5) = decide ((5 : Int) ∈ reqs) := by
    rw [Bool.eq_iff_iff, List.any_eq_true]; simp
  have hdn : (!reqs.isEmpty && reqs.all fun x => x == -5) = decide (∀ r ∈ reqs, r = (-5 : Int)) := by
    rw [Bool.eq_iff_iff, Bool.and_eq_true, List.all_eq_true]; simp [hne]
  rw [State.setpoint, hl, hh, if_neg (by decide), h10, h5, hdn]
  obtain ⟨hstep, hdown⟩ := move_of_requests (A := (10 : Int) ∈ reqs) (B := (5 : Int) ∈ reqs) (C := ∀ r ∈ reqs, r = (-5 : Int))
    s.assay.down
  dsimp only at hstep hdown ⊢
  rw [hstep, hdown]
  rfl

/-- What a window's end leaves before the setpoint moves: the islands' requests shown, their monitors started anew. -/
def State.windowEnded (s : State) : State :=
  ((List.range 17).foldl State.showTemper s).modAssay fun a => { a with
    winHeat := s.heat, temper := a.temper.map fun e => (e.1, { e.2 with min := none, any := e.2.now }) }

theorem exec_temperWindowEnd_nil {s : State} (hr : s.inReset = false) (hh : s.heat % 16 = 0) (hw : s.heat ≠ s.assay.winHeat) :
    exec (.temperWindowEnd []) s = .next (if s.windowEnded.assayOn
      then s.windowEnded.setpoint ((List.range 34).map fun i => (s.temper i).request) else s.windowEnded) := by
  change execTemperWindowEnd [] s = _
  have hgo : (s.inReset || s.heat % 16 != 0 || s.heat == s.assay.winHeat) = false := by simp [hr, hh, hw]
  rw [execTemperWindowEnd, hgo, if_neg Bool.false_ne_true]
  rfl

/-- What a window's end leaves alone. -/
theorem State.windowEnded_frame (s : State) : ∃ r, s.windowEnded = { s with regs := r, assay := { s.assay with
    winHeat := s.heat, temper := s.assay.temper.map fun e => (e.1, { e.2 with min := none, any := e.2.now }) } } := by
  obtain ⟨r, hr⟩ := s.showTemper_frame (List.range 17)
  refine ⟨r, ?_⟩
  rw [State.windowEnded, hr, State.modAssay]

theorem State.windowEnded_shows (s : State) (i : Fin 17) :
    s.windowEnded.rf (temperReg i.val).1 (temperReg i.val).2 15 8 = min ((s.temper i.val).min.getD 0) 255 ∧
    s.windowEnded.rf (temperReg i.val).1 (temperReg i.val).2 25 24 = vreqCode (s.temper i.val).request := by
  have hshow := s.rf_showTempers (l := List.range 17) List.nodup_range (fun _ hj => List.mem_range.1 hj) (List.mem_range.2 i.isLt)
  simp only [State.rf, State.reg_cell] at hshow ⊢
  rwa [State.windowEnded, State.cell_modAssay]

theorem State.cell_avsSend (s : State) (mv a : Nat) : (s.avsSend mv).cell a = s.cell a := by
  rw [State.avsSend, State.cell_emit, State.cell_modAssay]

theorem State.avsSend_outbox (s : State) (mv : Nat) : (s.avsSend mv).outbox = .avs mv :: s.outbox := by
  rw [State.avsSend, State.emit_outbox, State.modAssay_outbox]

/-- The setpoint's move writes no register, and leaves the window's heat. -/
theorem State.setpoint_keeps (s : State) {reqs : List Int} (hne : reqs ≠ []) :
    (∀ a, (s.setpoint reqs).cell a = s.cell a) ∧ (s.setpoint reqs).assay.winHeat = s.assay.winHeat := by
  by_cases hl : s.assay.loopEn = true ∧ s.assayHalted = false
  · rw [State.setpoint_of_on hl.1 hl.2 hne]
    dsimp only
    split
    · exact ⟨fun a => State.cell_modAssay .., by rw [State.modAssay_assay]⟩
    · exact ⟨fun a => by rw [State.cell_avsSend, State.cell_modAssay], by rw [State.avsSend, State.emit_assay]; simp⟩
  · rw [State.setpoint_of_off]
    · exact ⟨fun _ => rfl, rfl⟩
    · rcases hb : s.assay.loopEn
      · exact .inl rfl
      · exact .inr (by simpa [hb] using hl)

/-- What the setpoint's move leaves while the loop is on. -/
theorem State.setpoint_spec {s : State} (hl : s.assay.loopEn = true) (hh : s.assayHalted = false) {reqs : List Int} (hne : reqs ≠ []) :
    let mv := (clampInt s.floorMv 860 ((s.assay.setMv : Int) + stepFor reqs s.assay.down)).toNat
    let t := s.setpoint reqs
    t.assay.setMv = mv ∧ t.assay.down = downAfter reqs s.assay.down ∧
      (mv ≠ s.assay.setMv → t.assay.avsReq = some mv ∧ t.outbox = .avs mv :: s.outbox) ∧
      (mv = s.assay.setMv → t.outbox = s.outbox) := by
  intro mv t
  have ht : t = if mv = s.assay.setMv then s.modAssay fun a => { a with down := downAfter reqs s.assay.down }
      else (s.modAssay fun a => { a with down := downAfter reqs s.assay.down }).avsSend mv := State.setpoint_of_on hl hh hne
  by_cases hmv : mv = s.assay.setMv
  · rw [ht, if_pos hmv, State.modAssay_assay, State.modAssay_outbox]
    exact ⟨hmv.symm, rfl, fun hn => absurd hmv hn, fun _ => rfl⟩
  · rw [ht, if_neg hmv, State.avsSend_outbox, State.modAssay_outbox, State.avsSend, State.emit_assay, State.modAssay_assay,
      State.modAssay_assay]
    exact ⟨rfl, rfl, fun _ => ⟨rfl, rfl⟩, fun h => absurd h hmv⟩

/-- The end of a window: requests shown, and the setpoint moved by the largest while the loop is on (rules R43, R44). -/
theorem temperWindowEnd_spec {s : State} (hr : s.inReset = false) (hh : s.heat % 16 = 0) (hw : s.heat ≠ s.assay.winHeat) :
    let reqs := (List.range 34).map fun i => (s.temper i).request
    ∃ t, exec (.temperWindowEnd []) s = .next t ∧ t.assay.winHeat = s.heat ∧
      (∀ i : Fin 17, let r := temperReg i.val
        t.rf r.1 r.2 15 8 = min ((s.temper i.val).min.getD 0) 255 ∧ t.rf r.1 r.2 25 24 = vreqCode (s.temper i.val).request) ∧
      (s.assayOn = false ∨ s.assay.loopEn = false ∨ s.assayHalted = true →
        t.assay.setMv = s.assay.setMv ∧ t.assay.down = s.assay.down ∧ t.outbox = s.outbox) ∧
      (s.assayOn = true → s.assay.loopEn = true → s.assayHalted = false →
        let mv := (clampInt s.floorMv 860 ((s.assay.setMv : Int) + stepFor reqs s.assay.down)).toNat
        t.assay.setMv = mv ∧ t.assay.down = downAfter reqs s.assay.down ∧
          (mv ≠ s.assay.setMv → t.assay.avsReq = some mv ∧ t.outbox = .avs mv :: s.outbox) ∧
          (mv = s.assay.setMv → t.outbox = s.outbox)) := by
  intro reqs
  have hne : reqs ≠ [] := by simp [reqs]
  obtain ⟨r, hframe⟩ := s.windowEnded_frame
  have hwin : s.windowEnded.assay.winHeat = s.heat := by rw [hframe]
  have hon : s.windowEnded.assayOn = s.assayOn := by rw [hframe]; rfl
  have hhalt : s.windowEnded.assayHalted = s.assayHalted := by rw [hframe]; rfl
  have hloop : s.windowEnded.assay.loopEn = s.assay.loopEn := by rw [hframe]
  have hset : s.windowEnded.assay.setMv = s.assay.setMv := by rw [hframe]
  have hdown : s.windowEnded.assay.down = s.assay.down := by rw [hframe]
  have hout : s.windowEnded.outbox = s.outbox := by rw [hframe]
  have hfloor : s.windowEnded.floorMv = s.floorMv := by rw [hframe]; rfl
  obtain ⟨hcell, hkeep⟩ := s.windowEnded.setpoint_keeps hne
  refine ⟨_, exec_temperWindowEnd_nil hr hh hw, ?_, fun i => ?_, fun hoff => ?_, fun ho hl hn => ?_⟩
  · split
    · rw [hkeep, hwin]
    · exact hwin
  · have hshow := s.windowEnded_shows i
    simp only [State.rf, State.reg_cell] at hshow ⊢
    split
    · rwa [hcell]
    · exact hshow
  · have hstay : (if s.windowEnded.assayOn then s.windowEnded.setpoint reqs else s.windowEnded) = s.windowEnded := by
      rw [hon]
      split
      · next hc => exact State.setpoint_of_off (by simpa [hc, hloop, hhalt] using hoff) reqs
      · rfl
    rw [hstay]
    exact ⟨hset, hdown, hout⟩
  · have hspec := State.setpoint_spec (hloop.trans hl) (hhalt.trans hn) hne
    rw [hset, hdown, hout, hfloor] at hspec
    rwa [if_pos (hon.trans ho)]

end Sys2Proof.Machine

namespace Sys2Proof.Machine

/-! ### The setpoint's command (rule R46) -/

/-- A class that does not stand is not cleared. -/
theorem State.clearClass_of_not_raised {s : State} {cls unit : Nat} (h : s.fault.raised.contains (cls, unit) = false) :
    s.clearClass cls unit = s := by
  rw [State.clearClass, h, if_neg Bool.false_ne_true]

theorem State.supplyClear_of_not_raised {s : State} (h : s.fault.raised.contains (clsSUPPLY, 0) = false) : s.supplyClear = s := by
  rw [State.supplyClear, State.clearClass_of_not_raised h, ite_self]

theorem exec_avsAck {s : State} {mv : Nat} (hq : s.assay.avsReq = some mv) (hon : s.assayOn = true)
    (hf : s.fault.raised.contains (clsSUPPLY, 0) = false) (vout : Fin 1024) (iout : Fin 256) : exec (.avsAck vout iout) s =
    .next (({ s with assay := { s.assay with avsReq := none, ackMv := mv } } : State).setReg 0x0C0 0x044
      (BitVec.ofNat 32 (vout.val + iout.val * 1024 + 2 ^ 18 + s.assay.avsTries * 2 ^ 20))) := by
  have hclear : ((s.modAssay fun a => { a with avsReq := none, ackMv := mv }).setReg 0x0C0 0x044
      (BitVec.ofNat 32 (vout.val + iout.val * 1024 + 2 ^ 18 + s.assay.avsTries * 2 ^ 20))).fault.raised.contains (clsSUPPLY, 0)
      = false := by
    rw [State.setReg_fault, State.modAssay_fault, hf]
  change execAvsAck vout iout s = _
  simp only [execAvsAck, hq, hon, Bool.not_true, if_neg Bool.false_ne_true, State.supplyClear_of_not_raised hclear]
  rw [State.modAssay]

/-- The time has come for a command without an acknowledgement. -/
theorem avs_due {u : State} (hon : u.assayOn = true) (hel : u.assay.avsEl + ofNs 1000000 ≤ u.el) :
    (!u.assayOn || decide (u.el < u.assay.avsEl + ofNs 1000000)) = false := by
  rw [hon, decide_eq_false (Nat.not_lt.2 hel)]; rfl

theorem exec_avsTimeout_retry {s : State} {dt mv : Nat} (hq : (s.after dt).assay.avsReq = some mv) (hon : (s.after dt).assayOn = true)
    (hel : (s.after dt).assay.avsEl + ofNs 1000000 ≤ (s.after dt).el) (hn : (s.after dt).assay.avsTries < 3) :
    exec (.avsTimeout dt) s = .next ((({ s.after dt with
      assay := { (s.after dt).assay with avsTries := (s.after dt).assay.avsTries + 1, avsEl := (s.after dt).el } } : State).setRf
        0x0C0 0x044 23 20 ((s.after dt).assay.avsTries + 1)).emit (.avs mv)) := by
  have hexec : execAvsTimeout dt s = .next ((((s.after dt).modAssay fun a => { a with
      avsTries := a.avsTries + 1, avsEl := (s.after dt).el }).setRf 0x0C0 0x044 23 20 ((s.after dt).assay.avsTries + 1)).emit (.avs mv)) := by
    simp only [execAvsTimeout, hq, avs_due hon hel, if_neg Bool.false_ne_true, if_pos hn]
  rw [State.modAssay] at hexec
  exact hexec

/-- A setpoint's command given up: the last acknowledged one holds, and the page shows the failure. -/
def State.avsGivenUp (s : State) : State :=
  ((s.modAssay fun a => { a with avsReq := none, setMv := a.ackMv }).setRf 0x0C0 0x044 19 18 2).raise 0x0C0 16

theorem exec_avsTimeout_last {s : State} {dt mv : Nat} (hq : (s.after dt).assay.avsReq = some mv) (hon : (s.after dt).assayOn = true)
    (hel : (s.after dt).assay.avsEl + ofNs 1000000 ≤ (s.after dt).el) (hn : 3 ≤ (s.after dt).assay.avsTries) :
    exec (.avsTimeout dt) s = .next (((s.after dt).avsGivenUp.logOwn 0x19 3 (BitVec.ofNat 32 mv)).raiseClass clsSUPPLY 0) := by
  change execAvsTimeout dt s = _
  simp only [execAvsTimeout, hq, avs_due hon hel, if_neg Bool.false_ne_true, if_neg (Nat.not_lt.2 hn), State.avsGivenUp]

/-- What the last failure of a setpoint's command leaves (rule R46). -/
theorem avsTimeout_last_spec {s : State} {dt mv : Nat} (hq : (s.after dt).assay.avsReq = some mv) (hon : (s.after dt).assayOn = true)
    (hel : (s.after dt).assay.avsEl + ofNs 1000000 ≤ (s.after dt).el) (hn : 3 ≤ (s.after dt).assay.avsTries) :
    ∃ t, exec (.avsTimeout dt) s = .next t ∧ t.assay.avsReq = none ∧ t.assay.setMv = (s.after dt).assay.ackMv ∧
      (clsSUPPLY, 0) ∈ t.fault.raised ∧ (t.reg 0x0C0 0x014).getLsbD 16 = true ∧ t.log.next ≠ (s.after dt).log.next := by
  refine ⟨_, exec_avsTimeout_last hq hon hel hn, ?_, ?_, State.mem_raised_raiseClass _ _ _ (.inr (.inl rfl)), ?_, ?_⟩
  · rw [State.raiseClass_assay, State.logOwn_assay, State.avsGivenUp, State.raise_assay, State.setRf_assay, State.modAssay_assay]
  · rw [State.raiseClass_assay, State.logOwn_assay, State.avsGivenUp, State.raise_assay, State.setRf_assay, State.modAssay_assay]
  · rw [State.reg_cell, State.cell_raiseClass _ _ (by decide), State.cell_logOwn _ _ _ (by decide)]
    exact State.irq_raise_same _ _ (by decide)
  · have hlog : (s.after dt).avsGivenUp.log = (s.after dt).log := by
      rw [State.avsGivenUp, State.raise_log, State.setRf, State.setReg_log, State.modAssay_log]
    have hgt := State.logOwn_next_gt (s.after dt).avsGivenUp 0x19 3 (BitVec.ofNat 32 mv)
    have hge := State.raiseClass_next_ge ((s.after dt).avsGivenUp.logOwn 0x19 3 (BitVec.ofNat 32 mv)) clsSUPPLY 0
    rw [hlog] at hgt
    exact (hgt.trans_le hge).ne'

/-- Settles O36: the island's reset, stretching, a window's end and the setpoint's command, each by its own lemma. -/
theorem assayIsland : Obligations.AssayIsland := by
  intro s
  refine ⟨watchdogReset_spec, assayIslandResetEnd_spec, fun hon hsvc => ends_of_exec (exec_loopEnable hon hsvc),
    fun hr i => ⟨stretch_spec hr i, _, exec_stretchEnd hr i, State.temper_modTemper_same .., fun j hj => State.temper_modTemper_ne _ _ hj,
      State.modAssay_regs ..⟩, fun hr hh hw => ?_, fun mv hq hon hf vout iout => ends_of_exec (exec_avsAck hq hon hf vout iout),
    fun dt mv hq hon hel => ⟨fun hn => ends_of_exec (exec_avsTimeout_retry hq hon hel hn), avsTimeout_last_spec hq hon hel⟩⟩
  obtain ⟨t, hexec, hwin, hshow, hoff, hon⟩ := temperWindowEnd_spec hr hh hw
  refine ⟨t, hexec, hwin, hshow, hoff, fun h1 h2 h3 step hstep => ?_⟩
  subst hstep
  exact hon h1 h2 h3

end Sys2Proof.Machine

/-! ## The memories' code (rule R51; the places of its bits are log entry 90) -/

namespace Sys2Proof.Machine

/-! ### Sums of bits by exclusive or -/

/-- The exclusive or of `p i` over the bits `i` below `m` that are 1. -/
def xorSum (p : Nat → Nat) (m w : Nat) : Nat := (List.range m).foldl (fun a i => if w.testBit i then Nat.xor a (p i) else a) 0

theorem eccSyndrome_eq (n v : Nat) : eccSyndrome n v = xorSum (eccPlace n) (n + 7) v := rfl

theorem xorSum_succ (p : Nat → Nat) (m w : Nat) :
    xorSum p (m + 1) w = if w.testBit m then xorSum p m w ^^^ p m else xorSum p m w := by
  rw [xorSum, List.range_succ, List.foldl_append]
  rfl

theorem xorSum_congr (p : Nat → Nat) {m w e : Nat} (h : ∀ i, i < m → w.testBit i = e.testBit i) : xorSum p m w = xorSum p m e := by
  induction m with
  | zero => rfl
  | succ m ih => rw [xorSum_succ, xorSum_succ, ih fun i hi => h i (by omega), h m (by omega)]

/-- Flipped bits add their own sum. -/
theorem xorSum_xor (p : Nat → Nat) (m w e : Nat) : xorSum p m (w ^^^ e) = xorSum p m w ^^^ xorSum p m e := by
  induction m with
  | zero => exact (Nat.xor_zero 0).symm
  | succ m ih =>
    rw [xorSum_succ, xorSum_succ, xorSum_succ, ih, Nat.testBit_xor]
    cases w.testBit m <;> cases e.testBit m <;> simp [Nat.xor_assoc, Nat.xor_left_comm, Nat.xor_comm]

theorem xorSum_zero (p : Nat → Nat) (m : Nat) : xorSum p m 0 = 0 := by
  induction m with
  | zero => rfl
  | succ m ih => rw [xorSum_succ, Nat.zero_testBit, ih]; rfl

theorem xorSum_two_pow (p : Nat → Nat) (m i : Nat) : xorSum p m (2 ^ i) = if i < m then p i else 0 := by
  induction m with
  | zero => rfl
  | succ m ih =>
    rw [xorSum_succ, ih, Nat.testBit_two_pow]
    rcases lt_trichotomy i m with h | rfl | h
    · simp [h, h.ne, Nat.lt_succ_of_lt h]
    · simp
    · simp [h.ne', Nat.not_lt.2 h.le, Nat.not_lt.2 (Nat.succ_le_of_lt h)]

theorem xorSum_lt (p : Nat → Nat) {m k : Nat} (h : ∀ i, i < m → p i < 2 ^ k) (w : Nat) : xorSum p m w < 2 ^ k := by
  induction m with
  | zero => exact Nat.two_pow_pos k
  | succ m ih =>
    have hm := ih fun i hi => h i (by omega)
    rw [xorSum_succ]
    split
    · exact Nat.xor_lt_two_pow hm (h m (by omega))
    · exact hm

/-- Check bits above `n` data bits, each at its power of two, add the number they hold. -/
theorem xorSum_checks {p : Nat → Nat} {n k : Nat} (hp : ∀ j, j < k → p (n + j) = 2 ^ j) {v : Nat} (hv : v < 2 ^ n) (x : Nat) :
    xorSum p (n + k) (v + x * 2 ^ n) = xorSum p n v ^^^ (x % 2 ^ k) := by
  induction k with
  | zero =>
    rw [Nat.add_zero, Nat.pow_zero, Nat.mod_one, Nat.xor_zero]
    refine xorSum_congr p fun i hi => ?_
    rw [Nat.add_comm, Nat.mul_comm, Nat.testBit_two_pow_mul_add _ hv, if_pos hi]
  | succ k ih =>
    have hbit : (v + x * 2 ^ n).testBit (n + k) = x.testBit k := by
      rw [Nat.add_comm, Nat.mul_comm, Nat.testBit_two_pow_mul_add _ hv, if_neg (by omega), Nat.add_sub_cancel_left]
    rw [← Nat.add_assoc, xorSum_succ, ih fun j hj => hp j (by omega), hbit, hp k (by omega)]
    have hmod : x % 2 ^ (k + 1) = if x.testBit k then x % 2 ^ k ^^^ 2 ^ k else x % 2 ^ k := by
      refine Nat.eq_of_testBit_eq fun i => ?_
      rw [Nat.testBit_mod_two_pow]
      cases hx : x.testBit k
      · rw [if_neg (by simp), Nat.testBit_mod_two_pow]
        rcases lt_trichotomy i k with h | rfl | h
        · simp [h, Nat.lt_succ_of_lt h]
        · simp [hx]
        · simp [Nat.not_lt.2 h.le, Nat.not_lt.2 (Nat.succ_le_of_lt h)]
      · rw [if_pos rfl, Nat.testBit_xor, Nat.testBit_mod_two_pow, Nat.testBit_two_pow]
        rcases lt_trichotomy i k with h | rfl | h
        · simp [h, h.ne', Nat.lt_succ_of_lt h]
        · simp [hx]
        · simp [h.ne, Nat.not_lt.2 h.le, Nat.not_lt.2 (Nat.succ_le_of_lt h)]
    rw [hmod]
    split
    · rw [Nat.xor_assoc]
    · rfl

/-! ### Parity -/

theorem eccParity_succ (m v : Nat) : eccParity (m + 1) v = (eccParity m v + b2n (v.testBit m)) % 2 := by
  rw [eccParity, List.range_succ, List.foldl_append]
  rfl

theorem eccParity_lt (m v : Nat) : eccParity m v < 2 := by
  cases m with
  | zero => exact Nat.two_pos
  | succ m => rw [eccParity_succ]; exact Nat.mod_lt _ Nat.two_pos

theorem eccParity_xor (m w e : Nat) : eccParity m (w ^^^ e) = (eccParity m w + eccParity m e) % 2 := by
  induction m with
  | zero => rfl
  | succ m ih =>
    rw [eccParity_succ, eccParity_succ, eccParity_succ, ih, Nat.testBit_xor]
    have h : b2n (w.testBit m ^^ e.testBit m) = (b2n (w.testBit m) + b2n (e.testBit m)) % 2 := by
      cases w.testBit m <;> cases e.testBit m <;> rfl
    omega

theorem eccParity_two_pow (m i : Nat) : eccParity m (2 ^ i) = if i < m then 1 else 0 := by
  induction m with
  | zero => rfl
  | succ m ih =>
    rw [eccParity_succ, ih, Nat.testBit_two_pow]
    rcases lt_trichotomy i m with h | rfl | h
    · simp [h, h.ne, Nat.lt_succ_of_lt h, b2n]
    · simp [b2n]
    · simp [h.ne', Nat.not_lt.2 h.le, Nat.not_lt.2 (Nat.succ_le_of_lt h), b2n]

theorem eccParity_congr {m w e : Nat} (h : ∀ i, i < m → w.testBit i = e.testBit i) : eccParity m w = eccParity m e := by
  induction m with
  | zero => rfl
  | succ m ih => rw [eccParity_succ, eccParity_succ, ih fun i hi => h i (by omega), h m (by omega)]

/-! ### A stored word -/

/-- A width of the block's memories: rows have 64 data bits, native words 72 (rule R57). -/
def EccWidth (n : Nat) : Prop := n = 64 ∨ n = 72

theorem eccWidth_memBits (mem : Nat) : EccWidth (memBits mem) := by
  unfold memBits
  split
  · exact .inl rfl
  · exact .inr rfl

/-- The places of the stored bits are different, none is 0, and all have seven bits. -/
theorem eccPlace_table {n : Nat} (hn : EccWidth n) :
    (((List.range (n + 7)).map (eccPlace n)).Nodup) ∧ ∀ i, i < n + 7 → eccPlace n i ≠ 0 ∧ eccPlace n i < 2 ^ 7 := by
  rcases hn with rfl | rfl <;> exact ⟨by decide +kernel, by decide +kernel⟩

theorem eccPlace_inj {n i j : Nat} (hn : EccWidth n) (hi : i < n + 7) (hj : j < n + 7) (h : eccPlace n i = eccPlace n j) : i = j :=
  List.inj_on_of_nodup_map (eccPlace_table hn).1 (List.mem_range.2 hi) (List.mem_range.2 hj) h

theorem eccPlace_check {n j : Nat} : eccPlace n (n + j) = 2 ^ j := by
  rw [eccPlace, if_neg (by omega), Nat.add_sub_cancel_left]

/-- The data and check bits of a stored word. -/
def eccCode (n v : Nat) : Nat := v % 2 ^ n + eccSyndrome n (v % 2 ^ n) * 2 ^ n

theorem eccStored_eq (n v : Nat) : eccStored n v = eccCode n v + eccParity (n + 7) (eccCode n v) * 2 ^ (n + 7) := rfl

theorem eccSyndrome_lt {n : Nat} (hn : EccWidth n) (v : Nat) : eccSyndrome n v < 2 ^ 7 :=
  xorSum_lt _ (fun i hi => ((eccPlace_table hn).2 i hi).2) v

/-- The data bits alone have the syndrome that the check bits are to cancel. -/
theorem eccSyndrome_data {n v : Nat} (hv : v < 2 ^ n) : eccSyndrome n v = xorSum (eccPlace n) n v := by
  have h := xorSum_checks (p := eccPlace n) (k := 7) (fun j _ => eccPlace_check) hv 0
  rwa [Nat.zero_mul, Nat.add_zero, Nat.zero_mod, Nat.xor_zero] at h

theorem eccSyndrome_code {n : Nat} (hn : EccWidth n) (v : Nat) : eccSyndrome n (eccCode n v) = 0 := by
  have hv : v % 2 ^ n < 2 ^ n := Nat.mod_lt _ (Nat.two_pow_pos n)
  rw [eccSyndrome_eq, eccCode, xorSum_checks (fun j _ => eccPlace_check) hv, Nat.mod_eq_of_lt (eccSyndrome_lt hn _),
    ← eccSyndrome_data hv, Nat.xor_self]

theorem eccCode_lt {n : Nat} (hn : EccWidth n) (v : Nat) : eccCode n v < 2 ^ (n + 7) := by
  have hv : v % 2 ^ n < 2 ^ n := Nat.mod_lt _ (Nat.two_pow_pos n)
  have hs := eccSyndrome_lt hn (v % 2 ^ n)
  rw [eccCode, Nat.pow_add, Nat.mul_comm]
  calc v % 2 ^ n + 2 ^ n * eccSyndrome n (v % 2 ^ n) < 2 ^ n + 2 ^ n * eccSyndrome n (v % 2 ^ n) := by omega
    _ = 2 ^ n * (eccSyndrome n (v % 2 ^ n) + 1) := by ring
    _ ≤ 2 ^ n * 2 ^ 7 := Nat.mul_le_mul_left _ hs

theorem testBit_eccStored {n : Nat} (hn : EccWidth n) (v : Nat) {i : Nat} (hi : i < n + 7) :
    (eccStored n v).testBit i = (eccCode n v).testBit i := by
  rw [eccStored_eq, Nat.add_comm, Nat.mul_comm, Nat.testBit_two_pow_mul_add _ (eccCode_lt hn v), if_pos hi]

/-- A stored word has no syndrome. -/
theorem eccSyndrome_stored {n : Nat} (hn : EccWidth n) (v : Nat) : eccSyndrome n (eccStored n v) = 0 := by
  rw [eccSyndrome_eq, xorSum_congr _ fun i hi => testBit_eccStored hn v hi, ← eccSyndrome_eq, eccSyndrome_code hn]

/-- A stored word has even parity. -/
theorem eccParity_stored {n : Nat} (hn : EccWidth n) (v : Nat) : eccParity (n + 8) (eccStored n v) = 0 := by
  have hlt := eccParity_lt (n + 7) (eccCode n v)
  have htop : b2n ((eccStored n v).testBit (n + 7)) = eccParity (n + 7) (eccCode n v) := by
    rw [eccStored_eq, Nat.add_comm, Nat.mul_comm, Nat.testBit_two_pow_mul_add _ (eccCode_lt hn v), if_neg (by omega), Nat.sub_self]
    interval_cases eccParity (n + 7) (eccCode n v) <;> rfl
  rw [eccParity_succ, htop, eccParity_congr fun i hi => testBit_eccStored hn v hi]
  omega

/-- The data bits of a stored word. -/
theorem eccStored_mod {n : Nat} (v : Nat) : eccStored n v % 2 ^ n = v % 2 ^ n := by
  rw [eccStored_eq, eccCode, Nat.pow_add, ← Nat.mul_assoc, Nat.mul_right_comm, Nat.add_mul_mod_self_right, Nat.add_mul_mod_self_right,
    Nat.mod_mod]

/-! ### Reading with flipped bits -/

/-- The first number below `m` with `p`, where `i` is the only one. -/
theorem find?_range_of_unique {m i : Nat} {p : Nat → Bool} (hi : i < m) (hp : ∀ j, j < m → (p j = true ↔ j = i)) :
    (List.range m).find? p = some i := by
  rw [List.find?_eq_some_iff_getElem]
  refine ⟨(hp i hi).2 rfl, i, by simpa using hi, by simp, fun j hj => ?_⟩
  have hne : ¬ p j = true := mt (hp j (by omega)).1 (by omega)
  simpa using hne

/-- A flipped bit above the low `n` leaves them. -/
theorem xor_two_pow_mod (v n k : Nat) : (v ^^^ 2 ^ (n + k)) % 2 ^ n = v % 2 ^ n := by
  refine Nat.eq_of_testBit_eq fun i => ?_
  rw [Nat.testBit_mod_two_pow, Nat.testBit_mod_two_pow, Nat.testBit_xor, Nat.testBit_two_pow]
  by_cases h : i < n
  · simp [show n + k ≠ i by omega]
  · simp [h]

/-- Two different bits, as a sum. -/
theorem two_pow_add_eq_xor {i j : Nat} (h : i ≠ j) : 2 ^ i + 2 ^ j = 2 ^ i ^^^ 2 ^ j := by
  wlog hlt : i < j generalizing i j
  · rw [Nat.add_comm, Nat.xor_comm, this h.symm (by omega)]
  rw [Nat.add_comm, ← Nat.mul_one (2 ^ j)]
  refine Nat.eq_of_testBit_eq fun k => ?_
  rw [Nat.testBit_two_pow_mul_add _ (Nat.pow_lt_pow_right (by decide) hlt), Nat.mul_one, Nat.testBit_xor, Nat.testBit_two_pow,
    Nat.testBit_two_pow]
  rcases lt_trichotomy k j with hk | rfl | hk
  · simp [hk, hk.ne']
  · simp [h]
  · have hone : Nat.testBit 1 (k - j) = false := by
      rw [← Nat.pow_zero 2, Nat.testBit_two_pow]
      simp; omega
    simp [Nat.not_lt.2 hk.le, hk.ne, hone, show i ≠ k by omega]

/-- The place of a stored bit in the syndrome: the parity bit has none. -/
def flipPlace (n i : Nat) : Nat := if i < n + 7 then eccPlace n i else 0

theorem flipPlace_inj {n i j : Nat} (hn : EccWidth n) (hi : i < n + 8) (hj : j < n + 8) (h : flipPlace n i = flipPlace n j) : i = j := by
  unfold flipPlace at h
  by_cases hi7 : i < n + 7 <;> by_cases hj7 : j < n + 7
  · rw [if_pos hi7, if_pos hj7] at h
    exact eccPlace_inj hn hi7 hj7 h
  · rw [if_pos hi7, if_neg hj7] at h
    exact absurd h ((eccPlace_table hn).2 i hi7).1
  · rw [if_neg hi7, if_pos hj7] at h
    exact absurd h.symm ((eccPlace_table hn).2 j hj7).1
  · omega

/-- A word read as it was stored is clean. -/
theorem eccRead_stored {n : Nat} (hn : EccWidth n) (v : Nat) : eccRead n (eccStored n v) = .clean := by
  rw [eccRead]
  simp only [eccSyndrome_stored hn, eccParity_stored hn, if_true]

/-- One flipped bit, data, check or parity, is corrected (rule R51). -/
theorem eccRead_one_flip {n i : Nat} (hn : EccWidth n) (v : Nat) (hi : i < n + 8) :
    eccRead n (eccStored n v ^^^ 2 ^ i) = .corrected (v % 2 ^ n) := by
  have hpar : eccParity (n + 8) (eccStored n v ^^^ 2 ^ i) = 1 := by
    rw [eccParity_xor, eccParity_stored hn, eccParity_two_pow, if_pos hi]
  have hsyn : eccSyndrome n (eccStored n v ^^^ 2 ^ i) = flipPlace n i := by
    rw [eccSyndrome_eq, xorSum_xor, ← eccSyndrome_eq, eccSyndrome_stored hn, xorSum_two_pow, Nat.zero_xor, flipPlace]
  have hback : Nat.xor (eccStored n v ^^^ 2 ^ i) (2 ^ i) = eccStored n v := Nat.xor_xor_cancel_right _ _
  rw [eccRead]
  simp only [hsyn, hpar, if_neg Nat.one_ne_zero]
  by_cases hi7 : i < n + 7
  · have hplace : flipPlace n i = eccPlace n i := if_pos hi7
    have hfind : (List.range (n + 7)).find? (fun k => eccPlace n k == eccPlace n i) = some i :=
      find?_range_of_unique hi7 fun k hk => by
        rw [beq_iff_eq]
        exact ⟨eccPlace_inj hn hk hi7, fun h => h ▸ rfl⟩
    rw [hplace, if_neg ((eccPlace_table hn).2 i hi7).1, hfind]
    dsimp only
    rw [hback, eccStored_mod]
  · have hplace : flipPlace n i = 0 := if_neg hi7
    obtain rfl : i = n + 7 := by omega
    rw [if_pos hplace]
    rw [xor_two_pow_mod, eccStored_mod]

/-- Two flipped bits are found and not corrected (rule R51). -/
theorem eccRead_two_flips {n i j : Nat} (hn : EccWidth n) (v : Nat) (hi : i < n + 8) (hj : j < n + 8) (hij : i ≠ j) :
    eccRead n (eccStored n v ^^^ (2 ^ i ^^^ 2 ^ j)) = .uncorrectable := by
  have hpar : eccParity (n + 8) (eccStored n v ^^^ (2 ^ i ^^^ 2 ^ j)) = 0 := by
    rw [eccParity_xor, eccParity_xor, eccParity_stored hn, eccParity_two_pow, eccParity_two_pow, if_pos hi, if_pos hj]
  have hsyn : eccSyndrome n (eccStored n v ^^^ (2 ^ i ^^^ 2 ^ j)) = flipPlace n i ^^^ flipPlace n j := by
    rw [eccSyndrome_eq, xorSum_xor, xorSum_xor, ← eccSyndrome_eq, eccSyndrome_stored hn, xorSum_two_pow, xorSum_two_pow, Nat.zero_xor,
      flipPlace, flipPlace]
  have hne : flipPlace n i ^^^ flipPlace n j ≠ 0 := fun h => hij (flipPlace_inj hn hi hj (Nat.xor_eq_zero_iff.1 h))
  rw [eccRead]
  simp only [hsyn, hpar, if_true, if_neg hne]

end Sys2Proof.Machine

/-! ## The scrubbing of the memories (rules R52 to R54) -/

namespace Sys2Proof.Machine

/-! ### Words of the memories -/

theorem Tab.get_set_self {α : Type} [DecidableEq α] (d : Nat → α) (t : Tab α) (k j : Nat) :
    Tab.get d (Tab.set d t k (Tab.get d t k)) j = Tab.get d t j := by
  rw [Tab.get_set]
  split
  · next h => rw [h]
  · rfl

/-- The same words in every memory. -/
def SameWords (s t : State) : Prop := ∀ m b, t.memWord m b = s.memWord m b

theorem State.memWord_of_rest {s t : State} (h : t.rest = s.rest) : SameWords s t := by
  intro m b
  have hrest : ∀ u : State, u.rest.memWord m b = u.memWord m b := fun u => by unfold State.memWord; rfl
  rw [← hrest t, h, hrest s]

theorem State.memWord_lt (s : State) (mem a : Nat) : s.memWord mem a < 2 ^ memBits mem := by
  unfold State.memWord memBits
  split_ifs <;> omega

/-- A core's memories read the same after a change that leaves each of their words. -/
theorem SameWords.modCore {s : State} {k : Nat} {f : Core → Core}
    (hi : ∀ b, Tab.get (fun _ => 0) (f (s.core k)).iram b = Tab.get (fun _ => 0) (s.core k).iram b)
    (hx : ∀ b, Tab.get (fun _ => 0) (f (s.core k)).x b = Tab.get (fun _ => 0) (s.core k).x b)
    (hy : ∀ b, Tab.get (fun _ => 0) (f (s.core k)).y b = Tab.get (fun _ => 0) (s.core k).y b) : SameWords s (s.modCore k f) := by
  have hcore : ∀ j b, Tab.get (fun _ => 0) ((s.modCore k f).core j).iram b = Tab.get (fun _ => 0) (s.core j).iram b ∧
      Tab.get (fun _ => 0) ((s.modCore k f).core j).x b = Tab.get (fun _ => 0) (s.core j).x b ∧
      Tab.get (fun _ => 0) ((s.modCore k f).core j).y b = Tab.get (fun _ => 0) (s.core j).y b := by
    intro j b
    by_cases h : j = k
    · subst h
      rw [State.core_modCore_same]
      exact ⟨hi b, hx b, hy b⟩
    · rw [State.core_modCore_ne _ _ h]
      exact ⟨rfl, rfl, rfl⟩
  intro m b
  simp only [State.memWord, fun j => (hcore j b).1, fun j => (hcore j b).2.1, fun j => (hcore j b).2.2, State.mr, State.ex,
    State.modCore_measRam, State.modCore_exch]
  rfl

/-- The word that a memory holds, put back, leaves every word. -/
theorem State.sameWords_putMemWord (s : State) (mem a : Nat) : SameWords s (s.putMemWord mem a (s.memWord mem a)) := by
  rw [State.putMemWord, State.memWord]
  split_ifs with h8 h17 h26 h27 h28 h29 h54
  · rw [BitVec.ofNat_toNat, BitVec.setWidth_eq]
    exact SameWords.modCore (fun b => Tab.get_set_self ..) (fun _ => rfl) fun _ => rfl
  · rw [BitVec.ofNat_toNat, BitVec.setWidth_eq]
    exact SameWords.modCore (fun _ => rfl) (fun b => Tab.get_set_self ..) fun _ => rfl
  · rw [BitVec.ofNat_toNat, BitVec.setWidth_eq]
    exact SameWords.modCore (fun _ => rfl) (fun _ => rfl) fun b => Tab.get_set_self ..
  · rw [BitVec.ofNat_toNat, BitVec.setWidth_eq]
    intro m b
    simp only [State.memWord, State.mr, Tab.get_set_self]
    rfl
  · rw [BitVec.ofNat_toNat, BitVec.setWidth_eq]
    intro m b
    simp only [State.memWord, State.ex, Tab.get_set_self]
    rfl
  · rw [BitVec.ofNat_toNat, BitVec.setWidth_eq]
    intro m b
    simp only [State.memWord, Tab.get_set_self]
    rfl
  · rw [BitVec.ofNat_toNat, BitVec.setWidth_eq]
    intro m b
    simp only [State.memWord, Tab.get_set_self]
    rfl
  · exact fun _ _ => rfl

/-- Writing a memory's word leaves the registers, the marks, the commands, the channels and the jobs. -/
theorem State.putMemWord_keeps (s : State) (mem a v : Nat) : let t := s.putMemWord mem a v
    t.regs = s.regs ∧ t.bad = s.bad ∧ t.cmd = s.cmd ∧ t.chans = s.chans ∧ t.jobs = s.jobs := by
  rw [State.putMemWord]
  split_ifs <;> exact ⟨rfl, rfl, rfl, rfl, rfl⟩

/-! ### What a page's error registers take -/

/-- An error counted depends on the registers alone. -/
theorem State.cell_countErr_congr {s t : State} (h : ∀ a, t.cell a = s.cell a) (p a : Nat) : (t.countErr p).cell a = (s.countErr p).cell a := by
  have hreg : t.reg p 0x024 = s.reg p 0x024 := h _
  rw [State.countErr, State.countErr, hreg]
  split <;> simp only [State.cell_raise, State.cell_count, h]

/-- An error captured depends on the registers alone. -/
theorem State.cell_capErr_congr {s t : State} (h : ∀ a, t.cell a = s.cell a) (p code off a : Nat) :
    (t.capErr p code off).cell a = (s.capErr p code off).cell a := by
  have hreg : (t.countErr p).reg p 0x020 = (s.countErr p).reg p 0x020 := State.cell_countErr_congr h p _
  rw [State.capErr, State.capErr]
  rw [hreg]
  split <;> simp only [State.cell_raise, State.cell_setReg, State.cell_countErr_congr h]

/-! ### A scrub's three outcomes -/

theorem memBits_le (mem : Nat) : memBits mem ≤ 72 := by
  unfold memBits
  split <;> omega

/-- The mask of flipped bits holds every bit of a stored word. -/
theorem flips_mod {mem x : Nat} (h : x < 2 ^ (memBits mem + 8)) : (BitVec.ofNat 80 x).toNat % 2 ^ (memBits mem + 8) = x := by
  have hle : 2 ^ (memBits mem + 8) ≤ 2 ^ 80 := Nat.pow_le_pow_right (by decide) (by have := memBits_le mem; omega)
  rw [BitVec.toNat_ofNat, Nat.mod_eq_of_lt (h.trans_le hle), Nat.mod_eq_of_lt h]

section scrub

variable {s : State} {mem : Fin 55} {a : Nat} (hr : s.inReset = false) (hb : s.isBad mem.val a = false)
include hr hb

theorem exec_scrubPass (flips : BitVec 80) : exec (.scrubPass mem a flips) s =
    .next (match eccRead (memBits mem.val) (eccStored (memBits mem.val) (s.memWord mem.val a) ^^^ flips.toNat % 2 ^ (memBits mem.val + 8)) with
      | .clean => s
      | .corrected v => (s.putMemWord mem.val a v).countErr (memPage mem.val)
      | .uncorrectable => (((if 30 ≤ mem.val ∧ mem.val ≤ 50 then s else s.setBad mem.val a true).capErr (memPage mem.val) 0x20 0).tornOwner
          mem.val a)) := by
  change execScrubPass mem a flips s = _
  rw [execScrubPass, hr, hb, if_neg Bool.false_ne_true, if_neg Bool.false_ne_true]
  rfl

theorem exec_scrubPass_clean : exec (.scrubPass mem a 0) s = .next s := by
  have hz : eccStored (memBits mem.val) (s.memWord mem.val a) ^^^ (0 : BitVec 80).toNat % 2 ^ (memBits mem.val + 8) =
      eccStored (memBits mem.val) (s.memWord mem.val a) := by simp
  rw [exec_scrubPass hr hb, hz, eccRead_stored (eccWidth_memBits _)]

theorem exec_scrubPass_one {i : Nat} (hi : i < memBits mem.val + 8) : exec (.scrubPass mem a (BitVec.ofNat 80 (2 ^ i))) s =
    .next ((s.putMemWord mem.val a (s.memWord mem.val a)).countErr (memPage mem.val)) := by
  rw [exec_scrubPass hr hb, flips_mod (Nat.pow_lt_pow_right (by decide) hi), eccRead_one_flip (eccWidth_memBits _) _ hi, Nat.mod_eq_of_lt (s.memWord_lt ..)]

theorem exec_scrubPass_two {i j : Nat} (hi : i < memBits mem.val + 8) (hj : j < memBits mem.val + 8) (hij : i ≠ j) :
    exec (.scrubPass mem a (BitVec.ofNat 80 (2 ^ i + 2 ^ j))) s =
    .next (((if 30 ≤ mem.val ∧ mem.val ≤ 50 then s else s.setBad mem.val a true).capErr (memPage mem.val) 0x20 0).tornOwner
          mem.val a) := by
  rw [exec_scrubPass hr hb, two_pow_add_eq_xor hij,
    flips_mod (Nat.xor_lt_two_pow (Nat.pow_lt_pow_right (by decide) hi) (Nat.pow_lt_pow_right (by decide) hj)), eccRead_two_flips (eccWidth_memBits _) _ hi hj hij]

end scrub

end Sys2Proof.Machine

namespace Sys2Proof.Machine

/-! ### The owner of a lost word -/

theorem State.cell_chanTo {s : State} {c : Nat} (h : c / 0x1000 ≠ 0x060) (i : Nat) (st : ChanSt) : (s.chanTo i st).cell c = s.cell c := by
  have hmod : ∀ f : Chan → Chan, (s.modChan i f).cell c = s.cell c := fun f => by rw [State.modChan]; rfl
  cases st <;> simp only [State.chanTo, State.cell_raise_of_page h, hmod]

/-- The owner of a lost word takes its mark: no register but EVENT of page CHANNELS changes. -/
theorem State.cell_tornOwner {s : State} {c : Nat} (h : c / 0x1000 ≠ 0x060) (mem a : Nat) : (s.tornOwner mem a).cell c = s.cell c := by
  have hrec : (s.tornRecord a).cell c = s.cell c := by
    rw [State.tornRecord]
    split
    · rfl
    · dsimp only
      split <;> rfl
  have hsnap : (s.tearSnap a).cell c = s.cell c := by
    rw [State.tearSnap]
    split <;> rfl
  rw [State.tornOwner]
  split_ifs
  · exact hrec
  · exact hsnap
  · split
    · next e _ =>
      have hkeep : ∀ (u : State) (f : Chan → Chan), ((u.tear e.1).modChan e.1 f).cell c = u.cell c := fun u f => by
        rw [State.modChan, State.tear, State.setEnt]; rfl
      rw [hkeep]
      split
      · rfl
      · exact State.cell_chanTo h e.1 .lost
    · rfl
  · rfl
  · rfl

theorem State.tornOwner_of_lt {mem : Nat} (h : mem < 28) (s : State) (a : Nat) : s.tornOwner mem a = s := by
  rw [State.tornOwner, if_neg (by omega), if_neg (by omega), if_neg (by omega), if_neg (by omega)]

theorem State.ent_tear (s : State) (i : Nat) : (s.tear i).ent i = { s.ent i with torn := true } := Tab.get_set_same ..

theorem memPage_ne {mem : Nat} (h : mem < 55) : memPage mem ≠ 0x060 := by
  unfold memPage
  split_ifs <;> omega

/-- A scrub over a word that is not marked: clean, with one flipped bit, with two (rules R51 to R54). -/
theorem scrubPass_spec {s : State} (hr : s.inReset = false) {mem : Fin 55} {a i j : Nat} (hb : s.isBad mem.val a = false)
    (hi : i < memBits mem.val + 8) (hj : j < memBits mem.val + 8) (hij : i ≠ j) :
    Ends (.scrubPass mem a 0) s s ∧
    (∃ t, exec (.scrubPass mem a (BitVec.ofNat 80 (2 ^ i))) s = .next t ∧ (∀ m b, t.memWord m b = s.memWord m b) ∧
      (∀ c, t.cell c = (s.countErr (memPage mem.val)).cell c) ∧ t.bad = s.bad ∧ t.cmd = s.cmd ∧ t.chans = s.chans ∧ t.jobs = s.jobs) ∧
    (∃ t, exec (.scrubPass mem a (BitVec.ofNat 80 (2 ^ i + 2 ^ j))) s = .next t ∧
      (∀ off ∈ [0x020, 0x024], t.reg (memPage mem.val) off = (s.capErr (memPage mem.val) 0x20 0).reg (memPage mem.val) off) ∧
      (mem.val < 28 → t.isBad mem.val a = true ∧ Alike t ((s.setBad mem.val a true).capErr (memPage mem.val) 0x20 0)) ∧
      (mem.val = 46 → t.ent (a / 2) = { s.ent (a / 2) with torn := true })) := by
  refine ⟨⟨s, exec_scrubPass_clean hr hb, Alike.refl s⟩, ⟨_, exec_scrubPass_one hr hb hi, ?_, ?_, ?_⟩,
    _, exec_scrubPass_two hr hb hi hj hij, fun off hoff => ?_, fun hlt => ?_, fun h46 => ?_⟩
  · intro m b
    exact (State.memWord_of_rest (State.rest_countErr _ _) m b).trans (s.sameWords_putMemWord mem.val a m b)
  · have hregs := (s.putMemWord_keeps mem.val a (s.memWord mem.val a)).1
    exact State.cell_countErr_congr (fun c => by rw [State.cell, hregs, State.cell]) _
  · obtain ⟨-, hbad, hcmd, hchans, hjobs⟩ := s.putMemWord_keeps mem.val a (s.memWord mem.val a)
    rw [State.countErr_bad, State.countErr_cmd, State.countErr_chans, State.countErr_jobs]
    exact ⟨hbad, hcmd, hchans, hjobs⟩
  · have hlt : off < 0x1000 := by
      rcases List.mem_pair.1 hoff with rfl | rfl <;> decide
    rw [State.reg_cell, State.cell_tornOwner (by rw [addr_div hlt]; exact memPage_ne mem.isLt), State.reg_cell]
    refine State.cell_capErr_congr (fun c => ?_) _ _ _ _
    split <;> rfl
  · rw [State.tornOwner_of_lt hlt, if_neg (by omega)]
    refine ⟨?_, Alike.refl _⟩
    rw [State.isBad, State.capErr_bad]
    exact (s.isBad_setBad mem.val a mem.val a true).trans (if_pos rfl)
  · have htear : ∀ u : State, u.tornOwner mem.val a = u.tear (a / 2) := fun u => by
      rw [State.tornOwner, if_neg (by omega), if_neg (by omega), if_neg (by omega), if_pos h46]
    rw [htear, State.ent_tear, if_pos (by omega), State.ent, State.capErr_cmd, State.ent]

/-! ## The clocks (rules R37, R571) -/

theorem exec_clockMonitorWindow_of_on {s : State} (hon : s.assayOn = true) (l : List (Fin 26 × Int)) :
    exec (.clockMonitorWindow l) s = .next (l.foldl (fun s d => s.clockWindow d.1.val d.2) s) := by
  change execClockMonitorWindow l s = _
  rw [execClockMonitorWindow, hon, if_pos rfl]

end Sys2Proof.Machine

namespace Sys2Proof.Machine

/-! ### What the discipline's reference fault leaves alone -/

theorem State.setDisc_assay (s : State) (n : DiscSt) : (s.setDisc n).assay = s.assay := by
  unfold State.setDisc State.modDisc
  split_ifs <;> simp

theorem State.cell_modDisc (s : State) (f : Disc → Disc) (c : Nat) : (s.modDisc f).cell c = s.cell c := by
  rw [State.modDisc]; rfl

theorem State.cell_setDisc {s : State} {c : Nat} (h : c / 0x1000 ≠ 0x081) (n : DiscSt) : (s.setDisc n).cell c = s.cell c := by
  unfold State.setDisc
  dsimp only
  split_ifs <;> simp only [State.cell_raise_of_page h, State.cell_modDisc]

theorem State.setHealthy_assay (s : State) : s.setHealthy.assay = s.assay := by
  unfold State.setHealthy
  split_ifs <;> simp

theorem State.cell_setHealthy {s : State} {c : Nat} (h : c / 0x1000 ≠ 0x080) : s.setHealthy.cell c = s.cell c := by
  unfold State.setHealthy
  split_ifs
  · rfl
  · rw [State.cell_raise_of_page h]; rfl

theorem State.refFault_assay (s : State) : s.refFault.assay = s.assay := by
  unfold State.refFault
  dsimp only
  split_ifs
  · rfl
  · rw [State.setHealthy_assay, State.raise_assay, State.modDisc, State.setDisc_assay]

theorem State.cell_refFault {s : State} {c : Nat} (h80 : c / 0x1000 ≠ 0x080) (h81 : c / 0x1000 ≠ 0x081) :
    s.refFault.cell c = s.cell c := by
  unfold State.refFault
  dsimp only
  split_ifs
  · rfl
  · have hdisc := State.cell_setDisc (s := s) h81 .refFault
    rw [State.cell_setHealthy h80, State.cell_raise_of_page h81, State.modDisc]
    exact hdisc

/-! ### A window of one clock -/

/-- A clock's bad windows in a row, with this one. -/
def State.badRun (s : State) (bit : Nat) (ppm : Int) : Nat :=
  if decide (ppm.natAbs > 50000) then Tab.get (fun _ => 0) s.assay.clkBad bit + 1 else 0

/-- A clock's good windows in a row, with this one. -/
def State.goodRun (s : State) (bit : Nat) (ppm : Int) : Nat :=
  if decide (ppm.natAbs > 50000) then 0 else Tab.get (fun _ => 0) s.assay.clkGood bit + 1

theorem State.badRun_eq (s : State) (bit : Nat) (ppm : Int) :
    s.badRun bit ppm = if 50000 < ppm.natAbs then Tab.get (fun _ => 0) s.assay.clkBad bit + 1 else 0 := by
  simp only [State.badRun, gt_iff_lt, decide_eq_true_eq]

/-- The counts of windows after one more of a clock: bad ones and good ones in a row. -/
def State.clockCounted (s : State) (bit : Nat) (ppm : Int) : State :=
  s.modAssay fun a => { a with
    clkBad := Tab.set (fun _ => 0) a.clkBad bit (min (s.badRun bit ppm) 3),
    clkGood := Tab.set (fun _ => 0) a.clkGood bit
      (min (s.goodRun bit ppm) 3) }

/-- A clock shown as failed, and the log told. -/
def State.clockShown (s : State) (bit : Nat) (ppm : Int) : State :=
  (((s.modAssay fun a => { a with clkOut := Tab.set (fun _ => false) a.clkOut bit true }).setRf 0x0C0 0x064 bit bit 1).raise
    0x0C0 18).logOwn 0x18 bit (BitVec.ofInt 32 ppm)

/-- What a failed clock raises: an island's fault, or the discipline's where it is the reference. -/
def State.clockFault (s : State) (bit : Nat) : State :=
  if bit ≤ 18 then s.raiseClass clsCLOCK bit
  else if bit = 25 then ({ s with tb := { s.tb with refBad := true } } : State).refFault
  else s

/-- What a clock that runs again clears. -/
def State.clockBack (s : State) (bit : Nat) : State :=
  if bit ≤ 18 then s.clearClass clsCLOCK bit
  else if bit = 25 then { s with tb := { s.tb with refBad := false } }
  else s

theorem State.clockWindow_eq (s : State) (bit : Nat) (ppm : Int) : s.clockWindow bit ppm =
    if !Tab.get (fun _ => false) s.assay.clkOut bit &&
        decide ((s.badRun bit ppm) ≥ 3) then
      ((s.clockCounted bit ppm).clockShown bit ppm).clockFault bit
    else if Tab.get (fun _ => false) s.assay.clkOut bit &&
        decide ((s.goodRun bit ppm) ≥ 3) then
      ((s.clockCounted bit ppm).modAssay fun a => { a with clkOut := Tab.set (fun _ => false) a.clkOut bit false }).clockBack bit
    else s.clockCounted bit ppm := by
  rw [State.clockWindow, State.clockFault, State.clockBack, State.clockShown, State.clockCounted, State.badRun, State.goodRun]

theorem State.clockFault_assay (s : State) (bit : Nat) : (s.clockFault bit).assay = s.assay := by
  rw [State.clockFault]
  split_ifs
  · exact State.raiseClass_assay ..
  · exact State.refFault_assay _
  · rfl

theorem State.clockBack_assay (s : State) (bit : Nat) : (s.clockBack bit).assay = s.assay := by
  rw [State.clockBack]
  split_ifs
  · exact State.clearClass_assay ..
  · rfl
  · rfl

theorem State.cell_clockFault {s : State} {c : Nat} (h : c / 0x1000 = 0x0C0) (bit : Nat) : (s.clockFault bit).cell c = s.cell c := by
  rw [State.clockFault]
  split_ifs
  · exact State.cell_raiseClass _ _ (by rw [h]; decide)
  · rw [State.cell_refFault (by rw [h]; decide) (by rw [h]; decide)]; rfl
  · rfl

theorem State.clockShown_assay (s : State) (bit : Nat) (ppm : Int) :
    (s.clockShown bit ppm).assay = { s.assay with clkOut := Tab.set (fun _ => false) s.assay.clkOut bit true } := by
  rw [State.clockShown, State.logOwn_assay, State.raise_assay, State.setRf_assay, State.modAssay_assay]

/-- The count of bad windows in a row, up to three (rule R37). -/
theorem State.clockWindow_clkBad (s : State) (bit : Nat) (ppm : Int) : Tab.get (fun _ => 0) (s.clockWindow bit ppm).assay.clkBad bit =
    min (s.badRun bit ppm) 3 := by
  have hcount : Tab.get (fun _ => 0) (s.clockCounted bit ppm).assay.clkBad bit =
      min (s.badRun bit ppm) 3 := by
    rw [State.clockCounted, State.modAssay_assay]
    exact Tab.get_set_same ..
  rw [← hcount, State.clockWindow_eq]
  split
  · rw [State.clockFault_assay, State.clockShown_assay]
  · split
    · rw [State.clockBack_assay, State.modAssay_assay]
    · rfl

/-- The third bad window in a row of a clock that stood as good (rule R37). -/
theorem State.clockWindow_third {s : State} {bit : Nat} {ppm : Int} (hbit : bit < 26) (hppm : 50000 < ppm.natAbs)
    (hbad : 2 ≤ Tab.get (fun _ => 0) s.assay.clkBad bit) (hout : Tab.get (fun _ => false) s.assay.clkOut bit = false) :
    let t := s.clockWindow bit ppm
    (t.reg 0x0C0 0x064).getLsbD bit = true ∧ (t.reg 0x0C0 0x014).getLsbD 18 = true ∧
      Tab.get (fun _ => false) t.assay.clkOut bit = true ∧ (bit ≤ 18 → (clsCLOCK, bit) ∈ t.fault.raised) := by
  intro t
  have ht : t = ((s.clockCounted bit ppm).clockShown bit ppm).clockFault bit := by
    have hcond : (!Tab.get (fun _ => false) s.assay.clkOut bit &&
        decide ((s.badRun bit ppm) ≥ 3)) = true := by
      rw [hout, State.badRun_eq, if_pos hppm]
      simp; omega
    exact (s.clockWindow_eq bit ppm).trans (if_pos hcond)
  rw [ht]
  refine ⟨?_, ?_, ?_, fun h18 => ?_⟩
  · rw [State.reg_cell, State.cell_clockFault (by decide), State.clockShown, State.cell_logOwn _ _ _ (by decide), State.cell_raise,
      if_neg (by decide), State.cell_setRf, if_pos rfl, getLsbD_setFld _ _ (by omega), if_pos (by omega), Nat.sub_self]
    rfl
  · rw [State.reg_cell, State.cell_clockFault (by decide), State.clockShown, State.cell_logOwn _ _ _ (by decide), ← State.reg_cell]
    exact State.irq_raise_same _ _ (by decide)
  · rw [State.clockFault_assay, State.clockShown_assay]
    exact Tab.get_set_same _ (s.clockCounted bit ppm).assay.clkOut bit true
  · rw [State.clockFault, if_pos h18]
    exact State.mem_raised_raiseClass _ _ _ (.inl rfl)

/-- The clock monitor's windows, one clock after the other. -/
theorem clockMonitorWindow_spec {s : State} (hon : s.assayOn = true) : exec (.clockMonitorWindow []) s = .next s ∧
    (∀ (b : Fin 26) (ppm : Int) (rest : List (Fin 26 × Int)), ∃ t, exec (.clockMonitorWindow [(b, ppm)]) s = .next t ∧
      (t.assayOn = true → exec (.clockMonitorWindow ((b, ppm) :: rest)) s = exec (.clockMonitorWindow rest) t) ∧
      Tab.get (fun _ => 0) t.assay.clkBad b.val =
        (if 50000 < ppm.natAbs then min (Tab.get (fun _ => 0) s.assay.clkBad b.val + 1) 3 else 0) ∧
      (50000 < ppm.natAbs → 2 ≤ Tab.get (fun _ => 0) s.assay.clkBad b.val → Tab.get (fun _ => false) s.assay.clkOut b.val = false →
        (t.reg 0x0C0 0x064).getLsbD b.val = true ∧ (t.reg 0x0C0 0x014).getLsbD 18 = true ∧
        Tab.get (fun _ => false) t.assay.clkOut b.val = true ∧ (b.val ≤ 18 → (clsCLOCK, b.val) ∈ t.fault.raised))) := by
  refine ⟨exec_clockMonitorWindow_of_on hon [], fun b ppm rest => ⟨s.clockWindow b.val ppm, exec_clockMonitorWindow_of_on hon [(b, ppm)],
    fun ht => ?_, ?_, fun hppm hbad hout => State.clockWindow_third b.isLt hppm hbad hout⟩⟩
  · rw [exec_clockMonitorWindow_of_on hon, exec_clockMonitorWindow_of_on ht]
    rfl
  · rw [State.clockWindow_clkBad, State.badRun_eq]
    split <;> omega

end Sys2Proof.Machine

/-! ## Sensors and the supply check (rules R527 to R529) -/

namespace Sys2Proof.Machine

/-! ### A sample of every sensor -/

/-- A temperature sensor's sample stands in its place with the value taken. -/
theorem State.tempSample_sens (s : State) (k : Nat) (v : Int) : ∃ x : Sensor, x.val = v ∧
    (s.tempSample k v).assay.sens = Tab.set (fun _ => {}) s.assay.sens k x := by
  have hpeak : ∀ p : Prop, ∀ [Decidable p], ∀ y, (if p then s.setRf 0x0C1 0x0D0 11 0 y else s).assay = s.assay := fun p _ y => by
    split
    · exact State.setRf_assay ..
    · rfl
  refine ⟨Sensor.sample .., ?_, by rw [State.tempSample, State.sensed_sens, hpeak]⟩
  rfl

/-- A voltage monitor's sample stands in its place with the value taken. -/
theorem State.voltSample_sens (s : State) (k : Nat) (v : Int) : ∃ x : Sensor, x.val = v ∧
    (s.voltSample k v).assay.sens = Tab.set (fun _ => {}) s.assay.sens (8 + k) x :=
  ⟨_, rfl, by rw [State.voltSample, State.sensed_sens]⟩

/-- A sensor's value. -/
def State.sensVal (s : State) (i : Nat) : Int := (Tab.get (fun _ => ({} : Sensor)) s.assay.sens i).val

/-- A round of samples, each at its own place. -/
structure Samples (step : State → Nat → State) (at' : Nat → Nat) (v : Nat → Int) : Prop where
  sens : ∀ s k, ∃ x : Sensor, x.val = v k ∧ (step s k).assay.sens = Tab.set (fun _ => {}) s.assay.sens (at' k) x

section samples

variable {step : State → Nat → State} {at' : Nat → Nat} {v : Nat → Int} (h : Samples step at' v)
include h

theorem Samples.same (s : State) (k : Nat) : (step s k).sensVal (at' k) = v k := by
  obtain ⟨x, hx, hs⟩ := h.sens s k
  rw [State.sensVal, hs, Tab.get_set_same, hx]

theorem Samples.other (s : State) {k i : Nat} (hi : i ≠ at' k) : (step s k).sensVal i = s.sensVal i := by
  obtain ⟨x, -, hs⟩ := h.sens s k
  rw [State.sensVal, hs, Tab.get_set_ne _ _ _ hi, State.sensVal]

/-- A round leaves every sensor that it does not sample. -/
theorem Samples.foldl_other {l : List Nat} {i : Nat} (hi : ∀ k ∈ l, i ≠ at' k) (s : State) :
    (l.foldl step s).sensVal i = s.sensVal i :=
  List.foldlRecOn (motive := fun t : State => t.sensVal i = s.sensVal i) l step rfl fun t ht k hk => (h.other t (hi k hk)).trans ht

/-- After a round each sensor has the value taken of it. -/
theorem Samples.foldl_same (hinj : Function.Injective at') {l : List Nat} (hnd : l.Nodup) {k : Nat} (hk : k ∈ l) (s : State) :
    (l.foldl step s).sensVal (at' k) = v k := by
  induction l generalizing s with
  | nil => exact absurd hk List.not_mem_nil
  | cons j l ih =>
    obtain ⟨hj, hnd⟩ := List.nodup_cons.1 hnd
    rw [List.foldl_cons]
    rcases List.mem_cons.1 hk with rfl | hl
    · rw [h.foldl_other (fun i hi => hinj.ne (ne_of_mem_of_not_mem hi hj).symm), h.same]
    · exact ih hnd hl _

end samples

theorem samples_temp (temps : List Int) : Samples (fun s k => s.tempSample k (temps.getD k 0)) id fun k => temps.getD k 0 :=
  ⟨fun s k => s.tempSample_sens k _⟩

theorem samples_volt (volts : List Int) : Samples (fun s k => s.voltSample k (volts.getD k 0)) (8 + ·) fun k => volts.getD k 0 :=
  ⟨fun s k => s.voltSample_sens k _⟩

/-! ### What follows the samples leaves them -/

theorem State.thermalClear_assay (s : State) : s.thermalClear.assay = s.assay := by
  rw [State.thermalClear]
  split
  · exact List.foldlRecOn (motive := fun t : State => t.assay = s.assay) _ _ rfl fun t ht k _ => (t.clearClass_assay _ k).trans ht
  · rfl

theorem State.supplyClear_assay (s : State) : s.supplyClear.assay = s.assay := by
  rw [State.supplyClear]
  split
  · exact s.clearClass_assay ..
  · rfl

theorem State.modUpd_assay (s : State) (f : Upd → Upd) : (s.modUpd f).assay = s.assay := by rw [State.modUpd]

theorem State.sesSend_assay (s : State) (f : List Byte) : (s.sesSend f).assay = s.assay := by
  rw [State.sesSend]
  exact List.foldlRecOn (motive := fun t : State => t.assay = s.assay) _ _ rfl fun t ht b _ => (t.emit_assay _).trans ht

theorem State.updEnd_assay (s : State) (op code : Nat) (st : UpdSt) : (s.updEnd op code st).assay = s.assay := by
  have hends : ∀ bit, (((s.modUpd fun u => { u with st := st, result := code, op := 0, stop := false, bytes := [] }).raise 0x0C3 bit).logOwn 0x07 op
      (BitVec.ofNat 32 code)).assay = s.assay := fun bit => by
    rw [State.logOwn_assay, State.raise_assay, State.modUpd_assay]
  rw [State.updEnd]
  generalize (if code = 0 then 16 else 17) = bit
  split
  · split
    · rw [State.sesAnswer, State.sesSend_assay, State.modUpd_assay]
      exact hends _
    · exact hends _
  · exact hends _

/-- A round of samples over every sensor, and what it raises. -/
theorem sensorSample_spec {s : State} {dt : Nat} (hon : (s.after dt).assayOn = true) (temps volts : List Int) :
    ∃ t, exec (.sensorSample dt temps volts) s = .next t ∧
      (∀ k, k < 8 → t.sensVal k = temps.getD k 0) ∧ (∀ k, k < 24 → t.sensVal (8 + k) = volts.getD k 0) := by
  have key : ∃ t, exec (.sensorSample dt temps volts) s = .next t ∧ t.assay =
      ((List.range 24).foldl (fun s k => s.voltSample k (volts.getD k 0))
        ((List.range 8).foldl (fun s k => s.tempSample k (temps.getD k 0)) (s.after dt))).assay := by
    change ∃ t, execSensorSample dt temps volts s = .next t ∧ _
    simp only [execSensorSample, hon, Bool.not_true, if_neg Bool.false_ne_true]
    refine ⟨_, rfl, ?_⟩
    split
    · rw [State.updEnd_assay, State.supplyClear_assay, State.thermalClear_assay]
    · rw [State.supplyClear_assay, State.thermalClear_assay]
  obtain ⟨t, ht, hassay⟩ := key
  have hval : ∀ i, t.sensVal i = ((List.range 24).foldl (fun s k => s.voltSample k (volts.getD k 0))
      ((List.range 8).foldl (fun s k => s.tempSample k (temps.getD k 0)) (s.after dt))).sensVal i := fun i => by
    rw [State.sensVal, hassay, State.sensVal]
  refine ⟨t, ht, fun k hk => ?_, fun k hk => ?_⟩
  · rw [hval, (samples_volt volts).foldl_other (fun j _ => by omega)]
    exact (samples_temp temps).foldl_same Function.injective_id List.nodup_range (List.mem_range.2 hk) _
  · rw [hval]
    exact (samples_volt volts).foldl_same (add_right_injective 8) List.nodup_range (List.mem_range.2 hk) _

/-! ### The supply check (rules R528, R529) -/

/-- The bad checks of the voltages in a row, with this one. -/
def State.badVolts (s : State) : Nat :=
  let sum := (List.range 8).foldl (fun a k => a + (Tab.get (fun _ => ({} : Sensor)) s.assay.sens (8 + k)).val) (0 : Int)
  if (sum - 8 * (s.assay.setMv : Int)).natAbs > 240 then s.assay.badV + 1 else 0

/-- The bad checks of the current in a row, with this one. -/
def State.badAmps (s : State) : Nat := if s.rf 0x0C0 0x044 17 10 > 140 then s.assay.badI + 1 else 0

/-- The counts of bad checks after this one, and its time. -/
def State.checked (s : State) : State :=
  s.modAssay fun a => { a with
    badV := if s.badVolts ≥ 10 then 0 else s.badVolts, badI := if s.badAmps ≥ 10 then 0 else s.badAmps, supEl := s.el }

theorem exec_supervisionCheck {s : State} {dt : Nat} (hon : (s.after dt).assayOn = true) (hh : (s.after dt).assayHalted = false)
    (hel : (s.after dt).assay.supEl + ofNs 1000000000 ≤ (s.after dt).el) : exec (.supervisionCheck dt) s =
    .next (if (s.after dt).badVolts ≥ 10 ∨ (s.after dt).badAmps ≥ 10 then
        ((s.after dt).checked).raiseClass clsSUPPLY 0 else (s.after dt).checked) := by
  change execSupervisionCheck dt s = _
  have hdue : (!(s.after dt).assayOn || (s.after dt).assayHalted ||
      decide ((s.after dt).el < (s.after dt).assay.supEl + ofNs 1000000000)) = false := by
    rw [hon, hh, decide_eq_false (Nat.not_lt.2 hel)]; rfl
  rw [execSupervisionCheck, hdue, if_neg Bool.false_ne_true]
  rw [State.checked, State.badVolts, State.badAmps]

/-- A supply check within its limits changes only its own counts; a tenth bad one in a row raises the fault. -/
theorem supervisionCheck_spec {s : State} {dt : Nat} (hon : (s.after dt).assayOn = true) (hh : (s.after dt).assayHalted = false)
    (hel : (s.after dt).assay.supEl + ofNs 1000000000 ≤ (s.after dt).el) : let u := s.after dt
    (u.badVolts < 10 → u.badAmps < 10 → Ends (.supervisionCheck dt) s
      { u with assay := { u.assay with badV := u.badVolts, badI := u.badAmps, supEl := u.el } }) ∧
    (10 ≤ u.badVolts ∨ 10 ≤ u.badAmps → ∃ t, exec (.supervisionCheck dt) s = .next t ∧ (clsSUPPLY, 0) ∈ t.fault.raised) := by
  intro u
  have hexec := exec_supervisionCheck hon hh hel
  refine ⟨fun hv hi => ⟨_, ?_, Alike.refl _⟩, fun hbad => ⟨_, hexec, ?_⟩⟩
  · have hv' : ¬ (s.after dt).badVolts ≥ 10 := Nat.not_le.2 hv
    have hi' : ¬ (s.after dt).badAmps ≥ 10 := Nat.not_le.2 hi
    rw [if_neg (by omega), State.checked, if_neg hv', if_neg hi', State.modAssay] at hexec
    exact hexec
  · rw [if_pos hbad]
    exact State.mem_raised_raiseClass _ _ _ (.inr (.inl rfl))

/-- Settles O37: clock by clock, word by word, sensor by sensor. -/
theorem hardwareWatch : Obligations.HardwareWatch := by
  unfold Obligations.HardwareWatch
  intro s
  refine ⟨fun hon => clockMonitorWindow_spec hon, fun hr mem a i j => ?_, fun dt temps volts => ?_, fun dt => ?_⟩
  · intro n page hb hi hj hij
    exact scrubPass_spec hr hb hi hj hij
  · intro u hon
    exact sensorSample_spec hon temps volts
  · intro u sum v i hon hh hel
    exact supervisionCheck_spec hon hh hel

end Sys2Proof.Machine

/-! ## What the samples of a frame leave alone (rules R164, R167) -/

namespace Sys2Proof.Machine

/-- The sample path leaves the lanes, the time, and every register below the stream pages. -/
structure DataKept (s t : State) : Prop where
  lanes : t.lanes = s.lanes
  el : t.el = s.el
  inReset : t.inReset = s.inReset
  heat : t.heat = s.heat
  cell : ∀ c, c / 0x1000 < 0x030 → t.cell c = s.cell c

theorem DataKept.refl (s : State) : DataKept s s := ⟨rfl, rfl, rfl, rfl, fun _ _ => rfl⟩

theorem DataKept.trans {s t u : State} (h : DataKept s t) (k : DataKept t u) : DataKept s u :=
  ⟨k.lanes.trans h.lanes, k.el.trans h.el, k.inReset.trans h.inReset, k.heat.trans h.heat,
    fun c hc => (k.cell c hc).trans (h.cell c hc)⟩

/-- A fold of steps that the sample path may take is one. -/
theorem DataKept.foldl {α : Type} {f : State → α → State} (h : ∀ s a, DataKept s (f s a)) (l : List α) (s : State) :
    DataKept s (l.foldl f s) :=
  List.foldlRecOn (motive := fun t : State => DataKept s t) l f (DataKept.refl s) fun t ht a _ => ht.trans (h t a)

theorem DataKept.setChain (s : State) (st : Nat) (c : Chain) : DataKept s (s.setChain st c) := ⟨rfl, rfl, rfl, rfl, fun _ _ => rfl⟩
theorem DataKept.setSnap (s : State) (n : Nat) (x : Snap) : DataKept s (s.setSnap n x) := ⟨rfl, rfl, rfl, rfl, fun _ _ => rfl⟩
theorem DataKept.setJob (s : State) (i : Nat) (x : Job) : DataKept s (s.setJob i x) := ⟨rfl, rfl, rfl, rfl, fun _ _ => rfl⟩
theorem DataKept.setGroup (s : State) (g : Nat) (x : Group) : DataKept s (s.setGroup g x) := ⟨rfl, rfl, rfl, rfl, fun _ _ => rfl⟩

/-! ### Channels and captures -/

theorem DataKept.chanSample (s : State) (i : Nat) (x : Smp) (els : Nat → Cx) (t ts : Rat) (drops : List Nat) :
    DataKept s (s.chanSample i x els t ts drops) := by
  rw [State.chanSample]
  split
  · exact DataKept.refl s
  · exact ⟨rfl, rfl, rfl, rfl, fun _ _ => rfl⟩

theorem DataKept.putSample (s : State) (n i : Nat) (y : Int × Int) : DataKept s (s.putSample n i y) := by
  rw [State.putSample]
  split
  · exact DataKept.refl s
  · exact ⟨rfl, rfl, rfl, rfl, fun _ _ => rfl⟩

theorem DataKept.storeNext (s : State) (i : Nat) (y : Int × Int) : DataKept s (s.storeNext i y) := by
  rw [State.storeNext]
  split
  · exact (DataKept.setSnap ..).trans (DataKept.setJob ..)
  · exact (DataKept.setSnap ..).trans (DataKept.putSample ..)

theorem DataKept.storeDue (fuel i : Nat) (t ts : Rat) (s : State) : DataKept s (s.storeDue fuel i t ts) := by
  induction fuel generalizing s with
  | zero => exact DataKept.refl s
  | succ fuel ih =>
    rw [State.storeDue]
    split
    · exact (DataKept.storeNext ..).trans (ih _)
    · exact DataKept.refl s

theorem DataKept.snapSample (s : State) (n : Nat) (x : Smp) (brk : Bool) (cond : Nat) (t ts : Rat) (drop : Bool) :
    DataKept s (s.snapSample n x brk cond t ts drop) := by
  rw [State.snapSample]
  split
  · exact DataKept.refl s
  · next i rest _ =>
    have hstep : ∀ (u : State) (k : Nat) (p : Prop) [Decidable p] (j : Job), DataKept u (if p then u else u.setJob k j) := by
      intro u k p _ j
      split
      · exact DataKept.refl u
      · exact DataKept.setJob ..
    extract_lets h _ x1 _ s1 start ws last s2
    have hs2 : DataKept s s2 := (DataKept.setSnap ..).trans (DataKept.foldl (fun u k => hstep u k _ _) (i :: rest) s1)
    split
    · exact hs2
    · exact hs2.trans (DataKept.storeDue ..)

theorem DataKept.toUsers (s : State) (st : Nat) (x : Smp) (els : Nat → Cx) (brk : Bool) (cond : Nat) (t ts : Rat) (drops : List Nat) :
    DataKept s (s.toUsers st x els brk cond t ts drops) := by
  rw [State.toUsers, State.capture]
  exact (DataKept.foldl (fun u e => DataKept.chanSample ..) _ _).trans (DataKept.foldl (fun u n => DataKept.snapSample ..) _ _)

/-! ### The spatial combiner -/

theorem DataKept.combineDue (fuel g : Nat) (s : State) : DataKept s (s.combineDue fuel g) := by
  induction fuel generalizing s with
  | zero => exact DataKept.refl s
  | succ fuel ih =>
    rw [State.combineDue]
    split
    · exact ((DataKept.setGroup ..).trans (DataKept.toUsers ..)).trans (ih _)
    · exact DataKept.refl s

theorem DataKept.toGroup (s : State) (g k : Nat) (x : Smp) (brk : Bool) (raw ts : Rat) : DataKept s (s.toGroup g k x brk raw ts) := by
  have hspoil : ∀ (u : State) (l : List (Nat × Job)), DataKept u (if brk then { u with jobs := l } else u) := by
    intro u l
    split
    · exact ⟨rfl, rfl, rfl, rfl, fun _ _ => rfl⟩
    · exact DataKept.refl u
  rw [State.toGroup]
  exact ((DataKept.setGroup ..).trans (hspoil ..)).trans (DataKept.combineDue ..)

theorem DataKept.lostTaps (s : State) (st : Nat) (x : Smp) (t : Rat) : DataKept s (s.lostTaps st x t) := by
  rw [State.lostTaps]
  refine DataKept.foldl (fun u e => DataKept.foldl (fun v k => ?_) _ _) _ _
  split
  · exact ⟨rfl, rfl, rfl, rfl, fun _ _ => rfl⟩
  · exact DataKept.refl v

theorem DataKept.sink (s : State) (st : Nat) (x : Smp) (brk : Bool) (raw delay ts : Rat) (drops : List Nat) :
    DataKept s (s.sink st x brk raw delay ts drops) := by
  have husers : DataKept s ((s.toUsers st x (fun _ => {}) brk (s.chain st).stat (raw - delay) ts drops).lostTaps st x (raw - delay)) :=
    (DataKept.toUsers ..).trans (DataKept.lostTaps ..)
  rw [State.sink]
  split
  · exact DataKept.refl s
  · dsimp only
    split
    · exact husers
    · split
      · exact husers
      · exact husers.trans (DataKept.toGroup ..)

/-! ### A frame's slots -/

theorem DataKept.slotOut (s : State) (n : Nat) (t : Nat × Nat × Nat) (o : Option Smp) (drops : List Nat) :
    DataKept s (s.slotOut n t o drops) := by
  cases o with
  | none => exact DataKept.refl s
  | some v =>
    cases hb : (s.lane n).blk with
    | none => simp only [State.slotOut, hb]; exact DataKept.refl s
    | some b => simp only [State.slotOut, hb]; exact DataKept.sink ..

theorem DataKept.fillSample (s : State) (st : Nat) : DataKept s (s.fillSample st).2 := by
  rw [State.fillSample]
  split
  · exact DataKept.refl s
  · exact DataKept.setChain ..

theorem condPage_ge (st : Nat) : 0x030 ≤ condPage st := by
  unfold condPage
  omega

theorem condOff_lt {st o : Nat} (ho : o ≤ 0x40) : condOff st o < 0x1000 := by
  unfold condOff
  omega

theorem DataKept.realSample (s : State) (st fmt : Nat) (odd : Bool) (i q : Nat) : DataKept s (s.realSample st fmt odd i q).2 := by
  have hcount : ∀ u : State, DataKept u (u.count (condPage st) (condOff st 0x40)) := fun u =>
    ⟨by rw [State.count, State.setReg_lanes], rfl, rfl, rfl, fun c hc => State.cell_count_of_page (condOff_lt (by decide))
      (by have := condPage_ge st; omega)⟩
  rw [State.realSample]
  split
  · exact DataKept.refl s
  · dsimp only
    split
    · exact (DataKept.setChain ..).trans (hcount _)
    · exact DataKept.setChain ..

theorem DataKept.fillSlots (s : State) (n : Nat) (drops : List Nat) : DataKept s (s.fillSlots n drops) := by
  rw [State.fillSlots]
  exact DataKept.foldl (fun u t => (DataKept.fillSample ..).trans (DataKept.slotOut ..)) _ _

theorem DataKept.deliver (s : State) (n : Nat) (fill : Bool) (codes : List (BitVec 8 × BitVec 8)) (drops : List Nat) :
    DataKept s (s.deliver n fill codes drops) := by
  rw [State.deliver]
  split
  · exact DataKept.fillSlots ..
  · exact DataKept.foldl (fun u t => (DataKept.realSample ..).trans (DataKept.slotOut ..)) _ _

/-- A stream's conditioning status noted for a block. -/
theorem DataKept.markStat (s : State) (st : Nat) : DataKept s (s.markStat st) := DataKept.setChain ..

end Sys2Proof.Machine

/-! ## Lanes: what their steps change (rules R160 to R172) -/

namespace Sys2Proof.Machine

theorem State.lane_of_lanes {s t : State} (h : t.lanes = s.lanes) (n : Nat) : t.lane n = s.lane n := by
  rw [State.lane, h, State.lane]

@[simp] theorem State.lane_setLane_same (s : State) (n : Nat) (x : Lane) : (s.setLane n x).lane n = x := Tab.get_set_same ..

theorem State.lane_setLane_ne (s : State) {n m : Nat} (x : Lane) (h : m ≠ n) : (s.setLane n x).lane m = s.lane m :=
  Tab.get_set_ne _ _ _ h

@[simp] theorem State.lane_modLane_same (s : State) (n : Nat) (f : Lane → Lane) : (s.modLane n f).lane n = f (s.lane n) := by
  rw [State.modLane, State.lane_setLane_same]

theorem State.lane_modLane_ne (s : State) {n m : Nat} (f : Lane → Lane) (h : m ≠ n) : (s.modLane n f).lane m = s.lane m := by
  rw [State.modLane, State.lane_setLane_ne _ _ h]

@[simp] theorem State.cell_setLane (s : State) (n : Nat) (x : Lane) (c : Nat) : (s.setLane n x).cell c = s.cell c := by
  rw [State.setLane]; rfl
@[simp] theorem State.cell_modLane (s : State) (n : Nat) (f : Lane → Lane) (c : Nat) : (s.modLane n f).cell c = s.cell c := by
  rw [State.modLane, State.cell_setLane]
@[simp] theorem State.lane_raise (s : State) (p bit m : Nat) : (s.raise p bit).lane m = s.lane m := State.lane_of_lanes (s.raise_lanes ..) m
@[simp] theorem State.lane_setReg (s : State) (p o : Nat) (v : Word) (m : Nat) : (s.setReg p o v).lane m = s.lane m :=
  State.lane_of_lanes (s.setReg_lanes ..) m
@[simp] theorem State.lane_count (s : State) (p o m : Nat) : (s.count p o).lane m = s.lane m := by rw [State.count, State.lane_setReg]
@[simp] theorem State.lane_capErr (s : State) (p code off m : Nat) : (s.capErr p code off).lane m = s.lane m :=
  State.lane_of_lanes (s.capErr_lanes ..) m

/-! ### A lane's events -/

/-- A lane's events that stood still stand. -/
structure EventsStand (n : Nat) (s t : State) : Prop where
  stand : ∀ b, (s.reg (lanePage n) 0x014).getLsbD b = true → (t.reg (lanePage n) 0x014).getLsbD b = true

section events

variable {n : Nat} {s t u : State}

theorem EventsStand.refl (n : Nat) (s : State) : EventsStand n s s := ⟨fun _ h => h⟩

theorem EventsStand.trans (h : EventsStand n s t) (k : EventsStand n t u) : EventsStand n s u :=
  ⟨fun b hb => k.stand b (h.stand b hb)⟩

theorem EventsStand.of_cell (h : t.cell (addr (lanePage n) 0x014) = s.cell (addr (lanePage n) 0x014)) : EventsStand n s t :=
  ⟨fun b hb => by rwa [State.reg_cell, h]⟩

theorem EventsStand.raise (n : Nat) (s : State) (p bit : Nat) : EventsStand n s (s.raise p bit) := by
  refine ⟨fun b hb => ?_⟩
  rw [State.reg_cell, State.cell_raise]
  split
  · exact getLsbD_or_of_set hb
  · exact hb

/-- Another register's place is none of a lane's events. -/
theorem addr_event_ne {p q o : Nat} (ho : o < 0x1000) (hne : o ≠ 0x014) : addr q 0x014 ≠ addr p o := fun h =>
  hne (addr_inj (by decide) ho h).2.symm

theorem EventsStand.setReg (n : Nat) (s : State) {p o : Nat} (v : Word) (ho : o < 0x1000) (hne : o ≠ 0x014) :
    EventsStand n s (s.setReg p o v) :=
  EventsStand.of_cell (by rw [State.cell_setReg, if_neg (addr_event_ne ho hne)])

theorem EventsStand.count (n : Nat) (s : State) {p o : Nat} (ho : o < 0x1000) (hne : o ≠ 0x014) : EventsStand n s (s.count p o) :=
  EventsStand.setReg n s _ ho hne

theorem EventsStand.countErr (n : Nat) (s : State) (p : Nat) : EventsStand n s (s.countErr p) := by
  have hcount : EventsStand n s (s.count p 0x024) := EventsStand.count n s (by decide) (by decide)
  rw [State.countErr]
  split
  · exact hcount.trans (EventsStand.raise ..)
  · exact hcount

theorem EventsStand.capErr (n : Nat) (s : State) (p code off : Nat) : EventsStand n s (s.capErr p code off) := by
  have hcount := EventsStand.countErr n s p
  rw [State.capErr]
  split
  · exact hcount
  · exact (hcount.trans (EventsStand.setReg n _ (p := p) (o := 0x020) _ (by decide) (by decide))).trans (EventsStand.raise ..)

theorem lanePage_lt {n : Nat} (hn : n < 8) : lanePage n < 0x030 := by
  unfold lanePage
  omega

theorem DataKept.reg {n o : Nat} (h : DataKept s t) (hn : n < 8) (ho : o < 0x1000) : t.reg (lanePage n) o = s.reg (lanePage n) o := by
  rw [State.reg_cell, h.cell _ (by rw [addr_div ho]; exact lanePage_lt hn), State.reg_cell]

theorem DataKept.events (h : DataKept s t) (hn : n < 8) : EventsStand n s t :=
  ⟨fun b hb => by rwa [h.reg hn (by decide)]⟩

end events

/-! ### Blocks and fill (rules R161 to R165) -/

/-- Filling changes a lane's block in progress, its number and the time of its last fill frame, and no other lane. -/
structure Fills (n : Nat) (s t : State) : Prop where
  el : t.el = s.el
  inReset : t.inReset = s.inReset
  other : ∀ m, m ≠ n → t.lane m = s.lane m
  same : ∃ b k e, t.lane n = { s.lane n with blk := b, nextBlk := k, fillEl := e }
  events : EventsStand n s t

section fills

variable {n : Nat} {s t u : State}

theorem Fills.refl (n : Nat) (s : State) : Fills n s s := ⟨rfl, rfl, fun _ _ => rfl, ⟨_, _, _, rfl⟩, EventsStand.refl n s⟩

theorem Fills.trans (h : Fills n s t) (k : Fills n t u) : Fills n s u := by
  obtain ⟨b, j, e, hsame⟩ := h.same
  obtain ⟨b', j', e', hsame'⟩ := k.same
  exact ⟨k.el.trans h.el, k.inReset.trans h.inReset, fun m hm => (k.other m hm).trans (h.other m hm),
    ⟨b', j', e', by rw [hsame', hsame]⟩, h.events.trans k.events⟩

/-- A step that leaves the lanes and lets events stand. -/
theorem Fills.of_lanes (hel : t.el = s.el) (hr : t.inReset = s.inReset) (hl : ∀ m, t.lane m = s.lane m) (he : EventsStand n s t) :
    Fills n s t :=
  ⟨hel, hr, fun m _ => hl m, ⟨_, _, _, hl n⟩, he⟩

theorem Fills.of_data (hn : n < 8) (h : DataKept s t) : Fills n s t :=
  Fills.of_lanes h.el h.inReset (State.lane_of_lanes h.lanes) (h.events hn)

theorem Fills.raise (n : Nat) (s : State) (p bit : Nat) : Fills n s (s.raise p bit) :=
  Fills.of_lanes (s.raise_el ..) (s.raise_inReset ..) (s.lane_raise p bit) (EventsStand.raise ..)

theorem Fills.count (n : Nat) (s : State) {p o : Nat} (ho : o < 0x1000) (hne : o ≠ 0x014) : Fills n s (s.count p o) :=
  Fills.of_lanes (by rw [State.count_el]) (by rw [State.count, State.setReg_inReset]) (s.lane_count p o) (EventsStand.count n s ho hne)

theorem Fills.capErr (n : Nat) (s : State) (p code off : Nat) : Fills n s (s.capErr p code off) :=
  Fills.of_lanes (s.capErr_el ..) (s.capErr_inReset ..) (s.lane_capErr p code off) (EventsStand.capErr ..)

/-- A lane changed in its block, its number and its fill alone. -/
theorem Fills.setLane {x : Lane} (hx : ∃ b k e, x = { s.lane n with blk := b, nextBlk := k, fillEl := e }) : Fills n s (s.setLane n x) :=
  ⟨by rw [State.setLane], by rw [State.setLane], fun m hm => s.lane_setLane_ne x hm, by rwa [State.lane_setLane_same],
    EventsStand.of_cell (s.cell_setLane ..)⟩

theorem Fills.modLane {f : Lane → Lane} (hf : ∃ b k e, f (s.lane n) = { s.lane n with blk := b, nextBlk := k, fillEl := e }) :
    Fills n s (s.modLane n f) :=
  Fills.setLane hf

theorem Fills.newBlock (hn : n < 8) (s : State) (stamp : Nat) (fill mask disc : Bool) (gap : Nat) :
    Fills n s (s.newBlock n stamp fill mask disc gap) := by
  have hraise : ∀ (u : State) (p : Prop) [Decidable p], Fills n u (if p then u.raise (lanePage n) 20 else u) := by
    intro u p _
    split
    · exact Fills.raise ..
    · exact Fills.refl n u
  have hcount : ∀ u : State, Fills n u (if fill then u.count (lanePage n) 0x0C4 else u) := by
    intro u
    split
    · exact Fills.count n u (by decide) (by decide)
    · exact Fills.refl n u
  rw [State.newBlock]
  exact (((Fills.setLane ⟨_, _, _, rfl⟩).trans (hraise ..)).trans
    (Fills.of_data hn (DataKept.foldl DataKept.markStat _ _))).trans (hcount _)

theorem Fills.markFill (n : Nat) (s : State) : Fills n s (s.markFill n) := by
  rw [State.markFill]
  split
  · split
    · exact Fills.refl n s
    · exact (Fills.modLane ⟨_, _, _, rfl⟩).trans (Fills.count n _ (by decide) (by decide))
  · exact Fills.refl n s

theorem Fills.frameIn (hn : n < 8) (s : State) (stamp : Nat) (fill : Bool) : Fills n s (s.frameIn n stamp fill) := by
  rw [State.frameIn]
  refine Fills.trans ?_ (Fills.modLane ⟨_, _, _, rfl⟩)
  split
  · exact Fills.newBlock hn ..
  · split
    · exact Fills.markFill ..
    · exact Fills.refl n s

theorem Fills.fillSteps (hn : n < 8) (k : Nat) (s : State) (el0 i : Nat) : Fills n s (s.fillSteps k n el0 i) := by
  induction k generalizing s i with
  | zero => exact Fills.refl n s
  | succ k ih =>
    rw [State.fillSteps]
    exact ((Fills.frameIn hn ..).trans (Fills.of_data hn (DataKept.fillSlots ..))).trans (ih ..)

/-- The fill of a lane, paced up to now. -/
theorem Fills.pace (hn : n < 8) (s : State) : Fills n s (s.pace n) := by
  rw [State.pace]
  split
  · exact Fills.refl n s
  · exact (Fills.fillSteps hn ..).trans (Fills.modLane ⟨_, _, _, rfl⟩)

/-- A lane that fills nothing is not paced. -/
theorem State.pace_of_not_fill {s : State} {n : Nat} (h : (s.lane n).fillRun = false) : s.pace n = s := by
  rw [State.pace, h, if_pos (by rfl)]

theorem Fills.countDrops (n : Nat) (s : State) (drops : List Nat) : Fills n s (s.countDrops n drops) := by
  rw [State.countDrops]
  exact List.foldlRecOn (motive := fun t : State => Fills n s t) _ _ (Fills.refl n s) fun t ht d _ => ht.trans (Fills.capErr ..)

theorem Fills.deliver (hn : n < 8) (s : State) (fill : Bool) (codes : List (BitVec 8 × BitVec 8)) (drops : List Nat) :
    Fills n s (s.deliver n fill codes drops) :=
  Fills.of_data hn (DataKept.deliver ..)

end fills

end Sys2Proof.Machine

namespace Sys2Proof.Machine

/-! ### Common clocks (rules R179, R180) -/

/-- The common clocks' steps change only a lane's common-clock part, and raise CC_LOST. -/
structure CcOnly (s t : State) : Prop where
  lane : ∀ m, ∃ o r l, t.lane m = { s.lane m with ccOk := o, ccRun := r, ccLost := l }
  cell : ∀ c, (∀ m, c ≠ addr (lanePage m) 0x014) → t.cell c = s.cell c
  events : ∀ n, EventsStand n s t

section cc

variable {s t u : State}

theorem CcOnly.refl (s : State) : CcOnly s s := ⟨fun _ => ⟨_, _, _, rfl⟩, fun _ _ => rfl, fun n => EventsStand.refl n s⟩

theorem CcOnly.trans (h : CcOnly s t) (k : CcOnly t u) : CcOnly s u := by
  refine ⟨fun m => ?_, fun c hc => (k.cell c hc).trans (h.cell c hc), fun n => (h.events n).trans (k.events n)⟩
  obtain ⟨o, r, l, ht⟩ := h.lane m
  obtain ⟨o', r', l', hu⟩ := k.lane m
  exact ⟨o', r', l', by rw [hu, ht]⟩

theorem CcOnly.modLane {n : Nat} {f : Lane → Lane} (hf : ∃ o r l, f (s.lane n) = { s.lane n with ccOk := o, ccRun := r, ccLost := l }) :
    CcOnly s (s.modLane n f) := by
  refine ⟨fun m => ?_, fun c _ => s.cell_modLane n f c, fun _ => EventsStand.of_cell (s.cell_modLane ..)⟩
  by_cases hm : m = n
  · subst hm
    rw [State.lane_modLane_same]
    exact hf
  · rw [State.lane_modLane_ne _ _ hm]
    exact ⟨_, _, _, rfl⟩

theorem CcOnly.raise (s : State) (m bit : Nat) : CcOnly s (s.raise (lanePage m) bit) :=
  ⟨fun k => ⟨_, _, _, s.lane_raise (lanePage m) bit k⟩, fun c hc => by rw [State.cell_raise, if_neg (hc m)], fun _ => EventsStand.raise ..⟩

theorem CcOnly.ccFell (s old : State) : CcOnly s (s.ccFell old) := by
  rw [State.ccFell]
  refine List.foldlRecOn (motive := fun t : State => CcOnly s t) _ _ (CcOnly.refl s) fun t ht m _ => ht.trans ?_
  split
  · exact (CcOnly.modLane ⟨_, _, _, rfl⟩).trans (CcOnly.raise ..)
  · exact CcOnly.refl t

theorem CcOnly.ccLeave (s : State) (n : Nat) : CcOnly s (s.ccLeave n) := by
  rw [State.ccLeave]
  exact List.foldlRecOn (motive := fun t : State => CcOnly s t) _ _ (CcOnly.refl s) fun t ht m _ => ht.trans (CcOnly.modLane ⟨_, _, _, rfl⟩)

end cc

/-! ### A change of a lane's state (rules R169, R170) -/

/-- What a lane's change to a state leaves. -/
structure MovedTo (n : Nat) (st : LaneSt) (s t : State) : Prop where
  lane : ∃ w u bh gh o r l, t.lane n = { s.lane n with
    st := st, unq := u, win := w, badHeats := bh, goodHeats := gh, ccOk := o, ccRun := r, ccLost := l }
  other : ∀ m, m ≠ n → (t.lane m).st = (s.lane m).st
  changed : (t.reg (lanePage n) 0x014).getLsbD 16 = true
  hz : st ≠ .qualified → st ≠ .notQualified → t.reg (lanePage n) 0x08C = 0
  ppb : st ≠ .notQualified → t.reg (lanePage n) 0x090 = 0
  events : EventsStand n s t
  reg : ∀ o, o < 0x1000 → o ∉ [0x014, 0x08C, 0x090] → t.reg (lanePage n) o = s.reg (lanePage n) o

/-- The window of a lane's rate discarded. -/
def State.noRate (s : State) (n : Nat) : State := s.modLane n fun x => { x with win := [], badHeats := 0, goodHeats := 0 }

/-- The rate registers of a lane that goes to a state. -/
def State.rateShown (s : State) (n : Nat) (st : LaneSt) : State :=
  let s2 := if st = .qualified ∨ st = .notQualified then s else s.setReg (lanePage n) 0x08C 0
  let s3 := if st = .notQualified then s2 else s2.noRate n
  if st = .notQualified then s3 else s3.setReg (lanePage n) 0x090 0

theorem State.laneTo_eq {s : State} {n : Nat} {st : LaneSt} (h : (s.lane n).st ≠ st) : s.laneTo n st =
    (((((if (s.lane n).st = .qualified then s.ccLeave n else s).modLane n fun x =>
      { x with st := st, unq := x.unq || st != .qualified }).raise (lanePage n) 16).rateShown n st).ccFell s) := by
  rw [State.laneTo, if_neg h, State.rateShown, State.noRate]

/-- What showing a lane's rate for its new state leaves. -/
structure RateShown (n : Nat) (st : LaneSt) (s t : State) : Prop where
  lane : ∃ w bh gh, t.lane n = { s.lane n with win := w, badHeats := bh, goodHeats := gh }
  other : ∀ m, m ≠ n → t.lane m = s.lane m
  hz : st ≠ .qualified → st ≠ .notQualified → t.reg (lanePage n) 0x08C = 0
  ppb : st ≠ .notQualified → t.reg (lanePage n) 0x090 = 0
  events : EventsStand n s t
  reg : ∀ o, o < 0x1000 → o ≠ 0x08C → o ≠ 0x090 → t.reg (lanePage n) o = s.reg (lanePage n) o

theorem State.reg_setReg_other {s : State} {p o q : Nat} {v : Word} (ho : o < 0x1000) (hq : q < 0x1000) (h : o ≠ q) :
    (s.setReg p q v).reg p o = s.reg p o := by
  rw [State.reg_cell, State.cell_setReg, if_neg fun e => h (addr_inj ho hq e).2, State.reg_cell]

theorem State.reg_setReg_same (s : State) (p o : Nat) (v : Word) : (s.setReg p o v).reg p o = v := by
  rw [State.reg_cell, State.cell_setReg, if_pos rfl]

/-- The rate's window discarded and the deviation's register cleared. -/
theorem rateShown_noPpb (s : State) (n : Nat) : let t := (s.noRate n).setReg (lanePage n) 0x090 0
    RateShown n .qualified s t ∧ ∀ o, o < 0x1000 → o ≠ 0x090 → t.reg (lanePage n) o = s.reg (lanePage n) o := by
  have hreg : ∀ o, o < 0x1000 → o ≠ 0x090 → ((s.noRate n).setReg (lanePage n) 0x090 0).reg (lanePage n) o = s.reg (lanePage n) o := by
    intro o ho h90
    rw [State.reg_setReg_other ho (by decide) h90, State.reg_cell, State.noRate, State.cell_modLane, State.reg_cell]
  refine ⟨⟨⟨[], 0, 0, ?_⟩, fun m hm => ?_, fun h => absurd rfl h, fun _ => State.reg_setReg_same .., ?_, fun o ho _ h90 => hreg o ho h90⟩, hreg⟩
  · rw [State.lane_setReg, State.noRate, State.lane_modLane_same]
  · rw [State.lane_setReg, State.noRate, State.lane_modLane_ne _ _ hm]
  · exact (EventsStand.of_cell (s.cell_modLane ..)).trans (EventsStand.setReg n _ _ (by decide) (by decide))

theorem State.rateShown_notQualified (s : State) (n : Nat) : s.rateShown n .notQualified = s := by
  simp [State.rateShown]

theorem State.rateShown_qualified (s : State) (n : Nat) :
    s.rateShown n .qualified = (s.noRate n).setReg (lanePage n) 0x090 0 := by
  simp [State.rateShown]

theorem State.rateShown_of_neither (s : State) (n : Nat) {st : LaneSt} (hq : st ≠ .qualified) (hnq : st ≠ .notQualified) :
    s.rateShown n st = ((s.setReg (lanePage n) 0x08C 0).noRate n).setReg (lanePage n) 0x090 0 := by
  simp [State.rateShown, hq, hnq]

theorem State.rateShown_spec (s : State) (n : Nat) (st : LaneSt) : RateShown n st s (s.rateShown n st) := by
  by_cases hnq : st = .notQualified
  · subst hnq
    rw [State.rateShown_notQualified]
    exact ⟨⟨_, _, _, rfl⟩, fun _ _ => rfl, fun _ h => absurd rfl h, fun h => absurd rfl h, EventsStand.refl n s, fun _ _ _ _ => rfl⟩
  by_cases hq : st = .qualified
  · subst hq
    rw [State.rateShown_qualified]
    exact (rateShown_noPpb s n).1
  · rw [State.rateShown_of_neither s n hq hnq]
    obtain ⟨⟨⟨w, bh, gh, hlane⟩, hother, -, hppb, hevents, -⟩, hreg⟩ := rateShown_noPpb (s.setReg (lanePage n) 0x08C 0) n
    refine ⟨⟨w, bh, gh, by rw [← State.lane_setReg s (lanePage n) 0x08C 0 n]; exact hlane⟩,
      fun m hm => (hother m hm).trans (s.lane_setReg ..), fun _ _ => ?_, fun _ => hppb (by decide),
      (EventsStand.setReg n s _ (by decide) (by decide)).trans hevents, fun o ho h8C h90 => ?_⟩
    · exact (hreg 0x08C (by decide) (by decide)).trans (State.reg_setReg_same ..)
    · exact (hreg o ho h90).trans (State.reg_setReg_other ho (by decide) h8C)

theorem State.movedTo_laneTo {s : State} {n : Nat} {st : LaneSt} (h : (s.lane n).st ≠ st) : MovedTo n st s (s.laneTo n st) := by
  have hleave : CcOnly s (if (s.lane n).st = .qualified then s.ccLeave n else s) := by
    split
    · exact CcOnly.ccLeave ..
    · exact CcOnly.refl s
  rw [State.laneTo_eq h]
  generalize (if (s.lane n).st = .qualified then s.ccLeave n else s) = s0 at hleave ⊢
  set s1 := (s0.modLane n fun x => { x with st := st, unq := x.unq || st != .qualified }).raise (lanePage n) 16 with hs1
  have hrate := s1.rateShown_spec n st
  have hfell := CcOnly.ccFell (s1.rateShown n st) s
  have hmoved : s1.lane n = { s0.lane n with st := st, unq := (s0.lane n).unq || st != .qualified } := by
    rw [hs1, State.lane_raise, State.lane_modLane_same]
  have hkept : ∀ o, o < 0x1000 → o ∉ [0x014, 0x08C, 0x090] → s1.reg (lanePage n) o = s.reg (lanePage n) o := fun o ho hne => by
    have h14 : o ≠ 0x014 := fun e => hne (by simp [e])
    rw [State.reg_cell, hs1, State.cell_raise, if_neg fun e => h14 (addr_inj ho (by decide) e).2, State.cell_modLane,
      hleave.cell _ fun m e => h14 (addr_inj ho (by decide) e).2, State.reg_cell]
  have hfellReg : ∀ o, o < 0x1000 → o ≠ 0x014 →
      ((s1.rateShown n st).ccFell s).reg (lanePage n) o = (s1.rateShown n st).reg (lanePage n) o := fun o ho h14 => by
    rw [State.reg_cell, hfell.cell _ fun m e => h14 (addr_inj ho (by decide) e).2, State.reg_cell]
  refine ⟨?_, fun m hm => ?_, ?_, fun hq hnq => ?_, fun hnq => ?_, ?_, fun o ho hne => ?_⟩
  · obtain ⟨w, bh, gh, hlane⟩ := hrate.lane
    obtain ⟨o, r, l, hcc⟩ := hfell.lane n
    obtain ⟨o', r', l', hcc'⟩ := hleave.lane n
    exact ⟨w, _, bh, gh, o, r, l, by rw [hcc, hlane, hmoved, hcc']⟩
  · obtain ⟨o, r, l, hcc⟩ := hfell.lane m
    obtain ⟨o', r', l', hcc'⟩ := hleave.lane m
    rw [hcc, hrate.other m hm, hs1, State.lane_raise, State.lane_modLane_ne _ _ hm, hcc']
  · exact (hrate.events.trans (hfell.events n)).stand 16 (State.irq_raise_same _ _ (by decide))
  · rw [hfellReg _ (by decide) (by decide), hrate.hz hq hnq]
  · rw [hfellReg _ (by decide) (by decide), hrate.ppb hnq]
  · have hs : EventsStand n s0 s1 := (EventsStand.of_cell (s0.cell_modLane ..)).trans (EventsStand.raise ..)
    exact (((hleave.events n).trans hs).trans hrate.events).trans (hfell.events n)
  · have hne' := hne
    simp only [List.mem_cons, List.not_mem_nil, or_false, not_or] at hne'
    rw [hfellReg o ho hne'.1, hrate.reg o ho hne'.2.1 hne'.2.2, hkept o ho hne]

end Sys2Proof.Machine

namespace Sys2Proof.Machine

/-! ### Clock events (rules R170, R173) -/

section clock

variable {lane : Fin 8} {s : State} {dt : Nat} (hr : (s.after dt).inReset = false)
include hr

/-- A glitch of a lane's clock, counted. -/
theorem exec_glitch (hoff : ((s.after dt).lane lane.val).st ≠ .off) : exec (.glitch lane dt) s =
    .next ((if fld ((s.after dt).reg (lanePage lane.val) 0x0B8) 16 0 = 0 then (s.after dt).raise (lanePage lane.val) 21
      else s.after dt).count (lanePage lane.val) 0x0B8) := by
  change execGlitch lane dt s = _
  have hgo : ((s.after dt).inReset || ((s.after dt).lane lane.val).st == .off) = false := by simp [hr, hoff]
  rw [execGlitch, hgo, if_neg Bool.false_ne_true]

/-- A glitch is counted, reported where it is the first, and touches nothing else (rule R173). -/
theorem glitch_spec (hoff : ((s.after dt).lane lane.val).st ≠ .off) : let p := lanePage lane.val
    let u := s.after dt
    ∃ t, exec (.glitch lane dt) s = .next t ∧ t.reg p 0x0B8 = cntUp (u.reg p 0x0B8) ∧
      (fld (u.reg p 0x0B8) 16 0 = 0 → (t.reg p 0x014).getLsbD 21 = true) ∧ RegsKept [addr p 0x014, addr p 0x0B8] u t ∧
      t.lanes = u.lanes := by
  intro p u
  refine ⟨_, exec_glitch hr hoff, ?_, fun hfirst => ?_, fun c hc => ?_, ?_⟩
  · rw [State.reg_cell, State.cell_count, if_pos rfl]
    split
    · rw [State.cell_raise, if_neg (addr_event_ne (by decide) (by decide)).symm, State.reg_cell]
    · rfl
  · rw [State.reg_cell, State.cell_count, if_neg (addr_event_ne (by decide) (by decide)), if_pos hfirst, ← State.reg_cell]
    exact State.irq_raise_same _ _ (by decide)
  · have h14 : c ≠ addr p 0x014 := fun e => hc (by simp [e])
    have hB8 : c ≠ addr p 0x0B8 := fun e => hc (by simp [e])
    rw [State.cell_count, if_neg hB8]
    split
    · rw [State.cell_raise, if_neg h14]
    · rfl
  · rw [State.count, State.setReg_lanes]
    split
    · exact State.raise_lanes ..
    · rfl

theorem exec_clockEdge (hst : ((s.after dt).lane lane.val).st = .stopped ∨ ((s.after dt).lane lane.val).st = .absent) :
    exec (.clockEdge lane dt) s = .next ((s.after dt).laneTo lane.val .acquire) := by
  change execClockEdge lane dt s = _
  rw [execClockEdge, hr, if_neg Bool.false_ne_true, if_pos hst]

theorem exec_acquireDone (hst : ((s.after dt).lane lane.val).st = .acquire) : exec (.acquireDone lane dt) s =
    .next (((s.after dt).modLane lane.val fun y => { y with cand := false, edge := none }).laneTo lane.val .framing) := by
  change execAcquireDone lane dt s = _
  have hgo : (!(s.after dt).inReset && ((s.after dt).lane lane.val).st == .acquire) = true := by simp [hr, hst]
  rw [execAcquireDone, hgo, if_pos rfl]

end clock

/-- What a lane's move to a state that reports no rate leaves, as the clauses say it. -/
theorem MovedTo.unrated {n : Nat} {st : LaneSt} {s t : State} (h : MovedTo n st s t) (hq : st ≠ .qualified) (hnq : st ≠ .notQualified) :
    (t.lane n).st = st ∧ (t.reg (lanePage n) 0x014).getLsbD 16 = true ∧ t.reg (lanePage n) 0x08C = 0 ∧ t.reg (lanePage n) 0x090 = 0 ∧
    (t.lane n).fillRun = (s.lane n).fillRun ∧ ∀ m, m ≠ n → (t.lane m).st = (s.lane m).st := by
  obtain ⟨w, u, bh, gh, o, r, l, hlane⟩ := h.lane
  exact ⟨by rw [hlane], h.changed, h.hz hq hnq, h.ppb hnq, by rw [hlane], h.other⟩

/-- An edge of a stopped or absent lane's clock, and the end of its acquisition (rule R170). -/
theorem clockEvents_spec {lane : Fin 8} {s : State} {dt : Nat} (hr : (s.after dt).inReset = false) : let n := lane.val
    let p := lanePage n
    let u := s.after dt
    ∀ (c : Instr) (a b : LaneSt), (c, a, b) ∈ [(Instr.clockEdge lane dt, LaneSt.stopped, LaneSt.acquire),
      (.clockEdge lane dt, .absent, .acquire), (.acquireDone lane dt, .acquire, .framing)] →
      (u.lane n).st = a → ∃ t, exec c s = .next t ∧ (t.lane n).st = b ∧ (t.reg p 0x014).getLsbD 16 = true ∧ t.reg p 0x08C = 0 ∧
        t.reg p 0x090 = 0 ∧ (t.lane n).fillRun = (u.lane n).fillRun ∧ ∀ m, m ≠ n → (t.lane m).st = (u.lane m).st := by
  intro n p u c a b hmem hst
  simp only [List.mem_cons, List.not_mem_nil, or_false, Prod.mk.injEq] at hmem
  have hne : ∀ st : LaneSt, a ≠ st → (u.lane n).st ≠ st := fun st h e => h (hst.symm.trans e)
  rcases hmem with ⟨rfl, rfl, rfl⟩ | ⟨rfl, rfl, rfl⟩ | ⟨rfl, rfl, rfl⟩
  · exact ⟨_, exec_clockEdge hr (.inl hst), (State.movedTo_laneTo (hne _ (by decide))).unrated (by decide) (by decide)⟩
  · exact ⟨_, exec_clockEdge hr (.inr hst), (State.movedTo_laneTo (hne _ (by decide))).unrated (by decide) (by decide)⟩
  · have hidle : ((u.modLane n fun y => { y with cand := false, edge := none }).lane n).st ≠ .framing := by
      rw [State.lane_modLane_same]
      exact hne _ (by decide)
    obtain ⟨h1, h2, h3, h4, h5, h6⟩ := (State.movedTo_laneTo hidle).unrated (by decide) (by decide)
    rw [State.lane_modLane_same] at h5
    exact ⟨_, exec_acquireDone hr hst, h1, h2, h3, h4, h5, fun m hm => by rw [h6 m hm, State.lane_modLane_ne _ _ hm]⟩

/-! ### A clock that stops, and the end of a fill -/

/-- Whether a lane fills once it delivers no frames. -/
theorem State.lane_startFill (s : State) (n : Nat) : ((s.startFill n).lane n).st = (s.lane n).st ∧
    ((s.startFill n).lane n).fillRun = ((s.lane n).fillRun || ((s.lane n).everReal && !(s.lane n).ended)) ∧
    ((s.startFill n).lane n).blk = (s.lane n).blk ∧ ((s.startFill n).lane n).lastStamp = (s.lane n).lastStamp := by
  rw [State.startFill, State.lane_modLane_same]
  cases hf : (s.lane n).fillRun <;> cases he : (s.lane n).everReal <;> cases hd : (s.lane n).ended <;> simp

theorem State.lane_startFill_ne (s : State) {n m : Nat} (h : m ≠ n) : (s.startFill n).lane m = s.lane m := State.lane_modLane_ne _ _ h

theorem exec_clockStop {lane : Fin 8} {s : State} {dt : Nat} (hr : ((s.after dt).pace lane.val).inReset = false)
    (hst : (((s.after dt).pace lane.val).lane lane.val).st = .qualified ∨ (((s.after dt).pace lane.val).lane lane.val).st = .framing ∨
      (((s.after dt).pace lane.val).lane lane.val).st = .notQualified) : exec (.clockStop lane dt) s =
    .next (let v := (s.after dt).pace lane.val
      let idle := v.modLane lane.val fun y => { y with cand := false, edge := none }
      if (v.lane lane.val).ended then (idle.modLane lane.val fun y => { y with everReal := false }).laneTo lane.val .absent
      else (idle.startFill lane.val).laneTo lane.val .stopped) := by
  change execClockStop lane dt s = _
  rw [execClockStop, hr, if_neg Bool.false_ne_true]
  rcases hst with h | h | h <;> rw [h]

/-- A lane's clock stops: it is stopped and fills, or absent where its fill has ended (rules R164, R170). -/
theorem clockStop_spec {lane : Fin 8} {s : State} {dt : Nat} (hr : (s.after dt).inReset = false) : let n := lane.val
    let p := lanePage n
    let u := s.after dt
    let x := u.lane n
    (x.st = .qualified ∨ x.st = .framing ∨ x.st = .notQualified) → ∃ t, exec (.clockStop lane dt) s = .next t ∧
      (t.lane n).st = (if x.ended then .absent else .stopped) ∧ (t.reg p 0x014).getLsbD 16 = true ∧ t.reg p 0x08C = 0 ∧
      t.reg p 0x090 = 0 ∧ (t.lane n).fillRun = (x.fillRun || (x.everReal && !x.ended)) ∧
      ∀ m, m ≠ n → (t.lane m).st = (u.lane m).st := by
  intro n p u x hst
  have hpace : Fills n u (u.pace n) := Fills.pace lane.isLt u
  obtain ⟨b, k, e, hlane⟩ := hpace.same
  have hst' : ((u.pace n).lane n).st = x.st := by rw [hlane]
  have hmoves : ∀ a : LaneSt, a = .absent ∨ a = .stopped → x.st ≠ a := by
    rintro a (rfl | rfl) h <;> rw [h] at hst <;> exact absurd hst (by decide)
  have hexec := exec_clockStop (lane := lane) (hpace.inReset.trans hr) (by rw [hst']; exact hst)
  refine ⟨_, hexec, ?_⟩
  dsimp only
  have hended : ((u.pace n).lane n).ended = x.ended := by rw [hlane]
  rw [hended]
  by_cases hx : x.ended = true
  rotate_left
  · rw [if_neg hx, if_neg hx]
    have hne : ((((u.pace n).modLane n fun y => { y with cand := false, edge := none }).startFill n).lane n).st ≠ .stopped := by
      rw [(State.lane_startFill _ n).1, State.lane_modLane_same]
      exact fun h => hmoves _ (.inr rfl) (hst'.symm.trans h)
    obtain ⟨h1, h2, h3, h4, h5, h6⟩ := (State.movedTo_laneTo hne).unrated (by decide) (by decide)
    refine ⟨h1, h2, h3, h4, ?_, fun m hm => ?_⟩
    · rw [h5, (State.lane_startFill _ n).2.1, State.lane_modLane_same, hlane]
    · rw [h6 m hm, State.lane_startFill_ne _ hm, State.lane_modLane_ne _ _ hm, hpace.other m hm]
  · rw [if_pos hx, if_pos hx]
    have hne : ((((u.pace n).modLane n fun y => { y with cand := false, edge := none }).modLane n
        fun y => { y with everReal := false }).lane n).st ≠ .absent := by
      rw [State.lane_modLane_same, State.lane_modLane_same]
      exact fun h => hmoves _ (.inl rfl) (hst'.symm.trans h)
    obtain ⟨h1, h2, h3, h4, h5, h6⟩ := (State.movedTo_laneTo hne).unrated (by decide) (by decide)
    refine ⟨h1, h2, h3, h4, ?_, fun m hm => ?_⟩
    · rw [h5, State.lane_modLane_same, State.lane_modLane_same, hlane]
      simp [x, hx]
    · rw [h6 m hm, State.lane_modLane_ne _ _ hm, State.lane_modLane_ne _ _ hm, hpace.other m hm]

theorem exec_fillEnd {lane : Fin 8} {s : State} {dt : Nat} {v : State} (hv : (s.after dt).pace lane.val = v) (hr : v.inReset = false)
    (hf : (v.lane lane.val).fillRun = true) (he : (v.lane lane.val).ended = false) (hq : (v.lane lane.val).st ≠ .qualified)
    (hel : (v.lane lane.val).lastEl + ofNs 100000000 ≤ v.el) : exec (.fillEnd lane dt) s =
    .next (let w := v.modLane lane.val fun y => { y with ended := true, fillRun := false }
      if (v.lane lane.val).st = .stopped then (w.modLane lane.val fun y => { y with everReal := false }).laneTo lane.val .absent
      else w) := by
  change execFillEnd lane dt s = _
  have hgo : (v.inReset || !(v.lane lane.val).fillRun || (v.lane lane.val).ended || (v.lane lane.val).st == .qualified ||
      decide (v.el < (v.lane lane.val).lastEl + ofNs 100000000)) = false := by simp [hr, hf, he, hq, hel]
  rw [execFillEnd, hv, hgo, if_neg Bool.false_ne_true]

/-- The fill of a lane ends after 100 ms without a real frame (rule R170). -/
theorem fillEnd_spec {lane : Fin 8} {s : State} {dt : Nat} (hr : (s.after dt).inReset = false) : let n := lane.val
    let u := s.after dt
    let x := u.lane n
    x.fillRun = true → x.ended = false → x.st ≠ .qualified → x.lastEl + ofNs 100000000 ≤ u.el →
      ∃ t, exec (.fillEnd lane dt) s = .next t ∧ (t.lane n).fillRun = false ∧ (t.lane n).ended = true ∧
        (t.lane n).st = (if x.st = .stopped then .absent else x.st) ∧ ∀ m, m ≠ n → (t.lane m).st = (u.lane m).st := by
  intro n u x hf he hq hel
  have hpace : Fills n u (u.pace n) := Fills.pace lane.isLt u
  obtain ⟨b, k, e, hlane⟩ := hpace.same
  have hst' : ((u.pace n).lane n).st = x.st := by rw [hlane]
  have hexec := exec_fillEnd (lane := lane) (s := s) (dt := dt) rfl (hpace.inReset.trans hr) (by rw [hlane]; exact hf) (by rw [hlane]; exact he)
    (by rw [hst']; exact hq) (by rw [hlane, hpace.el]; exact hel)
  refine ⟨_, hexec, ?_⟩
  dsimp only
  rw [hst']
  by_cases hstop : x.st = .stopped
  · have hne : ((((u.pace n).modLane n fun y => { y with ended := true, fillRun := false }).modLane n
        fun y => { y with everReal := false }).lane n).st ≠ .absent := by
      rw [State.lane_modLane_same, State.lane_modLane_same]
      exact fun h => absurd (hst'.symm.trans h) (by rw [hstop]; decide)
    have hmoved := State.movedTo_laneTo hne
    obtain ⟨w, q, bh, gh, o, r, l, hto⟩ := hmoved.lane
    rw [if_pos hstop, if_pos hstop]
    refine ⟨?_, ?_, ?_, fun m hm => ?_⟩
    · rw [hto, State.lane_modLane_same, State.lane_modLane_same]
    · rw [hto, State.lane_modLane_same, State.lane_modLane_same]
    · rw [hto]
    · rw [hmoved.other m hm, State.lane_modLane_ne _ _ hm, State.lane_modLane_ne _ _ hm, hpace.other m hm]
  · rw [if_neg hstop, if_neg hstop, State.lane_modLane_same]
    exact ⟨rfl, rfl, hst', fun m hm => by rw [State.lane_modLane_ne _ _ hm, hpace.other m hm]⟩

end Sys2Proof.Machine

namespace Sys2Proof.Machine

/-! ### The check of LnFS (rules R171, R172) -/

theorem goodFor_iff {c : List Word} {cycles : Nat} {wasLow : Bool} :
    goodFor c cycles wasLow = true ↔ wasLow = true ∧ 2 * cycles = cfgL c := by
  simp [goodFor]

/-- An edge that confirms a candidate: good for the configuration in force or for the held one. -/
theorem goodFor_or_iff {c d : List Word} {cycles : Nat} {wasLow : Bool} :
    (goodFor c cycles wasLow || goodFor d cycles wasLow) = true ↔
      wasLow = true ∧ (2 * cycles = cfgL c ∨ 2 * cycles = cfgL d) := by
  rw [Bool.or_eq_true, goodFor_iff, goodFor_iff, ← and_or_left]

section frameAt

variable {s : State} {e : FrameEv}

theorem State.frameAt_framing_missing (hst : (s.lane e.lane).st = .framing) (hfs : e.fs = .missing) :
    s.frameAt e = s.setLane e.lane { s.lane e.lane with cand := false, edge := none } := by
  simp only [State.frameAt, hst, hfs]

variable {c : Nat} {w a : Bool} (hfs : e.fs = .high c w a)
include hfs

theorem State.frameAt_framing_new (hst : (s.lane e.lane).st = .framing)
    (h : ((s.lane e.lane).cand && (goodFor (s.lane e.lane).cfg c w || goodFor ((s.lane e.lane).pend.getD (s.lane e.lane).cfg) c w)) = false) :
    s.frameAt e = s.setLane e.lane { s.lane e.lane with cand := true, edge := some e.stamp, edgeIn := true } := by
  simp only [State.frameAt, hst, hfs, h, if_neg Bool.false_ne_true]

theorem State.frameAt_framing_confirmed (hst : (s.lane e.lane).st = .framing) (hcand : (s.lane e.lane).cand = true)
    (h : (goodFor (s.lane e.lane).cfg c w || goodFor ((s.lane e.lane).pend.getD (s.lane e.lane).cfg) c w) = true) :
    s.frameAt e =
      if badHeader ((s.lane e.lane).pend.getD (s.lane e.lane).cfg) e.header && !a then
        (s.setLane e.lane { s.lane e.lane with cand := false, edge := none }).hdrBad e.lane
      else if a then ((s.setLane e.lane ((s.lane e.lane).interval c e.stamp true)).qualify e.lane).frameLost e.lane
      else ((s.setLane e.lane ((s.lane e.lane).interval c e.stamp true)).qualify e.lane).realFrame e.lane e := by
  simp only [State.frameAt, hst, hfs, hcand, h, Bool.and_self, if_true]

theorem State.frameAt_qualified_high (hst : (s.lane e.lane).st = .qualified) :
    s.frameAt e = if goodFor (s.lane e.lane).cfg c w && !a then
      (s.setLane e.lane ((s.lane e.lane).interval c e.stamp true)).realFrame e.lane e else s.frameLost e.lane := by
  simp only [State.frameAt, hst, hfs]

end frameAt

/-- A qualified lane whose check fails loses its framing. -/
theorem State.frameAt_qualified_lost {s : State} {e : FrameEv} (hst : (s.lane e.lane).st = .qualified)
    (h : ∀ c w, e.fs = .high c w false → ¬ (w = true ∧ 2 * c = cfgL (s.lane e.lane).cfg)) : s.frameAt e = s.frameLost e.lane := by
  cases hfs : e.fs with
  | missing => simp only [State.frameAt, hst, hfs]
  | high c w a =>
    rw [State.frameAt_qualified_high hfs hst, if_neg]
    cases a
    · simpa [goodFor_iff] using h c w hfs
    · simp

/-! ### Framing lost, a header refused, a lane qualified -/

/-- What the loss of framing leaves (rule R172). -/
theorem State.frameLost_spec {s : State} {n : Nat} (hst : (s.lane n).st ≠ .framing) : let t := s.frameLost n
    (t.lane n).st = .framing ∧ t.reg (lanePage n) 0x0BC = cntUp (s.reg (lanePage n) 0x0BC) ∧
      (t.reg (lanePage n) 0x014).getLsbD 22 = true ∧
      (t.lane n).fillRun = ((s.lane n).fillRun || ((s.lane n).everReal && !(s.lane n).ended)) ∧
      (t.lane n).blk = (s.lane n).blk ∧ (t.lane n).lastStamp = (s.lane n).lastStamp := by
  intro t
  set s1 := (((s.count (lanePage n) 0x0BC).raise (lanePage n) 22).startFill n).modLane n fun x => { x with cand := false, edge := none } with hs1
  have hcount : ∀ m, (((s.count (lanePage n) 0x0BC).raise (lanePage n) 22).lane m) = s.lane m := fun m => by
    rw [State.lane_raise, State.lane_count]
  obtain ⟨hfst, hfill, hblk, hstamp⟩ := State.lane_startFill ((s.count (lanePage n) 0x0BC).raise (lanePage n) 22) n
  rw [hcount] at hfst hfill hblk hstamp
  have hlane : s1.lane n = { ((s.count (lanePage n) 0x0BC).raise (lanePage n) 22).startFill n |>.lane n with
      cand := false, edge := none } := by
    rw [hs1, State.lane_modLane_same]
  have hmoved : MovedTo n .framing s1 t := State.movedTo_laneTo (by rw [hlane]; exact fun h => hst (hfst.symm.trans h))
  have hcell : ∀ c, s1.cell c = ((s.count (lanePage n) 0x0BC).raise (lanePage n) 22).cell c := fun c => by
    rw [hs1, State.cell_modLane, State.startFill, State.cell_modLane]
  obtain ⟨w, q, bh, gh, o, r, l, hto⟩ := hmoved.lane
  refine ⟨by rw [hto], ?_, ?_, ?_, ?_, ?_⟩
  · rw [hmoved.reg 0x0BC (by decide) (by decide), State.reg_cell, hcell, State.cell_raise,
      if_neg (addr_event_ne (by decide) (by decide)).symm, State.cell_count, if_pos rfl, State.reg_cell]
  · refine hmoved.events.stand 22 ?_
    rw [State.reg_cell, hcell, ← State.reg_cell]
    exact State.irq_raise_same _ _ (by decide)
  · rw [hto, hlane, ← hfill]
  · rw [hto, hlane, ← hblk]
  · rw [hto, hlane, ← hstamp]

/-- A bad frame counts and its code is captured; no lane changes (rules R155, R182). -/
theorem State.hdrBad_spec (s : State) (n : Nat) : let t := s.hdrBad n
    (∀ m, t.lane m = s.lane m) ∧ t.reg (lanePage n) 0x0C0 = cntUp (s.reg (lanePage n) 0x0C0) ∧
      (s.rf (lanePage n) 0x020 31 31 = 0 → t.rf (lanePage n) 0x020 7 0 = 0x40) ∧ EventsStand n s t := by
  have hcount : EventsStand n s (s.count (lanePage n) 0x0C0) := EventsStand.count n s (by decide) (by decide)
  have hcnt : (s.count (lanePage n) 0x0C0).reg (lanePage n) 0x0C0 = cntUp (s.reg (lanePage n) 0x0C0) := by
    rw [State.reg_cell, State.cell_count, if_pos rfl, State.reg_cell]
  have hfree : fld ((s.count (lanePage n) 0x0C0).reg (lanePage n) 0x020) 31 31 = s.rf (lanePage n) 0x020 31 31 := by
    rw [State.count, State.reg_setReg_other (by decide) (by decide) (by decide), State.rf]
  rw [State.hdrBad, State.capCode, hfree]
  split
  · next h =>
    exact ⟨fun m => s.lane_count .., hcnt, fun h0 => absurd (h.symm.trans h0) (by decide), hcount⟩
  · refine ⟨fun m => ?_, ?_, fun _ => ?_, (hcount.trans (EventsStand.setReg n _ (p := lanePage n) (o := 0x020) _ (by decide)
      (by decide))).trans (EventsStand.raise ..)⟩
    · rw [State.lane_raise, State.lane_setReg, State.lane_count]
    · rw [State.reg_cell, State.cell_raise, if_neg (addr_event_ne (by decide) (by decide)).symm, ← State.reg_cell,
        State.reg_setReg_other (by decide) (by decide) (by decide), hcnt]
    · rw [State.rf, State.reg_cell, State.cell_raise, if_neg (addr_event_ne (by decide) (by decide)).symm, ← State.reg_cell,
        State.reg_setReg_same]
      decide

/-- A lane that qualifies (rules R170, R177). -/
theorem State.qualify_spec {s : State} {n : Nat} (hst : (s.lane n).st ≠ .qualified) : let t := s.qualify n
    (t.lane n).st = .qualified ∧ (t.lane n).everReal = (s.lane n).everReal ∧ (t.lane n).pend = (s.lane n).pend ∧
      (t.lane n).cfg = (s.lane n).cfg ∧ (t.lane n).winHeat = s.heat + 1 ∧ (t.reg (lanePage n) 0x014).getLsbD 16 = true ∧
      t.reg (lanePage n) 0x0BC = s.reg (lanePage n) 0x0BC := by
  have hmoved := State.movedTo_laneTo hst
  obtain ⟨w, q, bh, gh, o, r, l, hto⟩ := hmoved.lane
  rw [State.qualify]
  dsimp only
  rw [State.lane_modLane_same, hto, State.reg_cell, State.reg_cell, State.cell_modLane, State.cell_modLane]
  exact ⟨rfl, rfl, rfl, rfl, rfl, hmoved.changed, hmoved.reg 0x0BC (by decide) (by decide)⟩

end Sys2Proof.Machine

namespace Sys2Proof.Machine

/-! ### A real frame (rules R161 to R168, R171) -/

/-- What the steps of a real frame leave of a lane once it is noted: its state, its configuration and its first window. -/
structure RealKept (n : Nat) (s t : State) : Prop where
  st : (t.lane n).st = (s.lane n).st
  everReal : (t.lane n).everReal = (s.lane n).everReal
  cfg : (t.lane n).cfg = (s.lane n).cfg
  winHeat : (t.lane n).winHeat = (s.lane n).winHeat
  events : EventsStand n s t

section real

variable {n : Nat} {s t u : State}

theorem RealKept.refl (n : Nat) (s : State) : RealKept n s s := ⟨rfl, rfl, rfl, rfl, EventsStand.refl n s⟩

theorem RealKept.trans (h : RealKept n s t) (k : RealKept n t u) : RealKept n s u :=
  ⟨k.st.trans h.st, k.everReal.trans h.everReal, k.cfg.trans h.cfg, k.winHeat.trans h.winHeat, h.events.trans k.events⟩

theorem Fills.realKept (h : Fills n s t) : RealKept n s t := by
  obtain ⟨b, k, e, hsame⟩ := h.same
  exact ⟨by rw [hsame], by rw [hsame], by rw [hsame], by rw [hsame], h.events⟩

theorem RealKept.of_lanes (hl : ∀ m, t.lane m = s.lane m) (he : EventsStand n s t) : RealKept n s t :=
  ⟨by rw [hl], by rw [hl], by rw [hl], by rw [hl], he⟩

theorem RealKept.slotApplied (n : Nat) (s : State) (short : Nat) (begun : Bool) : RealKept n s (s.slotApplied n short begun) := by
  rw [State.slotApplied]
  refine RealKept.of_lanes (fun m => ?_) (((EventsStand.setReg n s (p := lanePage n) (o := 0x0A8) _ (by decide) (by decide)).trans
    (EventsStand.setReg n _ (p := lanePage n) (o := 0x0AC) _ (by decide) (by decide))).trans (EventsStand.raise ..))
  rw [State.lane_raise, State.lane_setReg, State.lane_setReg]

theorem RealKept.hdrBad (n : Nat) (s : State) : RealKept n s (s.hdrBad n) := by
  obtain ⟨hlanes, -, -, hevents⟩ := s.hdrBad_spec n
  exact RealKept.of_lanes hlanes hevents

/-- A step taken or not. -/
theorem RealKept.ite {p : Prop} [Decidable p] (ht : RealKept n s t) (hu : RealKept n s u) : RealKept n s (if p then t else u) := by
  split
  · exact ht
  · exact hu

/-- The configuration that a real frame puts in force, with the lane's fill over. -/
def Lane.taken (x : Lane) (gap : Nat) : Lane :=
  { x with cfg := x.pend.getD x.cfg, pend := none, fillRun := false, ended := false, gapPend := false, everReal := true, gap := gap }

/-- A real frame once the fill is paced, the dropped entries counted and the lane's part taken. -/
theorem RealKept.realFrame (hn : n < 8) (s : State) (e : FrameEv) : ∃ gap,
    RealKept n (((s.pace n).countDrops n e.drops).setLane n ((((s.pace n).countDrops n e.drops).lane n).taken gap)) (s.realFrame n e) := by
  unfold State.realFrame
  extract_lets s0 x start cfg bad drop short gap s1 s2 s3 s4 s5 s6 s7
  refine ⟨if x.gapPend then gap else x.gap, ?_⟩
  have h12 : RealKept n s1 s2 := RealKept.ite (Fills.newBlock hn ..).realKept (RealKept.refl n s1)
  have h23 : RealKept n s2 s3 := RealKept.ite (Fills.raise ..).realKept (RealKept.refl n s2)
  have h34 : RealKept n s3 s4 := (Fills.frameIn hn ..).realKept
  have h45 : RealKept n s4 s5 := RealKept.ite (RealKept.slotApplied ..) (RealKept.refl n s4)
  have h56 : RealKept n s5 s6 := RealKept.ite (RealKept.hdrBad ..) (RealKept.refl n s5)
  have hnote : RealKept n s6 (s6.modLane n fun y => { y with lastEl := e.el, lastStamp := e.stamp }) := by
    refine ⟨?_, ?_, ?_, ?_, EventsStand.of_cell (s6.cell_modLane ..)⟩ <;> rw [State.lane_modLane_same]
  have h67 : RealKept n s6 s7 := RealKept.ite (RealKept.refl n s6) hnote
  exact (((((h12.trans h23).trans h34).trans h45).trans h56).trans h67).trans (Fills.deliver hn ..).realKept

/-- What a real frame leaves of its lane. -/
theorem State.realFrame_spec (hn : n < 8) (s : State) (e : FrameEv) : let t := s.realFrame n e
    (t.lane n).st = (s.lane n).st ∧ (t.lane n).everReal = true ∧ (t.lane n).cfg = (s.lane n).pend.getD (s.lane n).cfg ∧
      (t.lane n).winHeat = (s.lane n).winHeat ∧ EventsStand n s t := by
  intro t
  have hfills : Fills n s ((s.pace n).countDrops n e.drops) := (Fills.pace hn s).trans (Fills.countDrops ..)
  obtain ⟨b, k, el, hsame⟩ := hfills.same
  obtain ⟨gap, hkept⟩ := RealKept.realFrame hn s e
  have hset := EventsStand.of_cell (n := n) (((s.pace n).countDrops n e.drops).cell_setLane n
    ((((s.pace n).countDrops n e.drops).lane n).taken gap) (addr (lanePage n) 0x014))
  refine ⟨?_, ?_, ?_, ?_, (hfills.events.trans hset).trans hkept.events⟩
  · rw [hkept.st, State.lane_setLane_same, Lane.taken, hsame]
  · rw [hkept.everReal, State.lane_setLane_same, Lane.taken]
  · rw [hkept.cfg, State.lane_setLane_same, Lane.taken, hsame]
  · rw [hkept.winHeat, State.lane_setLane_same, Lane.taken, hsame]

end real

end Sys2Proof.Machine

namespace Sys2Proof.Machine

/-! ### A frame into the block in progress or the next (rules R161, R165) -/

/-- The block that begins on a lane (rules R165, R168). -/
def State.firstBlock (s : State) (n stamp : Nat) (fill mask disc : Bool) (gap : Nat) : Block :=
  { num := (s.lane n).nextBlk % 2 ^ 32, frames := 0, stamp := stamp, epoch := s.tb.epoch, period := (s.lane n).p10 * 65536 / 100,
    fill := fill, mask := mask, disc := disc, rateBad := (s.lane n).st == .notQualified, gap := gap,
    delays := (List.range 8).map fun j => (s.reg (lanePage n) (0x068 + 4 * j)).toInt, at_ := (stamp * 10 : Nat) }

theorem State.lane_newBlock (s : State) (n stamp : Nat) (fill mask disc : Bool) (gap : Nat) :
    (s.newBlock n stamp fill mask disc gap).lane n =
      { s.lane n with blk := some (s.firstBlock n stamp fill mask disc gap), nextBlk := (s.lane n).nextBlk + 1 } := by
  have hraise : ∀ (u : State) (p : Prop) [Decidable p], (if p then u.raise (lanePage n) 20 else u).lane n = u.lane n := by
    intro u p _
    split
    · exact State.lane_raise ..
    · rfl
  have hcount : ∀ u : State, (if fill then u.count (lanePage n) 0x0C4 else u).lane n = u.lane n := by
    intro u
    split
    · exact State.lane_count ..
    · rfl
  have hstat : ∀ (l : List Nat) (u : State), (l.foldl State.markStat u).lane n = u.lane n := fun l u =>
    State.lane_of_lanes (DataKept.foldl DataKept.markStat l u).lanes n
  rw [State.newBlock]
  dsimp only
  rw [hcount, hstat, hraise, State.lane_setLane_same, State.firstBlock]

theorem State.lane_frameIn_next {s : State} {n : Nat} (h : (s.lane n).blockDone = true) (stamp : Nat) (fill : Bool) :
    (s.frameIn n stamp fill).lane n = { s.lane n with
      blk := some { s.firstBlock n stamp fill false false 0 with frames := 1 }, nextBlk := (s.lane n).nextBlk + 1 } := by
  rw [State.frameIn, State.lane_modLane_same, if_pos h, State.lane_newBlock]
  rfl

theorem State.lane_markFill {s : State} {n : Nat} {b : Block} (hb : (s.lane n).blk = some b) :
    (s.markFill n).lane n = { s.lane n with blk := some { b with fill := true } } := by
  rw [State.markFill, hb]
  dsimp only
  split
  · next hf =>
    have hsame : ({ b with fill := true } : Block) = b := by rw [← hf]
    rw [hsame, ← hb]
  · rw [State.lane_count, State.lane_modLane_same]

theorem State.lane_frameIn_on {s : State} {n : Nat} {b : Block} (hb : (s.lane n).blk = some b) (hf : b.frames < 1024) (stamp : Nat)
    (fill : Bool) : (s.frameIn n stamp fill).lane n =
      { s.lane n with blk := some { b with frames := b.frames + 1, fill := b.fill || fill } } := by
  have hdone : (s.lane n).blockDone = false := by
    rw [Lane.blockDone, hb]
    exact decide_eq_false (Nat.not_le.2 hf)
  rw [State.frameIn, State.lane_modLane_same, hdone, if_neg Bool.false_ne_true]
  cases fill
  · rw [if_neg Bool.false_ne_true, hb, Bool.or_false]
    rfl
  · rw [if_pos rfl, State.lane_markFill hb, Bool.or_true]
    rfl

/-! ### A steady frame -/

theorem State.reg_capErr_other {s : State} {p q code off o : Nat} (ho : o < 0x1000) (hne : o ∉ [0x014, 0x020, 0x024]) :
    (s.capErr p code off).reg q o = s.reg q o := by
  have hcell : ∀ r, r ∈ [0x014, 0x020, 0x024] → addr q o ≠ addr p r := fun r hr e =>
    hne ((addr_inj ho (by simp at hr; omega) e).2 ▸ hr)
  have hraise : ∀ (u : State) (b : Nat), (u.raise p b).cell (addr q o) = u.cell (addr q o) := fun u b => by
    rw [State.cell_raise, if_neg (hcell _ (by simp))]
  have hcnt : (s.countErr p).cell (addr q o) = s.cell (addr q o) := by
    have hc : (s.count p 0x024).cell (addr q o) = s.cell (addr q o) := by rw [State.cell_count, if_neg (hcell _ (by simp))]
    rw [State.countErr]
    split
    · exact (hraise _ _).trans hc
    · exact hc
  rw [State.reg_cell, State.capErr]
  split
  · exact hcnt
  · rw [hraise, State.cell_setReg, if_neg (hcell _ (by simp)), hcnt, State.reg_cell]

/-- What dropped entries leave: the lanes, the timebase, and the registers that are not the error registers. -/
theorem State.countDrops_keeps (s : State) (n : Nat) (drops : List Nat) : let t := s.countDrops n drops
    t.lanes = s.lanes ∧ t.tb = s.tb ∧ ∀ q o, o < 0x1000 → o ∉ [0x014, 0x020, 0x024] → t.reg q o = s.reg q o := by
  rw [State.countDrops]
  refine List.foldlRecOn (motive := fun t : State => t.lanes = s.lanes ∧ t.tb = s.tb ∧
    ∀ q o, o < 0x1000 → o ∉ [0x014, 0x020, 0x024] → t.reg q o = s.reg q o) _ _ ⟨rfl, rfl, fun _ _ _ _ => rfl⟩ ?_
  rintro t ⟨hl, htb, hreg⟩ d _
  exact ⟨(t.capErr_lanes ..).trans hl, (t.capErr_tb ..).trans htb, fun q o ho hne =>
    (State.reg_capErr_other ho hne).trans (hreg q o ho hne)⟩

/-- A real frame of a lane that delivers without a gap, a fill or a held configuration goes into its block. -/
theorem State.lane_realFrame_steady {s : State} {n : Nat} {e : FrameEv} (hfill : (s.lane n).fillRun = false)
    (hgap : (s.lane n).gapPend = false) (hreal : (s.lane n).everReal = true) (hpend : (s.lane n).pend = none)
    (hhdr : badHeader (s.lane n).cfg e.header = false) : ∃ s1 : State,
      ((s1.lane n).st = (s.lane n).st ∧ (s1.lane n).blk = (s.lane n).blk ∧ (s1.lane n).nextBlk = (s.lane n).nextBlk) ∧ s1.tb = s.tb ∧
      (∀ j, j < 8 → s1.reg (lanePage n) (0x068 + 4 * j) = s.reg (lanePage n) (0x068 + 4 * j)) ∧
      (s.realFrame n e).lane n = { (s1.frameIn n e.stamp (e.drops.contains 17)).lane n with lastEl := e.el, lastStamp := e.stamp } := by
  unfold State.realFrame
  extract_lets s0 x start cfg bad drop short gap s1 s2 s3 s4 s5 s6 s7
  have hs0 : s0 = s.countDrops n e.drops := by rw [← State.pace_of_not_fill hfill]
  obtain ⟨hlanes, htb, hreg⟩ := s.countDrops_keeps n e.drops
  rw [← hs0] at hlanes htb hreg
  have hx : x = s.lane n := State.lane_of_lanes hlanes n
  have hbad : bad = false := by
    simp only [bad, cfg, hx, hpend, Option.getD_none, hhdr]
  have hstart : (start || x.pend.isSome) = false := by
    simp only [start, hx, hfill, hgap, hreal, hpend]; rfl
  have h2 : s2 = s1 := if_neg (by rw [hstart]; decide)
  have h3 : s3 = s2 := if_neg (by rw [hx, hgap]; decide)
  have h5 : s5 = s4 := if_neg (by rw [hx, hpend]; decide)
  have h6 : s6 = s5 := if_neg (by rw [hbad]; decide)
  have h7 : s7 = s6.modLane n fun y => { y with lastEl := e.el, lastStamp := e.stamp } := if_neg (by rw [hbad]; decide)
  have h1 : s1.lane n = _ := State.lane_setLane_same ..
  refine ⟨s1, ⟨?_, ?_, ?_⟩, ?_, fun j hj => ?_, ?_⟩
  · rw [h1, ← hx]
  · rw [h1, ← hx]
  · rw [h1, ← hx]
  · exact htb
  · rw [State.reg_cell, State.cell_setLane, ← State.reg_cell]
    exact hreg _ _ (by omega) (by simp; omega)
  · rw [State.lane_of_lanes (DataKept.deliver ..).lanes, h7, State.lane_modLane_same, h6, h5]
    have h4 : s4 = s1.frameIn n e.stamp (e.drops.contains 17) := by
      simp only [s4, h3, h2, hbad, Bool.false_or, drop]
    rw [h4]

/-- What noting an edge leaves of a lane. -/
theorem Lane.interval_keeps (x : Lane) (cycles stamp : Nat) (good : Bool) : let y := x.interval cycles stamp good
    y.st = x.st ∧ y.cfg = x.cfg ∧ y.pend = x.pend ∧ y.everReal = x.everReal ∧ y.fillRun = x.fillRun ∧ y.gapPend = x.gapPend ∧
      y.blk = x.blk ∧ y.nextBlk = x.nextBlk := by
  unfold Lane.interval
  dsimp only
  split
  · split <;> exact ⟨rfl, rfl, rfl, rfl, rfl, rfl, rfl, rfl⟩
  · exact ⟨rfl, rfl, rfl, rfl, rfl, rfl, rfl, rfl⟩

/-- A steady frame's block: the frame counts into the block in progress, or into the next with the frame's stamp and the delays in force
(rules R161, R165, R168). -/
theorem State.realFrame_steady_spec {s : State} {n : Nat} {e : FrameEv} {b : Block} (hfill : (s.lane n).fillRun = false)
    (hgap : (s.lane n).gapPend = false) (hreal : (s.lane n).everReal = true) (hpend : (s.lane n).pend = none)
    (hhdr : badHeader (s.lane n).cfg e.header = false) (hb : (s.lane n).blk = some b) : let t := s.realFrame n e
    let dropped := e.drops.contains 17
    (t.lane n).st = (s.lane n).st ∧ (t.lane n).lastStamp = e.stamp ∧
      (b.frames < 1024 → (t.lane n).blk = some { b with frames := b.frames + 1, fill := b.fill || dropped } ∧
        (t.lane n).nextBlk = (s.lane n).nextBlk) ∧
      (1024 ≤ b.frames → (t.lane n).nextBlk = (s.lane n).nextBlk + 1 ∧ ∃ d, (t.lane n).blk = some d ∧
        d.num = (s.lane n).nextBlk % 2 ^ 32 ∧ d.frames = 1 ∧ d.stamp = e.stamp ∧ d.epoch = s.tb.epoch ∧ d.fill = dropped ∧
        d.at_ = (e.stamp * 10 : Nat) ∧ d.delays = (List.range 8).map fun j => (s.reg (lanePage n) (0x068 + 4 * j)).toInt) := by
  obtain ⟨s1, ⟨hst, hblk, hnext⟩, htb, hreg, hlane⟩ := State.lane_realFrame_steady hfill hgap hreal hpend hhdr
  have hb1 : (s1.lane n).blk = some b := hblk.trans hb
  intro t dropped
  rcases Nat.lt_or_ge b.frames 1024 with hf | hf
  · have hon := State.lane_frameIn_on hb1 hf e.stamp dropped
    refine ⟨?_, ?_, fun _ => ⟨?_, ?_⟩, fun h => absurd hf (Nat.not_lt.2 h)⟩
    · rw [hlane, hon]; exact hst
    · rw [hlane]
    · rw [hlane, hon]
    · rw [hlane, hon]; exact hnext
  · have hdone : (s1.lane n).blockDone = true := by
      rw [Lane.blockDone, hb1]
      exact decide_eq_true hf
    have hin := State.lane_frameIn_next hdone e.stamp dropped
    have hdelays : (List.range 8).map (fun j => (s1.reg (lanePage n) (0x068 + 4 * j)).toInt) =
        (List.range 8).map fun j => (s.reg (lanePage n) (0x068 + 4 * j)).toInt :=
      List.map_congr_left fun j hj => by rw [hreg j (List.mem_range.1 hj)]
    refine ⟨?_, ?_, fun h => absurd hf (Nat.not_le.2 h), fun _ =>
      ⟨?_, { s1.firstBlock n e.stamp dropped false false 0 with frames := 1 }, ?_, ?_, rfl, rfl, ?_, rfl, rfl, hdelays⟩⟩
    · rw [hlane, hin]; exact hst
    · rw [hlane]
    · rw [hlane, hin, ← hnext]
    · rw [hlane, hin]
    · rw [← hnext]; rfl
    · rw [← htb]; rfl

end Sys2Proof.Machine

namespace Sys2Proof.Machine

/-! ### A frame's check, by the lane's state -/

/-- The frame that a check of LnFS sees. -/
def State.frameOf (u : State) (n sub : Nat) (fs : FsSample) (header : BitVec 8) (codes : List (BitVec 8 × BitVec 8)) (drops : List (Fin 18)) :
    FrameEv :=
  { lane := n, stamp := u.stamp10 sub, el := u.el + sub * unitsPerNs / 100, fs := fs, header := header, codes := codes,
    drops := drops.map (·.val) }

section frame

variable {lane : Fin 8} {s : State} {dt sub : Nat} {header : BitVec 8} {codes : List (BitVec 8 × BitVec 8)} {drops : List (Fin 18)}
  (hr : (s.after dt).inReset = false) (hsub : sub < 80) (fs : FsSample)
include hr hsub

theorem exec_frame_late (hlate : (s.after dt).tb.everLocked = true ∧ (s.after dt).tb.hEnd ≤ (s.after dt).tb.now + sub * unitsPerNs / 100) :
    exec (.frame lane dt sub fs header codes drops) s = .next { s.after dt with
      lateFrames := (s.after dt).lateFrames ++ [(s.after dt).frameOf lane.val sub fs header codes drops] } := by
  change execFrame lane dt sub fs header codes drops s = _
  have hgo : ((s.after dt).tb.everLocked && decide ((s.after dt).tb.now + sub * unitsPerNs / 100 ≥ (s.after dt).tb.hEnd)) = true := by
    simp [hlate.1, hlate.2]
  have hrun : ¬ (s.after dt).inReset = true := by rw [hr]; decide
  rw [execFrame, Nat.mod_eq_of_lt hsub, if_neg hrun, if_pos hgo, State.frameOf]

theorem exec_frame_now (hlate : ¬ ((s.after dt).tb.everLocked = true ∧
    (s.after dt).tb.hEnd ≤ (s.after dt).tb.now + sub * unitsPerNs / 100)) :
    exec (.frame lane dt sub fs header codes drops) s = .next ((s.after dt).frameAt ((s.after dt).frameOf lane.val sub fs header codes drops)) := by
  change execFrame lane dt sub fs header codes drops s = _
  have hgo : ((s.after dt).tb.everLocked && decide ((s.after dt).tb.now + sub * unitsPerNs / 100 ≥ (s.after dt).tb.hEnd)) = false := by
    simpa using hlate
  rw [execFrame, Nat.mod_eq_of_lt hsub, hr, hgo, if_neg Bool.false_ne_true, if_neg Bool.false_ne_true, State.frameOf]

end frame

/-- A flow crossing dropped the entry, by the number it has. -/
theorem contains_val_map {n : Nat} (d : Fin n) (l : List (Fin n)) : (l.map (·.val)).contains d.val = decide (d ∈ l) := by
  rw [Bool.eq_iff_iff, List.contains_iff_mem, List.mem_map, decide_eq_true_iff]
  exact ⟨fun ⟨e, he, hd⟩ => Fin.ext hd ▸ he, fun h => ⟨d, h, rfl⟩⟩

section check

variable {u : State} {e : FrameEv} {c : Nat} {w : Bool}

/-- A candidate confirmed, whatever its header, goes by the lane's own part noted. -/
theorem State.qualify_interval_spec (hst : (u.lane e.lane).st = .framing) :
    let q := (u.setLane e.lane ((u.lane e.lane).interval c e.stamp true)).qualify e.lane
    (q.lane e.lane).st = .qualified ∧ (q.lane e.lane).pend = (u.lane e.lane).pend ∧ (q.lane e.lane).cfg = (u.lane e.lane).cfg ∧
      (q.lane e.lane).winHeat = u.heat + 1 ∧ (q.reg (lanePage e.lane) 0x014).getLsbD 16 = true ∧
      q.reg (lanePage e.lane) 0x0BC = u.reg (lanePage e.lane) 0x0BC := by
  obtain ⟨hst', hcfg', hpend', -⟩ := (u.lane e.lane).interval_keeps c e.stamp true
  have hne : ((u.setLane e.lane ((u.lane e.lane).interval c e.stamp true)).lane e.lane).st ≠ .qualified := by
    rw [State.lane_setLane_same, hst', hst]
    decide
  obtain ⟨h1, -, h3, h4, h5, h6, h7⟩ := State.qualify_spec hne
  rw [State.lane_setLane_same] at h3 h4
  exact ⟨h1, h3.trans hpend', h4.trans hcfg', h5, h6, h7⟩

/-- Two good edges with a good header qualify the lane, and the frame is delivered (rules R170, R171, R177). -/
theorem State.frameAt_qualifies (hn : e.lane < 8) (hst : (u.lane e.lane).st = .framing) (hcand : (u.lane e.lane).cand = true)
    (hfs : e.fs = .high c w false)
    (hfit : (goodFor (u.lane e.lane).cfg c w || goodFor ((u.lane e.lane).pend.getD (u.lane e.lane).cfg) c w) = true)
    (hhdr : badHeader ((u.lane e.lane).pend.getD (u.lane e.lane).cfg) e.header = false) : let t := u.frameAt e
    (t.lane e.lane).st = .qualified ∧ (t.lane e.lane).everReal = true ∧
      (t.lane e.lane).cfg = (u.lane e.lane).pend.getD (u.lane e.lane).cfg ∧ (t.lane e.lane).winHeat = u.heat + 1 ∧
      (t.reg (lanePage e.lane) 0x014).getLsbD 16 = true := by
  obtain ⟨qst, qpend, qcfg, qheat, qev, -⟩ := State.qualify_interval_spec (c := c) hst
  obtain ⟨rst, rreal, rcfg, rheat, rev⟩ := State.realFrame_spec hn
    ((u.setLane e.lane ((u.lane e.lane).interval c e.stamp true)).qualify e.lane) e
  rw [State.frameAt_framing_confirmed hfs hst hcand hfit, hhdr, Bool.false_and, if_neg Bool.false_ne_true, if_neg Bool.false_ne_true]
  exact ⟨rst.trans qst, rreal, by rw [rcfg, qpend, qcfg], rheat.trans qheat, rev.stand 16 qev⟩

/-- A candidate confirmed with LnFS high again at once: framing is lost (rule R172). -/
theorem State.frameAt_again (hst : (u.lane e.lane).st = .framing) (hcand : (u.lane e.lane).cand = true) (hfs : e.fs = .high c w true)
    (hfit : (goodFor (u.lane e.lane).cfg c w || goodFor ((u.lane e.lane).pend.getD (u.lane e.lane).cfg) c w) = true) :
    let t := u.frameAt e
    (t.lane e.lane).st = .framing ∧ t.reg (lanePage e.lane) 0x0BC = cntUp (u.reg (lanePage e.lane) 0x0BC) ∧
      (t.reg (lanePage e.lane) 0x014).getLsbD 22 = true := by
  obtain ⟨qst, -, -, -, -, qcnt⟩ := State.qualify_interval_spec (c := c) hst
  obtain ⟨lst, lcnt, lev, -⟩ := State.frameLost_spec
    (s := (u.setLane e.lane ((u.lane e.lane).interval c e.stamp true)).qualify e.lane) (n := e.lane) (by rw [qst]; decide)
  rw [State.frameAt_framing_confirmed hfs hst hcand hfit, Bool.not_true, Bool.and_false, if_neg Bool.false_ne_true, if_pos rfl]
  exact ⟨lst, by rw [lcnt, qcnt], lev⟩

/-- A confirmed candidate with a bad header is refused (rule R155). -/
theorem State.frameAt_refused (hst : (u.lane e.lane).st = .framing) (hcand : (u.lane e.lane).cand = true) (hfs : e.fs = .high c w false)
    (hfit : (goodFor (u.lane e.lane).cfg c w || goodFor ((u.lane e.lane).pend.getD (u.lane e.lane).cfg) c w) = true)
    (hhdr : badHeader ((u.lane e.lane).pend.getD (u.lane e.lane).cfg) e.header = true) : let t := u.frameAt e
    t.lane e.lane = { u.lane e.lane with cand := false, edge := none } ∧
      t.reg (lanePage e.lane) 0x0C0 = cntUp (u.reg (lanePage e.lane) 0x0C0) ∧
      (u.rf (lanePage e.lane) 0x020 31 31 = 0 → t.rf (lanePage e.lane) 0x020 7 0 = 0x40) := by
  obtain ⟨hlane, hcnt, hcode, -⟩ :=
    (u.setLane e.lane { u.lane e.lane with cand := false, edge := none }).hdrBad_spec e.lane
  rw [State.frameAt_framing_confirmed hfs hst hcand hfit, hhdr, Bool.not_false, Bool.and_self, if_pos rfl]
  exact ⟨(hlane _).trans (State.lane_setLane_same ..), hcnt, hcode⟩

/-- A steady frame of a qualified lane. -/
theorem State.frameAt_steady (hst : (u.lane e.lane).st = .qualified) (hfs : e.fs = .high c w false)
    (hgood : w = true ∧ 2 * c = cfgL (u.lane e.lane).cfg) :
    u.frameAt e = (u.setLane e.lane ((u.lane e.lane).interval c e.stamp true)).realFrame e.lane e := by
  rw [State.frameAt_qualified_high hfs hst, goodFor_iff.2 hgood, Bool.not_false, Bool.and_self, if_pos rfl]

end check

/-- Settles O45: the clock's events one by one, then the check of LnFS by the lane's state. -/
theorem laneStates : Obligations.LaneStates := by
  unfold Obligations.LaneStates
  intro lane s dt n p u x hr
  refine ⟨fun hoff => glitch_spec hr hoff, fun c a b hmem hst => clockEvents_spec hr c a b hmem hst, fun hst => clockStop_spec hr hst,
    fun hf he hq hel => fillEnd_spec hr hf he hq hel, fun sub header codes drops hsub => ?_⟩
  intro stamp off late f held good fits
  refine ⟨fun hlate fs => exec_frame_late hr hsub fs hlate, fun hlate => ?_⟩
  have hexec : ∀ fs, exec (f fs) s = .next (u.frameAt (u.frameOf n sub fs header codes drops)) := fun fs =>
    exec_frame_now hr hsub fs hlate
  have hfits : ∀ {c w}, fits c w → (goodFor x.cfg c w || goodFor held c w) = true := fun h => goodFor_or_iff.2 h
  refine ⟨fun hst => ?_, fun c w a hst hnew => ?_, fun c w hst hcand hfit hhdr => ?_, fun c w hst hcand hfit hhdr => ?_,
    fun c w hst hcand hfit => ?_, fun fs hst hbad => ?_, fun c w b hst hgood hhdr hfill hgap hreal hpend hb => ?_⟩
  · exact (hexec _).trans (congrArg _ (State.frameAt_framing_missing (e := u.frameOf n sub .missing header codes drops) hst rfl))
  · have hno : (x.cand && (goodFor x.cfg c w || goodFor held c w)) = false := by
      rw [Bool.eq_false_iff]
      intro h
      rw [Bool.and_eq_true] at h
      exact hnew ⟨h.1, goodFor_or_iff.1 h.2⟩
    exact (hexec _).trans (congrArg _ (State.frameAt_framing_new (e := u.frameOf n sub (.high c w a) header codes drops) rfl hst hno))
  · exact ⟨_, hexec _, State.frameAt_refused (e := u.frameOf n sub (.high c w false) header codes drops) hst hcand rfl (hfits hfit) hhdr⟩
  · exact ⟨_, hexec _, State.frameAt_qualifies (e := u.frameOf n sub (.high c w false) header codes drops) lane.isLt hst hcand rfl
      (hfits hfit) hhdr⟩
  · exact ⟨_, hexec _, State.frameAt_again (e := u.frameOf n sub (.high c w true) header codes drops) hst hcand rfl (hfits hfit)⟩
  · have hlost := State.frameAt_qualified_lost (e := u.frameOf n sub fs header codes drops) hst hbad
    have hspec := State.frameLost_spec (s := u) (n := n) (by rw [hst]; decide)
    exact ⟨_, (hexec fs).trans (congrArg _ hlost), hspec⟩
  · have hsteady := State.frameAt_steady (e := u.frameOf n sub (.high c w false) header codes drops) hst rfl hgood
    obtain ⟨ist, icfg, ipend, ireal, ifill, igap, iblk, inext⟩ := x.interval_keeps c stamp true
    have hlane : (u.setLane n (x.interval c stamp true)).lane n = x.interval c stamp true := State.lane_setLane_same ..
    have hspec := State.realFrame_steady_spec (s := u.setLane n (x.interval c stamp true)) (n := n)
      (e := u.frameOf n sub (.high c w false) header codes drops) (b := b) (by rw [hlane, ifill, hfill]) (by rw [hlane, igap, hgap])
      (by rw [hlane, ireal, hreal]) (by rw [hlane, ipend, hpend]) (by rw [hlane, icfg]; exact hhdr) (by rw [hlane, iblk, hb])
    have hdrop : (u.frameOf n sub (.high c w false) header codes drops).drops.contains 17 = decide ((17 : Fin 18) ∈ drops) :=
      contains_val_map 17 drops
    rw [hlane, ist, inext, hdrop] at hspec
    obtain ⟨h1, h2, h3, h4⟩ := hspec
    exact ⟨_, (hexec _).trans (congrArg _ hsteady), h1.trans hst, h2, h3, h4⟩

end Sys2Proof.Machine

/-! ## Host traffic (rules R429 to R433) -/

namespace Sys2Proof.Machine

/-! ### Bytes of a slot -/

/-- One byte of a native word replaced: its eight bytes. -/
theorem byte_setByte72 (w : Native) (b : Byte) {k m : Nat} (hk : k < 8) (hm : m < 8) :
    BitVec.ofNat 8 ((((w &&& ~~~(BitVec.ofNat 72 (0xFF <<< (8 * k)))) ||| BitVec.ofNat 72 (b.toNat <<< (8 * k))).toNat) >>> (8 * m)) =
      if m = k then b else BitVec.ofNat 8 (w.toNat >>> (8 * m)) := by
  refine BitVec.eq_of_getLsbD_eq fun i hi => ?_
  have hmask : ((0xFF : Nat) <<< (8 * k)).testBit (8 * m + i) = decide (m = k) := by
    rw [show (0xFF : Nat) = 2 ^ 8 - 1 from rfl, testBit_ones_shiftLeft]
    exact decide_eq_decide.2 (by omega)
  have hval : (b.toNat <<< (8 * k)).testBit (8 * m + i) = (decide (m = k) && b.getLsbD i) := by
    rw [Nat.testBit_shiftLeft]
    by_cases h : m = k
    · subst h
      simp [BitVec.getLsbD]
    · rcases Nat.lt_or_ge (8 * m + i) (8 * k) with hlt | hge
      · simp [h, Nat.not_le.2 hlt]
      · have hbig : b.toNat.testBit (8 * m + i - 8 * k) = false := BitVec.getLsbD_of_ge b _ (by omega)
        simp [h, hbig]
  rw [BitVec.getLsbD_ofNat, Nat.testBit_shiftRight]
  change (decide (i < 8) && ((w &&& ~~~(BitVec.ofNat 72 (0xFF <<< (8 * k)))) ||| BitVec.ofNat 72 (b.toNat <<< (8 * k))).getLsbD (8 * m + i)) = _
  have h72 : 8 * m + i < 72 := by omega
  simp only [BitVec.getLsbD_or, BitVec.getLsbD_and, BitVec.getLsbD_not, BitVec.getLsbD_ofNat, hmask, hval, h72, hi, decide_true,
    Bool.true_and]
  split
  · next h => simp [h]
  · next h =>
    rw [BitVec.getLsbD_ofNat, Nat.testBit_shiftRight]
    simp [h, hi, BitVec.getLsbD]

/-- One byte of a word replaced: its four bytes. -/
theorem byte_setFld (w : Word) (b : Byte) {k m : Nat} (hk : k < 4) (hm : m < 4) :
    BitVec.ofNat 8 ((setFld w (8 * k + 7) (8 * k) b.toNat).toNat >>> (8 * m)) =
      if m = k then b else BitVec.ofNat 8 (w.toNat >>> (8 * m)) := by
  refine BitVec.eq_of_getLsbD_eq fun i hi => ?_
  have hbit : (setFld w (8 * k + 7) (8 * k) b.toNat).toNat.testBit (8 * m + i) =
      if 8 * k ≤ 8 * m + i ∧ 8 * m + i ≤ 8 * k + 7 then b.toNat.testBit (8 * m + i - 8 * k) else w.getLsbD (8 * m + i) :=
    getLsbD_setFld w b.toNat (by omega)
  rw [BitVec.getLsbD_ofNat, Nat.testBit_shiftRight, hbit]
  split
  · next h =>
    obtain rfl : m = k := by omega
    rw [if_pos rfl, Nat.add_sub_cancel_left]
    simp [hi, BitVec.getLsbD]
  · next h =>
    rw [if_neg (by rintro rfl; omega), BitVec.getLsbD_ofNat, Nat.testBit_shiftRight]
    rfl

/-- A slot's byte written. -/
def State.hqPoke (s : State) (loc : Bool) (base i : Nat) (b : Byte) : State :=
  if loc then s.setExByte base i b else s.setHmByte (base + i) b

theorem State.hqPut_cons (s : State) (loc : Bool) (base i : Nat) (b : Byte) (l : List Byte) :
    s.hqPut loc base i (b :: l) = (s.hqPoke loc base i b).hqPut loc base (i + 1) l := by
  rw [State.hqPut, State.hqPoke]

theorem State.exByte_setExByte (s : State) {base i j : Nat} (b : Byte) (hi : i < 2048) (hj : j < 2048) :
    (s.setExByte base i b).exByte base j = if j = i then b else s.exByte base j := by
  rw [State.exByte, State.setExByte]
  rw [State.ex_setEx]
  by_cases hw : j / 8 = i / 8
  · rw [hw, if_pos rfl, byte_setByte72 _ _ (by omega) (by omega), State.exByte, hw]
    by_cases hji : j = i
    · rw [if_pos (by omega), if_pos hji]
    · rw [if_neg (by omega), if_neg hji]
  · rw [if_neg (by omega), if_neg (by rintro rfl; exact hw rfl), State.exByte]

theorem State.hm_setHmByte (s : State) (a x : Nat) (b : Byte) : (s.setHmByte a b).hm x =
    if x / 4 = a / 4 then setFld (s.hm x) (8 * (a % 4) + 7) (8 * (a % 4)) b.toNat else s.hm x := by
  rw [State.setHmByte]
  rw [State.hm_setHm, Nat.mul_div_cancel _ (by decide)]
  split
  · next h => rw [State.hm, State.hm, Nat.mul_div_cancel _ (by decide), h]
  · rfl

/-- A slot's bytes after one of them is written. -/
theorem State.hqByte_hqPoke (s : State) (loc : Bool) {base i j : Nat} (b : Byte) (hi : i < 2048) (hj : j < 2048) :
    (s.hqPoke loc base i b).hqByte loc base j = if j = i then b else s.hqByte loc base j := by
  cases loc
  · rw [State.hqPoke, if_neg Bool.false_ne_true, State.hqByte, if_neg Bool.false_ne_true, State.hqByte, if_neg Bool.false_ne_true,
      State.hm_setHmByte]
    by_cases hw : (base + j) / 4 = (base + i) / 4
    · rw [if_pos hw, byte_setFld _ _ (by omega) (by omega)]
      by_cases hji : j = i
      · rw [if_pos (by omega), if_pos hji]
      · rw [if_neg (by omega), if_neg hji]
    · rw [if_neg hw, if_neg (by rintro rfl; exact hw rfl)]
  · rw [State.hqPoke, if_pos rfl, State.hqByte, if_pos rfl, State.hqByte, if_pos rfl]
    exact s.exByte_setExByte b hi hj

/-- A slot's bytes after a run of them is written. -/
theorem State.hqByte_hqPut (loc : Bool) {base i j : Nat} (l : List Byte) (s : State) (hi : i + l.length ≤ 2048) (hj : j < 2048) :
    (s.hqPut loc base i l).hqByte loc base j = if i ≤ j ∧ j < i + l.length then l.getD (j - i) 0 else s.hqByte loc base j := by
  induction l generalizing s i with
  | nil => rw [State.hqPut, if_neg (by simp)]
  | cons b l ih =>
    simp only [List.length_cons] at hi ⊢
    rw [State.hqPut_cons, ih (s.hqPoke loc base i b) (by omega), s.hqByte_hqPoke loc b (by omega) hj]
    rcases lt_trichotomy j i with h | rfl | h
    · rw [if_neg (by omega), if_neg (by omega), if_neg (by omega)]
    · rw [if_neg (by omega), if_pos rfl, if_pos (by omega), Nat.sub_self, List.getD_cons_zero]
    · by_cases hend : j < i + 1 + l.length
      · rw [if_pos (by omega), if_pos (by omega), show j - i = j - (i + 1) + 1 by omega, List.getD_cons_succ]
      · rw [if_neg (by omega), if_neg (by omega), if_neg (by omega)]

/-! ### What writing a slot leaves alone -/

/-- Writing a slot changes the words of its memory that hold it, and nothing else that a queue reads. -/
structure SlotOnly (loc : Bool) (base : Nat) (s t : State) : Prop where
  regs : t.regs = s.regs
  outbox : t.outbox = s.outbox
  host : loc = false → t.exch = s.exch ∧ ∀ w, 4 * w + 4 ≤ base ∨ base + 2048 ≤ 4 * w → t.hm (4 * w) = s.hm (4 * w)
  exch : loc = true → t.hostMem = s.hostMem ∧ ∀ a, (∀ j, j < 256 → (base + j) % 0x10000 ≠ a % 0x10000) → t.ex a = s.ex a

theorem SlotOnly.refl (loc : Bool) (base : Nat) (s : State) : SlotOnly loc base s s :=
  ⟨rfl, rfl, fun _ => ⟨rfl, fun _ _ => rfl⟩, fun _ => ⟨rfl, fun _ _ => rfl⟩⟩

theorem SlotOnly.trans {loc : Bool} {base : Nat} {s t u : State} (h : SlotOnly loc base s t) (k : SlotOnly loc base t u) :
    SlotOnly loc base s u := by
  refine ⟨k.regs.trans h.regs, k.outbox.trans h.outbox, fun hl => ?_, fun hl => ?_⟩
  · obtain ⟨hex, hhm⟩ := h.host hl
    obtain ⟨kex, khm⟩ := k.host hl
    exact ⟨kex.trans hex, fun w hw => (khm w hw).trans (hhm w hw)⟩
  · obtain ⟨hhm, hex⟩ := h.exch hl
    obtain ⟨khm, kex⟩ := k.exch hl
    exact ⟨khm.trans hhm, fun a ha => (kex a ha).trans (hex a ha)⟩

theorem SlotOnly.hqPoke (loc : Bool) {base i : Nat} (s : State) (b : Byte) (hi : i < 2048) : SlotOnly loc base s (s.hqPoke loc base i b) := by
  cases loc
  · rw [State.hqPoke, if_neg Bool.false_ne_true]
    refine ⟨?_, ?_, fun _ => ⟨?_, fun w hw => ?_⟩, fun h => absurd h Bool.false_ne_true⟩
    · rw [State.setHmByte, State.setHm_regs]
    · rw [State.setHmByte, State.setHm_outbox]
    · rw [State.setHmByte, State.setHm_exch]
    · rw [State.hm_setHmByte, if_neg (by omega)]
  · rw [State.hqPoke, if_pos rfl]
    refine ⟨rfl, rfl, fun h => absurd h (by decide), fun _ => ⟨rfl, fun a ha => ?_⟩⟩
    rw [State.setExByte, State.ex_setEx, if_neg (ha (i / 8) (by omega)).symm]

theorem SlotOnly.hqPut (loc : Bool) {base i : Nat} (l : List Byte) (s : State) (hi : i + l.length ≤ 2048) :
    SlotOnly loc base s (s.hqPut loc base i l) := by
  induction l generalizing s i with
  | nil => exact SlotOnly.refl loc base s
  | cons b l ih =>
    simp only [List.length_cons] at hi
    rw [State.hqPut_cons]
    exact (SlotOnly.hqPoke loc s b (by omega)).trans (ih _ (by omega))

end Sys2Proof.Machine

namespace Sys2Proof.Machine

/-! ### A frame for the host (rules R430, R431) -/

theorem State.hqByte_of_memory {s t : State} (hex : t.exch = s.exch) (hhm : t.hostMem = s.hostMem) (loc : Bool) (base i : Nat) :
    t.hqByte loc base i = s.hqByte loc base i := by
  rw [State.hqByte, State.hqByte, State.exByte, State.exByte, State.ex, State.ex, State.hm, State.hm, hex, hhm]

theorem length_bytesLe (n x : Nat) : (bytesLe n x).length = n := by
  rw [bytesLe, List.length_map, List.length_range]

theorem State.length_hqStamp (s : State) (req : Nat) (t : Rat) : (s.hqStamp req t).length = 14 := by
  rw [State.hqStamp]
  simp [length_bytesLe]

/-- A slot of the receive ring: the length, the stamp, the frame. -/
def State.rxSlot (s : State) (t : Rat) (l : List Byte) : List Byte := bytesLe 2 l.length ++ s.hqStamp 0 t ++ l

theorem State.length_rxSlot (s : State) (t : Rat) (l : List Byte) : (s.rxSlot t l).length = 16 + l.length := by
  rw [State.rxSlot, List.length_append, List.length_append, length_bytesLe, State.length_hqStamp]

theorem State.rxSlot_frame (s : State) (t : Rat) (l : List Byte) (i : Nat) : (s.rxSlot t l).getD (16 + i) 0 = l.getD i 0 := by
  have hlen : (bytesLe 2 l.length ++ s.hqStamp 0 t).length = 16 := by
    rw [List.length_append, length_bytesLe, State.length_hqStamp]
  rw [State.rxSlot, List.getD_append_right _ _ _ _ (by omega), hlen, Nat.add_sub_cancel_left]

theorem State.rxSlot_stamp (s : State) (t : Rat) (l : List Byte) {i : Nat} (hi : i < 14) :
    (s.rxSlot t l).getD (2 + i) 0 = (s.hqStamp 0 t).getD i 0 := by
  have hstamp := s.length_hqStamp 0 t
  have hlen := length_bytesLe 2 l.length
  rw [State.rxSlot, List.append_assoc, List.getD_append_right _ _ _ _ (by omega), hlen, Nat.add_sub_cancel_left,
    List.getD_append _ _ _ _ (by omega)]

theorem State.rxSlot_length (s : State) (t : Rat) {l : List Byte} (hl : l.length ≤ 2032) :
    ((s.rxSlot t l).getD 0 0).toNat + ((s.rxSlot t l).getD 1 0).toNat * 256 = l.length := by
  have h0 : (s.rxSlot t l).getD 0 0 = BitVec.ofNat 8 l.length := rfl
  have h1 : (s.rxSlot t l).getD 1 0 = BitVec.ofNat 8 (l.length >>> 8) := rfl
  rw [h0, h1, BitVec.toNat_ofNat, BitVec.toNat_ofNat, Nat.shiftRight_eq_div_pow]
  omega

section rx

variable {s : State} {n : Nat} {t : Rat} {l : List Byte}

theorem State.hqRx_of_full (h : s.hqRun n = false ∨
    (s.rf (ethPage n) 0x0B8 9 0 + 1) % s.rxqSize n = s.rf (ethPage n) 0x0B4 9 0 % s.rxqSize n) :
    s.hqRx n t l = s.setReg (ethPage n) 0x0C4 (cntUp (s.reg (ethPage n) 0x0C4)) := by
  have hfull : (!s.hqRun n || (s.rf (ethPage n) 0x0B8 9 0 + 1) % s.rxqSize n == s.rf (ethPage n) 0x0B4 9 0 % s.rxqSize n) = true := by
    rcases h with h | h <;> simp [h]
  rw [State.hqRx, hfull, if_pos rfl, State.count]

theorem State.hqRx_of_room (hrun : s.hqRun n = true)
    (h : (s.rf (ethPage n) 0x0B8 9 0 + 1) % s.rxqSize n ≠ s.rf (ethPage n) 0x0B4 9 0 % s.rxqSize n) :
    s.hqRx n t l = ((s.hqPut (s.hqLoc n) (s.hqSlot n 0x0A4 (s.rf (ethPage n) 0x0B8 9 0)) 0 (s.rxSlot t l)).setReg (ethPage n) 0x0B8
      (BitVec.ofNat 32 ((s.rf (ethPage n) 0x0B8 9 0 + 1) % s.rxqSize n))).raise (ethPage n) 18 := by
  have hroom : (!s.hqRun n || (s.rf (ethPage n) 0x0B8 9 0 + 1) % s.rxqSize n == s.rf (ethPage n) 0x0B4 9 0 % s.rxqSize n) = false := by
    simp [hrun, h]
  rw [State.hqRx, hroom, if_neg Bool.false_ne_true, State.rxSlot]

/-- A frame placed in the receive ring (rule R431). -/
theorem State.hqRx_spec (hrun : s.hqRun n = true)
    (h : (s.rf (ethPage n) 0x0B8 9 0 + 1) % s.rxqSize n ≠ s.rf (ethPage n) 0x0B4 9 0 % s.rxqSize n) (hl : l.length ≤ 2032) :
    let q := ethPage n
    let loc := s.hqLoc n
    let base := s.hqSlot n 0x0A4 (s.rf q 0x0B8 9 0)
    let v := s.hqRx n t l
    v.reg q 0x0B8 = BitVec.ofNat 32 ((s.rf q 0x0B8 9 0 + 1) % s.rxqSize n) ∧
      (v.reg q 0x014).getLsbD 18 = true ∧ RegsKept [addr q 0x0B8, addr q 0x014] s v ∧
      (∀ i, i < l.length → v.hqByte loc base (16 + i) = l.getD i 0) ∧
      (v.hqByte loc base 0).toNat + (v.hqByte loc base 1).toNat * 256 = l.length ∧
      (∀ i, i < 14 → v.hqByte loc base (2 + i) = (s.hqStamp 0 t).getD i 0) ∧
      (loc = false → v.exch = s.exch ∧ ∀ w, 4 * w + 4 ≤ base ∨ base + 2048 ≤ 4 * w → v.hm (4 * w) = s.hm (4 * w)) ∧
      (loc = true → v.hostMem = s.hostMem ∧ ∀ a, (∀ j, j < 256 → (base + j) % 0x10000 ≠ a % 0x10000) → v.ex a = s.ex a) := by
  intro q loc base v
  have hv : v = ((s.hqPut loc base 0 (s.rxSlot t l)).setReg q 0x0B8
      (BitVec.ofNat 32 ((s.rf q 0x0B8 9 0 + 1) % s.rxqSize n))).raise q 18 := State.hqRx_of_room hrun h
  have hlen : 0 + (s.rxSlot t l).length ≤ 2048 := by rw [State.length_rxSlot]; omega
  have hput := SlotOnly.hqPut loc (base := base) (i := 0) (s.rxSlot t l) s hlen
  have hex : v.exch = (s.hqPut loc base 0 (s.rxSlot t l)).exch := by rw [hv, State.raise_exch, State.setReg_exch]
  have hhm : v.hostMem = (s.hqPut loc base 0 (s.rxSlot t l)).hostMem := by rw [hv, State.raise_hostMem, State.setReg_hostMem]
  have hbyte : ∀ j, j < 16 + l.length → v.hqByte loc base j = (s.rxSlot t l).getD j 0 := fun j hj => by
    rw [State.hqByte_of_memory hex hhm, State.hqByte_hqPut loc _ s hlen (by omega),
      if_pos ⟨Nat.zero_le _, by rw [State.length_rxSlot]; omega⟩, Nat.sub_zero]
  refine ⟨?_, ?_, fun c hc => ?_, fun i hi => ?_, ?_, fun i hi => ?_, fun hloc => ?_, fun hloc => ?_⟩
  · rw [hv, State.reg_cell, State.cell_raise, if_neg (addr_event_ne (by decide) (by decide)).symm, ← State.reg_cell, State.reg_setReg_same]
  · rw [hv]
    exact State.irq_raise_same _ _ (by decide)
  · have h14 : c ≠ addr q 0x014 := fun e => hc (by simp [e])
    have hB8 : c ≠ addr q 0x0B8 := fun e => hc (by simp [e])
    rw [hv, State.cell_raise, if_neg h14, State.cell_setReg, if_neg hB8, State.cell, hput.regs, State.cell]
  · rw [hbyte _ (by omega), State.rxSlot_frame]
  · rw [hbyte 0 (by omega), hbyte 1 (by omega), State.rxSlot_length s t hl]
  · rw [hbyte _ (by omega), State.rxSlot_stamp s t l hi]
  · obtain ⟨hpex, hphm⟩ := hput.host hloc
    refine ⟨hex.trans hpex, fun w hw => ?_⟩
    rw [← hphm w hw, State.hm, hhm, State.hm]
  · obtain ⟨hphm, hpex⟩ := hput.exch hloc
    refine ⟨hhm.trans hphm, fun a ha => ?_⟩
    rw [← hpex a ha, State.ex, hex, State.ex]

end rx

end Sys2Proof.Machine

namespace Sys2Proof.Machine

/-! ### A frame of the host's (rule R433) -/

/-- The head of the transmit ring goes on by one slot. -/
def State.txNext (s : State) (n head : Nat) : State :=
  s.setReg (ethPage n) 0x0C0 (BitVec.ofNat 32 ((head + 1) % s.txqSize n))

/-- The length that a slot of the transmit ring gives. -/
def State.txLen (s : State) (loc : Bool) (base : Nat) : Nat := (s.hqByte loc base 0).toNat + (s.hqByte loc base 1).toNat * 256

/-- The frame of a slot of the transmit ring. -/
def State.txFrame (s : State) (loc : Bool) (base len : Nat) : List Byte := (List.range len).map fun i => s.hqByte loc base (16 + i)

/-- The native words of a slot in exchange memory, met as they are read. -/
def State.txMet (s : State) (loc : Bool) (base len : Nat) : State := if loc then s.meetEx base ((16 + len + 7) / 8) else s

/-- The stamp of a frame that has left, where it was asked for. -/
def State.txStamped (s : State) (loc : Bool) (base : Nat) (ask : Bool) (l : List Byte) : State := if ask then s.hqPut loc base 2 l else s

theorem exec_hqTxDone_idle {port : Fin 4} {dt : Nat} {own : Int} {s : State} (h : (s.after dt).hqRun port.val = false ∨
    (s.after dt).rf (ethPage port.val) 0x0C0 9 0 = (s.after dt).rf (ethPage port.val) 0x0BC 9 0 ∨ (s.after dt).sendsFirst port.val = true) :
    exec (.hqTxDone port dt own) s = .next (s.after dt) := by
  change execHqTxDone port dt own s = _
  have hidle : ((s.after dt).inReset || !((s.after dt).port port.val).link || !(s.after dt).hqRun port.val ||
      (s.after dt).rf (ethPage port.val) 0x0C0 9 0 == (s.after dt).rf (ethPage port.val) 0x0BC 9 0 || (s.after dt).sendsFirst port.val) = true := by
    rcases h with h | h | h <;> simp [h]
  rw [execHqTxDone, if_pos hidle]

section tx

variable {port : Fin 4} {dt : Nat} {own : Int} {s : State} (hr : (s.after dt).inReset = false) (hlink : ((s.after dt).port port.val).link = true)
include hr hlink

theorem exec_hqTxDone_due {u : State} (hu : s.after dt = u) {n : Nat} (hn : port.val = n) (hrun : u.hqRun n = true) {head : Nat}
    (hhd : u.rf (ethPage n) 0x0C0 9 0 = head) (hhead : head ≠ u.rf (ethPage n) 0x0BC 9 0) (hfirst : u.sendsFirst n = false) :
    exec (.hqTxDone port dt own) s = .next (
      if u.txLen (u.hqLoc n) (u.hqSlot n 0x0AC head) < 60 ∨ u.txLen (u.hqLoc n) (u.hqSlot n 0x0AC head) >
          frameMax (u.txFrame (u.hqLoc n) (u.hqSlot n 0x0AC head) (min (u.txLen (u.hqLoc n) (u.hqSlot n 0x0AC head)) 1522)) then
        (u.capErr (ethPage n) 0x05 0).txNext n head
      else
        ((((u.txMet (u.hqLoc n) (u.hqSlot n 0x0AC head) (u.txLen (u.hqLoc n) (u.hqSlot n 0x0AC head))).txStamped (u.hqLoc n)
          (u.hqSlot n 0x0AC head) ((u.hqByte (u.hqLoc n) (u.hqSlot n 0x0AC head) 2).toNat % 2 = 1) (u.hqStamp 1 (u.egress n own))).emit
          (.eth n (u.txFrame (u.hqLoc n) (u.hqSlot n 0x0AC head) (min (u.txLen (u.hqLoc n) (u.hqSlot n 0x0AC head)) 1522)))).txNext n
            head).raise (ethPage n) 19) := by
  subst hu hn hhd
  change execHqTxDone port dt own s = _
  have hgo : ((s.after dt).inReset || !((s.after dt).port port.val).link || !(s.after dt).hqRun port.val ||
      (s.after dt).rf (ethPage port.val) 0x0C0 9 0 == (s.after dt).rf (ethPage port.val) 0x0BC 9 0 || (s.after dt).sendsFirst port.val) = false := by
    simp [hr, hlink, hrun, hhead, hfirst]
  rw [execHqTxDone, hgo, if_neg Bool.false_ne_true]
  simp only [State.txLen, State.txFrame, State.txMet, State.txNext, State.txStamped, decide_eq_true_eq]

end tx

/-! ### What a slot's reading and stamping leave -/

theorem State.reg_meetEx_other {s : State} {base n q o : Nat} (ho : o < 0x1000) (hne : o ∉ [0x014, 0x020, 0x024]) :
    (s.meetEx base n).reg q o = s.reg q o := by
  rw [State.meetEx]
  refine List.foldlRecOn (motive := fun t : State => t.reg q o = s.reg q o) _ _ rfl fun t ht i _ => ?_
  rw [State.meet]
  split
  · exact (State.reg_capErr_other ho hne).trans ht
  · exact ht

/-- The words of a slot met: the memories and the outputs as they were. -/
theorem State.txMet_keeps (s : State) (loc : Bool) (base len : Nat) : let t := s.txMet loc base len
    t.exch = s.exch ∧ t.hostMem = s.hostMem ∧ t.outbox.filter (fun o => !o.isMessage) = s.outbox.filter (fun o => !o.isMessage) ∧
      ∀ n, t.txqSize n = s.txqSize n := by
  rw [State.txMet]
  dsimp only
  split
  · have hrest := s.rest_meetEx base ((16 + len + 7) / 8)
    have hex := congrArg State.exch hrest
    have hhm := congrArg State.hostMem hrest
    refine ⟨hex, hhm, congrArg State.outbox hrest, fun n => ?_⟩
    rw [State.txqSize, State.hqCtl, State.reg_meetEx_other (by decide) (by decide), State.txqSize, State.hqCtl]
  · exact ⟨rfl, rfl, rfl, fun _ => rfl⟩

/-- A slot stamped, or not: no register and no output changes. -/
theorem State.txStamped_keeps (s : State) (loc : Bool) (base : Nat) (ask : Bool) {l : List Byte} (hl : l.length = 14) :
    let t := s.txStamped loc base ask l
    t.regs = s.regs ∧ t.outbox = s.outbox ∧ (ask = false → t = s) ∧
      (ask = true → ∀ i, i < 14 → t.hqByte loc base (2 + i) = l.getD i 0) := by
  cases ask
  · exact ⟨rfl, rfl, fun _ => rfl, fun h => absurd h Bool.false_ne_true⟩
  · rw [State.txStamped, if_pos rfl]
    have hput := SlotOnly.hqPut loc (base := base) (i := 2) l s (by omega)
    refine ⟨hput.regs, hput.outbox, fun h => absurd h (by decide), fun _ i hi => ?_⟩
    rw [State.hqByte_hqPut loc l s (by omega) (by omega), if_pos (by omega), Nat.add_sub_cancel_left]

theorem State.txqSize_of_regs {s t : State} (h : t.regs = s.regs) (n : Nat) : t.txqSize n = s.txqSize n := by
  rw [State.txqSize, State.txqSize, State.hqCtl, State.hqCtl, State.reg, State.reg, h]

/-- A slot returned unsent is counted as an error of its page (rule R433). -/
theorem State.txReturned_spec (u : State) (n head : Nat) : let v := (u.capErr (ethPage n) 0x05 0).txNext n head
    v.reg (ethPage n) 0x0C0 = BitVec.ofNat 32 ((head + 1) % u.txqSize n) ∧ v.reg (ethPage n) 0x024 = cntUp (u.reg (ethPage n) 0x024) ∧
      v.hostMem = u.hostMem ∧ v.exch = u.exch := by
  have hsize : (u.capErr (ethPage n) 0x05 0).txqSize n = u.txqSize n := by
    rw [State.txqSize, State.hqCtl, State.reg_capErr_other (by decide) (by decide), State.txqSize, State.hqCtl]
  have hcount : (u.capErr (ethPage n) 0x05 0).reg (ethPage n) 0x024 = cntUp (u.reg (ethPage n) 0x024) := by
    have hraise : ∀ (t : State) (b : Nat), (t.raise (ethPage n) b).reg (ethPage n) 0x024 = t.reg (ethPage n) 0x024 := fun t b => by
      rw [State.reg_cell, State.cell_raise, if_neg (addr_event_ne (by decide) (by decide)).symm, State.reg_cell]
    have hcnt : (u.countErr (ethPage n)).reg (ethPage n) 0x024 = cntUp (u.reg (ethPage n) 0x024) := by
      rw [State.countErr]
      split
      · rw [hraise, State.count, State.reg_setReg_same]
      · rw [State.count, State.reg_setReg_same]
    rw [State.capErr]
    split
    · exact hcnt
    · rw [hraise, State.reg_setReg_other (by decide) (by decide) (by decide), hcnt]
  rw [State.txNext]
  dsimp only
  rw [State.reg_setReg_same, hsize, State.reg_setReg_other (by decide) (by decide) (by decide), hcount, State.setReg_hostMem,
    State.capErr_hostMem, State.setReg_exch, State.capErr_exch]
  exact ⟨rfl, rfl, rfl, rfl⟩

/-- A slot sent: the frame leaves, the slot is stamped where it asked for that, the ring goes on (rule R433). -/
theorem State.txSent_spec (u : State) (n head base len : Nat) (loc ask : Bool) (frame : List Byte) {l : List Byte} (hl : l.length = 14) :
    let met := u.txMet loc base len
    let v := (((met.txStamped loc base ask l).emit (.eth n frame)).txNext n head).raise (ethPage n) 19
    v.reg (ethPage n) 0x0C0 = BitVec.ofNat 32 ((head + 1) % u.txqSize n) ∧ (v.reg (ethPage n) 0x014).getLsbD 19 = true ∧
      RegsKept [addr (ethPage n) 0x0C0, addr (ethPage n) 0x014] met v ∧
      v.outbox.filter (fun o => !o.isMessage) = .eth n frame :: u.outbox.filter (fun o => !o.isMessage) ∧
      (ask = false → v.hostMem = u.hostMem ∧ v.exch = u.exch) ∧
      (ask = true → ∀ i, i < 14 → v.hqByte loc base (2 + i) = l.getD i 0) := by
  intro met v
  obtain ⟨mex, mhm, mout, msize⟩ := u.txMet_keeps loc base len
  obtain ⟨sregs, sout, skeep, sbyte⟩ := met.txStamped_keeps loc base ask hl
  have hsize : ((met.txStamped loc base ask l).emit (.eth n frame)).txqSize n = u.txqSize n :=
    ((State.txqSize_of_regs (by rw [State.emit_regs]) n).trans (State.txqSize_of_regs sregs n)).trans (msize n)
  have hv : v = (((met.txStamped loc base ask l).emit (.eth n frame)).setReg (ethPage n) 0x0C0
      (BitVec.ofNat 32 ((head + 1) % u.txqSize n))).raise (ethPage n) 19 := by
    rw [← hsize]; rfl
  have hex : v.exch = (met.txStamped loc base ask l).exch := by rw [hv, State.raise_exch, State.setReg_exch, State.emit_exch]
  have hhm : v.hostMem = (met.txStamped loc base ask l).hostMem := by rw [hv, State.raise_hostMem, State.setReg_hostMem, State.emit_hostMem]
  refine ⟨?_, ?_, fun c hc => ?_, ?_, fun ha => ?_, fun ha i hi => ?_⟩
  · rw [hv, State.reg_cell, State.cell_raise, if_neg (addr_event_ne (by decide) (by decide)).symm, ← State.reg_cell, State.reg_setReg_same]
  · rw [hv]
    exact State.irq_raise_same _ _ (by decide)
  · have h14 : c ≠ addr (ethPage n) 0x014 := fun e => hc (by simp [e])
    have hC0 : c ≠ addr (ethPage n) 0x0C0 := fun e => hc (by simp [e])
    rw [hv, State.cell_raise, if_neg h14, State.cell_setReg, if_neg hC0, State.cell_emit, State.cell, sregs, State.cell]
  · have hraise := congrArg State.outbox (State.rest_raise (((met.txStamped loc base ask l).emit (.eth n frame)).setReg (ethPage n) 0x0C0
      (BitVec.ofNat 32 ((head + 1) % u.txqSize n))) (ethPage n) 19)
    rw [← hv] at hraise
    refine hraise.trans ?_
    change List.filter _ (State.outbox _) = _
    rw [State.setReg_outbox, State.emit_outbox, sout, List.filter_cons_of_pos rfl, mout]
  · rw [hhm, hex, skeep ha]
    exact ⟨mhm, mex⟩
  · rw [State.hqByte_of_memory hex hhm]
    exact sbyte ha i hi

/-! ### The longest frame that is sent -/

theorem frameMax_le (l : List Byte) : frameMax l ≤ 1522 := by
  unfold frameMax
  split <;> omega

theorem le_frameMax {l : List Byte} {len : Nat} (h : len ≤ 1518 ∨ (len ≤ 1522 ∧ l.getD 12 0 = 0x81 ∧ l.getD 13 0 = 0x00)) :
    len ≤ frameMax l := by
  unfold frameMax
  split
  · next hv => omega
  · next hv =>
    rcases h with h | ⟨_, h⟩
    · exact h
    · exact absurd h hv

/-! ### Address resolution and the statement -/

section arp

variable {port : Fin 4} {dt : Nat} {own : Int} {s : State} (hr : (s.after dt).inReset = false) (hlink : ((s.after dt).port port.val).link = true)
  (target mac ip : Nat) (l : List Byte)
include hr hlink

theorem exec_arp : exec (.arp port dt own target mac ip l) s =
    .next (if ((s.after dt).reg (ethPage port.val) 0x050).toNat != 0 && ((s.after dt).reg (ethPage port.val) 0x050).toNat == target then
      (s.after dt).emit (.resolve port.val false ((s.after dt).macOf port.val) ((s.after dt).reg (ethPage port.val) 0x050).toNat mac ip)
    else (s.after dt).hqRx port.val ((s.after dt).ingress port.val own) l) := by
  change execArp port dt own target mac ip l s = _
  have hgo : ((s.after dt).inReset || !((s.after dt).port port.val).link) = false := by simp [hr, hlink]
  rw [execArp, hgo, if_neg Bool.false_ne_true]

theorem exec_neighbourSolicitation : exec (.neighbourSolicitation port dt own target mac ip l) s =
    .next (if (s.after dt).ip6Of port.val != 0 && (s.after dt).ip6Of port.val == target then
      (s.after dt).emit (.resolve port.val true ((s.after dt).macOf port.val) ((s.after dt).ip6Of port.val) mac ip)
    else (s.after dt).hqRx port.val ((s.after dt).ingress port.val own) l) := by
  change execNeighbourSolicitation port dt own target mac ip l s = _
  have hgo : ((s.after dt).inReset || !((s.after dt).port port.val).link) = false := by simp [hr, hlink]
  rw [execNeighbourSolicitation, hgo, if_neg Bool.false_ne_true]

theorem exec_hqRx (fcs : Bool) : exec (.hqRx port dt own fcs l) s =
    .next (if !fcs then (s.after dt).countErr (ethPage port.val)
      else if (s.after dt).takesFrame port.val l then (s.after dt).hqRx port.val ((s.after dt).ingress port.val own) l else s.after dt) := by
  change execHqRx port dt own fcs l s = _
  have hgo : ((s.after dt).inReset || !((s.after dt).port port.val).link) = false := by simp [hr, hlink]
  rw [execHqRx, hgo, if_neg Bool.false_ne_true]

end arp

/-- An address that is set and asked for. -/
theorem asked_iff {a target : Nat} : (a != 0 && a == target) = true ↔ a ≠ 0 ∧ target = a := by
  rw [Bool.and_eq_true, bne_iff_ne, beq_iff_eq, eq_comm (a := a)]

/-- What a solicitation for an address does: answered, or given to the host. -/
theorem ends_ite {c : Instr} {s t u : State} {a target : Nat} (h : exec c s = .next (if a != 0 && a == target then t else u)) :
    (a ≠ 0 → target = a → Ends c s t) ∧ (a = 0 ∨ target ≠ a → Ends c s u) := by
  refine ⟨fun h0 ht => ⟨_, h, ?_⟩, fun hno => ⟨_, h, ?_⟩⟩
  · rw [if_pos (asked_iff.2 ⟨h0, ht⟩)]
    exact Alike.refl t
  · rw [if_neg fun e => hno.elim (asked_iff.1 e).1 fun hne => hne (asked_iff.1 e).2]
    exact Alike.refl u

/-- Settles O58: address resolution, the receive ring and the transmit ring in turn. -/
theorem hostQueues : Obligations.HostQueues := by
  unfold Obligations.HostQueues
  intro port s dt own n u q t hr hlink
  refine ⟨fun target mac ip l => ?_, fun l => ⟨?_, fun hno => ?_, fun htake => ?_⟩, ?_⟩
  · obtain ⟨harp, hhost⟩ := ends_ite (exec_arp hr hlink target mac ip l)
    obtain ⟨hns, hhost6⟩ := ends_ite (exec_neighbourSolicitation hr hlink target mac ip l)
    exact ⟨harp, hhost, hns, hhost6⟩
  · exact ⟨_, exec_hqRx hr hlink l false, Alike.refl _⟩
  · refine ⟨_, exec_hqRx hr hlink l true, ?_⟩
    rw [if_neg (by decide), if_neg (by rw [hno]; decide)]
    exact Alike.refl u
  · have hexec : exec (.hqRx port dt own true l) s = .next (u.hqRx n t l) := by
      rw [exec_hqRx hr hlink l true, if_neg (by decide), if_pos htake]
    intro tail next loc base
    exact ⟨fun hfull => ⟨_, hexec, by rw [State.hqRx_of_full hfull]; exact Alike.refl _⟩, fun hrun hroom hl =>
      ⟨_, hexec, State.hqRx_spec hrun hroom hl⟩⟩
  · intro head loc base len frame next met
    refine ⟨fun hidle => ⟨u, exec_hqTxDone_idle hidle, Alike.refl u⟩, fun hrun hhead hfirst => ?_⟩
    have hexec := exec_hqTxDone_due hr hlink (own := own) rfl rfl hrun rfl hhead hfirst
    refine ⟨fun hbad => ⟨_, hexec, ?_⟩, fun hmin hmax => ?_⟩
    · rw [if_pos]
      · exact u.txReturned_spec n head
      · have hle := frameMax_le (u.txFrame loc base (min len 1522))
        exact hbad.imp id fun h => hle.trans_lt h
    · have hlen : min len 1522 = len := by omega
      have hfit : len ≤ frameMax (u.txFrame loc base len) := le_frameMax hmax
      have hgood : ¬ (len < 60 ∨ len > frameMax (u.txFrame loc base (min len 1522))) := by
        rw [hlen]
        omega
      obtain ⟨h1, h2, h3, h4, h5, h6⟩ := u.txSent_spec n head base len loc (decide ((u.hqByte loc base 2).toNat % 2 = 1))
        (u.txFrame loc base (min len 1522)) (u.length_hqStamp 1 (u.egress n own))
      have hask : decide ((u.hqByte loc base 2).toNat % 2 = 1) = (u.hqByte loc base 2).getLsbD 0 := (Nat.testBit_zero _).symm
      have hframe : u.txFrame loc base (min len 1522) = frame := congrArg (u.txFrame loc base) hlen
      exact ⟨_, hexec.trans (congrArg _ (if_neg hgood)), h1, h2, h3, h4.trans (congrArg (fun f => Output.eth n f :: _) hframe),
        fun h => h5 (hask.trans h), fun h => h6 (hask.trans h)⟩

end Sys2Proof.Machine

/-! ## Exceptions (rules R465, R468, R470) -/

namespace Sys2Proof.Machine

/-! ### The state outside the cores, the registers and the memories -/

/-- What an exception leaves of the state: all but the cores, the registers, the memories, the free numbers and the interrupts. -/
def State.outer (s : State) : State :=
  { s with cores := [], regs := [], freeCtr := 0, measRam := [], exch := [], bad := [], msixReq := 0, msixPba := 0, outbox := [] }

/-- A state with the cores, the registers, the memories, the free numbers and the interrupts of another. -/
def State.inside (s t : State) : State :=
  { t with cores := s.cores, regs := s.regs, freeCtr := s.freeCtr, measRam := s.measRam, exch := s.exch, bad := s.bad,
           msixReq := s.msixReq, msixPba := s.msixPba, outbox := s.outbox }

theorem State.eq_of_outer {s t : State} (h : t.outer = s.outer) : s.inside t = s := by
  have ht : s.inside t.outer = s.inside t := rfl
  have hs : s.inside s.outer = s := rfl
  rw [← ht, h, hs]

theorem State.outer_of_inside {s t : State} (h : s.inside t = s) : t.outer = s.outer := by
  have ht : (s.inside t).outer = t.outer := rfl
  rw [← ht, h]

theorem State.outer_of_rest {s t : State} (h : t.rest = s.rest) : t.outer = s.outer := by
  have hrest : ∀ u : State, u.rest.outer = u.outer := fun _ => rfl
  rw [← hrest t, h, hrest s]

@[simp] theorem State.outer_setCore (s : State) (k : Nat) (c : Core) : (s.setCore k c).outer = s.outer := rfl
@[simp] theorem State.outer_modCore (s : State) (k : Nat) (f : Core → Core) : (s.modCore k f).outer = s.outer := rfl
@[simp] theorem State.outer_bump (s : State) : s.bump.outer = s.outer := rfl
@[simp] theorem State.outer_setReg (s : State) (p o : Nat) (v : Word) : (s.setReg p o v).outer = s.outer := rfl
@[simp] theorem State.outer_raise (s : State) (p bit : Nat) : (s.raise p bit).outer = s.outer := State.outer_of_rest (s.rest_raise ..)
@[simp] theorem State.outer_capErr (s : State) (p code off : Nat) : (s.capErr p code off).outer = s.outer :=
  State.outer_of_rest (s.rest_capErr ..)

theorem State.outer_dataWr (s : State) (k sp a : Nat) (v : Native) : (s.dataWr k sp a v).outer = s.outer := by
  rw [State.dataWr]
  split_ifs <;> rfl

theorem State.outer_stackAt (s : State) (k o sp : Nat) : (s.stackAt k o sp).outer = s.outer := rfl

theorem State.outer_stopIfDue (s : State) (k : Nat) : (s.stopIfDue k).outer = s.outer := by
  rw [State.stopIfDue]
  split
  · rfl
  · rfl

end Sys2Proof.Machine

namespace Sys2Proof.Machine

/-! ### An exception taken -/

/-- A core at the vector it goes to (rule R465). -/
def Core.entered (c : Core) (v : Nat) : Core :=
  { c.hwBit 0x010 false with
    pc := BitVec.ofNat 16 (8 * v), repAct := false, repN := false, repFirst := false, slot := .no, cyc := c.cyc + 4, clk := c.clk + 4 }

/-- An exception of vectors 1 to 8 counts and is reported (rule R473). -/
def State.countExc (s : State) (k v : Nat) : State := if v ≤ 8 then (s.count (corePage k) 0x058).raise (corePage k) 18 else s

theorem State.enterExc_of_push {s : State} {k sp a : Nat} (h : s.pushesTo k sp a) (v code : Nat) (resume cont : BitVec 16) (slot : Bool) :
    s.enterExc k v code resume cont slot =
      ((((s.stackAt k (offOf ((s.core k).ar 7) - 1) sp).dataWr k sp a ((s.core k).frame k resume cont slot v code)).modCore k
        fun c => c.entered v).countExc k v) := by
  rw [State.enterExc, State.pushWord_ok h, State.countExc]
  rfl

section enter

variable (s : State) (k v : Nat)

@[simp] theorem State.countExc_cores : (s.countExc k v).cores = s.cores := by
  rw [State.countExc]
  split
  · rw [State.raise_cores, State.count, State.setReg_cores]
  · rfl

@[simp] theorem State.countExc_measRam : (s.countExc k v).measRam = s.measRam := by
  rw [State.countExc]
  split
  · rw [State.raise_measRam, State.count, State.setReg_measRam]
  · rfl

@[simp] theorem State.countExc_exch : (s.countExc k v).exch = s.exch := by
  rw [State.countExc]
  split
  · rw [State.raise_exch, State.count, State.setReg_exch]
  · rfl

@[simp] theorem State.outer_countExc : (s.countExc k v).outer = s.outer := by
  rw [State.countExc]
  split
  · rw [State.outer_raise, State.count, State.outer_setReg]
  · rfl

/-- An exception's count, its event, and the registers it leaves. -/
theorem State.reg_countExc : let t := s.countExc k v
    t.reg (corePage k) 0x058 = (if v ≤ 8 then cntUp (s.reg (corePage k) 0x058) else s.reg (corePage k) 0x058) ∧
    (v ≤ 8 → (t.reg (corePage k) 0x014).getLsbD 18 = true) ∧
    ∀ p o, addr p o ≠ addr (corePage k) 0x058 → addr p o ≠ addr (corePage k) 0x014 → t.reg p o = s.reg p o := by
  rw [State.countExc]
  split
  · refine ⟨?_, fun _ => State.irq_raise_same _ _ (by decide), fun p o h58 h14 => ?_⟩
    · rw [State.reg_cell, State.cell_raise, if_neg (addr_event_ne (by decide) (by decide)).symm, State.cell_count, if_pos rfl, State.reg_cell]
    · rw [State.reg_cell, State.cell_raise, if_neg h14, State.cell_count, if_neg h58, State.reg_cell]
  · next h => exact ⟨rfl, fun h' => absurd h' h, fun _ _ _ _ => rfl⟩

end enter

theorem State.setBad_regs (s : State) (m a : Nat) (b : Bool) : (s.setBad m a b).regs = s.regs := by rw [State.setBad]
theorem State.setMr_regs (s : State) (a : Nat) (v : Native) : (s.setMr a v).regs = s.regs := by rw [State.setMr]
theorem State.setEx_regs (s : State) (a : Nat) (v : Native) : (s.setEx a v).regs = s.regs := by rw [State.setEx]

/-- Writing a word of a core's memory leaves the registers. -/
theorem State.dataWr_regs (s : State) (k sp a : Nat) (v : Native) : (s.dataWr k sp a v).regs = s.regs := by
  unfold State.dataWr
  by_cases h0 : sp = 0
  · rw [if_pos h0, State.setBad_regs, State.modCore_regs]
  by_cases h1 : sp = 1
  · rw [if_neg h0, if_pos h1, State.setBad_regs, State.modCore_regs]
  by_cases h2 : sp = 2
  · rw [if_neg h0, if_neg h1, if_pos h2, State.setMr_regs]
  · rw [if_neg h0, if_neg h1, if_neg h2, State.setEx_regs]

/-- What a core has become that has taken an exception: `a7` its stack pointer, `x` and `y` its memories, perhaps stopped. -/
def Core.atVector (c : Core) (v : Nat) (a7 : BitVec 27) (x y : Tab Native) (cyc clk : Nat) (st : CoreRun) (sr : Bool) : Core :=
  { ({ c.setA 7 a7 with cyc := cyc, clk := clk, x := x, y := y } : Core).entered v with st := st, stopReq := sr }

theorem Core.atVector_seg (c : Core) (v : Nat) (a7 : BitVec 27) (x y : Tab Native) (cyc clk : Nat) (st : CoreRun) (sr : Bool) :
    (c.atVector v a7 x y cyc clk st sr).seg = c.seg := rfl

/-- A core that no stop waits for runs on at the vector. -/
theorem Core.entered_run {c : Core} {v : Nat} {a7 : BitVec 27} {x y : Tab Native} {cyc clk : Nat} {st : CoreRun}
    (h : (({ c.setA 7 a7 with cyc := cyc, clk := clk, x := x, y := y } : Core).entered v).stopReq = false →
      st = (({ c.setA 7 a7 with cyc := cyc, clk := clk, x := x, y := y } : Core).entered v).st) :
    c.stopReq = false → st = c.st := h

/-- All of a core but its stack pointer, B.IE, its memories and where it goes on is as it was. -/
theorem CoreFrame.atVector (c : Core) (v : Nat) (a7 : BitVec 27) (x y : Tab Native) (cyc clk : Nat) (st : CoreRun) (sr : Bool)
    (hst : c.stopReq = false → st = c.st) : CoreFrame c (c.atVector v a7 x y cyc clk st sr) [] [7] [] [0x010] := by
  refine ⟨fun n _ => rfl, fun n hn => ?_, fun n _ => rfl, fun b hb => ?_, rfl, rfl, rfl, rfl, rfl, hst⟩
  · exact Core.ar_setA_ne c a7 (by simpa using hn)
  · have hbit := Core.bits_hwBit c 0x010 b false (by decide)
    rw [if_neg (by simpa using hb)] at hbit
    exact hbit

/-- CORE k TAKES AN EXCEPTION (rules R465, R470, R473). -/
theorem Enters.of_enterExc (s : State) (k v code : Nat) (resume cont : BitVec 16) (slot : Bool) :
    Enters k s ((s.enterExc k v code resume cont slot).stopIfDue k) [] [] v ((s.core k).frame k resume cont slot v code) := by
  intro sp a h
  have hsp := Core.locate_space h.2
  set o := offOf ((s.core k).ar 7) - 1 with ho
  set fr := (s.core k).frame k resume cont slot v code with hfr
  set w := (s.stackAt k o sp).dataWr k sp a fr with hw
  set u := s.enterExc k v code resume cont slot with hu
  obtain ⟨-, -, -, -, hstop⟩ := u.stopIfDue_core k
  have henter : u = (w.modCore k fun c => c.entered v).countExc k v := State.enterExc_of_push h v code resume cont slot
  obtain ⟨hcnt, hev, hkept⟩ := (w.modCore k fun c => c.entered v).reg_countExc k v
  rw [← henter] at hcnt hev hkept
  have hwreg : ∀ p o', (w.modCore k fun c => c.entered v).reg p o' = s.reg p o' := fun p o' => by
    rw [State.reg, State.modCore_regs, hw, State.dataWr_regs, State.stackAt, State.bump_regs, State.modCore_regs, State.reg]
  have h58 : addr (corePage k) 0x058 ≠ addr (corePage k) 0x048 := fun e => absurd (addr_inj (by decide) (by decide) e).2 (by decide)
  have h14 : addr (corePage k) 0x014 ≠ addr (corePage k) 0x048 := fun e => absurd (addr_inj (by decide) (by decide) e).2 (by decide)
  have hmeas : (u.stopIfDue k).measRam = w.measRam := by rw [hstop.meas, henter, State.countExc_measRam, State.modCore_measRam]
  have hexch : (u.stopIfDue k).exch = w.exch := by rw [hstop.ex, henter, State.countExc_exch, State.modCore_exch]
  obtain ⟨cyc, clk, hstack⟩ := s.stackAt_core k o sp
  obtain ⟨x, y, hwcore⟩ := (s.stackAt k o sp).dataWr_core k sp a fr hsp
  obtain ⟨st, sr, hscore, hst, -⟩ := u.stopIfDue_core k
  obtain ⟨hoff, hseg⟩ := StackMoved.of_setA (s.core k) o
  have hucore : u.core k = (w.core k).entered v := by
    rw [henter, State.core_eq_of_cores (State.countExc_cores ..), State.core_modCore_same]
  generalize withOff ((s.core k).ar 7) o = a7 at hstack hoff hseg
  rw [hstack] at hwcore
  rw [hucore, hwcore] at hst
  have hcore : (u.stopIfDue k).core k = (s.core k).atVector v a7 x y cyc clk st sr := by
    rw [hscore, hucore, hwcore, Core.atVector]
  have hread : ∀ sp' a', (u.stopIfDue k).dataRd k sp' a' = w.dataRd k sp' a' := fun sp' a' =>
    State.dataRd_congr (by rw [hcore, hwcore]; rfl) (by rw [hcore, hwcore]; rfl) hmeas hexch sp' a'
  have hread0 : ∀ sp' a', (s.stackAt k o sp).dataRd k sp' a' = s.dataRd k sp' a' := fun sp' a' => by
    refine State.dataRd_congr ?_ ?_ ?_ ?_ sp' a'
    · rw [hstack, Core.setA]
    · rw [hstack, Core.setA]
    · rw [State.stackAt, State.bump_measRam, State.modCore_measRam]
    · rw [State.stackAt, State.bump_exch, State.modCore_exch]
  obtain ⟨hword, hwords⟩ := (s.stackAt k o sp).dataWr_stored k sp a fr hsp
  have hpos := h.1
  have hlt : offOf ((s.core k).ar 7) < 2 ^ 24 := Nat.mod_lt _ (by decide)
  refine ⟨⟨?_, fun sp' a' h4 hne => ?_⟩, ⟨?_, ?_⟩, ?_, ?_, ?_, ?_, ?_, ?_, ?_, fun h8 => ?_, fun j hj => ?_, fun p o' h1 h2 h3 => ?_, ?_⟩
  · rw [hread, hword]
  · rw [hread, hwords sp' a' h4 hne, hread0]
  · rw [hcore]
    change ((offOf (((s.core k).setA 7 a7).ar 7) : Nat) : Int) = _
    rw [hoff]
    omega
  · rw [hcore]
    exact hseg
  · rw [hcore]; rfl
  · rw [hcore]
    exact (Core.bits_hwBit _ 0x010 0x010 false (by decide)).trans (if_pos rfl)
  · rw [hcore]; rfl
  · rw [hcore]; rfl
  · rw [hcore]
    exact CoreFrame.atVector (s.core k) v a7 x y cyc clk st sr (Core.entered_run hst)
  · rw [hcore, Core.atVector_seg]
  · rw [hstop.2.1 _ _ h58, hcnt, hwreg]
  · rw [State.reg_cell, ← State.reg_cell, hstop.2.1 _ _ h14]
    exact hev h8
  · rw [hstop.1 j hj, henter, State.core_eq_of_cores (State.countExc_cores ..), State.core_modCore_ne _ _ hj, hw,
      (OutsideMem.of_dataWr (s.stackAt k o sp) k sp a fr hsp).1 j hj, (s.stackAt_free k o sp).1 j hj]
  · rw [hstop.2.1 _ _ h1, hkept _ _ h2 h3, hwreg]
  · refine State.eq_of_outer ?_
    rw [State.outer_stopIfDue, henter, State.outer_countExc, State.outer_modCore, hw, State.outer_dataWr, State.outer_stackAt]

end Sys2Proof.Machine

namespace Sys2Proof.Machine

/-! ### An exception at the instruction in issue -/

/-- A state that differs from another at most in the cycles that core k has counted. -/
structure CyclesOnly (k : Nat) (s w : State) : Prop where
  core : ∃ cyc clk, w.core k = { s.core k with cyc := cyc, clk := clk }
  other : ∀ j, j ≠ k → w.core j = s.core j
  cell : ∀ a, w.cell a = s.cell a
  measRam : w.measRam = s.measRam
  exch : w.exch = s.exch
  outer : w.outer = s.outer

theorem CyclesOnly.refl (k : Nat) (s : State) : CyclesOnly k s s := ⟨⟨_, _, rfl⟩, fun _ _ => rfl, fun _ => rfl, rfl, rfl, rfl⟩

theorem CyclesOnly.stalled (s : State) (k : Nat) (q : Issue) : CyclesOnly k s (s.stalled k q) := by
  refine ⟨⟨((s.core k).stalled q.uses).cyc, ((s.core k).stalled q.uses).clk, by rw [State.core_stalled, Core.stalled]⟩,
    fun j hj => ?_, fun a => ?_, ?_, ?_, ?_⟩
  · rw [State.stalled, State.core_setCore_ne _ _ hj]
  · rw [State.stalled, State.cell, State.setCore_regs, State.cell]
  · rw [State.stalled, State.setCore]
  · rw [State.stalled, State.setCore]
  · rw [State.stalled, State.outer_setCore]

theorem CyclesOnly.capErr {k : Nat} {s w : State} (h : CyclesOnly k s w) (p code off : Nat) :
    CyclesOnly k (s.capErr p code off) (w.capErr p code off) := by
  have hcore : ∀ u : State, ∀ j, (u.capErr p code off).core j = u.core j := fun u j => State.core_eq_of_cores (u.capErr_cores ..) j
  obtain ⟨cyc, clk, hk⟩ := h.core
  refine ⟨⟨cyc, clk, ?_⟩, fun j hj => ?_, State.cell_capErr_congr h.cell p code off, ?_, ?_, ?_⟩
  · rw [hcore, hcore, hk]
  · rw [hcore, hcore, h.other j hj]
  · rw [State.capErr_measRam, State.capErr_measRam, h.measRam]
  · rw [State.capErr_exch, State.capErr_exch, h.exch]
  · rw [State.outer_capErr, State.outer_capErr, h.outer]

/-- A core's registers, bits and the like do not depend on the cycles it has counted. -/
theorem CoreFrame.of_cycles {c c' : Core} {cyc clk : Nat} {ds : List (BitVec 4)} {as accs bits : List Nat}
    (h : CoreFrame { c with cyc := cyc, clk := clk } c' ds as accs bits) : CoreFrame c c' ds as accs bits := h

theorem StackMoved.of_cycles {c c' : Core} {cyc clk : Nat} {d : Int} (h : StackMoved { c with cyc := cyc, clk := clk } c' d) :
    StackMoved c c' d := h

theorem pushes_cycles {c : Core} {k sp a cyc clk : Nat} (h : 0 < offOf (c.ar 7) ∧ c.locate k 7 (-1) true = some (sp, a)) :
    0 < offOf (({ c with cyc := cyc, clk := clk } : Core).ar 7) ∧
      ({ c with cyc := cyc, clk := clk } : Core).locate k 7 (-1) true = some (sp, a) := h

theorem Core.seg_cycles (c : Core) (cyc clk : Nat) : ({ c with cyc := cyc, clk := clk } : Core).seg = c.seg := rfl

/-- The exception of a core that stalled first is the exception of the core as it was. -/
theorem Enters.of_cyclesOnly {k : Nat} {s w t : State} {ds : List (BitVec 4)} {bits : List Nat} {v : Nat} {fr : Native}
    (hw : CyclesOnly k s w) (h : Enters k w t ds bits v fr) : Enters k s t ds bits v fr := by
  intro sp a hpush
  obtain ⟨cyc, clk, hcore⟩ := hw.core
  have hpush' : w.pushesTo k sp a := by
    rw [State.pushesTo, hcore]
    exact pushes_cycles hpush
  obtain ⟨⟨hword, hwords⟩, hstack, hpc, hie, hrep, hslot, hframe, hseg, h58, h14, hothers, hregs, hall⟩ := h sp a hpush'
  have hreg : ∀ p o, w.reg p o = s.reg p o := fun p o => hw.cell _
  have hread : ∀ sp' a', w.dataRd k sp' a' = s.dataRd k sp' a' := fun sp' a' =>
    State.dataRd_congr (by rw [hcore]) (by rw [hcore]) hw.measRam hw.exch sp' a'
  rw [hcore] at hstack hframe hseg
  rw [hreg] at h58
  refine ⟨⟨hword, fun sp' a' h4 hne => (hwords sp' a' h4 hne).trans (hread _ _)⟩, hstack.of_cycles, hpc, hie, hrep, hslot,
    hframe.of_cycles, hseg.trans (Core.seg_cycles _ cyc clk), h58, h14, fun j hj => (hothers j hj).trans (hw.other j hj),
    fun p o h1 h2 h3 => (hregs p o h1 h2 h3).trans (hreg p o), State.eq_of_outer ?_⟩
  exact (State.outer_of_inside hall).trans hw.outer

/-! ### The frame -/

/-- A bit variable below the places of the read-only ones is the stored bit. -/
theorem Core.bit_ie (c : Core) (k : Nat) : c.bit k 0x010 = c.bits.getLsbD 0x010 := by
  have hlow : ∀ b x, 0x010 < b → (at4096 b x).getLsbD 0x010 = false := fun b x hb => by
    rw [at4096, BitVec.getLsbD_ofNat, Nat.testBit_shiftLeft, decide_eq_false (show ¬ 0x010 ≥ b by omega), Bool.false_and, Bool.and_false]
  simp only [Core.bit, Core.space, BitVec.getLsbD_or, hlow _ _ (show 0x010 < 0x012 by decide), hlow _ _ (show 0x010 < 0x013 by decide),
    hlow _ _ (show 0x010 < 0x220 by decide), hlow _ _ (show 0x010 < 0x240 by decide), hlow _ _ (show 0x010 < 0x260 by decide),
    hlow _ _ (show 0x010 < 0x280 by decide), hlow _ _ (show 0x010 < 0x2A0 by decide), hlow _ _ (show 0x010 < 0x2C0 by decide),
    hlow _ _ (show 0x010 < 0x2E0 by decide), Bool.or_false]

/-- The frame does not depend on the cycles counted. -/
theorem Core.frame_cycles (c : Core) (k : Nat) (resume cont : BitVec 16) (slot : Bool) (v code cyc clk : Nat) :
    ({ c with cyc := cyc, clk := clk } : Core).frame k resume cont slot v code = c.frame k resume cont slot v code := by
  rw [Core.frame, Core.frame, Core.bit_ie, Core.bit_ie]

theorem Core.faultFrame_cycles (c : Core) (k v code len cyc clk : Nat) :
    ({ c with cyc := cyc, clk := clk } : Core).faultFrame k v code len = c.faultFrame k v code len := by
  rw [Core.faultFrame, Core.frame_cycles, Core.faultFrame]
  rfl

/-! ### Faults before any effect -/

/-- An exception other than DATA_ERR, taken at the instruction in issue. -/
theorem Enters.of_takeFault {k : Nat} {s w : State} (hw : CyclesOnly k s w) {v code len : Nat} (hv : v ≠ 6) :
    Enters k s ((w.takeFault k v code len).stopIfDue k) [] [] v ((s.core k).faultFrame k v code len) := by
  obtain ⟨cyc, clk, hcore⟩ := hw.core
  have htake : w.takeFault k v code len = w.enterExc k v code (w.core k).pc ((w.core k).contAfter len) ((w.core k).slot ≠ .no) := by
    have hv' : ¬ v = vDATAERR := hv
    rw [State.takeFault, if_neg hv']
  rw [htake, ← Core.faultFrame_cycles (s.core k) k v code len cyc clk, ← hcore]
  exact (Enters.of_enterExc w k v code _ _ _).of_cyclesOnly hw

/-- DATA_ERR, taken at the instruction in issue: the page that owns the word captures it first (rule R53). -/
theorem Enters.of_takeFault_dataErr {k : Nat} {s w : State} (hw : CyclesOnly k s w) {sp len : Nat} :
    Enters k (s.capErr (spacePage k sp) 0x20 0) ((w.takeFault k 6 sp len).stopIfDue k) [] [] 6 ((s.core k).faultFrame k 6 sp len) := by
  obtain ⟨cyc, clk, hcore⟩ := hw.core
  have hcap : (w.capErr (spacePage k sp) 0x20 0).core k = w.core k := State.core_eq_of_cores (w.capErr_cores ..) k
  have htake : w.takeFault k 6 sp len = (w.capErr (spacePage k sp) 0x20 0).enterExc k 6 sp (w.core k).pc ((w.core k).contAfter len)
      ((w.core k).slot ≠ .no) := by
    have h6 : 6 = vDATAERR := rfl
    rw [State.takeFault, if_pos h6]
  have henter := Enters.of_enterExc (w.capErr (spacePage k sp) 0x20 0) k 6 sp (w.core k).pc ((w.core k).contAfter len)
    ((w.core k).slot ≠ .no)
  rw [hcap] at henter
  rw [htake, ← Core.faultFrame_cycles (s.core k) k 6 sp len cyc clk, ← hcore]
  exact henter.of_cyclesOnly (hw.capErr ..)

section faults

variable {k : CoreId} {s : State} {i : Instr} {q : Issue} {body : State → Eff} {len : Nat}
  (h : s.ready k) (he : exec i s = .next (s.issue k q body)) (hl : q.len = len) (hl4 : len ≤ 4)
include h he hl hl4

/-- A bad form, or a control instruction in a slot or under a repeat, is ILLEGAL (rules R450, R453, R456). -/
theorem Faults.illegal (hb : q.bad = true ∨ (q.ctl = true ∧ ((s.core k).slot ≠ .no ∨ (s.core k).repAct = true)) ∨
    (q.noRep = true ∧ (s.core k).repAct = true)) : Faults k s i len 1 0 := by
  subst hl
  refine ⟨_, he, ?_⟩
  rw [State.issue_illegal h hl4 hb]
  exact Enters.of_takeFault (CyclesOnly.refl k s) (by decide)

/-- An instruction whose own work finds a fault takes it with no effect of its own. -/
theorem Faults.of_fault (hb : q.bad = false) (hc : q.ctl = false) (hr : q.noRep = true → (s.core k).repAct = false) {v code : Nat}
    (hv : v ≠ 6) (hs : body (s.stalled k q) = .fault v code) : Faults k s i len v code := by
  subst hl
  refine ⟨_, he, ?_⟩
  rw [State.issue_fault h hl4 hb (by simp [hc]) hr hs]
  exact Enters.of_takeFault (CyclesOnly.stalled s k q) hv

/-- An instruction that meets an uncorrectable word (rule R53). -/
theorem MeetsBadWord.of_fault (hb : q.bad = false) (hc : q.ctl = false) (hr : q.noRep = true → (s.core k).repAct = false) {sp : Nat}
    (hs : body (s.stalled k q) = .fault 6 sp) : MeetsBadWord k s i len sp := by
  subst hl
  refine ⟨_, he, ?_⟩
  rw [State.issue_fault h hl4 hb (by simp [hc]) hr hs]
  exact Enters.of_takeFault_dataErr (CyclesOnly.stalled s k q)

end faults

end Sys2Proof.Machine

namespace Sys2Proof.Machine

/-! ### The instructions that fault (rules R445, R450, R453, R456, R464, R469, R481) -/

theorem bfBad_iff {pos len : BitVec 7} : bfBad pos.toNat len.toNat = true ↔ 71 < pos.toNat ∨ len = 0 ∨ 72 < len.toNat := by
  have hlen : len.toNat = 0 ↔ len = 0 := by simp [BitVec.toNat_eq]
  rw [bfBad, Bool.or_eq_true, Bool.or_eq_true, decide_eq_true_iff, decide_eq_true_iff, beq_iff_eq, hlen, or_assoc]

theorem memLen_le (f : MemForm) : f.len ≤ 4 := by
  cases f <;> simp [MemForm.len]

theorem macLen_le (f : MacForm) : f.len ≤ 4 := by
  cases f <;> simp [MacForm.len]

theorem memForm_good {f : MemForm} (h : f.mod ≠ 3) : (f.mod == 3) = false := beq_false_of_ne h

/-- A multiply-accumulate in the accumulator's other mode is a bad form (rule R481). -/
theorem macIssue_bad {k : Nat} {f : MacForm} {cplx : Bool} {s : State} (h : ((s.core k).ac f.acc).cplx ≠ cplx) :
    (macIssue k f cplx s).bad = true := by
  rw [macIssue, bne_iff_ne.2 h, Bool.or_true]

/-- The core at issue generates addresses as the core before it. -/
theorem State.locate_stalled (s : State) (k : Nat) (q : Issue) (k' an : Nat) (d : Int) (store : Bool) :
    ((s.stalled k q).core k).locate k' an d store = (s.core k).locate k' an d store := by
  rw [State.core_stalled]
  rfl

theorem State.user_stalled (s : State) (k : Nat) (q : Issue) : ((s.stalled k q).core k).user = (s.core k).user := by
  rw [State.core_stalled, Core.stalled]

theorem State.isBad_stalled (s : State) (k : Nat) (q : Issue) (m a : Nat) : (s.stalled k q).isBad m a = s.isBad m a := by
  rw [State.stalled, State.isBad, State.isBad, State.setCore]

section instructions

variable {k : CoreId} {s : State} (h : s.ready k)
include h

theorem Faults.illegalInstruction (long : Bool) : Faults k s (.illegalInstruction k long) (if long then 4 else 2) 1 0 :=
  Faults.illegal h rfl rfl (by cases long <;> decide) (.inl rfl)

theorem Faults.add (dd ds dt : BitVec 4) : Faults k s (.add k (.r3 3 dd ds dt)) 4 1 0 :=
  Faults.illegal h rfl rfl le_rfl (.inl rfl)

theorem Faults.mul {sz : BitVec 2} (hsz : sz ≠ 0) (dd ds dt : BitVec 4) : Faults k s (.mul k ⟨sz, dd, ds, dt⟩) 4 1 0 :=
  Faults.illegal h rfl rfl le_rfl (.inl (bne_iff_ne.2 hsz))

section pair

variable {dd : BitVec 4} (hodd : dd.getLsbD 0 = true) (ds dt : BitVec 4)
include hodd

theorem Faults.div : Faults k s (.div k ⟨0, dd, ds, dt⟩) 4 1 0 := Faults.illegal h rfl rfl le_rfl (.inl hodd)

theorem Faults.maxi : Faults k s (.maxi k ⟨0, dd, ds, dt⟩) 4 1 0 := Faults.illegal h rfl rfl le_rfl (.inl hodd)

end pair

theorem Faults.bfext (dd ds : BitVec 4) {pos len : BitVec 7} (hf : 71 < pos.toNat ∨ len = 0 ∨ 72 < len.toNat) :
    Faults k s (.bfext k dd ds pos len) 4 1 0 :=
  Faults.illegal h rfl rfl le_rfl (.inl (bfBad_iff.2 hf))

theorem Faults.addc (dd ds : BitVec 4) {b : BitVec 12} (hb : bitRW b.toNat = false) : Faults k s (.addc k dd ds b) 4 1 0 :=
  Faults.illegal h rfl rfl le_rfl (.inl ((Bool.not_eq_true' _).mpr hb))

section control

variable (hctl : (s.core k).slot ≠ .no ∨ (s.core k).repAct = true)
include hctl

theorem Faults.jmp (tgt : BitVec 15) : Faults k s (.jmp k tgt) 4 1 0 := Faults.illegal h rfl rfl le_rfl (.inr (.inl ⟨rfl, hctl⟩))

theorem Faults.ret : Faults k s (.ret k) 2 1 0 := Faults.illegal h rfl rfl (by decide) (.inr (.inl ⟨rfl, hctl⟩))

theorem Faults.trap (n : BitVec 8) : Faults k s (.trap k n) 2 1 0 := Faults.illegal h rfl rfl (by decide) (.inr (.inl ⟨rfl, hctl⟩))

theorem Faults.rep (src : Bool) (cnt : BitVec 12) : Faults k s (.rep k src cnt) 4 1 0 := by
  have he : exec (.rep k src cnt) s = execRep k src cnt s := rfl
  rw [execRep, repeatOf] at he
  exact Faults.illegal h he rfl le_rfl (.inr (.inl ⟨rfl, hctl⟩))

end control

theorem Faults.mac {f : MacForm} (hm : ((s.core k).ac f.acc).cplx = true) : Faults k s (.mac k f) f.len 1 0 :=
  Faults.illegal h rfl rfl (macLen_le f) (.inl (macIssue_bad (by rw [hm]; decide)))

theorem Faults.cmac {f : MacForm} (hm : ((s.core k).ac f.acc).cplx = false) : Faults k s (.cmac k f) f.len 1 0 :=
  Faults.illegal h rfl rfl (macLen_le f) (.inl (macIssue_bad (by rw [hm]; decide)))

section privileged

variable (hu : (s.core k).user = true) (hrep : (s.core k).repAct = false)
include hu hrep

theorem Faults.segld (seg an : BitVec 3) : Faults k s (.segld k seg an) 4 4 0 := by
  have he : exec (.segld k seg an) s = execSegld k seg an s := rfl
  rw [execSegld] at he
  refine Faults.of_fault h he rfl le_rfl rfl rfl (fun _ => hrep) (by decide) ?_
  rw [if_pos ((s.user_stalled k _).trans hu)]
  rfl

theorem Faults.movds (seg : BitVec 3) (ds : BitVec 4) : Faults k s (.movds k seg ds) 4 4 0 := by
  have he : exec (.movds k seg ds) s = execMovds k seg ds s := rfl
  rw [execMovds] at he
  refine Faults.of_fault h he rfl le_rfl rfl rfl (fun _ => hrep) (by decide) ?_
  rw [if_pos ((s.user_stalled k _).trans hu)]
  rfl

end privileged

section memory

variable {f : MemForm} (hf : f.mod ≠ 3)
include hf

theorem Faults.ld (hl : (s.core k).locate k f.an f.disp false = none) : Faults k s (.ld k f) f.len 2 f.an := by
  have he : exec (.ld k f) s = execLd k f s := rfl
  rw [execLd] at he
  refine Faults.of_fault h he rfl (memLen_le f) (memForm_good hf) rfl (fun hr => absurd hr Bool.false_ne_true) (by decide) ?_
  dsimp only
  rw [State.loadVia_segment ((s.locate_stalled ..).trans hl)]
  rfl

theorem Faults.st (hl : (s.core k).locate k f.an f.disp true = none) : Faults k s (.st k f) f.len 2 f.an := by
  have he : exec (.st k f) s = execSt k f s := rfl
  rw [execSt] at he
  refine Faults.of_fault h he rfl (memLen_le f) (memForm_good hf) rfl (fun hr => absurd hr Bool.false_ne_true) (by decide) ?_
  rw [State.storeVia_segment ((s.locate_stalled ..).trans hl)]
  rfl

theorem MeetsBadWord.ld {sp a : Nat} (hl : (s.core k).locate k f.an f.disp false = some (sp, a))
    (hbad : s.isBad (spaceMem k sp) a = true) : MeetsBadWord k s (.ld k f) f.len sp := by
  have he : exec (.ld k f) s = execLd k f s := rfl
  rw [execLd] at he
  refine MeetsBadWord.of_fault h he rfl (memLen_le f) (memForm_good hf) rfl (fun hr => absurd hr Bool.false_ne_true) ?_
  dsimp only
  rw [State.loadVia_dataErr ((s.locate_stalled ..).trans hl) ((s.isBad_stalled ..).trans hbad)]
  rfl

end memory

end instructions

end Sys2Proof.Machine

namespace Sys2Proof.Machine

/-! ### A core that halts (rules R54, R468, R473) -/

section measRam

variable (s : State)

theorem State.setLog_measRam (l : LogSt) : (s.setLog l).measRam = s.measRam := by rw [State.setLog]

@[simp] theorem State.logPut_measRam (src sev code a : Nat) (w : Word) : (s.logPut src sev code a w).measRam = s.measRam := by
  rw [State.logPut_eq]
  dsimp only
  split
  · rw [State.raise_measRam, State.count, State.setReg_measRam]
    split
    · rw [State.raise_measRam, State.setLog_measRam]
    · rw [State.setLog_measRam]
  · split
    · rw [State.raise_measRam, State.setLog_measRam]
    · rw [State.setLog_measRam]

@[simp] theorem State.logAdd_measRam (src sev code a : Nat) (w : Word) : (s.logAdd src sev code a w).measRam = s.measRam := by
  rw [State.logAdd]
  split
  · rw [State.logPut_measRam, State.logPut_measRam]
  · rw [State.logPut_measRam]

@[simp] theorem State.logOwn_measRam (code a : Nat) (w : Word) : (s.logOwn code a w).measRam = s.measRam := by
  rw [State.logOwn, State.bump_measRam, State.bump_measRam, State.logAdd_measRam]

theorem State.setFault_measRam (f : FaultSt) : (s.setFault f).measRam = s.measRam := by rw [State.setFault]

theorem State.showCause_measRam (cls unit : Nat) : (s.showCause cls unit).measRam = s.measRam := by
  rw [State.showCause, State.setReg_measRam, State.setReg_measRam, State.setReg_measRam, State.setReg_measRam]

@[simp] theorem State.assertQuench_measRam (cls unit : Nat) : (s.assertQuench cls unit).measRam = s.measRam := by
  have hline : (((((s.showCause cls unit).setFault s.quenching).raise 0x0C4 16).setSvc 4).logOwn 0x20 cls 0).measRam = s.measRam := by
    rw [State.logOwn_measRam, State.setSvc, State.setRf, State.setReg_measRam, State.raise_measRam, State.setFault_measRam,
      State.showCause_measRam]
  rw [State.assertQuench_eq]
  dsimp only
  split
  · rw [State.raise_measRam, hline]
  · exact hline

@[simp] theorem State.raiseClass_measRam (cls unit : Nat) : (s.raiseClass cls unit).measRam = s.measRam := by
  rcases s.raiseClass_cases cls unit with hr | hr <;> rw [hr]
  · rw [State.setFault_measRam]
  · rw [State.assertQuench_measRam, State.setFault_measRam]

end measRam

/-- A core as it stands halted. -/
def Core.halted (c : Core) : Core := { c with st := .halted, repAct := false, repN := false, repFirst := false, slot := .no }

theorem Core.halted_segXY (c : Core) : SegXY c c.halted := ⟨rfl, rfl, rfl⟩

/-- The halt of a core, before its fault class is raised. -/
def State.haltShown (s : State) (k cause : Nat) (pc : BitVec 16) : State :=
  ((s.modCore k Core.halted).setReg (corePage k) 0x048 (BitVec.ofNat 32 (cause + pc.toNat * 2 ^ 16))).raise (corePage k) 16

/-- A halt is shown on the core's page, and raises a class where the core is a user core or Assay's. -/
theorem State.haltCore_cases (s : State) (k cause : Nat) (pc : BitVec 16) :
    s.haltCore k cause pc = s.haltShown k cause pc ∨
      ∃ f cls unit, s.haltCore k cause pc = ((s.haltShown k cause pc).setFault f).raiseClass cls unit := by
  have hsame : ∀ u : State, u.setFault u.fault = u := fun _ => rfl
  rw [State.haltCore]
  split
  · exact .inr ⟨_, _, _, rfl⟩
  · split
    · exact .inr ⟨(s.haltShown k cause pc).fault, clsASSAY, 0, by rw [hsame]; rfl⟩
    · exact .inl rfl

theorem corePage_not_mem_faultPages {k : Nat} (hk : k < 9) : corePage k ∉ faultPages := by
  rw [not_mem_faultPages, corePage]
  omega

/-- What a core's halt leaves: the core stopped where it stood, the cause on its page, its event, and the rest of the page. -/
theorem State.haltCore_spec (s : State) {k : Nat} (hk : k < 9) (cause : Nat) (pc : BitVec 16) : let t := s.haltCore k cause pc
    t.core k = (s.core k).halted ∧ (∀ j, j ≠ k → t.core j = s.core j) ∧ t.measRam = s.measRam ∧ t.exch = s.exch ∧
      t.reg (corePage k) 0x048 = BitVec.ofNat 32 (cause + pc.toNat * 2 ^ 16) ∧ (t.reg (corePage k) 0x014).getLsbD 16 = true ∧
      ∀ o, o < 0x1000 → o ≠ 0x048 → o ≠ 0x014 → t.reg (corePage k) o = s.reg (corePage k) o := by
  have hshown : (s.haltCore k cause pc).cores = (s.haltShown k cause pc).cores ∧
      (s.haltCore k cause pc).measRam = (s.haltShown k cause pc).measRam ∧
      (s.haltCore k cause pc).exch = (s.haltShown k cause pc).exch ∧
      ∀ o, o < 0x1000 → (s.haltCore k cause pc).reg (corePage k) o = (s.haltShown k cause pc).reg (corePage k) o := by
    rcases s.haltCore_cases k cause pc with hr | ⟨f, cls, unit, hr⟩ <;> rw [hr]
    · exact ⟨rfl, rfl, rfl, fun _ _ => rfl⟩
    · refine ⟨?_, ?_, ?_, fun o ho => ?_⟩
      · rw [State.raiseClass_cores, State.setFault]
      · rw [State.raiseClass_measRam, State.setFault_measRam]
      · rw [State.raiseClass_exch, State.setFault]
      · rw [State.reg_cell, State.cell_raiseClass cls unit (by rw [addr_div ho]; exact corePage_not_mem_faultPages hk),
          State.cell_setFault, State.reg_cell]
  obtain ⟨hcores, hmeas, hexch, hreg⟩ := hshown
  have hcore : ∀ j, (s.haltShown k cause pc).core j = (s.modCore k Core.halted).core j := fun j =>
    State.core_eq_of_cores (by rw [State.haltShown, State.raise_cores, State.setReg_cores]) j
  refine ⟨?_, fun j hj => ?_, ?_, ?_, ?_, ?_, fun o ho h48 h14 => ?_⟩
  · rw [State.core_eq_of_cores hcores, hcore, State.core_modCore_same]
  · rw [State.core_eq_of_cores hcores, hcore, State.core_modCore_ne _ _ hj]
  · rw [hmeas, State.haltShown, State.raise_measRam, State.setReg_measRam, State.modCore_measRam]
  · rw [hexch, State.haltShown, State.raise_exch, State.setReg_exch, State.modCore_exch]
  · rw [hreg _ (by decide), State.haltShown, State.reg_cell, State.cell_raise, if_neg (addr_event_ne (by decide) (by decide)).symm,
      ← State.reg_cell, State.reg_setReg_same]
  · rw [hreg _ (by decide)]
    exact State.irq_raise_same _ _ (by decide)
  · rw [hreg o ho, State.haltShown, State.reg_cell, State.cell_raise, if_neg (addr_event_ne ho h14).symm, ← State.reg_cell,
      State.reg_setReg_other ho (by decide) h48, State.reg, State.modCore_regs, State.reg]

/-- A free capture register takes the code of the error (rule R493). -/
theorem State.code_capErr {s : State} {p : Nat} (h : s.rf p 0x020 31 31 = 0) : (s.capErr p 0x40 0).rf p 0x020 7 0 = 0x40 := by
  have hcnt : ∀ u : State, (u.countErr p).reg p 0x020 = u.reg p 0x020 := fun u => by
    have hc : (u.count p 0x024).reg p 0x020 = u.reg p 0x020 := by
      rw [State.count, State.reg_setReg_other (by decide) (by decide) (by decide)]
    rw [State.countErr]
    split
    · rw [State.reg_cell, State.cell_raise, if_neg (addr_event_ne (by decide) (by decide)).symm, ← State.reg_cell, hc]
    · exact hc
  have hfree : ¬ fld ((s.countErr p).reg p 0x020) 31 31 = 1 := by
    rw [hcnt]
    exact fun h1 => absurd (h1.symm.trans h) (by decide)
  rw [State.capErr, if_neg hfree, State.rf, State.reg_cell, State.cell_raise, if_neg (addr_event_ne (by decide) (by decide)).symm,
    ← State.reg_cell, State.reg_setReg_same]
  decide

section parity

variable {k : CoreId} {s : State} {q : Issue} {body : State → Eff}

/-- A row with an uncorrectable error among those of the instruction halts the core (rules R54, R468). -/
theorem State.issue_badRow (hc : s.canIssue k = true) (hb : s.isBad k (((s.core k).pc + BitVec.ofNat 16 0).toNat / 8) = true ∨
    s.isBad k (((s.core k).pc + BitVec.ofNat 16 (q.len - 1)).toNat / 8) = true) :
    s.issue k q body = (s.capErr (corePage k) 0x40 0).haltCore k 2 (s.core k).pc := by
  have hpc : (s.core k).pc + BitVec.ofNat 16 0 = (s.core k).pc := BitVec.add_zero _
  rw [hpc] at hb
  have hrow : (s.isBad k ((s.core k).pc.toNat / 8) || s.isBad k (((s.core k).pc + BitVec.ofNat 16 (q.len - 1)).toNat / 8)) = true :=
    (Bool.or_eq_true _ _).mpr hb
  have hgo : ¬ s.canIssue k = false := by rw [hc]; decide
  unfold State.issue
  extract_lets c
  rw [if_neg hgo, if_pos hrow]

/-- What IPARITY leaves of core k (rules R54, R468). -/
theorem State.iparity_spec (k : CoreId) (s : State) : let t := (s.capErr (corePage k) 0x40 0).haltCore k 2 (s.core k).pc
    (t.core k).st = .halted ∧ t.reg (corePage k) 0x048 = BitVec.ofNat 32 (2 + (s.core k).pc.toNat * 2 ^ 16) ∧
      (t.reg (corePage k) 0x014).getLsbD 16 = true ∧
      (s.rf (corePage k) 0x020 31 31 = 0 → t.rf (corePage k) 0x020 7 0 = 0x40) ∧ (∀ n, (t.core k).dr n = (s.core k).dr n) ∧
      MemKept k s t ∧ ∀ j, j ≠ k.val → t.core j = s.core j := by
  have hcap : ∀ j, (s.capErr (corePage k) 0x40 0).core j = s.core j := fun j => State.core_eq_of_cores (s.capErr_cores ..) j
  obtain ⟨hcore, hother, hmeas, hexch, hcause, hev, hreg⟩ := (s.capErr (corePage k) 0x40 0).haltCore_spec k.isLt 2 (s.core k).pc
  rw [hcap] at hcore
  refine ⟨by rw [hcore, Core.halted], hcause, hev, fun h => ?_, fun n => ?_, MemKept.of ?_ ?_ ?_, fun j hj => ?_⟩
  · rw [State.rf, hreg 0x020 (by decide) (by decide) (by decide)]
    exact State.code_capErr h
  · rw [hcore]
    rfl
  · rw [hcore]
    exact (s.core k).halted_segXY
  · rw [hmeas, State.capErr_measRam]
  · rw [hexch, State.capErr_exch]
  · rw [hother j hj, hcap]

end parity

end Sys2Proof.Machine

namespace Sys2Proof.Machine

/-! ### An instruction of one dword, whatever row comes after it (rules R54, R468) -/

section short

variable {k : CoreId} {s : State} {q : Issue} {f : Core → Core}

/-- What an instruction of 2 bytes needs to issue: the row that holds it and no other. -/
structure RowsFit (k : Nat) (s : State) : Prop where
  can : s.canIssue k = true
  first : s.isBad k (((s.core k).pc + BitVec.ofNat 16 0).toNat / 8) = false
  last : s.isBad k (((s.core k).pc + BitVec.ofNat 16 1).toNat / 8) = false
  noSkip : (s.core k).skip = false

/-- Issuing an instruction of 2 bytes that only computes on its core. -/
theorem State.issueC_short (h : RowsFit k s) (hl : q.len = 2) (hb : q.bad = false) (hc : q.ctl = false) (hr : q.noRep = false) :
    s.issueC k q f = (((s.stalled k q).modCore k f).modCore k fun c => c.finish ((s.core k).stalled q.uses).clk q).stopIfDue k := by
  have hpc : (s.core k).pc + BitVec.ofNat 16 0 = (s.core k).pc := BitVec.add_zero _
  have hfirst := h.first
  rw [hpc] at hfirst
  have hrow : ¬ (s.isBad k ((s.core k).pc.toNat / 8) || s.isBad k (((s.core k).pc + BitVec.ofNat 16 (q.len - 1)).toNat / 8)) = true := by
    rw [hl, hfirst, Bool.false_or, h.last]
    exact Bool.false_ne_true
  have hgo : ¬ s.canIssue k = false := by rw [h.can]; decide
  have hform : ¬ (q.bad || (q.ctl && ((s.core k).slot ≠ .no || (s.core k).repAct)) || (q.noRep && (s.core k).repAct)) = true := by
    rw [hb, hc, hr]
    exact Bool.false_ne_true
  have hskip : ¬ (s.core k).skip = true := by rw [h.noSkip]; exact Bool.false_ne_true
  unfold State.issueC State.issue
  extract_lets c w s1 t fin
  rw [if_neg hgo, if_neg hrow, if_neg hskip, if_neg hform]
  have ht : t = ((s.core k).stalled q.uses).clk := by
    change (s1.core k).clk = _
    rw [show s1 = s.modCore k fun c => { c with cyc := c.cyc + w, clk := c.clk + w } from rfl, State.core_modCore_same]
    rfl
  rw [← ht]
  rfl

/-- The way to a statement about such an instruction. -/
theorem Computes.of_short {i : Instr} {ds : List (BitVec 4)} {post : Core → Prop} (h : RowsFit k s)
    (he : exec i s = .next (s.issueC k q f)) (hl : q.len = 2) (hb : q.bad = false) (hc : q.ctl = false) (hr : q.noRep = false)
    (hf : ∀ c, (f c).rest = c.rest) (hd : ∀ c n, n ∉ ds → (f c).dr n = c.dr n) (ha : ∀ c n, (f c).ar n = c.ar n)
    (hac : ∀ c n, (f c).ac n = c.ac n) (hbits : ∀ c, (f c).bits = c.bits)
    (hp : ∀ c' : Core, (∀ n, c'.dr n = (f ((s.core k).stalled q.uses)).dr n) → post c') :
    Computes k s i 2 ds [] [] [] post := by
  obtain ⟨⟨gd, ga, gac, gbits, ⟨gu, gh, gtk, gth, gi, gst⟩, gseg, gx, gy⟩, gnext, gout⟩ :=
    ((s.stalled k q).modCore k f).finish_spec k ((s.core k).stalled q.uses).clk q
  rw [← State.issueC_short h hl hb hc hr] at gd ga gac gbits gu gh gtk gth gi gst gseg gx gy gnext gout
  rw [State.core_modCore_same, State.core_stalled] at *
  obtain ⟨⟨eu, eh, etk, eth, ei⟩, ⟨eseg, ex, ey⟩, ⟨epc, eslot, elc, erep⟩, est, estop⟩ := Core.rest_eq (hf ((s.core k).stalled q.uses))
  refine ⟨_, he, hp _ gd, ⟨fun n hn => ?_, fun n _ => ?_, fun n _ => ?_, fun b _ => ?_, gu.trans eu, gh.trans eh, gtk.trans etk,
    gth.trans eth, gi.trans ei, fun hs => (gst (estop.trans hs)).trans est⟩, ⟨gseg.trans eseg, gx.trans ex, gy.trans ey⟩,
    hl ▸ gnext.congr ⟨epc.symm, eslot.symm, elc.symm, erep.symm⟩ ⟨rfl, rfl, rfl, rfl⟩,
    ((Outside.setCore s k _).trans (Outside.setCore _ k _)).trans gout⟩
  · exact (gd n).trans (hd _ n hn)
  · exact (ga n).trans (ha _ n)
  · exact (gac n).trans (hac _ n)
  · rw [gbits, hbits]
    rfl

/-- NOP goes on past a bad row that comes after it. -/
theorem Computes.nop_short (h : RowsFit k s) : Computes k s (.nop k) 2 [] [] [] [] fun _ => True :=
  Computes.of_short h rfl rfl rfl rfl rfl (fun _ => rfl) (fun _ _ _ => rfl) (fun _ _ => rfl) (fun _ _ => rfl) (fun _ => rfl)
    fun _ _ => trivial

/-- MOV goes on past a bad row that comes after it. -/
theorem Writes.mov_short (h : RowsFit k s) (dd ds : BitVec 4) : Writes k s (.mov k dd ds) 2 dd ((s.core k).dr ds) := by
  refine Computes.of_short (f := fun c => c.setD dd (c.dr ds)) h rfl rfl rfl rfl rfl (fun _ => rfl) (fun c n hn => ?_)
    (fun _ _ => rfl) (fun _ _ => rfl) (fun _ => rfl) fun c' hd => ?_
  · exact Core.dr_setD_ne _ _ (by simpa using hn)
  · rw [hd, Core.dr_setD_same]
    rfl

end short

/-! ### O14 -/

/-- An instruction whose rows hold an uncorrectable error halts its core with IPARITY. -/
theorem Iparity.of_badRow {k : CoreId} {s : State} {i : Instr} {q : Issue} {body : State → Eff} {len : Nat} (hc : s.canIssue k = true)
    (he : exec i s = .next (s.issue k q body)) (hl : q.len = len)
    (hb : s.isBad k (((s.core k).pc + BitVec.ofNat 16 0).toNat / 8) = true ∨
      s.isBad k (((s.core k).pc + BitVec.ofNat 16 (len - 1)).toNat / 8) = true) :
    exec i s = .next ((s.capErr (corePage k) 0x40 0).haltCore k 2 (s.core k).pc) := by
  subst hl
  rw [he, State.issue_badRow hc hb]

/-- The instructions of the statement each halt their core where one of their rows is bad. -/
theorem exec_of_badRow {k : CoreId} {s : State} (hc : s.canIssue k = true) (dd ds : BitVec 4) {e : Instr × Nat}
    (he : e ∈ ([(Instr.nop k, 2), (.mov k dd ds, 2), (.ld k (.m16 0 dd 0), 2), (.andi k dd 0, 4), (.jmp k 0, 4)] : List (Instr × Nat)))
    (hb : s.isBad k (((s.core k).pc + BitVec.ofNat 16 0).toNat / 8) = true ∨
      s.isBad k (((s.core k).pc + BitVec.ofNat 16 (e.2 - 1)).toNat / 8) = true) :
    exec e.1 s = .next ((s.capErr (corePage k) 0x40 0).haltCore k 2 (s.core k).pc) := by
  simp only [List.mem_cons, List.not_mem_nil, or_false] at he
  rcases he with rfl | rfl | rfl | rfl | rfl
  · exact Iparity.of_badRow hc rfl rfl hb
  · exact Iparity.of_badRow hc rfl rfl hb
  · have hexec : exec (.ld k (.m16 0 dd 0)) s = execLd k (.m16 0 dd 0) s := rfl
    rw [execLd] at hexec
    exact Iparity.of_badRow hc hexec rfl hb
  · exact Iparity.of_badRow hc rfl rfl hb
  · exact Iparity.of_badRow hc rfl rfl hb

/-- Settles O14: what is illegal is found before any work is done, and what faults in its work takes the exception at once, so that
only the pushed frame and the exception's own marks differ. -/
theorem faultsBeforeAnyEffect : Obligations.FaultsBeforeAnyEffect := by
  unfold Obligations.FaultsBeforeAnyEffect
  refine fun k s => ⟨fun h => ⟨Faults.illegalInstruction h, fun dd ds dt => ⟨Faults.add h dd ds dt, fun sz hsz => Faults.mul h hsz dd ds dt⟩,
    fun dd ds dt hodd => ⟨Faults.div h hodd ds dt, Faults.maxi h hodd ds dt⟩, fun dd ds pos len hf => Faults.bfext h dd ds hf,
    fun dd ds b hb => Faults.addc h dd ds hb,
    fun hctl => ⟨Faults.jmp h hctl, Faults.ret h hctl, Faults.trap h hctl, Faults.rep h hctl⟩,
    fun f hm => Faults.mac h hm, fun f hm => Faults.cmac h hm,
    fun hu hrep => ⟨Faults.segld h hu hrep, Faults.movds h hu hrep⟩,
    fun f hf hl => Faults.ld h hf hl, fun f hf hl => Faults.st h hf hl, fun f sp a hf hl hbad => MeetsBadWord.ld h hf hl hbad⟩, ?_⟩
  intro c bad hcan
  refine ⟨fun dd ds e he hb => ⟨_, exec_of_badRow hcan dd ds he hb, s.iparity_spec k⟩, fun h0 h1 hskip => ?_⟩
  have hrows : RowsFit k s := ⟨hcan, h0, h1, hskip⟩
  exact ⟨Computes.nop_short hrows, Writes.mov_short hrows⟩

end Sys2Proof.Machine

/-! ## The queue of commands, the pages' headers, the host port, the queries -/

/-! ### What every operation of the model leaves alone

No operation of the model writes the queue of commands, which only `step` takes from, and none but `State.blow` writes the fuses.
One lemma for each operation, in the order of the model: they rest on one another as the operations do, and the simplifier chains
them through an operation's body. -/

namespace Sys2Proof.Machine

/-- The queue of commands and the fuses are as before. -/
abbrev Keeps (s t : State) : Prop := t.pending = s.pending ∧ t.fuses = s.fuses

theorem Keeps.trans {s t u : State} (h : Keeps s t) (g : Keeps t u) : Keeps s u := ⟨g.1.trans h.1, g.2.trans h.2⟩

@[simp] theorem State.pending_ite (c : Prop) [Decidable c] (a b : State) :
    (if c then a else b).pending = if c then a.pending else b.pending := apply_ite ..

@[simp] theorem State.fuses_ite (c : Prop) [Decidable c] (a b : State) :
    (if c then a else b).fuses = if c then a.fuses else b.fuses := apply_ite ..

theorem Keeps.ite {p : Prop} [Decidable p] {s t u : State} (ht : Keeps s t) (hu : Keeps s u) : Keeps s (if p then t else u) := by
  split
  · exact ht
  · exact hu

/-- A fold whose steps keep them, read through the part of its accumulator that is a state. -/
theorem Keeps.foldl_of {α β : Type} (get : β → State) {f : β → α → β} (h : ∀ b a, Keeps (get b) (get (f b a))) (l : List α) (b : β) :
    Keeps (get b) (get (l.foldl f b)) := by
  induction l generalizing b with
  | nil => exact ⟨rfl, rfl⟩
  | cons a l ih => exact (h b a).trans (ih _)

@[simp] theorem Keeps.foldl {α : Type} {f : State → α → State} (h : ∀ s a, Keeps s (f s a)) (l : List α) (s : State) :
    Keeps s (l.foldl f s) := Keeps.foldl_of id h l s

@[simp] theorem Keeps.when {f : State → State} {c : Bool} {s : State} (h : Keeps s (f s)) : Keeps s (s.when c f) :=
  .ite h ⟨rfl, rfl⟩

@[simp] theorem Keeps.readRow {f : State → State} {v : Word} {s : State} (h : Keeps s (f s)) : Keeps s (s.readRow v f) :=
  .ite ⟨rfl, rfl⟩ h

/-! ### Registers and memories -/

theorem State.bump_kept (s : State) : Keeps s s.bump := ⟨rfl, rfl⟩

theorem State.emit_kept (s : State) (o : Output) : Keeps s (s.emit o) := ⟨rfl, rfl⟩

@[simp] theorem State.msixSend_kept (s : State) (v : Nat) : Keeps s (s.msixSend v) := by simp [State.msixSend, Keeps]

@[simp] theorem State.syncVec_kept (s : State) (v : Nat) : Keeps s (s.syncVec v) := by simp [State.syncVec, Keeps]

@[simp] theorem State.setBad_kept (s : State) (mem a : Nat) (b : Bool) : Keeps s (s.setBad mem a b) := ⟨rfl, rfl⟩

@[simp] theorem State.meet_kept (s : State) (page mem a : Nat) : Keeps s (s.meet page mem a) := by simp [State.meet, Keeps]

@[simp] theorem State.meetEx_kept (s : State) (base n : Nat) : Keeps s (s.meetEx base n) := by simp [State.meetEx, Keeps]

@[simp] theorem State.setEx_kept (s : State) (a : Nat) (v : Native) : Keeps s (s.setEx a v) := ⟨rfl, rfl⟩

@[simp] theorem State.setMr_kept (s : State) (a : Nat) (v : Native) : Keeps s (s.setMr a v) := ⟨rfl, rfl⟩

@[simp] theorem State.setExByte_kept (s : State) (base i : Nat) (b : Byte) : Keeps s (s.setExByte base i b) := ⟨rfl, rfl⟩

@[simp] theorem State.putRec_kept (loc : Bool) : ∀ (ws : List Word) (s : State) (base : Nat), Keeps s (s.putRec loc base ws)
  | [], _, _ => ⟨rfl, rfl⟩
  | [_], s, base => by simp [State.putRec, Keeps]
  | _ :: _ :: ws, s, base => by simp [State.putRec, Keeps, State.putRec_kept loc ws]

/-! ### The cores: state, stack, exceptions, issue -/

@[simp] theorem State.setCore_kept (s : State) (k : Nat) (c : Core) : Keeps s (s.setCore k c) := ⟨rfl, rfl⟩

@[simp] theorem State.modCore_kept (s : State) (k : Nat) (f : Core → Core) : Keeps s (s.modCore k f) := ⟨rfl, rfl⟩

@[simp] theorem State.dataWr_kept (s : State) (k space a : Nat) (v : Native) : Keeps s (s.dataWr k space a v) := by
  simp [State.dataWr, Keeps]

@[simp] theorem State.haltCore_kept (s : State) (k cause : Nat) (pc : BitVec 16) : Keeps s (s.haltCore k cause pc) := by
  simp [State.haltCore, Keeps]

/-- An access that may fault answers, where it does not, a value whose state keeps the queue and the fuses. -/
def OkKeeps {α : Type} (s : State) (get : α → State) : Except (Nat × Nat) α → Prop
  | .ok r => Keeps s (get r)
  | .error _ => True

theorem OkKeeps.of_eq {α : Type} {s : State} {get : α → State} {x : Except (Nat × Nat) α} {r : α} (h : OkKeeps s get x)
    (hx : x = .ok r) : Keeps s (get r) := by
  subst hx; exact h

theorem State.pushWord_kept (s : State) (k : Nat) (v : Native) : OkKeeps s id (s.pushWord k v) := by
  simp only [State.pushWord]
  split
  · trivial
  · split
    · trivial
    · exact ((s.modCore_kept k _).trans (State.bump_kept _)).trans (State.dataWr_kept ..)

theorem State.popWord_kept (s : State) (k : Nat) : OkKeeps s Prod.fst (s.popWord k) := by
  simp only [State.popWord]
  split
  · trivial
  · split
    · trivial
    · split
      · trivial
      · exact (s.modCore_kept k _).trans (State.bump_kept _)

@[simp] theorem State.enterExc_kept (s : State) (k v code : Nat) (resume cont : BitVec 16) (slot : Bool) :
    Keeps s (s.enterExc k v code resume cont slot) := by
  unfold State.enterExc
  split
  · simp [Keeps]
  next h => simpa [Keeps] using (s.pushWord_kept k _).of_eq h

@[simp] theorem State.stopIfDue_kept (s : State) (k : Nat) : Keeps s (s.stopIfDue k) := by simp [State.stopIfDue, Keeps]

@[simp] theorem State.takeFault_kept (s : State) (k v code len : Nat) : Keeps s (s.takeFault k v code len) := by
  simp [State.takeFault, Keeps]

/-- What a body may answer to the issue: a fault, or a state with the queue and the fuses of the one it was given. -/
def Eff.Keeps (s : State) : Eff → Prop
  | .seq t | .branch t _ | .own t | .trap t _ _ => Machine.Keeps s t
  | .fault _ _ => True

theorem Eff.Keeps.of_eq {body : State → Eff} (h : ∀ t, (body t).Keeps t) {t : State} {e : Eff} (hb : body t = e) : e.Keeps t :=
  hb ▸ h t

theorem Eff.Keeps.ite {p : Prop} [Decidable p] {s : State} {e f : Eff} (he : e.Keeps s) (hf : f.Keeps s) :
    (if p then e else f).Keeps s := by
  split
  · exact he
  · exact hf

theorem Eff.Keeps.trans {s t : State} {e : Eff} (h : Machine.Keeps s t) (he : e.Keeps t) : e.Keeps s := by
  cases e with
  | fault => trivial
  | seq u | branch u | own u | trap u => exact Machine.Keeps.trans h he

@[simp] theorem State.issue_kept {s : State} {k : Nat} {q : Issue} {body : State → Eff} (h : ∀ t, (body t).Keeps t) :
    Keeps s (s.issue k q body) := by
  refine .ite ⟨rfl, rfl⟩ (.ite ?_ (.ite ⟨rfl, rfl⟩ (.ite ?_ ?_)))
  · simp [Keeps]
  · simp [Keeps]
  · dsimp only
    split
    case h_4 => simp [Keeps]
    all_goals next hb => simpa [Eff.Keeps, Keeps] using Eff.Keeps.of_eq h hb

@[simp] theorem State.issueC_kept (s : State) (k : Nat) (q : Issue) (f : Core → Core) : Keeps s (s.issueC k q f) :=
  State.issue_kept fun t => t.modCore_kept k f

/-! ### CasakInt -/

theorem divEnd_kept (k : CoreId) (f : R3) (s : State) (q r : Nat) (ovf dz : Bool) : (divEnd k f s q r ovf dz).Keeps s := by
  simp only [divEnd]
  split <;> exact s.modCore_kept k _

/-! ### CasakMem -/

@[simp] theorem State.chargeAccess_kept (s : State) (k space : Nat) : Keeps s (s.chargeAccess k space) := ⟨rfl, rfl⟩

theorem State.loadVia_kept (s : State) (k an : Nat) (disp : Int) (m : BitVec 2) : OkKeeps s Prod.fst (s.loadVia k an disp m) := by
  simp only [State.loadVia]
  split
  · trivial
  · split
    · trivial
    · exact (s.modCore_kept k _).trans (State.chargeAccess_kept ..)

theorem State.storeVia_kept (s : State) (k an : Nat) (disp : Int) (m : BitVec 2) (v : Native) :
    OkKeeps s id (s.storeVia k an disp m v) := by
  simp only [State.storeVia]
  split
  · trivial
  · exact ((s.modCore_kept k _).trans (State.chargeAccess_kept ..)).trans (State.dataWr_kept ..)

theorem effOf_kept {s : State} {r : Except (Nat × Nat) State} (h : OkKeeps s id r) : (effOf r).Keeps s := by
  cases r with
  | ok t => exact h
  | error e => trivial

theorem loadSeg_kept (k : CoreId) (seg : Nat) (v : Native) (s : State) : (loadSeg k seg v s).Keeps s := by
  unfold loadSeg
  split
  · trivial
  · exact s.modCore_kept k _

/-! ### CasakSig -/

theorem State.macFetch_kept (s : State) (k : Nat) (f : MacForm) : OkKeeps s Prod.fst (s.macFetch k f) := by
  cases f with
  | dr => exact ⟨rfl, rfl⟩
  | d16 acc ax ay xm ym =>
    simp only [State.macFetch]
    repeat' split
    all_goals trivial

@[simp] theorem macReal_kept (k : CoreId) (f : MacForm) (op : Int → Int → Int) (s : State) : Keeps s (macReal k f op s) := by
  refine State.issue_kept fun t => ?_
  split
  · trivial
  next h => exact ((t.macFetch_kept k f).of_eq h).trans (State.modCore_kept ..)

@[simp] theorem macCplx_kept (k : CoreId) (f : MacForm) (add conj : Bool) (s : State) : Keeps s (macCplx k f add conj s) := by
  refine State.issue_kept fun t => ?_
  split
  · trivial
  next h => exact ((t.macFetch_kept k f).of_eq h).trans (State.modCore_kept ..)

/-! ### CasakFlow -/

@[simp] theorem branchIf_kept (k : CoreId) (len : Nat) (uses : List Nat) (cond : Core → Bool) (target : BitVec 16 → BitVec 16)
    (s : State) : Keeps s (branchIf k len uses cond target s) :=
  State.issue_kept fun _ => ⟨rfl, rfl⟩

@[simp] theorem branchZ_kept (k : CoreId) (f : BzForm) (cond : Int → Bool) (s : State) : Keeps s (branchZ k f cond s) :=
  branchIf_kept ..

@[simp] theorem branch2_kept (k : CoreId) (da db : BitVec 4) (off : BitVec 12) (cond : Native → Native → Bool) (s : State) :
    Keeps s (branch2 k da db off cond s) := branchIf_kept ..

@[simp] theorem callTo_kept (k : CoreId) (uses : List Nat) (target : Core → BitVec 16) (s : State) :
    Keeps s (callTo k uses target s) := by
  refine State.issue_kept fun t => ?_
  dsimp only
  split
  · trivial
  next h => exact (t.pushWord_kept k _).of_eq h

@[simp] theorem State.wake_kept (s : State) (k : Nat) : Keeps s (s.wake k) := by simp [State.wake, Keeps]

@[simp] theorem State.coreEvent_kept (s : State) (k b : Nat) : Keeps s (s.coreEvent k b) := by simp [State.coreEvent, Keeps]

@[simp] theorem repeatOf_kept (k : CoreId) (n src : Bool) (cnt : BitVec 12) (s : State) : Keeps s (repeatOf k n src cnt s) := by
  unfold repeatOf
  exact State.issue_kept fun t => t.modCore_kept k _

@[simp] theorem State.recordOverrun_kept (s : State) (unit heat : Nat) : Keeps s (s.recordOverrun unit heat) := by
  simp [State.recordOverrun, Keeps]

/-! ### Pages: writes, groups, shadows -/

@[simp] theorem State.setRegAtSlot_kept (s : State) (a : Nat) (v : Word) : Keeps s (s.setRegAtSlot a v) := ⟨rfl, rfl⟩

@[simp] theorem State.setShadAtSlot_kept (s : State) (a : Nat) (v : Word) : Keeps s (s.setShadAtSlot a v) := ⟨rfl, rfl⟩

@[simp] theorem State.takeWrite_kept (s : State) (r : Reg) (p off : Nat) (v : Word) : Keeps s (s.takeWrite r p off v) := by
  simp [State.takeWrite, Keeps]

@[simp] theorem State.ungroup_kept (s : State) (p : Nat) : Keeps s (s.ungroup p) := ⟨rfl, rfl⟩

@[simp] theorem State.discard_kept (s : State) (p : Nat) : Keeps s (s.discard p) := by simp [State.discard, Keeps]

@[simp] theorem hdrTake_kept (h : PageHooks) (s : State) (p off : Nat) (v : Word) : Keeps s (hdrTake h s p off v) := by
  simp [hdrTake, Keeps]

@[simp] theorem State.groupGo_kept (s : State) : Keeps s s.groupGo := by simp [State.groupGo, Keeps]

/-- The pages' own meanings keep the queue and the fuses. -/
structure PageHooks.Keeps (h : PageHooks) : Prop where
  taken : ∀ s p off v t, Machine.Keeps t (h.taken s p off v t)
  refused : ∀ s p off v c, Machine.Keeps s (h.refused s p off v c)
  applied : ∀ s p t, Machine.Keeps t (h.applied s p t)
  reset : ∀ s p, Machine.Keeps s (h.reset s p)

@[simp] theorem State.regWrite_kept {h : PageHooks} (hk : h.Keeps) (s : State) (a : Nat) (v : Word) (be : Bool) :
    Keeps s (s.regWrite h a v be) := by
  have ht := hk.taken
  have hr := hk.refused
  simp only [State.regWrite]
  repeat' split
  all_goals simp_all [Keeps]

@[simp] theorem State.applyShadows_kept (s : State) (p : Nat) : Keeps s (s.applyShadows p) := by simp [State.applyShadows, Keeps]

@[simp] theorem State.commitDone_kept (s : State) (p : Nat) : Keeps s (s.commitDone p) := by simp [State.commitDone, Keeps]

@[simp] theorem State.commitRefuse_kept (s : State) (p code : Nat) : Keeps s (s.commitRefuse p code) := by
  simp [State.commitRefuse, Keeps]

@[simp] theorem State.softReset_kept {h : PageHooks} (hk : h.Keeps) (s : State) (p : Nat) : Keeps s (s.softReset h p) := by
  simp [State.softReset, Keeps, hk.reset]

@[simp] theorem State.softResets_kept {h : PageHooks} (hk : h.Keeps) (s : State) : Keeps s (s.softResets h) := by
  simp [State.softResets, Keeps, hk]

@[simp] theorem State.commitSet_kept {h : PageHooks} (hk : h.Keeps) (s : State) (ps : List Nat) : Keeps s (s.commitSet h ps) := by
  simp [State.commitSet, Keeps, hk.applied]

@[simp] theorem State.commitPass_kept {h : PageHooks} (hk : h.Keeps) (s : State) : Keeps s (s.commitPass h) := by
  simp [State.commitPass, Keeps, hk]

/-! ### Commands: budgets, handles, journal, completions -/

@[simp] theorem State.book_kept (s : State) (pool amt : Nat) (own : Owner) (seq : Word) : Keeps s (s.book pool amt own seq) := by
  simp [State.book, Keeps]

@[simp] theorem State.releaseAll_kept (s : State) (own : Owner) : Keeps s (s.releaseAll own) := ⟨rfl, rfl⟩

@[simp] theorem State.rebook_kept (s : State) (pool amt : Nat) (own : Owner) (seq : Word) : Keeps s (s.rebook pool amt own seq) := by
  simp [State.rebook, Keeps]

@[simp] theorem State.chown_kept (s : State) (a b : Owner) : Keeps s (s.chown a b) := ⟨rfl, rfl⟩

@[simp] theorem State.setEnt_kept (s : State) (i : Nat) (e : Entry) : Keeps s (s.setEnt i e) := ⟨rfl, rfl⟩

@[simp] theorem State.alloc_kept (s : State) (cls : Nat) (host sys : Bool) : Keeps s (s.alloc cls host sys).2 := by
  simp only [State.alloc]
  repeat' split
  all_goals simp [Keeps]

theorem State.alloc_kept_of {s : State} {cls : Nat} {host sys : Bool} {r : Option Nat × State} (h : s.alloc cls host sys = r) :
    Keeps s r.2 := h ▸ s.alloc_kept ..

@[simp] theorem State.freeNow_kept (s : State) (i : Nat) : Keeps s (s.freeNow i) := by simp [State.freeNow, Keeps]

@[simp] theorem State.freeLater_kept (s : State) (i : Nat) : Keeps s (s.freeLater i) := by simp [State.freeLater, Keeps]

@[simp] theorem State.joinFree_kept (s : State) : Keeps s s.joinFree := by simp [State.joinFree, Keeps]

@[simp] theorem State.dying_kept (s : State) (i : Nat) : Keeps s (s.dying i) := ⟨rfl, rfl⟩

@[simp] theorem State.tear_kept (s : State) (i : Nat) : Keeps s (s.tear i) := ⟨rfl, rfl⟩

@[simp] theorem State.jmod_kept (s : State) (seq : Word) (f : JEntry → JEntry) : Keeps s (s.jmod seq f) := ⟨rfl, rfl⟩

@[simp] theorem State.jadd_kept (s : State) (e : JEntry) : Keeps s (s.jadd e) := ⟨rfl, rfl⟩

@[simp] theorem State.jstep_kept (s : State) (seq : Word) (step due : Nat) : Keeps s (s.jstep seq step due) := ⟨rfl, rfl⟩

@[simp] theorem State.putCompl_kept (s : State) (ws : List Word) (quiet : Bool) : Keeps s (s.putCompl ws quiet) := by
  simp [State.putCompl, Keeps]

@[simp] theorem State.flushHeld_kept (s : State) (l : List (List Word × Bool)) : Keeps s (s.flushHeld l) := by
  induction l generalizing s with
  | nil => exact ⟨rfl, rfl⟩
  | cons x l ih => simp [State.flushHeld, Keeps, ih]

@[simp] theorem State.flush_kept (s : State) : Keeps s s.flush := by simp [State.flush, Keeps]

@[simp] theorem State.postCompl_kept (s : State) (ws : List Word) (quiet : Bool) : Keeps s (s.postCompl ws quiet) := by
  simp [State.postCompl, Keeps]

@[simp] theorem State.finish_kept (s : State) (e : JEntry) (status step detail : Nat) (handle a1 a2 : Word) :
    Keeps s (s.finish e status step detail handle a1 a2) := by
  simp [State.finish, Keeps]

@[simp] theorem State.refuse_kept (s : State) (e : JEntry) (status step detail : Nat) : Keeps s (s.refuse e status step detail) := by
  simp [State.refuse, Keeps]

@[simp] theorem State.refuseBudget_kept (s : State) (e : JEntry) (pool amt avail : Nat) (placed : Bool) :
    Keeps s (s.refuseBudget e pool amt avail placed) := by
  simp [State.refuseBudget, Keeps]

@[simp] theorem State.done_kept (s : State) (e : JEntry) (step detail : Nat) (handle : Word) : Keeps s (s.done e step detail handle) := by
  simp [State.done, Keeps]

@[simp] theorem State.notStarted_kept (s : State) (e : JEntry) (status detail : Nat) : Keeps s (s.notStarted e status detail) := by
  simp [State.notStarted, Keeps]

/-! ### The core pages -/

@[simp] theorem State.startCore_kept (s : State) (k : Nat) : Keeps s (s.startCore k) := ⟨rfl, rfl⟩

@[simp] theorem State.stopCore_kept (s : State) (k : Nat) : Keeps s (s.stopCore k) := by
  simp only [State.stopCore]
  split <;> simp [Keeps]

@[simp] theorem State.loadRow_kept (s : State) (p : Nat) (hi : Word) : Keeps s (s.loadRow p hi) := by simp [State.loadRow, Keeps]

@[simp] theorem State.stageSeg_kept (s : State) (p : Nat) : Keeps s (s.stageSeg p) := by simp [State.stageSeg, Keeps]

@[simp] theorem takenCore_kept (p off : Nat) (v : Word) (s : State) : Keeps s (takenCore p off v s) := by simp [takenCore, Keeps]

@[simp] theorem appliedCore_kept (p : Nat) (s : State) : Keeps s (appliedCore p s) := by
  simp only [appliedCore]
  repeat' split
  all_goals simp [Keeps]

@[simp] theorem resetCore_kept (s : State) (p : Nat) : Keeps s (resetCore s p) := by simp [resetCore, Keeps]

@[simp] theorem State.heatCore_kept (s : State) (k : Nat) : Keeps s (s.heatCore k) := by simp [State.heatCore, Keeps]

@[simp] theorem State.heatCores_kept (s : State) : Keeps s s.heatCores := by simp [State.heatCores, Keeps]

/-! ### The time base -/

@[simp] theorem State.advance_kept (s : State) (n : Nat) : Keeps s (s.advance n) := by
  unfold State.advance
  repeat' split
  all_goals simp [Keeps]

@[simp] theorem State.after_kept (s : State) (dt : Nat) : Keeps s (s.after dt) := by simp [State.after, Keeps]

@[simp] theorem State.setHealthy_kept (s : State) : Keeps s s.setHealthy := by simp [State.setHealthy, Keeps]

@[simp] theorem State.takeCorr_kept (s : State) (e : JEntry) (re : Bool) : Keeps s (s.takeCorr e re) := ⟨rfl, rfl⟩

@[simp] theorem stepTimeStep_kept (s : State) (e : JEntry) : Keeps s (stepTimeStep s e) := by
  unfold stepTimeStep
  repeat' split
  all_goals simp [Keeps]

@[simp] theorem State.drawNonce_kept (s : State) : Keeps s s.drawNonce := by simp [State.drawNonce, Keeps]

@[simp] theorem State.authority_kept (s : State) : Keeps s s.authority.2 := by
  simp only [State.authority]
  repeat' split
  all_goals simp [Keeps]

@[simp] theorem stepReepoch_kept (s : State) (e : JEntry) : Keeps s (stepReepoch s e) := by
  simp only [stepReepoch]
  repeat' split
  all_goals simp [Keeps]

@[simp] theorem State.dropSlew_kept (s : State) : Keeps s s.dropSlew := by
  unfold State.dropSlew
  split <;> simp [Keeps]

@[simp] theorem State.applyCorr_kept (s : State) (c : Correction) : Keeps s (s.applyCorr c) := by simp [State.applyCorr, Keeps]

@[simp] theorem State.corrAtBoundary_kept (s : State) : Keeps s s.corrAtBoundary.2 := by
  simp only [State.corrAtBoundary]
  repeat' split
  all_goals simp [Keeps]

@[simp] theorem State.endAlign_kept (s : State) : Keeps s s.endAlign := by
  simp only [State.endAlign]
  repeat' split
  all_goals simp [Keeps]

@[simp] theorem State.autoStep_kept (s : State) : Keeps s s.autoStep := by simp [State.autoStep, Keeps]

@[simp] theorem stepTimeSlew_kept (s : State) (e : JEntry) : Keeps s (stepTimeSlew s e) := by
  simp only [stepTimeSlew]
  split <;> simp [Keeps]

@[simp] theorem applySlew_kept (s : State) (e : JEntry) : Keeps s (applySlew s e) := by simp [applySlew, Keeps]

@[simp] theorem State.latchNow_kept (s : State) : Keeps s s.latchNow := by simp [State.latchNow, Keeps]

@[simp] theorem State.latchStep_kept (s : State) : Keeps s s.latchStep := ⟨rfl, rfl⟩

/-! ### The discipline loop -/

@[simp] theorem State.modDisc_kept (s : State) (f : Disc → Disc) : Keeps s (s.modDisc f) := ⟨rfl, rfl⟩

@[simp] theorem State.setDisc_kept (s : State) (n : DiscSt) : Keeps s (s.setDisc n) := by simp [State.setDisc, Keeps]

@[simp] theorem State.discOut_kept (s : State) : Keeps s s.discOut := by simp [State.discOut, Keeps]

@[simp] theorem State.oscWrite_kept (s : State) : Keeps s s.oscWrite := by simp [State.oscWrite, Keeps]

@[simp] theorem State.discOff_kept (s : State) : Keeps s s.discOff := by simp [State.discOff, Keeps]

@[simp] theorem State.discOn_kept (s : State) : Keeps s s.discOn := by simp [State.discOn, Keeps]

@[simp] theorem State.refFault_kept (s : State) : Keeps s s.refFault := by simp [State.refFault, Keeps]

@[simp] theorem State.holdoverEntry_kept (s : State) : Keeps s s.holdoverEntry := by simp [State.holdoverEntry, Keeps]

@[simp] theorem State.toHoldover_kept (s : State) : Keeps s s.toHoldover := by simp [State.toHoldover, Keeps]

@[simp] theorem State.discStepped_kept (s : State) (re : Bool) : Keeps s (s.discStepped re) := by
  unfold State.discStepped
  split <;> simp [Keeps]

@[simp] theorem State.discMeas_kept (s : State) (x var : Rat) : Keeps s (s.discMeas x var) := by simp [State.discMeas, Keeps]

@[simp] theorem State.loopTerms_kept (s : State) (x : Rat) : Keeps s (s.loopTerms x) := by simp [State.loopTerms, Keeps]

@[simp] theorem State.discHist_kept (s : State) (x : Rat) : Keeps s (s.discHist x) := ⟨rfl, rfl⟩

@[simp] theorem State.updateValid_kept (s : State) (x v : Rat) : Keeps s (s.updateValid x v) := by
  simp only [State.updateValid]
  split <;> simp [Keeps]

@[simp] theorem State.holdSecond_kept (s : State) : Keeps s s.holdSecond := by simp [State.holdSecond, Keeps]

@[simp] theorem State.discUpdate_kept (s : State) : Keeps s s.discUpdate := by simp [State.discUpdate, Keeps]

@[simp] theorem State.tauEval_kept (s : State) : Keeps s s.tauEval := by simp [State.tauEval, Keeps]

@[simp] theorem State.ptpSecond_kept (s : State) : Keeps s s.ptpSecond := by simp [State.ptpSecond, Keeps]

@[simp] theorem appliedDisc_kept (old s : State) : Keeps s (appliedDisc old s) := by simp [appliedDisc, Keeps]

@[simp] theorem resetDisc_kept (s : State) : Keeps s (resetDisc s) := by simp [resetDisc, Keeps]

/-! ### Time outputs and inputs -/

@[simp] theorem State.setSched_kept (s : State) (i : Nat) (x : Sched) : Keeps s (s.setSched i x) := ⟨rfl, rfl⟩

@[simp] theorem stepToutSchedule_kept (s : State) (e : JEntry) : Keeps s (stepToutSchedule s e) := by
  have ha := s.alloc_kept 4 true false
  simp only [stepToutSchedule]
  repeat' split
  all_goals simp_all [Keeps]

@[simp] theorem State.schedEnd_kept (s : State) (i : Nat) : Keeps s (s.schedEnd i) := by simp [State.schedEnd, Keeps]

@[simp] theorem State.schedDone_kept (s : State) (i : Nat) : Keeps s (s.schedDone i) := by simp [State.schedDone, Keeps]

@[simp] theorem loadSched_kept (s : State) (e : JEntry) : Keeps s (loadSched s e) := by simp [loadSched, Keeps]

@[simp] theorem State.dropSched_kept (s : State) (i : Nat) : Keeps s (s.dropSched i) := by simp [State.dropSched, Keeps]

@[simp] theorem State.freeEndedScheds_kept (s : State) : Keeps s s.freeEndedScheds := by simp [State.freeEndedScheds, Keeps]

@[simp] theorem State.edgeDue_kept (s : State) (i : Nat) : Keeps s (s.edgeDue i) := by simp [State.edgeDue, Keeps]

@[simp] theorem State.edgeRow_kept (s : State) (i : Nat) (pin : Bool) : Keeps s (s.edgeRow i pin) := by simp [State.edgeRow, Keeps]

@[simp] theorem State.stepScheds_kept (s : State) (off : Int) : Keeps s (s.stepScheds off) := by simp [State.stepScheds, Keeps]

@[simp] theorem State.setTin_kept (s : State) (n : Nat) (x : TinIn) : Keeps s (s.setTin n x) := ⟨rfl, rfl⟩

@[simp] theorem stepTinArm_kept (s : State) (e : JEntry) : Keeps s (stepTinArm s e) := by
  have ha := s.alloc_kept 5 true false
  simp only [stepTinArm]
  repeat' split
  all_goals simp_all [Keeps]

@[simp] theorem armTin_kept (s : State) (e : JEntry) : Keeps s (armTin s e) := by simp [armTin, Keeps]

@[simp] theorem State.dropTin_kept (s : State) (i : Nat) : Keeps s (s.dropTin i) := ⟨rfl, rfl⟩

@[simp] theorem State.tinCopy_kept (s : State) (n : Nat) (rising : Bool) (stamp : Int) : Keeps s (s.tinCopy n rising stamp) := by
  simp [State.tinCopy, Keeps]

@[simp] theorem State.tinStamp_kept (s : State) (n : Nat) (rising : Bool) (stamp : Int) : Keeps s (s.tinStamp n rising stamp) := by
  simp [State.tinStamp, Keeps]

@[simp] theorem State.popTin_kept (s : State) (n : Nat) : Keeps s (s.popTin n) := by
  simp only [State.popTin]
  split <;> simp [Keeps]

@[simp] theorem popTins_kept (s : State) (v : Word) : Keeps s (popTins s v) := by simp [popTins, Keeps]

/-! ### Streams -/

@[simp] theorem State.setLane_kept (s : State) (n : Nat) (x : Lane) : Keeps s (s.setLane n x) := ⟨rfl, rfl⟩

@[simp] theorem State.setGroup_kept (s : State) (g : Nat) (x : Group) : Keeps s (s.setGroup g x) := ⟨rfl, rfl⟩

@[simp] theorem State.setChan_kept (s : State) (i : Nat) (x : Chan) : Keeps s (s.setChan i x) := ⟨rfl, rfl⟩

@[simp] theorem State.modChan_kept (s : State) (i : Nat) (f : Chan → Chan) : Keeps s (s.modChan i f) := ⟨rfl, rfl⟩

@[simp] theorem State.setJob_kept (s : State) (i : Nat) (x : Job) : Keeps s (s.setJob i x) := ⟨rfl, rfl⟩

/-! ### Signals -/

@[simp] theorem State.setFec_kept (s : State) (n : Nat) (x : Fec) : Keeps s (s.setFec n x) := ⟨rfl, rfl⟩

/-! ### Conditioning -/

@[simp] theorem State.setCr_kept (s : State) (st o : Nat) (v : Word) : Keeps s (s.setCr st o v) := ⟨rfl, rfl⟩

@[simp] theorem State.raiseCr_kept (s : State) (st k : Nat) : Keeps s (s.raiseCr st k) := by simp [State.raiseCr, Keeps]

@[simp] theorem State.setChain_kept (s : State) (st : Nat) (c : Chain) : Keeps s (s.setChain st c) := ⟨rfl, rfl⟩

@[simp] theorem State.realSample_kept (s : State) (st fmt : Nat) (odd : Bool) (i q : Nat) : Keeps s (s.realSample st fmt odd i q).2 := by
  simp only [State.realSample]
  repeat' split
  all_goals simp [Keeps]

@[simp] theorem State.fillSample_kept (s : State) (st : Nat) : Keeps s (s.fillSample st).2 := by
  simp only [State.fillSample]
  split <;> simp [Keeps]

@[simp] theorem State.restartDc_kept (s : State) (st : Nat) (dc : Option (Int × Int)) : Keeps s (s.restartDc st dc) := ⟨rfl, rfl⟩

@[simp] theorem State.endCond_kept (s : State) (st : Nat) : Keeps s (s.endCond st) := by simp [State.endCond, Keeps]

@[simp] theorem State.releaseNotch_kept (s : State) (st k : Nat) : Keeps s (s.releaseNotch st k) := by simp [State.releaseNotch, Keeps]

@[simp] theorem State.dropTwins_kept (s : State) (st : Nat) : Keeps s (s.dropTwins st) := by simp [State.dropTwins, Keeps]

@[simp] theorem State.putNotch_kept (s : State) (st k : Nat) (w : BitVec 32) : Keeps s (s.putNotch st k w) := by
  simp [State.putNotch, Keeps]

@[simp] theorem State.detect_kept (s : State) (st k : Nat) (p q : Rat) : Keeps s (s.detect st k p q) := by
  simp only [State.detect]
  repeat' split
  all_goals simp [Keeps]

@[simp] theorem State.monitor_kept (s : State) (st : Nat) : Keeps s (s.monitor st) := by simp [State.monitor, Keeps]

@[simp] theorem State.slaveStream_kept (s : State) (r st : Nat) : Keeps s (s.slaveStream r st) := by simp [State.slaveStream, Keeps]

@[simp] theorem State.slaveNotches_kept (s : State) : Keeps s s.slaveNotches := by
  refine Keeps.foldl (fun t st => ?_) _ s
  dsimp only
  split <;> simp [Keeps]

@[simp] theorem State.markStat_kept (s : State) (st : Nat) : Keeps s (s.markStat st) := ⟨rfl, rfl⟩

@[simp] theorem State.clearStat_kept (s : State) (st : Nat) : Keeps s (s.clearStat st) := by simp [State.clearStat, Keeps]

@[simp] theorem resetCond_kept (s : State) (p : Nat) : Keeps s (resetCond s p) := ⟨rfl, rfl⟩

/-! ### Correlators -/

@[simp] theorem State.chanSample_kept (s : State) (i : Nat) (x : Smp) (els : Nat → Cx) (t ts : Rat) (drops : List Nat) :
    Keeps s (s.chanSample i x els t ts drops) := by
  simp [State.chanSample, Keeps]

/-! ### Search captures -/

@[simp] theorem State.setSnap_kept (s : State) (n : Nat) (x : Snap) : Keeps s (s.setSnap n x) := ⟨rfl, rfl⟩

@[simp] theorem State.putSample_kept (s : State) (n i : Nat) (y : Int × Int) : Keeps s (s.putSample n i y) := by
  unfold State.putSample
  split <;> simp [Keeps]

@[simp] theorem State.storeNext_kept (s : State) (i : Nat) (y : Int × Int) : Keeps s (s.storeNext i y) := by
  simp [State.storeNext, Keeps]

@[simp] theorem State.storeDue_kept (fuel : Nat) (s : State) (i : Nat) (t ts : Rat) : Keeps s (s.storeDue fuel i t ts) := by
  induction fuel generalizing s with
  | zero => exact ⟨rfl, rfl⟩
  | succ n ih => simp [State.storeDue, Keeps, ih]

@[simp] theorem State.snapSample_kept (s : State) (n : Nat) (x : Smp) (brk : Bool) (cond : Nat) (t ts : Rat) (drop : Bool) :
    Keeps s (s.snapSample n x brk cond t ts drop) := by
  unfold State.snapSample
  split <;> simp [Keeps]

@[simp] theorem State.capture_kept (s : State) (st : Nat) (x : Smp) (brk : Bool) (cond : Nat) (t ts : Rat) (drop : Bool) :
    Keeps s (s.capture st x brk cond t ts drop) := by
  simp [State.capture, Keeps]

/-! ### Alignment groups -/

@[simp] theorem State.modGroup_kept (s : State) (g : Nat) (f : Group → Group) : Keeps s (s.modGroup g f) := ⟨rfl, rfl⟩

@[simp] theorem State.toUsers_kept (s : State) (st : Nat) (x : Smp) (els : Nat → Cx) (brk : Bool) (cond : Nat) (t ts : Rat) (drops : List Nat) :
    Keeps s (s.toUsers st x els brk cond t ts drops) := by
  simp [State.toUsers, Keeps]

@[simp] theorem State.combineDue_kept (fuel : Nat) (s : State) (g : Nat) : Keeps s (s.combineDue fuel g) := by
  induction fuel generalizing s with
  | zero => exact ⟨rfl, rfl⟩
  | succ n ih =>
    simp only [State.combineDue]
    split <;> simp [Keeps, ih]

@[simp] theorem State.toGroup_kept (s : State) (g k : Nat) (x : Smp) (brk : Bool) (raw ts : Rat) :
    Keeps s (s.toGroup g k x brk raw ts) := by
  simp [State.toGroup, Keeps]

@[simp] theorem State.lostTaps_kept (s : State) (st : Nat) (x : Smp) (t : Rat) : Keeps s (s.lostTaps st x t) := by
  simp [State.lostTaps, Keeps]

@[simp] theorem State.sink_kept (s : State) (st : Nat) (x : Smp) (brk : Bool) (raw delay ts : Rat) (drops : List Nat) :
    Keeps s (s.sink st x brk raw delay ts drops) := by
  simp only [State.sink]
  repeat' split
  all_goals simp [Keeps]

/-! ### Lanes -/

@[simp] theorem State.modLane_kept (s : State) (n : Nat) (f : Lane → Lane) : Keeps s (s.modLane n f) := ⟨rfl, rfl⟩

@[simp] theorem State.capCode_kept (s : State) (p code : Nat) : Keeps s (s.capCode p code) := by simp [State.capCode, Keeps]

@[simp] theorem State.ccFell_kept (s old : State) : Keeps s (s.ccFell old) := by simp [State.ccFell, Keeps]

@[simp] theorem State.ccLeave_kept (s : State) (n : Nat) : Keeps s (s.ccLeave n) := by simp [State.ccLeave, Keeps]

@[simp] theorem State.laneTo_kept (s : State) (n : Nat) (st : LaneSt) : Keeps s (s.laneTo n st) := by simp [State.laneTo, Keeps]

@[simp] theorem State.newBlock_kept (s : State) (n stamp : Nat) (fill mask disc : Bool) (gap : Nat) :
    Keeps s (s.newBlock n stamp fill mask disc gap) := by
  simp [State.newBlock, Keeps]

@[simp] theorem State.markFill_kept (s : State) (n : Nat) : Keeps s (s.markFill n) := by
  unfold State.markFill
  split <;> simp [Keeps]

@[simp] theorem State.frameIn_kept (s : State) (n stamp : Nat) (fill : Bool) : Keeps s (s.frameIn n stamp fill) := by
  simp [State.frameIn, Keeps]

@[simp] theorem State.slotOut_kept (s : State) (n : Nat) (t : Nat × Nat × Nat) (o : Option Smp) (drops : List Nat) :
    Keeps s (s.slotOut n t o drops) := by
  simp only [State.slotOut]
  split <;> simp [Keeps]

@[simp] theorem State.fillSlots_kept (s : State) (n : Nat) (drops : List Nat) : Keeps s (s.fillSlots n drops) := by
  simp [State.fillSlots, Keeps]

@[simp] theorem State.fillFrame_kept (s : State) (n el : Nat) : Keeps s (s.fillFrame n el) := by simp [State.fillFrame, Keeps]

@[simp] theorem State.fillSteps_kept (k : Nat) (s : State) (n el0 i : Nat) : Keeps s (s.fillSteps k n el0 i) := by
  induction k generalizing s i with
  | zero => exact ⟨rfl, rfl⟩
  | succ k ih => simp [State.fillSteps, Keeps, ih]

@[simp] theorem State.pace_kept (s : State) (n : Nat) : Keeps s (s.pace n) := by simp [State.pace, Keeps]

@[simp] theorem State.startFill_kept (s : State) (n : Nat) : Keeps s (s.startFill n) := ⟨rfl, rfl⟩

@[simp] theorem State.slotApplied_kept (s : State) (n short : Nat) (begun : Bool) : Keeps s (s.slotApplied n short begun) := by
  simp [State.slotApplied, Keeps]

@[simp] theorem State.hdrBad_kept (s : State) (n : Nat) : Keeps s (s.hdrBad n) := by simp [State.hdrBad, Keeps]

@[simp] theorem State.deliver_kept (s : State) (n : Nat) (fill : Bool) (codes : List (BitVec 8 × BitVec 8)) (drops : List Nat) :
    Keeps s (s.deliver n fill codes drops) := by
  simp [State.deliver, Keeps]

@[simp] theorem State.countDrops_kept (s : State) (n : Nat) (drops : List Nat) : Keeps s (s.countDrops n drops) := by
  simp [State.countDrops, Keeps]

@[simp] theorem State.realFrame_kept (s : State) (n : Nat) (e : FrameEv) : Keeps s (s.realFrame n e) := by simp [State.realFrame, Keeps]

@[simp] theorem State.frameLost_kept (s : State) (n : Nat) : Keeps s (s.frameLost n) := by simp [State.frameLost, Keeps]

@[simp] theorem State.qualify_kept (s : State) (n : Nat) : Keeps s (s.qualify n) := by simp [State.qualify, Keeps]

@[simp] theorem State.applyFill_kept (s : State) (n : Nat) (e : FrameEv) (cfg : List Word) : Keeps s (s.applyFill n e cfg) := by
  simp [State.applyFill, Keeps]

@[simp] theorem State.frameAt_kept (s : State) (e : FrameEv) : Keeps s (s.frameAt e) := by
  simp only [State.frameAt]
  repeat' split
  all_goals simp [Keeps]

@[simp] theorem State.lateFrame_kept (s : State) : Keeps s s.lateFrame := by simp [State.lateFrame, Keeps]

@[simp] theorem State.rateTol_kept (s : State) (n : Nat) (ppb : Rat) (valid : Bool) : Keeps s (s.rateTol n ppb valid) := by
  simp [State.rateTol, Keeps]

@[simp] theorem State.endRate_kept (s : State) (n : Nat) : Keeps s (s.endRate n) := by simp [State.endRate, Keeps]

@[simp] theorem State.ccWindow_kept (s : State) (n r : Nat) (k : Int) : Keeps s (s.ccWindow n r k) := by
  simp only [State.ccWindow]
  repeat' split
  all_goals simp [Keeps]

@[simp] theorem State.endCc_kept (s : State) (n : Nat) : Keeps s (s.endCc n) := by
  simp only [State.endCc]
  repeat' split
  all_goals simp [Keeps]

@[simp] theorem State.endLanes_kept (s : State) : Keeps s s.endLanes := by simp [State.endLanes, Keeps]

@[simp] theorem State.clearLaneFlags_kept (s : State) : Keeps s s.clearLaneFlags := by simp [State.clearLaneFlags, Keeps]

@[simp] theorem State.rebookLanes_kept (s : State) : Keeps s s.rebookLanes := by simp [State.rebookLanes, Keeps]

@[simp] theorem appliedLane_kept (old : State) (p : Nat) (s : State) : Keeps s (appliedLane old p s) := by simp [appliedLane, Keeps]

@[simp] theorem resetLane_kept (s : State) (p : Nat) : Keeps s (resetLane s p) := by simp [resetLane, Keeps]

/-! ### Front-ends and injection -/

@[simp] theorem State.modFec_kept (s : State) (n : Nat) (f : Fec → Fec) : Keeps s (s.modFec n f) := ⟨rfl, rfl⟩

@[simp] theorem State.uflGo_kept (s : State) (n : Nat) : Keeps s (s.uflGo n) := by
  unfold State.uflGo
  split <;> simp [Keeps]

@[simp] theorem State.uflSend_kept (s : State) (n : Nat) (r : UflReq) : Keeps s (s.uflSend n r) := by simp [State.uflSend, Keeps]

@[simp] theorem State.uflNext_kept (s : State) (n : Nat) : Keeps s (s.uflNext n) := by simp [State.uflNext, Keeps]

@[simp] theorem State.readEntry_kept (s : State) (n : Nat) : Keeps s (s.readEntry n) := by simp [State.readEntry, Keeps]

@[simp] theorem State.fecTo_kept (s : State) (n : Nat) (st : FecSt) : Keeps s (s.fecTo n st) := by simp [State.fecTo, Keeps]

@[simp] theorem State.fecFault_kept (s : State) (n code : Nat) : Keeps s (s.fecFault n code) := by simp [State.fecFault, Keeps]

@[simp] theorem State.fecTune_kept (s : State) (n : Nat) : Keeps s (s.fecTune n) := by simp [State.fecTune, Keeps]

@[simp] theorem State.fecScript_kept (s : State) (n i : Nat) : Keeps s (s.fecScript n i) := by simp [State.fecScript, Keeps]

@[simp] theorem State.fecPowerup_kept (s : State) (n : Nat) : Keeps s (s.fecPowerup n) := by simp [State.fecPowerup, Keeps]

@[simp] theorem State.tuneDc_kept (s : State) (n : Nat) : Keeps s (s.tuneDc n) := by simp [State.tuneDc, Keeps]

@[simp] theorem State.startGain_kept (s : State) (n j g : Nat) : Keeps s (s.startGain n j g) := by simp [State.startGain, Keeps]

@[simp] theorem State.writeGain_kept (s : State) (n j g : Nat) : Keeps s (s.writeGain n j g) := by simp [State.writeGain, Keeps]

@[simp] theorem State.fecReadyInit_kept (s : State) (n : Nat) : Keeps s (s.fecReadyInit n) := by simp [State.fecReadyInit, Keeps]

@[simp] theorem State.fecReadyStart_kept (s : State) (n : Nat) : Keeps s (s.fecReadyStart n) := by simp [State.fecReadyStart, Keeps]

@[simp] theorem State.calStart_kept (s : State) (n : Nat) (go : Bool) : Keeps s (s.calStart n go) := by simp [State.calStart, Keeps]

@[simp] theorem State.fecLocked_kept (s : State) (n : Nat) : Keeps s (s.fecLocked n) := by simp [State.fecLocked, Keeps]

@[simp] theorem State.setInj_kept (s : State) (k : Nat) (j : InjJob) : Keeps s (s.setInj k j) := ⟨rfl, rfl⟩

@[simp] theorem State.injVal_kept (s : State) (j : InjJob) (at_ : Rat) : Keeps s (s.injVal j at_).2 := by
  simp only [State.injVal]
  split <;> simp [Keeps]

@[simp] theorem State.injSum_kept (s : State) (at_ : Rat) : Keeps s (s.injSum at_).2 := by
  have hf := Keeps.foldl_of Prod.snd (f := fun (a : Cx × State) (e : Nat × InjJob) =>
    if e.2.st = .active then ((a.2.injVal e.2 at_).1.add a.1, (a.2.injVal e.2 at_).2) else a) (fun a e => by split <;> simp [Keeps])
    s.rl.jobs ({}, s)
  simp only [State.injSum]
  split <;> simpa [Keeps] using hf

@[simp] theorem State.injActive_kept (s : State) (k at_ : Nat) : Keeps s (s.injActive k at_) := by
  simp only [State.injActive]
  split <;> simp [Keeps]

@[simp] theorem State.injStarts_kept (s : State) (st : InjSt) (at_ : Nat) : Keeps s (s.injStarts st at_) := by
  simp [State.injStarts, Keeps]

@[simp] theorem State.rlOne_kept (s : State) : Keeps s s.rlOne := by
  simp only [State.rlOne]
  generalize hs : (if s.rl.jobs.any fun e => e.2.st == .joining then s.injStarts .joining (s.tb.now - (s.el - s.rl.next)) else s) = s1
  have hk : Keeps s s1 := by subst hs; simp [Keeps]
  have hf := Keeps.foldl_of Prod.snd (f := fun (a : List (Int × Int) × State) k =>
    if s1.rl.st = .active then
      (a.1 ++ [(a.2.injSum ((s.tb.now - (s.el - s.rl.next) : Nat) + ((k * s.frameTime : Nat) : Rat) / (s.rlSlots : Nat))).1],
        (a.2.injSum ((s.tb.now - (s.el - s.rl.next) : Nat) + ((k * s.frameTime : Nat) : Rat) / (s.rlSlots : Nat))).2)
    else (a.1 ++ [(0, 0)], a.2)) (fun a e => by split <;> simp [Keeps]) (List.range s.rlSlots) ([], s1)
  exact (hk.trans hf).trans ⟨rfl, rfl⟩

@[simp] theorem State.rlRun_kept (s : State) : Keeps s s.rlRun := by simp [State.rlRun, Keeps]

@[simp] theorem State.rlStart_kept (s : State) : Keeps s s.rlStart := ⟨rfl, rfl⟩

@[simp] theorem State.suspendInj_kept (s0 : State) (n : Nat) : Keeps s0 (s0.suspendInj n) := by simp [State.suspendInj, Keeps]

@[simp] theorem State.fecStatus_kept (s : State) (n : Nat) (b : BitVec 8) (after : Bool) : Keeps s (s.fecStatus n b after) := by
  simp [State.fecStatus, Keeps]

@[simp] theorem State.fecIdent_kept (s : State) (n : Nat) (d : List Byte) : Keeps s (s.fecIdent n d) := by simp [State.fecIdent, Keeps]

@[simp] theorem State.calWriteBack_kept (s : State) (n : Nat) : Keeps s (s.calWriteBack n) := by simp [State.calWriteBack, Keeps]

@[simp] theorem State.calEnd_kept (s : State) (n : Nat) (stale : Bool) : Keeps s (s.calEnd n stale) := by simp [State.calEnd, Keeps]

@[simp] theorem State.rawEnd_kept (s : State) (n : Nat) (fail : Bool) : Keeps s (s.rawEnd n fail) := by simp [State.rawEnd, Keeps]

@[simp] theorem State.uflDone_kept (s : State) (n : Nat) (r : UflReq) (d : List Byte) : Keeps s (s.uflDone n r d) := by
  unfold State.uflDone
  split <;> simp [Keeps]

@[simp] theorem State.goodGap_kept (s : State) (n : Nat) : Keeps s (s.goodGap n) := ⟨rfl, rfl⟩

@[simp] theorem State.uflFailed_kept (s : State) (n : Nat) (r : UflReq) : Keeps s (s.uflFailed n r) := by
  simp only [State.uflFailed]
  split <;> simp [Keeps]

@[simp] theorem State.calStepEnd_kept (s : State) (n : Nat) (osc : BitVec 16) (bands : List CalMeas) :
    Keeps s (s.calStepEnd n osc bands) := by
  simp only [State.calStepEnd]
  repeat' split
  all_goals simp [Keeps]

@[simp] theorem stepInjStart_kept (s : State) (e : JEntry) : Keeps s (stepInjStart s e) := by
  have ha := s.alloc_kept 3 true false
  simp only [stepInjStart]
  repeat' split
  all_goals simp_all [Keeps]

@[simp] theorem State.fillResults_kept (s : State) (k : Nat) : Keeps s (s.fillResults k) := by simp [State.fillResults, Keeps]

@[simp] theorem State.cutWindow_kept (s : State) (k : Nat) : Keeps s (s.cutWindow k) := by simp [State.cutWindow, Keeps]

@[simp] theorem State.injEnter_kept (s : State) (k : Nat) : Keeps s (s.injEnter k) := by
  unfold State.injEnter
  split <;> simp [Keeps]

@[simp] theorem State.unsuspend_kept (s : State) : Keeps s s.unsuspend := by simp [State.unsuspend, Keeps]

@[simp] theorem State.injStop_kept (s0 : State) (i : Nat) : Keeps s0 (s0.injStop i) := by simp [State.injStop, Keeps]

@[simp] theorem State.dropInj_kept (s : State) (i : Nat) : Keeps s (s.dropInj i) := ⟨rfl, rfl⟩

@[simp] theorem State.quenchInj_kept (s : State) : Keeps s s.quenchInj := by simp [State.quenchInj, Keeps]

@[simp] theorem State.injUnderrun_kept (s : State) (k n : Nat) : Keeps s (s.injUnderrun k n) := by simp [State.injUnderrun, Keeps]

@[simp] theorem State.endInjHeat_kept (s : State) (repeats : List (Fin 8 × Nat)) : Keeps s (s.endInjHeat repeats) := by
  simp [State.endInjHeat, Keeps]

@[simp] theorem State.injResult_kept (s : State) (k : Nat) (m : InjMeas) : Keeps s (s.injResult k m) := by simp [State.injResult, Keeps]

@[simp] theorem State.queuedCal_kept (s : State) : Keeps s s.queuedCal := by simp [State.queuedCal, Keeps]

@[simp] theorem State.endCalHeat_kept (s : State) : Keeps s s.endCalHeat := by simp [State.endCalHeat, Keeps]

@[simp] theorem takenFec_kept (s : State) (p off : Nat) (v : Word) : Keeps s (takenFec s p off v) := by simp [takenFec, Keeps]

@[simp] theorem State.fecOff_kept (s : State) (n : Nat) : Keeps s (s.fecOff n) := by simp [State.fecOff, Keeps]

@[simp] theorem appliedFec_kept (old : State) (p : Nat) (s : State) : Keeps s (appliedFec old p s) := by
  simp only [appliedFec]
  repeat' split
  all_goals simp [Keeps]

@[simp] theorem resetFec_kept (s : State) (p : Nat) : Keeps s (resetFec s p) := by simp [resetFec, Keeps]

@[simp] theorem resetRlane_kept (s : State) : Keeps s (resetRlane s) := by simp [resetRlane, Keeps]

/-! ### Channels -/

@[simp] theorem stepChCreate_kept (s : State) (e : JEntry) : Keeps s (stepChCreate s e) := by
  simp only [stepChCreate]
  repeat' split
  all_goals simp [Keeps]
  all_goals next h => simpa [Keeps] using State.alloc_kept_of h

@[simp] theorem State.pullIn_kept (s : State) (i : Nat) (aided : Bool) : Keeps s (s.pullIn i aided) := ⟨rfl, rfl⟩

@[simp] theorem runChan_kept (s : State) (e : JEntry) : Keeps s (runChan s e) := by simp [runChan, Keeps]

@[simp] theorem stepChModify_kept (s : State) (e : JEntry) : Keeps s (stepChModify s e) := by
  simp only [stepChModify]
  split <;> simp [Keeps]

@[simp] theorem State.slip_kept (s : State) (i : Nat) : Keeps s (s.slip i) := by simp [State.slip, Keeps]

@[simp] theorem State.slipIf_kept (s : State) (i : Nat) (b : Bool) : Keeps s (s.slipIf i b) := by simp [State.slipIf, Keeps]

@[simp] theorem State.uncouple_kept (s : State) (i : Nat) : Keeps s (s.uncouple i) := ⟨rfl, rfl⟩

@[simp] theorem applyModify_kept (s : State) (e : JEntry) : Keeps s (applyModify s e) := by simp [applyModify, Keeps]

@[simp] theorem State.dropChan_kept (s : State) (i : Nat) : Keeps s (s.dropChan i) := ⟨rfl, rfl⟩

@[simp] theorem State.makeChan_kept (s : State) (prm : ChanPrm) (cls : Nat) (host : Bool) (seq : Word) :
    Keeps s (s.makeChan prm cls host seq).2.2 := by
  have ha := s.alloc_kept cls host (cls == 15)
  simp only [State.makeChan]
  repeat' split
  all_goals simp_all [Keeps]

@[simp] theorem moveOnce_kept (hyst : Nat) (x : State × Nat) : Keeps x.1 (moveOnce hyst x).1 := by
  unfold moveOnce
  split <;> simp [Keeps]

@[simp] theorem State.moves_kept (n : Nat) (s : State) (hyst : Nat) : Keeps s (s.moves n hyst).2.2 :=
  Keeps.foldl_of Prod.fst (fun x _ => moveOnce_kept hyst x) _ (s, 0)

@[simp] theorem State.switchMigs_kept (s : State) : Keeps s s.switchMigs := by
  refine Keeps.foldl (fun t e => ?_) _ s
  split <;> simp [Keeps]

@[simp] theorem State.chanTo_kept (s : State) (i : Nat) (st : ChanSt) : Keeps s (s.chanTo i st) := by
  unfold State.chanTo
  split <;> simp [Keeps]

@[simp] theorem State.resume_kept (s : State) (i : Nat) : Keeps s (s.resume i) := by simp [State.resume, Keeps]

@[simp] theorem State.updated_kept (s : State) (i : Nat) (before : Chan) (e : Rat) : Keeps s (s.updated i before e) := by
  simp only [State.updated]
  split <;> simp [Keeps]

@[simp] theorem State.update_kept (s : State) (i : Nat) (sums : List Cx) : Keeps s (s.update i sums) := by simp [State.update, Keeps]

@[simp] theorem State.useDump_kept (s : State) (i : Nat) (d : Dump) : Keeps s (s.useDump i d) := by
  simp only [State.useDump]
  repeat' split
  all_goals simp [Keeps]

@[simp] theorem State.runDumps_kept (s : State) (i : Nat) (x : ChanIn) : Keeps s (s.runDumps i x) :=
  (Keeps.foldl (fun t d => t.useDump_kept i d) _ s).trans (State.modChan_kept ..)

@[simp] theorem State.pullAgain_kept (s : State) (i : Nat) (u : Rat × Rat) : Keeps s (s.pullAgain i u) := by
  simp [State.pullAgain, Keeps]

@[simp] theorem State.endPullin_kept (s : State) (i : Nat) (x : ChanIn) (off : Bool) : Keeps s (s.endPullin i x off) := by
  simp only [State.endPullin]
  repeat' split
  all_goals simp [Keeps]

@[simp] theorem State.endLocked_kept (s : State) (i : Nat) (x : ChanIn) (imp absent : Bool) : Keeps s (s.endLocked i x imp absent) := by
  simp [State.endLocked, Keeps]

@[simp] theorem State.endCoast_kept (s : State) (i : Nat) (x : ChanIn) (imp absent : Bool) : Keeps s (s.endCoast i x imp absent) := by
  simp [State.endCoast, Keeps]

@[simp] theorem State.endChan_kept (s : State) (ins : List ChanIn) (ovr : List Nat) (i : Nat) : Keeps s (s.endChan ins ovr i) := by
  simp only [State.endChan]
  split <;> simp [Keeps]

@[simp] theorem State.quenchHeat_kept (s : State) : Keeps s s.quenchHeat := ⟨rfl, rfl⟩

@[simp] theorem State.quenchChans_kept (s : State) : Keeps s s.quenchChans := by simp [State.quenchChans, Keeps]

@[simp] theorem State.recoverChans_kept (s : State) : Keeps s s.recoverChans := ⟨rfl, rfl⟩

@[simp] theorem State.vectorBoundary_kept (s0 : State) (ins : List ChanIn) : Keeps s0 (s0.vectorBoundary ins) := by
  simp [State.vectorBoundary, Keeps]

/-! ### Search jobs -/

@[simp] theorem State.modJob_kept (s : State) (i : Nat) (f : Job → Job) : Keeps s (s.modJob i f) := by simp [State.modJob, Keeps]

@[simp] theorem State.snapMark_kept (s : State) : Keeps s s.snapMark := ⟨rfl, rfl⟩

theorem State.reserve_kept {s t : State} {i first : Nat} (h : s.reserve i first = some t) : Keeps s t := by
  simp only [State.reserve] at h
  repeat' split at h
  all_goals cases h; try simp [Keeps]

@[simp] theorem State.freeSnaps_kept (s : State) : Keeps s s.freeSnaps := ⟨rfl, rfl⟩

@[simp] theorem State.refreshFloor_kept (s : State) : Keeps s s.refreshFloor := by simp [State.refreshFloor, Keeps]

@[simp] theorem State.bookJob_kept (s : State) (i amt : Nat) : Keeps s (s.bookJob i amt) := by simp [State.bookJob, Keeps]

@[simp] theorem State.startJobs_kept (fuel : Nat) (s : State) : Keeps s (s.startJobs fuel) := by
  induction fuel generalizing s with
  | zero => exact ⟨rfl, rfl⟩
  | succ n ih =>
    simp only [State.startJobs]
    repeat' split
    all_goals simp [Keeps, ih]

@[simp] theorem State.undoJob_kept (s : State) (i : Nat) : Keeps s (s.undoJob i) := ⟨rfl, rfl⟩

@[simp] theorem State.submitNow_kept (s : State) (e : JEntry) (i : Nat) : Keeps s (s.submitNow e i) := by
  unfold State.submitNow
  split
  · simp [Keeps]
  · split
    · simp [Keeps]
    next h => simpa [Keeps] using State.reserve_kept h

@[simp] theorem State.tryReserve_kept (s : State) (i : Nat) : Keeps s (s.tryReserve i) := by
  unfold State.tryReserve
  cases h : s.reserve i (s.heat + 1) with
  | none => exact ⟨rfl, rfl⟩
  | some t => exact State.reserve_kept h

@[simp] theorem stepSrchSubmit_kept (s : State) (e : JEntry) : Keeps s (stepSrchSubmit s e) := by
  have ha := s.alloc_kept 2 true false
  simp only [stepSrchSubmit]
  repeat' split
  all_goals simp_all [Keeps]

@[simp] theorem State.resetSnap_kept (s : State) (n : Nat) : Keeps s (s.resetSnap n) := ⟨rfl, rfl⟩

@[simp] theorem State.restartJob_kept (s : State) (i : Nat) (imp : Bool) : Keeps s (s.restartJob i imp) := by
  simp [State.restartJob, Keeps]

@[simp] theorem State.retimeJobs_kept (s : State) : Keeps s s.retimeJobs := by simp [State.retimeJobs, Keeps]

@[simp] theorem State.putHostBytes_kept (s : State) (base : Nat) (l : List Byte) : Keeps s (s.putHostBytes base l) := by
  simp [State.putHostBytes, Keeps]

@[simp] theorem State.putExWords_kept (s : State) (base : Nat) (l : List Native) : Keeps s (s.putExWords base l) := by
  simp [State.putExWords, Keeps]

@[simp] theorem State.putResult_kept (s : State) (l : List Native) : Keeps s (s.putResult l) := by simp [State.putResult, Keeps]

@[simp] theorem State.flushList_kept (s : State) (l : List Nat) : Keeps s (s.flushList l) := by
  induction l generalizing s with
  | nil => exact ⟨rfl, rfl⟩
  | cons i l ih => simp [State.flushList, Keeps, ih]

@[simp] theorem State.flushResults_kept (s : State) : Keeps s s.flushResults := by simp [State.flushResults, Keeps]

@[simp] theorem State.foldFloor_kept (s : State) (st : Nat) (floor : Int) : Keeps s (s.foldFloor st floor).2 := by
  simp [State.foldFloor, Keeps]

@[simp] theorem State.spawn_kept (s : State) (j : Job) (peaks : List Peak) : Keeps s (s.spawn j peaks).2.2 := by
  simp only [State.spawn]
  repeat' split
  all_goals simp [Keeps]

@[simp] theorem State.endJob_kept (s : State) (i status : Nat) : Keeps s (s.endJob i status) := by
  simp [State.endJob, Keeps, apply_ite Prod.snd]

@[simp] theorem State.workJob_kept (s : State) (i : Nat) (ovr : Bool) (dropped : List (Nat × Nat)) :
    Keeps s (s.workJob i ovr dropped) := by
  simp [State.workJob, Keeps]

@[simp] theorem State.impairJobs_kept (s : State) : Keeps s s.impairJobs := by simp [State.impairJobs, Keeps]

@[simp] theorem State.beginJobs_kept (s : State) : Keeps s s.beginJobs := ⟨rfl, rfl⟩

@[simp] theorem State.closeStream_kept (s : State) (i : Nat) : Keeps s (s.closeStream i) := by simp [State.closeStream, Keeps]

@[simp] theorem State.reserveAll_kept (s : State) (l : List Nat) : Keeps s (s.reserveAll l) := by
  induction l generalizing s with
  | nil => exact ⟨rfl, rfl⟩
  | cons i l ih =>
    unfold State.reserveAll
    split
    next h => exact (State.reserve_kept h).trans (ih _)
    · exact ⟨rfl, rfl⟩

@[simp] theorem State.releaseStarts_kept (s : State) (aligned : Bool) : Keeps s (s.releaseStarts aligned) := ⟨rfl, rfl⟩

@[simp] theorem State.ageJobs_kept (s : State) : Keeps s s.ageJobs := ⟨rfl, rfl⟩

@[simp] theorem State.freeJobs_kept (s : State) : Keeps s s.freeJobs := by simp [State.freeJobs, Keeps]

@[simp] theorem State.freeEnded_kept (s : State) : Keeps s s.freeEnded := by simp [State.freeEnded, Keeps]

@[simp] theorem endCancel_kept (s : State) (e : JEntry) : Keeps s (endCancel s e) := by simp [endCancel, Keeps]

@[simp] theorem State.crucible_kept (s : State) (ins : List JobIn) (ovr aligned ret : Bool) : Keeps s (s.crucible ins ovr aligned ret) := by
  have hend (t : State) : let u := (t.releaseStarts aligned).beginJobs
      let v := u.reserveAll u.waitMem
      Keeps t (v.startJobs (v.jobs.length + 1)).ageJobs.refreshFloor := by simp [Keeps]
  unfold State.crucible
  refine Keeps.trans (Keeps.trans ?_ (Keeps.foldl (fun t i => ?_) _ _)) (hend _)
  · split <;> simp [Keeps]
  · split <;> simp [Keeps]

@[simp] theorem State.quenchJobs_kept (s : State) : Keeps s s.quenchJobs := by simp [State.quenchJobs, Keeps]

@[simp] theorem State.tearSnap_kept (s : State) (a : Nat) : Keeps s (s.tearSnap a) := by
  unfold State.tearSnap
  split <;> simp [Keeps]

/-! ### The combiner -/

@[simp] theorem stepCombCreate_kept (s : State) (e : JEntry) : Keeps s (stepCombCreate s e) := by
  have ha := s.alloc_kept 7 true false
  simp only [stepCombCreate]
  repeat' split
  all_goals simp_all [Keeps]

@[simp] theorem State.setWTau_kept (s : State) (g x : Nat) : Keeps s (s.setWTau g x) := ⟨rfl, rfl⟩

@[simp] theorem formGroup_kept (s : State) (e : JEntry) : Keeps s (formGroup s e) := by simp [formGroup, Keeps]

@[simp] theorem firstWeights_kept (s : State) (e : JEntry) : Keeps s (firstWeights s e) := by simp [firstWeights, Keeps]

@[simp] theorem stepCombDestroy_kept (s : State) (e : JEntry) : Keeps s (stepCombDestroy s e) := by
  unfold stepCombDestroy
  split <;> simp [Keeps]

@[simp] theorem State.dropGroup_kept (s : State) (i : Nat) : Keeps s (s.dropGroup i) := by
  unfold State.dropGroup
  split <;> simp [Keeps]

@[simp] theorem State.weighAll_kept (s : State) : Keeps s s.weighAll := by simp [State.weighAll, Keeps]

@[simp] theorem State.spoilOn_kept (s : State) (out : Nat) : Keeps s (s.spoilOn out) := ⟨rfl, rfl⟩

@[simp] theorem State.combGroup_kept (s : State) (g : Nat) : Keeps s (s.combGroup g) := by simp [State.combGroup, Keeps]

@[simp] theorem State.combBoundary_kept (s : State) : Keeps s s.combBoundary := by simp [State.combBoundary, Keeps]

@[simp] theorem State.markSplits_kept (s : State) : Keeps s s.markSplits := ⟨rfl, rfl⟩

/-! ### UARTs -/

@[simp] theorem State.setUart_kept (s : State) (n : Nat) (x : Uart) : Keeps s (s.setUart n x) := ⟨rfl, rfl⟩

@[simp] theorem State.modUart_kept (s : State) (n : Nat) (f : Uart → Uart) : Keeps s (s.modUart n f) := ⟨rfl, rfl⟩

@[simp] theorem State.uartLevels_kept (s : State) (n : Nat) : Keeps s (s.uartLevels n) := by simp [State.uartLevels, Keeps]

@[simp] theorem State.uartKick_kept (s : State) (n : Nat) : Keeps s (s.uartKick n) := by
  simp only [State.uartKick]
  repeat' split
  all_goals simp [Keeps]

@[simp] theorem State.uartPush_kept (s : State) (n : Nat) (l : List Byte) : Keeps s (s.uartPush n l) := by simp [State.uartPush, Keeps]

@[simp] theorem takenUart_kept (p off : Nat) (v : Word) (s : State) : Keeps s (takenUart p off v s) := by simp [takenUart, Keeps]

@[simp] theorem State.uartBreak_kept (s : State) (n : Nat) : Keeps s (s.uartBreak n) := by simp [State.uartBreak, Keeps]

@[simp] theorem State.uartEnter_kept (s : State) (n : Nat) (c : Byte) (pe fe : Bool) : Keeps s (s.uartEnter n c pe fe) := by
  simp [State.uartEnter, Keeps]

@[simp] theorem State.rxPop_kept (s : State) (n : Nat) : Keeps s (s.rxPop n) := by simp [State.rxPop, Keeps]

@[simp] theorem appliedUart_kept (old : State) (p : Nat) (s : State) : Keeps s (appliedUart old p s) := by simp [appliedUart, Keeps]

@[simp] theorem resetUart_kept (s : State) (p : Nat) : Keeps s (resetUart s p) := ⟨rfl, rfl⟩

/-! ### Measurement records -/

@[simp] theorem State.setSub_kept (s : State) (i : Nat) (x : Sub) : Keeps s (s.setSub i x) := ⟨rfl, rfl⟩

@[simp] theorem State.modSub_kept (s : State) (i : Nat) (f : Sub → Sub) : Keeps s (s.modSub i f) := by simp [State.modSub, Keeps]

@[simp] theorem stepSubscribe_kept (s : State) (e : JEntry) : Keeps s (stepSubscribe s e) := by
  simp only [stepSubscribe]
  repeat' split
  all_goals simp [Keeps]
  all_goals next h => simpa [Keeps] using State.alloc_kept_of h

@[simp] theorem attachSub_kept (s : State) (e : JEntry) : Keeps s (attachSub s e) := by simp [attachSub, Keeps]

@[simp] theorem State.setHmByte_kept (s : State) (a : Nat) (b : Byte) : Keeps s (s.setHmByte a b) := ⟨rfl, rfl⟩

@[simp] theorem State.subDrop_kept (s : State) (slot : Nat) : Keeps s (s.subDrop slot) := by simp [State.subDrop, Keeps]

@[simp] theorem State.subWrite_kept (s : State) (x : Sub) (l : List Native) : Keeps s (s.subWrite x l) := by
  simp [State.subWrite, Keeps]

@[simp] theorem State.subBytes_kept (s : State) (x : Sub) (l : List Byte) : Keeps s (s.subBytes x l) := by simp [State.subBytes, Keeps]

@[simp] theorem State.subSeq_kept (s : State) (i : Nat) : Keeps s (s.subSeq i) := by simp [State.subSeq, Keeps]

@[simp] theorem State.formRaw_kept (s : State) (i : Nat) (ns : Nat) : Keeps s (s.formRaw i ns) := by simp [State.formRaw, Keeps]

@[simp] theorem State.formSol_kept (s : State) (i : Nat) (text : List (Nat × Nat × List Byte)) (ns : Nat) :
    Keeps s (s.formSol i text ns) := by
  simp [State.formSol, Keeps]

@[simp] theorem State.gather_kept (s : State) (torn ret : Bool) : Keeps s (s.gather torn ret) := ⟨rfl, rfl⟩

@[simp] theorem State.writeOwed_kept (s : State) (i : Nat) : Keeps s (s.writeOwed i) := by simp [State.writeOwed, Keeps]

@[simp] theorem State.formAll_kept (s : State) (h : HeatIn) (ms : Nat) : Keeps s (s.formAll h ms) := by simp [State.formAll, Keeps]

@[simp] theorem State.writeAll_kept (s : State) : Keeps s s.writeAll := by simp [State.writeAll, Keeps]

@[simp] theorem State.dropSub_kept (s : State) (i : Nat) : Keeps s (s.dropSub i) := by simp [State.dropSub, Keeps]

@[simp] theorem takenMeas_kept (off : Nat) (v : Word) (s : State) : Keeps s (takenMeas off v s) := by
  unfold takenMeas
  repeat' split
  all_goals simp [Keeps]

/-! ### Navigation and authentication -/

@[simp] theorem State.modNav_kept (s : State) (f : Nav → Nav) : Keeps s (s.modNav f) := ⟨rfl, rfl⟩

@[simp] theorem State.ciTake_kept (s : State) : Keeps s s.ciTake := by simp [State.ciTake, Keeps]

@[simp] theorem State.rtcmUse_kept (s : State) (t : Nat) : Keeps s (s.rtcmUse t) := by simp [State.rtcmUse, Keeps]

@[simp] theorem State.setRtcm_kept (s : State) (src : Nat) (l : List Byte) : Keeps s (s.setRtcm src l) := by simp [State.setRtcm, Keeps]

@[simp] theorem State.setInd_kept (s : State) (bit : Nat) (on : Bool) : Keeps s (s.setInd bit on) := by simp [State.setInd, Keeps]

@[simp] theorem State.look_kept (s : State) (bit need : Nat) (cond : Bool) : Keeps s (s.look bit need cond) := by
  simp [State.look, Keeps]

@[simp] theorem State.survey_kept (s : State) (x : NavIn) : Keeps s (s.survey x) := by simp [State.survey, Keeps]

@[simp] theorem State.surveyEnd_kept (s : State) : Keeps s s.surveyEnd := by
  unfold State.surveyEnd
  split <;> simp [Keeps]

@[simp] theorem State.solMeas_kept (s : State) : Keeps s s.solMeas := by simp [State.solMeas, Keeps]

@[simp] theorem State.solution_kept (s : State) (x0 : NavIn) (torn : Bool) : Keeps s (s.solution x0 torn) := by
  simp [State.solution, Keeps]

@[simp] theorem State.navBoundary_kept (s : State) (x : Option NavIn) (torn : Bool) : Keeps s (s.navBoundary x torn) := by
  unfold State.navBoundary
  split <;> simp [Keeps]

@[simp] theorem State.calBoundary_kept (s : State) : Keeps s s.calBoundary := by simp [State.calBoundary, Keeps]

@[simp] theorem State.learnBias_kept (s : State) (los : List (Nat × Int × Int × Int)) (g : Nat) : Keeps s (s.learnBias los g) := by
  simp [State.learnBias, Keeps]

@[simp] theorem appliedNav_kept (old s : State) : Keeps s (appliedNav old s) := by simp [appliedNav, Keeps]

@[simp] theorem State.modAuth_kept (s : State) (f : Auth → Auth) : Keeps s (s.modAuth f) := ⟨rfl, rfl⟩

@[simp] theorem State.setSat_kept (s : State) (prn : Nat) (a : SatAuth) : Keeps s (s.setSat prn a) := ⟨rfl, rfl⟩

@[simp] theorem State.satFail_kept (s : State) (prn adkd : Nat) : Keeps s (s.satFail prn adkd) := by simp [State.satFail, Keeps]

@[simp] theorem State.tag_kept (s : State) (prn adkd bits : Nat) (ok : Bool) : Keeps s (s.tag prn adkd bits ok) := by
  simp [State.tag, Keeps]

@[simp] theorem State.tagIn_kept (s : State) (t : TagIn) : Keeps s (s.tagIn t) := by simp [State.tagIn, Keeps]

@[simp] theorem State.keptTags_kept (s : State) : Keeps s s.keptTags := by simp [State.keptTags, Keeps]

@[simp] theorem State.inavApply_kept (s : State) (x : InavIn) : Keeps s (s.inavApply x) := by
  unfold State.inavApply
  repeat' split
  all_goals simp [Keeps]

@[simp] theorem appliedAuth_kept (old s : State) : Keeps s (appliedAuth old s) := by simp [appliedAuth, Keeps]

/-! ### Ethernet and PTP -/

@[simp] theorem State.modPort_kept (s : State) (n : Nat) (f : EthPort → EthPort) : Keeps s (s.modPort n f) := ⟨rfl, rfl⟩

@[simp] theorem State.modPtp_kept (s : State) (f : PtpInst → PtpInst) : Keeps s (s.modPtp f) := ⟨rfl, rfl⟩

@[simp] theorem State.setPs_kept (s : State) (n ps : Nat) : Keeps s (s.setPs n ps) := by simp [State.setPs, Keeps]

@[simp] theorem State.dropExch_kept (s : State) (n : Nat) : Keeps s (s.dropExch n) := ⟨rfl, rfl⟩

@[simp] theorem State.sendPtp_kept (s : State) (n typ seq : Nat) (f : List Int) : Keeps s (s.sendPtp n typ seq f) := ⟨rfl, rfl⟩

@[simp] theorem State.sendRequest_kept (s : State) (n who typ : Nat) (l : Int) : Keeps s (s.sendRequest n who typ l) := by
  simp [State.sendRequest, Keeps]

@[simp] theorem State.askGrant_kept (s : State) (n who typ : Nat) (l : Int) : Keeps s (s.askGrant n who typ l) := by
  simp [State.askGrant, Keeps]

@[simp] theorem State.toListening_kept (s : State) (n : Nat) : Keeps s (s.toListening n) := by simp [State.toListening, Keeps]

@[simp] theorem State.linkDrop_kept (s : State) (n : Nat) : Keeps s (s.linkDrop n) := by simp [State.linkDrop, Keeps]

@[simp] theorem State.toMaster_kept (s : State) (n : Nat) (now_ : Bool) : Keeps s (s.toMaster n now_) := by simp [State.toMaster, Keeps]

@[simp] theorem State.toSlave_kept (s : State) (n : Nat) (f : Foreign) : Keeps s (s.toSlave n f) := by simp [State.toSlave, Keeps]

@[simp] theorem State.bmcaPort_kept (s : State) (n : Nat) (late : Bool) : Keeps s (s.bmcaPort n late) := by
  simp only [State.bmcaPort]
  repeat' split
  all_goals simp [Keeps]

@[simp] theorem State.ptpEval_kept (s : State) : Keeps s s.ptpEval := by simp [State.ptpEval, Keeps]

@[simp] theorem State.bmca_kept (s : State) : Keeps s s.bmca := by simp [State.bmca, Keeps]

@[simp] theorem State.hqPut_kept (s : State) (loc : Bool) (base i : Nat) (l : List Byte) : Keeps s (s.hqPut loc base i l) := by
  induction l generalizing s i with
  | nil => exact ⟨rfl, rfl⟩
  | cons b l ih => simp [State.hqPut, Keeps, ih]

@[simp] theorem State.hqRx_kept (s : State) (n : Nat) (t : Rat) (l : List Byte) : Keeps s (s.hqRx n t l) := by simp [State.hqRx, Keeps]

/-- What a port's meaning of a message answers, where it takes the message. -/
def KeepsSome (s : State) (o : Option State) : Prop := ∀ t, o = some t → Keeps s t

@[simp] theorem keepsSome_none (s : State) : KeepsSome s none := by simp [KeepsSome]
@[simp] theorem keepsSome_some {s t : State} : KeepsSome s (some t) ↔ Keeps s t := by simp [KeepsSome]

@[simp] theorem State.ptpTake_kept {s : State} {n : Nat} {h : PtpHdr} {f : State → Rat → Option State}
    (hf : ∀ u t, KeepsSome u (f u t)) : Keeps s (s.ptpTake n h f) := by
  simp only [State.ptpTake]
  repeat' split
  case h_1 => next h => exact (s.after_kept _).trans (hf _ _ _ h)
  all_goals simp [Keeps]

@[simp] theorem State.addPath_kept (s : State) (n : Nat) (x : Rat) : Keeps s (s.addPath n x) := ⟨rfl, rfl⟩

@[simp] theorem State.exchange_kept (s : State) (n : Nat) (t21 mpd : Rat) (same : Bool) : Keeps s (s.exchange n t21 mpd same) := by
  simp [State.exchange, Keeps]

@[simp] theorem State.syncDone_kept (s : State) (n : Nat) : Keeps s (s.syncDone n) := by
  simp only [State.syncDone]
  split <;> simp [Keeps]

@[simp] theorem State.peerDone_kept (s : State) (n : Nat) (q : ReqTx) (t4 turn : Rat) : Keeps s (s.peerDone n q t4 turn) := by
  simp [State.peerDone, Keeps]

@[simp] theorem State.served_kept (s : State) (n who typ : Nat) (f : EthPort → EthPort) : Keeps s (s.served n who typ f) := ⟨rfl, rfl⟩

@[simp] theorem State.loseGrant_kept (s : State) (n who typ : Nat) : Keeps s (s.loseGrant n who typ) := by simp [State.loseGrant, Keeps]

@[simp] theorem State.modMine_kept (s : State) (n who typ : Nat) (f : Grant → Grant) : Keeps s (s.modMine n who typ f) := ⟨rfl, rfl⟩

@[simp] theorem State.ethBoundary_kept (s : State) (utc : Option (Int × Bool × Bool)) : Keeps s (s.ethBoundary utc) := by
  unfold State.ethBoundary
  split <;> simp [Keeps]

@[simp] theorem appliedEth_kept (old : State) (p : Nat) (s : State) : Keeps s (appliedEth old p s) := by simp [appliedEth, Keeps]

@[simp] theorem resetEth_kept (s : State) (p : Nat) : Keeps s (resetEth s p) := by simp [resetEth, Keeps]

/-! ### The host port -/

@[simp] theorem State.modHost_kept (s : State) (f : HostSt → HostSt) : Keeps s (s.modHost f) := ⟨rfl, rfl⟩

@[simp] theorem State.clearRuns_kept (s : State) : Keeps s s.clearRuns := by simp [State.clearRuns, Keeps]

@[simp] theorem State.msixReset_kept (s : State) : Keeps s s.msixReset := ⟨rfl, rfl⟩

@[simp] theorem State.hostIsland_kept (s : State) : Keeps s s.hostIsland := by simp [State.hostIsland, Keeps]

@[simp] theorem State.hostBoundary_kept (s : State) : Keeps s s.hostBoundary := ⟨rfl, rfl⟩

@[simp] theorem State.exStage_kept (s : State) (hi : Bool) (v : Word) : Keeps s (s.exStage hi v) := ⟨rfl, rfl⟩

@[simp] theorem State.exWrite_kept (s : State) (w : Nat) (v : Word) : Keeps s (s.exWrite w v) := by simp [State.exWrite, Keeps]

@[simp] theorem State.exLatch_kept (s : State) (w d : Nat) : Keeps s (s.exLatch w d) := by simp [State.exLatch, Keeps]

@[simp] theorem State.exDword_kept (s : State) (w d : Nat) (v : Word) : Keeps s (s.exDword w d v) := by simp [State.exDword, Keeps]

@[simp] theorem takenHost_kept (off : Nat) (v : Word) (s : State) : Keeps s (takenHost off v s) := by simp [takenHost, Keeps]

/-! ### Power, clocks and sensors -/

@[simp] theorem State.modAssay_kept (s : State) (f : AssaySt → AssaySt) : Keeps s (s.modAssay f) := ⟨rfl, rfl⟩

@[simp] theorem State.clockWindow_kept (s : State) (bit : Nat) (ppm : Int) : Keeps s (s.clockWindow bit ppm) := by
  simp [State.clockWindow, Keeps]

@[simp] theorem State.modTemper_kept (s : State) (i : Nat) (f : Temper → Temper) : Keeps s (s.modTemper i f) := ⟨rfl, rfl⟩

@[simp] theorem State.temperHeat_kept (s : State) (l : List TemperIn) : Keeps s (s.temperHeat l) := by simp [State.temperHeat, Keeps]

@[simp] theorem State.avsSend_kept (s : State) (mv : Nat) : Keeps s (s.avsSend mv) := ⟨rfl, rfl⟩

@[simp] theorem State.setpoint_kept (s : State) (reqs : List Int) : Keeps s (s.setpoint reqs) := by simp [State.setpoint, Keeps]

@[simp] theorem State.supplyClear_kept (s : State) : Keeps s s.supplyClear := by simp [State.supplyClear, Keeps]

@[simp] theorem State.sensed_kept (s : State) (i : Nat) (x : Sensor) : Keeps s (s.sensed i x) := by simp [State.sensed, Keeps]

@[simp] theorem State.tempSample_kept (s : State) (k : Nat) (v : Int) : Keeps s (s.tempSample k v) := by simp [State.tempSample, Keeps]

@[simp] theorem State.voltSample_kept (s : State) (k : Nat) (v : Int) : Keeps s (s.voltSample k v) := by simp [State.voltSample, Keeps]

@[simp] theorem State.thermalClear_kept (s : State) : Keeps s s.thermalClear := by simp [State.thermalClear, Keeps]

@[simp] theorem takenSens_kept (off : Nat) (v : Word) (s : State) : Keeps s (takenSens off v s) := by simp [takenSens, Keeps]

@[simp] theorem State.tornRecord_kept (s : State) (a : Nat) : Keeps s (s.tornRecord a) := by
  unfold State.tornRecord
  split <;> simp [Keeps]

@[simp] theorem State.tornOwner_kept (s : State) (mem a : Nat) : Keeps s (s.tornOwner mem a) := by
  unfold State.tornOwner
  repeat' split
  all_goals simp [Keeps]

@[simp] theorem State.putMemWord_kept (s : State) (mem a v : Nat) : Keeps s (s.putMemWord mem a v) := by simp [State.putMemWord, Keeps]

/-! ### The Assay: flash, log, backup -/

@[simp] theorem State.flErase_kept (s : State) (a n : Nat) : Keeps s (s.flErase a n) := ⟨rfl, rfl⟩

@[simp] theorem State.flProgram_kept (s : State) (a : Nat) (l : List Byte) : Keeps s (s.flProgram a l) := by
  induction l generalizing s a with
  | nil => exact ⟨rfl, rfl⟩
  | cons b l ih => simp [State.flProgram, Keeps, ih]

@[simp] theorem State.modLog_kept (s : State) (f : LogSt → LogSt) : Keeps s (s.modLog f) := ⟨rfl, rfl⟩

@[simp] theorem State.logToFlash_kept (s : State) (j : Nat) : Keeps s (s.logToFlash j) := by simp [State.logToFlash, Keeps]

@[simp] theorem State.mirror_kept (s : State) (n : Nat) : Keeps s (s.mirror n) := by simp [State.mirror, Keeps]

@[simp] theorem State.refillLog_kept (s : State) : Keeps s s.refillLog := ⟨rfl, rfl⟩

@[simp] theorem State.logPost_kept (s : State) (v : Word) : Keeps s (s.logPost v) := by simp [State.logPost, Keeps]

@[simp] theorem State.modBk_kept (s : State) (f : Backup → Backup) : Keeps s (s.modBk f) := ⟨rfl, rfl⟩

@[simp] theorem State.setRet_kept (s : State) (r : Nat) (v : Row) : Keeps s (s.setRet r v) := ⟨rfl, rfl⟩

@[simp] theorem State.retain_kept (s : State) (r : Nat) (v : Row) : Keeps s (s.retain r v) := by simp [State.retain, Keeps]

@[simp] theorem State.backupLost_kept (s : State) : Keeps s s.backupLost := by simp [State.backupLost, Keeps]

@[simp] theorem takenBkup_kept (off : Nat) (v : Word) (s : State) : Keeps s (takenBkup off v s) := by simp [takenBkup, Keeps]

@[simp] theorem State.putExBytes_kept (s : State) (a i : Nat) (l : List Byte) : Keeps s (s.putExBytes a i l) := by
  induction l generalizing s i with
  | nil => exact ⟨rfl, rfl⟩
  | cons b l ih => simp [State.putExBytes, Keeps, ih]

@[simp] theorem takenAssay_kept (off : Nat) (v : Word) (s : State) : Keeps s (takenAssay off v s) := by simp [takenAssay, Keeps]

@[simp] theorem State.restartM_kept (s : State) : Keeps s s.restartM := ⟨rfl, rfl⟩

/-! ### Updates and recovery sessions -/

@[simp] theorem State.modUpd_kept (s : State) (f : Upd → Upd) : Keeps s (s.modUpd f) := ⟨rfl, rfl⟩

@[simp] theorem State.takeBcb_kept (s : State) (b : Option (Nat × Nat × Nat × Nat × Nat)) : Keeps s (s.takeBcb b) := by
  unfold State.takeBcb
  split <;> simp [Keeps]

@[simp] theorem State.readBcb_kept (s : State) : Keeps s s.readBcb := by simp [State.readBcb, Keeps]

@[simp] theorem State.writeBcb_kept (s : State) (active : Nat) (trial : Option Nat) (tried : Bool) :
    Keeps s (s.writeBcb active trial tried) := by
  simp [State.writeBcb, Keeps]

@[simp] theorem State.setSlot_kept (s : State) (n : Nat) (x : SlotInfo) : Keeps s (s.setSlot n x) := ⟨rfl, rfl⟩

@[simp] theorem State.loadUnit_kept (s : State) (t i v : Nat) : Keeps s (s.loadUnit t i v) := by simp [State.loadUnit, Keeps]

@[simp] theorem State.loadSeg_kept (s : State) (base : Nat) (g : Seg) : Keeps s (s.loadSeg base g) := by
  unfold State.loadSeg
  split <;> simp [Keeps]

@[simp] theorem State.loadImage_kept (s : State) (slot : Nat) (want : Nat → Bool) : Keeps s (s.loadImage slot want) := by
  simp [State.loadImage, Keeps]

@[simp] theorem State.spoilSlot_kept (s : State) (n : Nat) : Keeps s (s.spoilSlot n) := ⟨rfl, rfl⟩

@[simp] theorem State.sesSend_kept (s : State) (l : List Byte) : Keeps s (s.sesSend l) := by simp [State.sesSend, Keeps]

@[simp] theorem State.sesAnswer_kept (s : State) (typ seq : Nat) (payload : List Byte) : Keeps s (s.sesAnswer typ seq payload) := by
  simp [State.sesAnswer, Keeps]

@[simp] theorem State.updEnd_kept (s : State) (op code : Nat) (st : UpdSt) : Keeps s (s.updEnd op code st) := by
  simp only [State.updEnd]
  split <;> simp [Keeps]

@[simp] theorem State.updCmd_kept (s : State) (op : Nat) (uart : Bool) (len off : Nat) (bytes : List Byte) :
    Keeps s (s.updCmd op uart len off bytes) := by
  simp [State.updCmd, Keeps]

@[simp] theorem State.blow_pending (s : State) (m : BitVec 4096) : (s.blow m).pending = s.pending := rfl

@[simp] theorem State.sesTake_kept {s : State} {dt typ seq : Nat} {payload : List Byte} {crc : Word} {f : State → State}
    (hf : ∀ u, Keeps u (f u)) : Keeps s (s.sesTake dt typ seq payload crc f) := by
  simp [State.sesTake, Keeps, hf]

@[simp] theorem State.sesOp_kept (s : State) (typ seq op len off : Nat) (bytes : List Byte) :
    Keeps s (s.sesOp typ seq op len off bytes) := by
  simp [State.sesOp, Keeps]

@[simp] theorem takenUpd_kept (off : Nat) (v : Word) (s : State) : Keeps s (takenUpd off v s) := by simp [takenUpd, Keeps]

/-! ### Resets, boot, quench and recovery -/

@[simp] theorem State.malithReset_kept (s : State) (cause : Nat) : Keeps s (s.malithReset cause) := ⟨rfl, rfl⟩

@[simp] theorem State.rails_kept (s : State) (mv : List Nat) : Keeps s (s.rails mv) := ⟨rfl, rfl⟩

@[simp] theorem State.retainSolution_kept (s : State) : Keeps s s.retainSolution := by simp [State.retainSolution, Keeps]

@[simp] theorem State.triedImages_kept (s : State) (first c d : Nat) : Keeps s (s.triedImages first c d).2 := by
  simp only [State.triedImages]
  repeat' split
  all_goals simp [Keeps]

@[simp] theorem State.tryImages_kept (s : State) (first : Nat) : Keeps s (s.tryImages first).2 := s.triedImages_kept ..

@[simp] theorem State.noImage_kept (s : State) : Keeps s s.noImage := by simp [State.noImage, Keeps]

@[simp] theorem bootImage_kept (trial : Option Nat) (r : Option Nat × State) : Keeps r.2 (bootImage trial r) := by
  obtain ⟨_ | i, s⟩ := r <;> simp [bootImage, Keeps]

@[simp] theorem State.chooseSlot_kept (s : State) : Keeps s s.chooseSlot := by
  simp only [State.chooseSlot]
  refine Keeps.trans ?_ (bootImage_kept ..)
  refine Keeps.trans ?_ (State.tryImages_kept ..)
  repeat' split
  all_goals simp [Keeps]

@[simp] theorem State.annealProgram_kept (s : State) : Keeps s s.annealProgram := by simp [State.annealProgram, Keeps]

@[simp] theorem State.annealStart_kept (s : State) : Keeps s s.annealStart := by simp [State.annealStart, Keeps]

@[simp] theorem State.loadRest_kept (s : State) : Keeps s s.loadRest := by
  unfold State.loadRest
  split <;> simp [Keeps]

@[simp] theorem retryImage_kept (now : Nat) (r : Option Nat × State) : Keeps r.2 (retryImage now r) := by
  obtain ⟨_ | i, s⟩ := r <;> simp [retryImage, Keeps]

@[simp] theorem State.handChan_kept (s : State) (i : Nat) : Keeps s (s.handChan i) := by simp [State.handChan, Keeps]

@[simp] theorem State.systemNmea_kept (s : State) (text : List Byte) : Keeps s (s.systemNmea text) := by simp [State.systemNmea, Keeps]

@[simp] theorem State.finalise_kept (s : State) : Keeps s s.finalise := by simp [State.finalise, Keeps]

@[simp] theorem State.quenchStop_kept (s : State) : Keeps s s.quenchStop := by simp [State.quenchStop, Keeps]

@[simp] theorem State.quenchBoundary_kept (s : State) : Keeps s s.quenchBoundary := by simp [State.quenchBoundary, Keeps]

@[simp] theorem State.reloadCores_kept (s : State) : Keeps s s.reloadCores.2 := by
  unfold State.reloadCores
  repeat' split
  all_goals simp [Keeps]

@[simp] theorem State.sweep_kept (s : State) : Keeps s s.sweep := ⟨rfl, rfl⟩

@[simp] theorem State.dropObject_kept (s : State) (i : Nat) : Keeps s (s.dropObject i) := by simp [State.dropObject, Keeps]

@[simp] theorem State.freeDying_kept (s : State) : Keeps s s.freeDying := by simp [State.freeDying, Keeps]

@[simp] theorem State.quenchCompletions_kept (s : State) : Keeps s s.quenchCompletions := by simp [State.quenchCompletions, Keeps]

@[simp] theorem takenFault_kept (off : Nat) (v : Word) (s : State) : Keeps s (takenFault off v s) := by simp [takenFault, Keeps]

/-! ### Intake of commands -/

@[simp] theorem versionSelect_kept (s : State) (e : JEntry) : Keeps s (versionSelect s e) := by
  unfold versionSelect
  split <;> simp [Keeps]

@[simp] theorem ledgerQuery_kept (s : State) (e : JEntry) : Keeps s (ledgerQuery s e) := by
  simp only [ledgerQuery]
  split <;> simp [Keeps]

@[simp] theorem handleQuery_kept (s : State) (e : JEntry) : Keeps s (handleQuery s e) := by
  unfold handleQuery
  split <;> simp [Keeps]

@[simp] theorem stepEnd_kept (s : State) (e : JEntry) : Keeps s (stepEnd s e) := by
  unfold stepEnd
  split <;> simp [Keeps]

@[simp] theorem firstStep_kept (s : State) (e : JEntry) : Keeps s (firstStep s e) := by simp [firstStep, Keeps]

@[simp] theorem State.answer_kept (s : State) (e : JEntry) (status detail : Nat) : Keeps s (s.answer e status detail) := by
  simp [State.answer, Keeps]

@[simp] theorem startCmd_kept (s : State) (e0 : JEntry) : Keeps s (startCmd s e0) := by
  simp only [startCmd]
  repeat' split
  all_goals simp [Keeps]

@[simp] theorem State.enter_kept (s : State) (e : JEntry) : Keeps s (s.enter e) := by simp [State.enter, Keeps]

@[simp] theorem State.takeRecord_kept (s : State) (ws : List Word) : Keeps s (s.takeRecord ws) := by
  simp only [State.takeRecord]
  repeat' split
  all_goals simp [Keeps]

@[simp] theorem State.takeOne_kept (s : State) : Keeps s s.takeOne := by simp [State.takeOne, Keeps]

@[simp] theorem State.intakeN_kept (fuel : Nat) (s : State) : Keeps s (s.intakeN fuel) := by
  induction fuel generalizing s with
  | zero => exact ⟨rfl, rfl⟩
  | succ n ih =>
    simp only [State.intakeN]
    split <;> simp [Keeps, ih]

@[simp] theorem State.intake_kept (s : State) : Keeps s s.intake := by simp [State.intake, Keeps]

@[simp] theorem State.flightBoundary_kept (s : State) (e : JEntry) : Keeps s (s.flightBoundary e) := by
  simp [State.flightBoundary, Keeps]

@[simp] theorem State.flightsBoundary_kept (s : State) : Keeps s s.flightsBoundary := by simp [State.flightsBoundary, Keeps]

@[simp] theorem takenCmd_kept (off : Nat) (s : State) : Keeps s (takenCmd off s) := by simp [takenCmd, Keeps]

@[simp] theorem refusedCmd_kept (off : Nat) (s : State) : Keeps s (refusedCmd off s) := by simp [refusedCmd, Keeps]

/-! ### The window of the host -/

@[simp] theorem takenDev_kept (off : Nat) (v : Word) (s : State) : Keeps s (takenDev off v s) := by simp [takenDev, Keeps]

@[simp] theorem takenHeat_kept (off : Nat) (v : Word) (s : State) : Keeps s (takenHeat off v s) := by simp [takenHeat, Keeps]

@[simp] theorem takenCruc0_kept (off : Nat) (v : Word) (s : State) : Keeps s (takenCruc0 off v s) := by simp [takenCruc0, Keeps]

@[simp] theorem State.keepLoc_kept (s : State) (p off : Nat) : Keeps s (s.keepLoc p off) := by simp [State.keepLoc, Keeps]

@[simp] theorem winTaken_kept (_old : State) (p off : Nat) (v : Word) (s0 : State) : Keeps s0 (winTaken _old p off v s0) := by
  unfold winTaken
  split <;> simp [Keeps]

@[simp] theorem winRefused_kept (s : State) (p off : Nat) (_v : Word) (_code : Nat) : Keeps s (winRefused s p off _v _code) := by
  simp [winRefused, Keeps]

@[simp] theorem winApplied_kept (old : State) (p : Nat) (s : State) : Keeps s (winApplied old p s) := by
  unfold winApplied
  split <;> simp [Keeps]

@[simp] theorem winReset_kept (s : State) (p : Nat) : Keeps s (winReset s p) := by
  unfold winReset
  split <;> simp [Keeps]

@[simp] theorem hooks_kept : hooks.Keeps where
  taken := winTaken_kept
  refused := winRefused_kept
  applied s p t := winApplied_kept s p t
  reset := winReset_kept

@[simp] theorem State.hostWrite_kept (s : State) (a : Nat) (v : Word) (be : Bool) : Keeps s (s.hostWrite a v be) := by
  simp [State.hostWrite, Keeps]

/-! ### The heat boundary -/

@[simp] theorem State.nextHeat_kept (s : State) : Keeps s s.nextHeat := ⟨rfl, rfl⟩

@[simp] theorem State.shiftInstants_kept (s : State) (off : Int) : Keeps s (s.shiftInstants off) := ⟨rfl, rfl⟩

@[simp] theorem State.alignHeat_kept (s : State) : Keeps s s.alignHeat.2 := by
  have hr : Keeps s (if s.running then s.corrAtBoundary else (false, s)).2 := by split <;> simp [Keeps]
  simp only [State.alignHeat]
  generalize (if s.running then s.corrAtBoundary else (false, s)) = r at hr ⊢
  split <;> simpa [Keeps] using hr

@[simp] theorem State.paceAll_kept (s : State) : Keeps s s.paceAll := by simp [State.paceAll, Keeps]

@[simp] theorem State.endStreams_kept (s : State) : Keeps s s.endStreams := by simp [State.endStreams, Keeps]

@[simp] theorem State.endWork_kept (s : State) (ovr : List Nat) (b : Nat) : Keeps s (s.endWork ovr b) := by simp [State.endWork, Keeps]

@[simp] theorem State.endBillets_kept (s : State) (h : HeatIn) (ids : List Nat) (torn : Bool) : Keeps s (s.endBillets h ids torn) := by
  simp [State.endBillets, Keeps]

@[simp] theorem State.tornRecords_kept (s : State) : Keeps s s.tornRecords := by simp [State.tornRecords, Keeps]

@[simp] theorem State.endMeas_kept (s : State) (h : HeatIn) (torn ret : Bool) (ms : Nat) : Keeps s (s.endMeas h torn ret ms) := by
  simp [State.endMeas, Keeps]

@[simp] theorem State.startHeat_kept (s : State) (h : HeatIn) : Keeps s (s.startHeat h) := by simp [State.startHeat, Keeps]

@[simp] theorem State.overrunsAt_kept (s : State) (next : List Nat) : Keeps s (s.overrunsAt next) := by simp [State.overrunsAt, Keeps]

@[simp] theorem State.toggleAlive_kept (s : State) : Keeps s s.toggleAlive := ⟨rfl, rfl⟩

@[simp] theorem State.restBoundary_kept (s : State) (h : HeatIn) : Keeps s (s.restBoundary h) := by simp [State.restBoundary, Keeps]

/-! ### Accesses of the host -/

@[simp] theorem State.hostStores_kept (s : State) (l : List (BitVec 64 × Word)) : Keeps s (s.hostStores l) := by
  simp [State.hostStores, Keeps]

/-- A meaning that answers a next state answers one with the queue and the fuses of the state before. -/
def KeepsOut (s : State) (o : Out) : Prop := ∀ t, o = .next t → Keeps s t

@[simp] theorem keepsOut_next {s t : State} : KeepsOut s (.next t) ↔ Keeps s t := by simp [KeepsOut]

theorem KeepsOut.ite {p : Prop} [Decidable p] {s : State} {a b : Out} (ha : KeepsOut s a) (hb : KeepsOut s b) :
    KeepsOut s (if p then a else b) := by
  split
  · exact ha
  · exact hb

theorem KeepsOut.readRow {s : State} {v : Word} {f : State → State} (h : Keeps s (f s)) : KeepsOut s (.next (s.readRow v f)) :=
  keepsOut_next.2 h.readRow

theorem afterRead_kept {o : Out} {s : State} (h : KeepsOut s o) : Keeps s (afterRead o s) := by
  cases o with
  | next t => exact h t rfl
  | _ => exact ⟨rfl, rfl⟩

theorem State.readWord_kept (s : State) (a : Nat) : Keeps s (s.readWord a) := by
  have hr {o : Out} : KeepsOut s o → Keeps s (afterRead o s) := afterRead_kept
  unfold State.readWord
  refine .ite (hr ?_) <| .ite (hr ?_) <| .ite (hr ?_) <| .ite (hr ?_) <| .ite (hr ?_) <| .ite (hr ?_) <| .ite (hr ?_) <|
    .ite (hr ?_) <| .ite (hr ?_) <| .ite (hr ?_) ⟨rfl, rfl⟩
  all_goals refine .readRow ?_
  case refine_5 => exact s.latchNow_kept
  case refine_6 => exact s.latchStep_kept
  case refine_8 => exact s.rxPop_kept _
  all_goals simp [Keeps]

@[simp] theorem State.spiReadWord_kept (s : State) (xw : Bool) (a : Nat) : Keeps s (s.spiReadWord xw a) := by
  refine Keeps.trans ?_ (State.emit_kept ..)
  exact .ite (afterRead_kept (.readRow (State.exLatch_kept ..))) (s.readWord_kept a)

@[simp] theorem State.spiReads_kept (s : State) (xw : Bool) (a n : Nat) : Keeps s (s.spiReads xw a n) := by
  induction n generalizing s a with
  | zero => exact ⟨rfl, rfl⟩
  | succ n ih => simp [State.spiReads, Keeps, ih]

@[simp] theorem State.spiWriteWord_kept (s : State) (xw : Bool) (a : Nat) (w : SpiWord) : Keeps s (s.spiWriteWord xw a w) := by
  simp [State.spiWriteWord, Keeps]

@[simp] theorem State.spiWrites_kept (s : State) (xw : Bool) (a : Nat) (l : List SpiWord) : Keeps s (s.spiWrites xw a l) := by
  induction l generalizing s a with
  | nil => exact ⟨rfl, rfl⟩
  | cons w l ih => simp [State.spiWrites, Keeps, ih]

@[simp] theorem State.submit_kept (s : State) (op : Nat) (f : CmdFields) : Keeps s (s.submit op f) := by simp [State.submit, Keeps]

/-! ### Every command keeps the queue -/

/-- The commands whose end may blow a fuse: an operation on the flash, and the first healthy boot of an image. -/
def mayBlow : Instr → Bool
  | .updDone _ _ | .healthy _ => true
  | _ => false

theorem State.makeChan_kept_of {s : State} {prm : ChanPrm} {cls : Nat} {host : Bool} {seq : Word} {r : Nat × Option Nat × State}
    (h : s.makeChan prm cls host seq = r) : Keeps s r.2.2 := h ▸ s.makeChan_kept ..

theorem execGrantLapse_kept (port : Fin 4) (dt who typ : Nat) (asMaster : Bool) (s : State) :
    KeepsOut s (execGrantLapse port dt who typ asMaster s) := by
  simp only [execGrantLapse, keepsOut_next]
  repeat' split
  all_goals simp [Keeps]

theorem execDmaFault_kept (ring : Fin 16) (slot : Fin 64) (kind : Fin 4) (address : BitVec 64) (s : State) :
    KeepsOut s (execDmaFault ring slot kind address s) := by
  simp only [execDmaFault, keepsOut_next]
  repeat' split
  all_goals simp [Keeps]

theorem execAvsAck_kept (vout : Fin 1024) (iout : Fin 256) (s : State) : KeepsOut s (execAvsAck vout iout s) := by
  unfold execAvsAck
  split <;> simp [Keeps]

/-- Every other command keeps the fuses as well as the queue. Most meanings are one operation, or a choice among a few by `if`; the
rest are bodies of an issue on a core, messages that a port takes, and choices by `match`. -/
theorem exec_kept {c : Instr} (hc : mayBlow c = false) (s : State) : KeepsOut s (exec c s) := by
  cases c with
  | updDone | healthy => cases hc
  | mov | add | sub | and | or | xor | not | neg | negs | shl | shr | sar | rol | clz | swaph | mova | movda | movlc | movdlc | movi
  | addi | andi | ori | xori | shli | shri | sari | roli | adds | subs | andn | mul | mulu | maxi | mini | addc | subc | bfext
  | bfexts | bfins | bperm | movb | movbd | bset | bclr | nop | lea | seta | addar | movsd | clra | mvad | mvda | setsh | setam
  | illegalInstruction => exact keepsOut_next.2 (s.issueC_kept ..)
  | mac | msu | mpy => exact keepsOut_next.2 (macReal_kept ..)
  | cmac | cmacj | cmpy => exact keepsOut_next.2 (macCplx_kept ..)
  | beqz | bnez | bltz | bgez | bgtz | blez => exact keepsOut_next.2 (branchZ_kept ..)
  | beq | bne | blt | bge | bltu | bgeu => exact keepsOut_next.2 (branch2_kept ..)
  | bra | bbs | bbc | jmp => exact keepsOut_next.2 (branchIf_kept ..)
  | call | callr => exact keepsOut_next.2 (callTo_kept ..)
  | rep | repn => exact keepsOut_next.2 (repeatOf_kept ..)
  | div | divs | divu => exact keepsOut_next.2 (State.issue_kept fun t => divEnd_kept ..)
  | st | segst => exact keepsOut_next.2 (State.issue_kept fun t => effOf_kept (t.storeVia_kept ..))
  | push | pusha => exact keepsOut_next.2 (State.issue_kept fun t => effOf_kept (t.pushWord_kept ..))
  | movds => exact keepsOut_next.2 (State.issue_kept fun t => .ite trivial (loadSeg_kept ..))
  | dbnz | jmpr | trap => exact keepsOut_next.2 (State.issue_kept fun t => ⟨rfl, rfl⟩)
  | halt => exact keepsOut_next.2 (State.issue_kept fun t => t.haltCore_kept ..)
  | wait => exact keepsOut_next.2 (State.issue_kept fun t => Machine.Keeps.ite ⟨rfl, rfl⟩ (t.modCore_kept ..))
  | ld =>
    refine keepsOut_next.2 (State.issue_kept fun t => ?_)
    split
    · trivial
    next h => exact ((t.loadVia_kept ..).of_eq h).trans (State.modCore_kept ..)
  | popDn k | popa k | reti k =>
    refine keepsOut_next.2 (State.issue_kept fun t => ?_)
    split
    · trivial
    next h => exact ((t.popWord_kept k).of_eq h).trans (State.modCore_kept ..)
  | ret k =>
    refine keepsOut_next.2 (State.issue_kept fun t => ?_)
    split
    · trivial
    next h => exact (t.popWord_kept k).of_eq h
  | segld =>
    refine keepsOut_next.2 (State.issue_kept fun t => .ite trivial ?_)
    split
    · trivial
    next h => exact Eff.Keeps.trans ((t.loadVia_kept ..).of_eq h) (loadSeg_kept ..)
  | stsc =>
    refine keepsOut_next.2 (State.issue_kept fun t => ?_)
    dsimp only
    split
    · trivial
    next h => exact ((t.storeVia_kept ..).of_eq h).trans (Machine.Keeps.ite (State.modCore_kept ..) ⟨rfl, rfl⟩)
  | registerWrite | srst | lock | selected | arm | discard | groupCommit | pgIrqPnd | pgErrCode | clr | irqEoi | cqHead | run | calCtl
  | rawCtl | rrHead | snapHwm | subsHead | pop | rxqHead | doorbell | loadHi | segSel | segW2 | cycHwm | txdata | post | begin | write
  | finish | abort | revokeKey0 | reepochArm | retHi | reset | quench | recover => exact keepsOut_next.2 (s.hostWrite_kept ..)
  | sqTail | ciTail | txqTail => exact keepsOut_next.2 ((s.hostStores_kept _).trans (State.hostWrite_kept ..))
  | versionSelect | ledgerQuery | handleQuery | chCreate | chModify | chDestroy | srchSubmit | srchCancel | injStart | injStop
  | toutSchedule | toutCancel | tinArm | tinDisarm | subscribe | unsubscribe | combCreate | combDestroy | timeStep | timeSlew
  | timeReepoch => exact keepsOut_next.2 (s.submit_kept ..)
  | nowSecLo | stepLo | rxdata | exchangeRead | schNextSec | stampSecLo | gapLo | cellsLo | data0 | rtcSecLo | heatLo =>
    refine keepsOut_next.2 (Keeps.readRow ?_)
    simp [Keeps]
  | hello | recoveryBegin | data | recoveryFinish | recoveryAbort | baud | resetFrame =>
    refine keepsOut_next.2 (State.sesTake_kept fun t => ?_)
    simp [Keeps]
  | sync | followUp | delayReq | pdelayReq | pdelayResp | pdelayRespFollowUp | requestUnicastTransmission
  | grantUnicastTransmission | cancelUnicastTransmission | acknowledgeCancelUnicastTransmission =>
    refine keepsOut_next.2 (State.ptpTake_kept fun t at_ => ?_)
    repeat' split
    all_goals simp [Keeps]
  | delayResp | announce =>
    refine keepsOut_next.2 (State.ptpTake_kept fun t at_ => ?_)
    dsimp only
    repeat' split
    all_goals simp [Keeps]
  | annealChannels =>
    refine keepsOut_next.2 (.ite ⟨rfl, rfl⟩ (Keeps.trans (Keeps.foldl (fun t x => ?_) _ s) ⟨rfl, rfl⟩))
    split
    next h => exact (State.makeChan_kept_of h).trans (State.modChan_kept ..)
    next h => exact State.makeChan_kept_of h
  | captureStart | aoaEvaluation => exact .ite (keepsOut_next.2 (by simp [Keeps])) (keepsOut_next.2 (by simp [Keeps]))
  | character | inavPage =>
    exact .ite (keepsOut_next.2 (by simp [Keeps])) (.ite (keepsOut_next.2 (by simp [Keeps])) (keepsOut_next.2 (by simp [Keeps])))
  | grantLapse => exact execGrantLapse_kept _ _ _ _ _ s
  | dmaFault => exact execDmaFault_kept _ _ _ _ s
  | avsAck => exact execAvsAck_kept _ _ s
  | lockTimeout =>
    refine keepsOut_next.2 ?_
    dsimp only
    repeat' split
    all_goals simp [Keeps]
  | interrupt | slewDone | pulseEnd | clockStop | transaction | feGainLoop | pendingLock | rtcmFrame | cryptoStall | syncInterval
  | announceInterval | grantRenewal | renewalRetry | msixMask | avsTimeout | scrubPass | cryptoAnswer | armedExpiry | baudApply
  | trialTimeout | slotRetry | handover | resetRelease =>
    refine keepsOut_next.2 ?_
    repeat' split
    all_goals simp [Keeps]
  | _ => exact keepsOut_next.2 (by simp [Keeps])

/-- The queue alone is as before: what remains of `Keeps` where a fuse blows. -/
def KeepsQueue (s t : State) : Prop := t.pending = s.pending

theorem Keeps.queue {s t : State} (h : Keeps s t) : KeepsQueue s t := h.1

theorem KeepsQueue.trans {s t u : State} (h : KeepsQueue s t) (g : KeepsQueue t u) : KeepsQueue s u := Eq.trans g h

theorem KeepsQueue.ite {p : Prop} [Decidable p] {s t u : State} (ht : KeepsQueue s t) (hu : KeepsQueue s u) :
    KeepsQueue s (if p then t else u) := by
  split
  · exact ht
  · exact hu

theorem State.blow_queue (s : State) (m : BitVec 4096) : KeepsQueue s (s.blow m) := rfl

theorem updDone_queue {dt : Nat} {ok : Bool} {s t : State} (h : exec (.updDone dt ok) s = .next t) : KeepsQueue s t := by
  cases h
  refine (s.after_kept dt).queue.trans ?_
  generalize s.after dt = u
  have hend {v : State} (hv : KeepsQueue u v) (op code : Nat) (st : UpdSt) : KeepsQueue u (v.updEnd op code st) :=
    hv.trans (v.updEnd_kept op code st).queue
  have hnow (op code : Nat) (st : UpdSt) : KeepsQueue u (u.updEnd op code st) := hend rfl op code st
  have hprog := (u.flProgram_kept (slotBase u.otherSlot + u.upd.offset) u.upd.bytes).queue
  have hstage := ((u.setSlot_kept u.otherSlot (u.slotInfo u.otherSlot)).trans
    (State.writeBcb_kept _ u.upd.active (some u.otherSlot) false)).queue
  exact .ite rfl <| .ite (hend (u.spoilSlot_kept _).queue ..) <|
    .ite (.ite (hend (u.blow_queue _) ..) (hnow ..)) <| .ite (hnow ..) <| .ite (hend (u.flErase_kept ..).queue ..) <|
    .ite (.ite (hend hprog ..) (hend hprog ..)) (.ite (hend hstage ..) (hnow ..))

theorem healthy_queue {dt : Nat} {s t : State} (h : exec (.healthy dt) s = .next t) : KeepsQueue s t := by
  cases h
  refine (s.after_kept dt).queue.trans ?_
  generalize s.after dt = u
  split
  · rfl
  · refine .ite rfl (.ite (KeepsQueue.trans ?_ ((State.blow_queue _ _).trans (State.logOwn_pending ..))) ?_)
    all_goals exact (State.logOwn_pending ..).trans ((State.raise_pending ..).trans (by simp))

/-- The commands that may blow a fuse keep the queue as well. -/
theorem exec_pending {c : Instr} {s t : State} (h : exec c s = .next t) : t.pending = s.pending := by
  cases hc : mayBlow c with
  | false => exact (exec_kept hc s t h).1
  | true =>
    cases c with
    | updDone dt ok => exact updDone_queue h
    | healthy dt => exact healthy_queue h
    | _ => cases hc

/-- Settles O17: this is how `step` is defined. -/
theorem stepRunsFront : Obligations.StepRunsFront := by
  intro s c rest hp
  unfold step
  rw [hp]

/-- Settles O21: the front command runs on the state with the queue's rest, and no command changes the queue. -/
theorem queueIsFifo : Obligations.QueueIsFifo := by
  intro s t c rest hp h
  rw [stepRunsFront s c rest hp] at h
  exact exec_pending h

end Sys2Proof.Machine

/-! ## The host port (rules R89, R498 to R500, R518) -/

namespace Sys2Proof.Machine

/-! ### Messages held in the pending-bit array -/

theorem oneBit_getLsbD (v i : Nat) : (BitVec.ofNat 32 (2 ^ v)).getLsbD i = (decide (i < 32) && decide (v = i)) := by
  rw [BitVec.getLsbD_ofNat, Nat.testBit_two_pow]

/-- Nothing masks the message of a vector. -/
def State.unmasked (s : State) (v : Nat) : Bool := s.msixOn && !s.msixFuncMask && !s.msixMask.getLsbD v

/-- The message of a vector goes out where it is pending and nothing masks it. -/
def State.sendPending (s : State) (v : Nat) : State :=
  if s.unmasked v && s.msixPba.getLsbD v then
    ({ s with msixPba := s.msixPba &&& ~~~(BitVec.ofNat 32 (2 ^ v)) }).emit (.msix v)
  else s

/-- The MSI-X table after a write of it, before anything goes out. -/
def State.msixWritten (s : State) : MsixWrite → State
  | .vector v m =>
    { s with msixMask := if m then s.msixMask ||| BitVec.ofNat 32 (2 ^ v.val) else s.msixMask &&& ~~~(BitVec.ofNat 32 (2 ^ v.val)) }
  | .function e m => { s with msixOn := e && !s.host.d3hot, msixFuncMask := m }

theorem exec_msixMask {s : State} (hr : s.inReset = false) (hspi : s.hostSpi = false) (hpst : s.host.perst = false)
    (w : MsixWrite) : exec (.msixMask w) s = .next ((List.range 32).foldl State.sendPending (s.msixWritten w)) := by
  show execMsixMask w s = _
  have hopen : (s.inReset || s.hostSpi || s.host.perst) = false := by simp [hr, hspi, hpst]
  unfold execMsixMask
  rw [hopen]
  generalize List.range 32 = l
  cases w <;> rfl

theorem State.sendPending_frame (s : State) (v : Nat) :
    ({ s.sendPending v with outbox := s.outbox, msixPba := s.msixPba } : State) = s := by
  unfold State.sendPending; split <;> rfl

theorem State.unmasked_of_frame {s t : State} {o : List Output} {b : Word}
    (h : ({ t with outbox := o, msixPba := b } : State) = s) (u : Nat) : t.unmasked u = s.unmasked u := by
  subst h; rfl

theorem State.sendPending_unmasked (s : State) (v u : Nat) : (s.sendPending v).unmasked u = s.unmasked u :=
  State.unmasked_of_frame (s.sendPending_frame v) u

theorem State.sendPending_pba (s : State) (v u : Nat) :
    (s.sendPending v).msixPba.getLsbD u = (s.msixPba.getLsbD u && !(s.unmasked u && decide (v = u))) := by
  unfold State.sendPending
  split
  · next h =>
    rw [Bool.and_eq_true] at h
    rw [State.emit_msixPba, BitVec.getLsbD_and, BitVec.getLsbD_not, oneBit_getLsbD]
    by_cases hu : v = u
    · subst hu; simp [h.1, BitVec.lt_of_getLsbD h.2]
    · by_cases hlt : u < 32
      · simp [hu, hlt]
      · simp [BitVec.getLsbD_of_ge s.msixPba u (by omega)]
  · next h =>
    by_cases hu : v = u
    · subst hu; revert h; cases s.unmasked v <;> simp
    · simp [hu]

theorem State.sendPending_outbox (s : State) (v : Nat) : (s.sendPending v).outbox =
    (if s.unmasked v && s.msixPba.getLsbD v then [Output.msix v] else []) ++ s.outbox := by
  unfold State.sendPending; split <;> rfl

/-- The messages of a list of vectors, each once: those that are pending and unmasked go out in order and pend no more, and nothing
else changes. -/
theorem State.sendPending_foldl {l : List Nat} (hl : l.Nodup) (s : State) : let t := l.foldl State.sendPending s
    ({ t with outbox := s.outbox, msixPba := s.msixPba } : State) = s ∧
    (∀ u, t.msixPba.getLsbD u = (s.msixPba.getLsbD u && !(s.unmasked u && decide (u ∈ l)))) ∧
    t.outbox = ((l.filter fun v => s.unmasked v && s.msixPba.getLsbD v).map Output.msix).reverse ++ s.outbox := by
  induction l generalizing s with
  | nil => simp
  | cons v l ih =>
    obtain ⟨hv, hl⟩ := List.nodup_cons.1 hl
    obtain ⟨hframe, hpba, hout⟩ := ih hl (s.sendPending v)
    refine ⟨?_, fun u => ?_, ?_⟩
    · have h := congrArg (fun x : State => { x with outbox := s.outbox, msixPba := s.msixPba }) hframe
      exact h.trans (s.sendPending_frame v)
    · rw [List.foldl_cons, hpba, State.sendPending_pba, State.sendPending_unmasked]
      by_cases hu : v = u
      · subst hu; simp [hv]
      · simp [hu, Ne.symm hu]
    · have hsame : (l.filter fun u => (s.sendPending v).unmasked u && (s.sendPending v).msixPba.getLsbD u) =
          l.filter fun u => s.unmasked u && s.msixPba.getLsbD u := by
        refine List.filter_congr fun u hu => ?_
        have hne : v ≠ u := fun h => hv (h ▸ hu)
        rw [State.sendPending_unmasked, State.sendPending_pba]
        simp [hne]
      rw [List.foldl_cons, hout, hsame, State.sendPending_outbox, List.filter_cons]
      split <;> simp

/-- A write of a vector's mask changes that bit. -/
theorem oneBit_masked (x : Word) {v u : Nat} (m : Bool) (hu : u < 32) :
    (if m then x ||| BitVec.ofNat 32 (2 ^ v) else x &&& ~~~(BitVec.ofNat 32 (2 ^ v))).getLsbD u = if u = v then m else x.getLsbD u := by
  have hone : (BitVec.ofNat 32 (2 ^ v)).getLsbD u = decide (u = v) := by
    rw [oneBit_getLsbD, decide_eq_true hu, Bool.true_and, decide_eq_decide]; exact eq_comm
  cases m
  · rw [if_neg Bool.false_ne_true, BitVec.getLsbD_and, BitVec.getLsbD_not, hone]
    by_cases h : u = v <;> simp [hu, h]
  · rw [if_pos rfl, BitVec.getLsbD_or, hone]
    by_cases h : u = v <;> simp [h]

/-- A write of the MSI-X table masks or unmasks one vector, or the function; then what nothing masks goes out. -/
theorem msixMask_spec {s : State} (hr : s.inReset = false) (hspi : s.hostSpi = false) (hpst : s.host.perst = false)
    (w : MsixWrite) : ∃ t, exec (.msixMask w) s = .next t ∧
      (match w with
       | .vector v m => t.msixOn = s.msixOn ∧ t.msixFuncMask = s.msixFuncMask ∧
          ∀ u, u < 32 → t.msixMask.getLsbD u = if u = v.val then m else s.msixMask.getLsbD u
       | .function e m => t.msixOn = (e && !s.host.d3hot) ∧ t.msixFuncMask = m ∧ t.msixMask = s.msixMask) ∧
      ((∀ v, v < 32 → t.msixPba.getLsbD v = (s.msixPba.getLsbD v && !t.unmasked v)) ∧
        t.outbox = (((List.range 32).filter fun v => t.unmasked v && s.msixPba.getLsbD v).map Output.msix).reverse ++ s.outbox) ∧
      ({ t with outbox := s.outbox, msixOn := s.msixOn, msixMask := s.msixMask, msixFuncMask := s.msixFuncMask,
                msixPba := s.msixPba } : State) = s := by
  have hs : (s.msixWritten w).msixPba = s.msixPba ∧ (s.msixWritten w).outbox = s.outbox ∧
      ({ s.msixWritten w with msixOn := s.msixOn, msixMask := s.msixMask, msixFuncMask := s.msixFuncMask } : State) = s := by
    cases w <;> exact ⟨rfl, rfl, rfl⟩
  obtain ⟨hb, ho, hrest⟩ := hs
  obtain ⟨hframe, hpba, hout⟩ := State.sendPending_foldl (List.nodup_range (n := 32)) (s.msixWritten w)
  refine ⟨_, exec_msixMask hr hspi hpst w, ?_⟩
  generalize (List.range 32).foldl State.sendPending (s.msixWritten w) = t at hframe hpba hout ⊢
  have hun := State.unmasked_of_frame hframe
  simp only [hb, ho, ← hun] at hpba hout hframe
  refine ⟨?_, ⟨fun v hv => by simpa [hv] using hpba v, hout⟩, ?_⟩
  · have hon := congrArg State.msixOn hframe
    have hfm := congrArg State.msixFuncMask hframe
    have hm := congrArg State.msixMask hframe
    cases w with
    | vector v m => exact ⟨hon, hfm, fun u hu => hm ▸ oneBit_masked s.msixMask m hu⟩
    | function e m => exact ⟨hon, hfm, hm⟩
  · exact (congrArg (fun x : State => { x with msixOn := s.msixOn, msixMask := s.msixMask, msixFuncMask := s.msixFuncMask })
      hframe).trans hrest

/-! ### DMA faults -/

theorem State.rest_modSub (s : State) (i : Nat) (f : Sub → Sub) : (s.modSub i f).rest = s.rest.modSub i f := by
  unfold State.modSub
  rw [apply_ite State.rest]
  rfl

theorem State.cell_modSub (s : State) (i : Nat) (f : Sub → Sub) (a : Nat) : (s.modSub i f).cell a = s.cell a := by
  unfold State.modSub
  split <;> rfl

theorem Alike.modSub {s t : State} (h : Alike s t) (i : Nat) (f : Sub → Sub) : Alike (s.modSub i f) (t.modSub i f) := by
  rw [alike_iff] at *
  exact ⟨fun a => by rw [State.cell_modSub, State.cell_modSub, h.1], by rw [State.rest_modSub, State.rest_modSub, h.2]⟩

theorem State.subAt_of_rest {s t : State} (h : s.rest = t.rest) (i : Nat) : s.subAt i = t.subAt i :=
  show s.rest.subAt i = t.rest.subAt i by rw [h]

/-- DMA_ERR and the fault's address as a fault leaves them. -/
def State.faultHeld (s : State) (ring slot kind : Nat) (a : BitVec 64) : State :=
  ((s.setReg 0x0B0 0x048 (BitVec.ofNat 32 (ring + (if ring = 4 then slot * 16 else 0) + kind * 1024 + 2 ^ 31))).setReg
    0x0B0 0x04C (BitVec.ofNat 32 a.toNat)).setReg 0x0B0 0x050 (BitVec.ofNat 32 (a.toNat / 2 ^ 32))

section dmaFault

variable {s : State} {ring : Fin 16} {slot : Fin 64} {kind : Fin 4} {a : BitVec 64} (hr : s.inReset = false)
  (hact : s.ringActive ring.val slot.val = true) (hheld : (s.reg 0x0B0 0x048).getLsbD 31 = false)

include hr hact hheld

theorem dmaFault_ring {p o : Nat} (hring : ringOf ring.val = some (p, o)) : Ends (.dmaFault ring slot kind a) s
    ((((s.faultHeld ring slot kind a).irq 0x0B0 17).capErr 0x0B0 0x40 0).setRf p o 0 0 0) := by
  refine ⟨(((s.faultHeld ring slot kind a).raise 0x0B0 17).capErr 0x0B0 0x40 0).setRf p o 0 0 0, ?_,
    ((alike_raise ..).capErr ..).setRf ..⟩
  show execDmaFault ring slot kind a s = _
  unfold execDmaFault
  rw [hr, hact]
  simp only [hheld, hring]
  rfl

theorem dmaFault_sub {e : Nat × Sub} (hring : ringOf ring.val = none) (hsub : s.subAt slot.val = some e) :
    Ends (.dmaFault ring slot kind a) s
      ((((s.faultHeld ring slot kind a).irq 0x0B0 17).capErr 0x0B0 0x40 0).modSub e.1 fun x => { x with faulted := true }) := by
  have hrest : (((s.faultHeld ring slot kind a).raise 0x0B0 17).capErr 0x0B0 0x40 0).rest = s.rest := by
    rw [State.rest_capErr, State.rest_raise, State.faultHeld, State.rest_setReg, State.rest_setReg, State.rest_setReg]
  refine ⟨(((s.faultHeld ring slot kind a).raise 0x0B0 17).capErr 0x0B0 0x40 0).modSub e.1 fun x => { x with faulted := true }, ?_,
    ((alike_raise ..).capErr ..).modSub ..⟩
  have hat := (State.subAt_of_rest hrest slot.val).trans hsub
  unfold State.faultHeld at hat ⊢
  show execDmaFault ring slot kind a s = _
  unfold execDmaFault
  rw [hr, hact]
  simp only [hheld, hring, Bool.not_true, Bool.or_self, Bool.false_eq_true, if_false, hat]

end dmaFault

/-- The link's state is reported and its change raised. -/
theorem pcieLinkChange_ends {s : State} (hr : s.inReset = false) (hspi : s.hostSpi = false) (hpst : s.host.perst = false)
    (up : Bool) (gen : Fin 3) (lanes : Fin 2) : let v := if up then 1 + (gen.val + 1) * 2 + (lanes.val + 1) * 8 else 0
    s.rf 0x0B0 0x040 5 0 ≠ v → Ends (.pcieLinkChange up gen lanes) s ((s.setRf 0x0B0 0x040 5 0 v).irq 0x0B0 16) := by
  intro v hv
  refine ⟨(s.setRf 0x0B0 0x040 5 0 v).raise 0x0B0 16, ?_, alike_raise ..⟩
  show execPcieLinkChange up gen lanes s = _
  change (.next (if (s.inReset || s.hostSpi || s.host.perst || s.rf 0x0B0 0x040 5 0 == v) = true then s
    else (s.setRf 0x0B0 0x040 5 0 v).raise 0x0B0 16) : Out) = _
  rw [hr, hspi, hpst, beq_false_of_ne hv]
  rfl

theorem exec_busMasterEnable {s : State} (hr : s.inReset = false) (hspi : s.hostSpi = false) (hpst : s.host.perst = false)
    (on : Bool) : exec (.busMasterEnable on) s = .next { s with host := { s.host with bme := on, dma := s.host.dma && on } } := by
  show execBusMasterEnable on s = _
  have hopen : (s.inReset || s.hostSpi || s.host.perst) = false := by simp [hr, hspi, hpst]
  unfold execBusMasterEnable
  rw [hopen]
  rfl

/-- Settles O25: the messages that a write of the MSI-X table lets go by induction on the vectors, the rest case by case. -/
theorem hostPortEvents : Obligations.HostPortEvents := by
  intro s hr
  refine ⟨fun hspi hpst => ⟨fun up gen lanes => pcieLinkChange_ends hr hspi hpst up gen lanes, ?_, ?_, msixMask_spec hr hspi hpst⟩,
    fun ring slot kind a hact hheld => ⟨fun p o hring => dmaFault_ring hr hact hheld hring,
      fun e hring hsub => dmaFault_sub hr hact hheld hring hsub⟩⟩
  · rw [exec_busMasterEnable hr hspi hpst, Bool.and_true]
  · rw [exec_busMasterEnable hr hspi hpst, Bool.and_false]

end Sys2Proof.Machine

/-! ## The page header (rules R68, R72 to R74, R79, R80, R82, R86, R87) -/

namespace Sys2Proof.Machine

/-! ### Fields of a written value -/

theorem fld_congr {v w : Word} {hi lo : Nat} (h : ∀ i, lo ≤ i → i ≤ hi → v.getLsbD i = w.getLsbD i) : fld v hi lo = fld w hi lo := by
  refine Nat.eq_of_testBit_eq fun i => ?_
  rw [testBit_fld, testBit_fld]
  by_cases hi' : i < hi + 1 - lo
  · rw [h (lo + i) (by omega) (by omega)]
  · simp [hi']

/-- A bit written beside one does not change it. -/
theorem fld_or_of_clear (v : Word) {m : Word} {i : Nat} (h : m.getLsbD i = false) : fld (v ||| m) i i = fld v i i := by
  refine fld_congr fun j h1 h2 => ?_
  obtain rfl : j = i := by omega
  rw [BitVec.getLsbD_or, h, Bool.or_false]

theorem getLsbD_or_set (v : Word) {m : Word} {i : Nat} (h : m.getLsbD i = true) : (v ||| m).getLsbD i = true := by
  rw [BitVec.getLsbD_or, h, Bool.or_true]

theorem getLsbD_or_clear (v : Word) {m : Word} {i : Nat} (h : m.getLsbD i = false) : (v ||| m).getLsbD i = v.getLsbD i := by
  rw [BitVec.getLsbD_or, h, Bool.or_false]

/-- SELECTED as SELECTED writes it. -/
theorem fld_selected (m : BitVec 8) : fld (m.setWidth 32 <<< 24) 31 24 = m.toNat := by
  have hm := m.isLt
  simp only [fld, BitVec.toNat_shiftLeft, BitVec.toNat_setWidth, Nat.shiftLeft_eq, Nat.shiftRight_eq_div_pow]
  omega

/-! ### How a write of a header register goes -/

section header

variable {s : State} {p off : Nat} {v : Word} (h : s.hears p) (ht : pageType p ≠ none) (ho : off < 0x040) (hal : off / 4 * 4 = off)

theorem winViol_header (h : s.hears p) (ho : off < 0x040) : winViol s p off v = [] := by
  obtain ⟨-, -, -, hstrap⟩ := h
  have hno : ¬ (p = 0x0B1 ∧ s.recoveryStrap = true) := fun ⟨hp, hs⟩ => by simp [hstrap hp] at hs
  rw [winViol, if_neg hno, if_pos ho]

include h ht ho hal

/-- Of a header register only the header's own refusals count. -/
theorem State.hostWrite_header_taken (hv : hdrViol hooks s p off v = []) :
    s.hostWrite (addr p off) v true = hdrTake hooks s p off v := by
  have hp : addr p off / 0x1000 = p := addr_div (by omega)
  have hm : addr p off % 0x1000 = off := addr_mod (by omega)
  have hw : worst (hdrViol hooks s p off v ++ hooks.viol s p off v) = none := by
    rw [hv, show hooks.viol s p off v = [] from winViol_header h ho]; rfl
  rw [State.hostWrite_of_hears (by rwa [hp])]
  simp [State.regWrite, hp, hm, hal, Nat.mod_eq_of_lt h.1, ht, ho, hw]

theorem State.hostWrite_header_refused {c : Nat} (hv : worst (hdrViol hooks s p off v) = some c) :
    s.hostWrite (addr p off) v true = s.capErr p c off := by
  have hp : addr p off / 0x1000 = p := addr_div (by omega)
  have hm : addr p off % 0x1000 = off := addr_mod (by omega)
  have hw : worst (hdrViol hooks s p off v ++ hooks.viol s p off v) = some c := by
    rw [show hooks.viol s p off v = [] from winViol_header h ho, List.append_nil, hv]
  rw [State.hostWrite_of_hears (by rwa [hp])]
  simp [State.regWrite, hp, hm, hal, Nat.mod_eq_of_lt h.1, ht, ho, hw]

end header

/-! ### The header's cases, register by register -/

section cases

variable (s : State) (p : Nat) (v : Word)

theorem hdrViol_ver : hdrViol hooks s p 0x004 v = (if s.locked p then [(24, 0x10)] else []) ++
    (if fld v 31 24 = 1 then [] else [(24, 0x05)]) ++ (if s.enabled p then [(24, 0x07)] else []) := rfl

theorem hdrViol_ctl : hdrViol hooks s p 0x00C v = (if s.locked p then [(0, 0x10)] else []) ++
    (if v.getLsbD 1 && (!capSrst p || winLive s p) then [(1, 0x07)] else []) := rfl

theorem hdrViol_commit (hs : capShadow p = true) : hdrViol hooks s p 0x02C v = if s.locked p then [(0, 0x10)] else [] :=
  if_pos ⟨rfl, hs⟩

theorem hdrTake_ctl : hdrTake hooks s p 0x00C v =
    let t := if capSrst p then s.setShad p 0x00C (setFld (s.shad p 0x00C) 0 0 (fld v 0 0)) else s
    let u := if v.getLsbD 1 then t.setRf p 0x010 2 2 1 else t
    if v.getLsbD 2 then u.setRf p 0x00C 2 2 1 else u := rfl

theorem hdrTake_commit (hs : capShadow p = true) : hdrTake hooks s p 0x02C v =
    (if v.getLsbD 1 then s.discard p else if v.getLsbD 0 then s.setRf p 0x02C 0 0 1 else s).setRf p 0x02C 2 2 (fld v 2 2) := by
  simp [hdrTake, hs]

end cases

/-! ### PG_CTL: SRST and LOCK -/

section ctl

variable {s : State} {p : Nat} {v : Word}

/-- On a locked page LOCKED comes before BUSY, for its bit is the lower one. -/
theorem worst_ctl_locked (hk : s.locked p = true) : worst (hdrViol hooks s p 0x00C v) = some 0x10 := by
  rw [hdrViol_ctl, if_pos hk]
  split <;> rfl

theorem worst_ctl_busy (hk : s.locked p = false) (hv : v.getLsbD 1 = true) (hb : capSrst p = false ∨ winLive s p = true) :
    worst (hdrViol hooks s p 0x00C v) = some 0x07 := by
  have hbusy : (!capSrst p || winLive s p) = true := by
    obtain hb | hb := hb <;> simp [hb]
  rw [hdrViol_ctl, hk, hv, hbusy]
  rfl

theorem hdrViol_ctl_free (hk : s.locked p = false) (hv : v.getLsbD 1 = true → capSrst p = true ∧ winLive s p = false) :
    hdrViol hooks s p 0x00C v = [] := by
  have hfree : (v.getLsbD 1 && (!capSrst p || winLive s p)) = false := by
    rw [Bool.and_eq_false_imp]
    intro hb
    obtain ⟨hcap, hlive⟩ := hv hb
    rw [hcap, hlive]
    rfl
  rw [hdrViol_ctl, hk, hfree]
  rfl

end ctl

section clauses

variable {s : State} {page : BitVec 8} {p : Nat} (hp : page.toNat = p) (h : s.hears p) (ht : pageType p ≠ none)

include hp h ht

theorem exec_srst (v : Word) (hs : capSrst p = true) (hk : s.locked p = false) (hl : winLive s p = false) :
    let t := (s.setShad p 0x00C (setFld (s.shad p 0x00C) 0 0 (fld v 0 0))).setRf p 0x010 2 2 1
    exec (.srst page v) s = .next (if v.getLsbD 2 then t.setRf p 0x00C 2 2 1 else t) := by
  intro t
  have h0 : fld (v ||| 2) 0 0 = fld v 0 0 := fld_or_of_clear v (by decide)
  have h1 : (v ||| 2).getLsbD 1 = true := getLsbD_or_set v (by decide)
  have h2 : (v ||| 2).getLsbD 2 = v.getLsbD 2 := getLsbD_or_clear v (by decide)
  show Host.Outcome.next (s.hostWrite (addr page.toNat 0x00C) (v ||| 2) true) = _
  rw [hp, State.hostWrite_header_taken h ht (by decide) rfl (hdrViol_ctl_free hk fun _ => ⟨hs, hl⟩)]
  rw [hdrTake_ctl, h0, h1, h2, hs]
  rfl

theorem exec_srst_busy (v : Word) (hk : s.locked p = false) (hb : capSrst p = false ∨ winLive s p = true) :
    exec (.srst page v) s = .next (s.capErr p 0x07 0x00C) := by
  show Host.Outcome.next (s.hostWrite (addr page.toNat 0x00C) (v ||| 2) true) = _
  rw [hp, State.hostWrite_header_refused h ht (by decide) rfl (worst_ctl_busy hk (getLsbD_or_set v (by decide)) hb)]

theorem exec_ctl_locked (v : Word) (hk : s.locked p = true) :
    exec (.srst page v) s = .next (s.capErr p 0x10 0x00C) ∧ exec (.lock page v) s = .next (s.capErr p 0x10 0x00C) := by
  constructor
  · show Host.Outcome.next (s.hostWrite (addr page.toNat 0x00C) (v ||| 2) true) = _
    rw [hp, State.hostWrite_header_refused h ht (by decide) rfl (worst_ctl_locked hk)]
  · show Host.Outcome.next (s.hostWrite (addr page.toNat 0x00C) (v ||| 4) true) = _
    rw [hp, State.hostWrite_header_refused h ht (by decide) rfl (worst_ctl_locked hk)]

theorem exec_lock (v : Word) (hk : s.locked p = false) (hv : v.getLsbD 1 = false) :
    let t := if capSrst p then s.setShad p 0x00C (setFld (s.shad p 0x00C) 0 0 (fld v 0 0)) else s
    exec (.lock page v) s = .next (t.setRf p 0x00C 2 2 1) := by
  intro t
  have h0 : fld (v ||| 4) 0 0 = fld v 0 0 := fld_or_of_clear v (by decide)
  have h1 : (v ||| 4).getLsbD 1 = false := (getLsbD_or_clear v (by decide)).trans hv
  have h2 : (v ||| 4).getLsbD 2 = true := getLsbD_or_set v (by decide)
  show Host.Outcome.next (s.hostWrite (addr page.toNat 0x00C) (v ||| 4) true) = _
  rw [hp, State.hostWrite_header_taken h ht (by decide) rfl (hdrViol_ctl_free hk fun hb => absurd hb (h1 ▸ Bool.false_ne_true))]
  rw [hdrTake_ctl, h0, h1, h2]
  rfl

/-! ### PG_VER: SELECTED -/

theorem exec_selected (hk : s.locked p = false) (he : s.enabled p = false) :
    exec (.selected page 1) s = .next (s.setRf p 0x004 31 24 1) := by
  have hf : fld ((1 : BitVec 8).setWidth 32 <<< 24) 31 24 = 1 := fld_selected 1
  show Host.Outcome.next (s.hostWrite (addr page.toNat 0x004) ((1 : BitVec 8).setWidth 32 <<< 24) true) = _
  rw [hp, State.hostWrite_header_taken h ht (by decide) rfl (by rw [hdrViol_ver, hk, he, hf]; rfl)]
  exact congrArg (fun x => Host.Outcome.next (s.setRf p 0x004 31 24 x)) hf

/-- BAD_ARG comes before BUSY on the same field (log entry 13). -/
theorem exec_selected_bad {m : BitVec 8} (hk : s.locked p = false) (hm : m ≠ 1) :
    exec (.selected page m) s = .next (s.capErr p 0x05 0x004) := by
  have hf : fld (m.setWidth 32 <<< 24) 31 24 ≠ 1 := fun hf => hm (BitVec.eq_of_toNat_eq ((fld_selected m).symm.trans hf))
  have hw : worst (hdrViol hooks s p 0x004 (m.setWidth 32 <<< 24)) = some 0x05 := by
    rw [hdrViol_ver, hk, if_neg hf]
    cases s.enabled p <;> rfl
  show Host.Outcome.next (s.hostWrite (addr page.toNat 0x004) (m.setWidth 32 <<< 24) true) = _
  rw [hp, State.hostWrite_header_refused h ht (by decide) rfl hw]

/-! ### PG_COMMIT: ARM and DISCARD -/

theorem exec_arm (v : Word) (hs : capShadow p = true) (hk : s.locked p = false) (hv : v.getLsbD 1 = false) :
    exec (.arm page v) s = .next ((s.setRf p 0x02C 0 0 1).setRf p 0x02C 2 2 (fld v 2 2)) := by
  have h0 : (v ||| 1).getLsbD 0 = true := getLsbD_or_set v (by decide)
  have h1 : (v ||| 1).getLsbD 1 = false := (getLsbD_or_clear v (by decide)).trans hv
  have h2 : fld (v ||| 1) 2 2 = fld v 2 2 := fld_or_of_clear v (by decide)
  show Host.Outcome.next (s.hostWrite (addr page.toNat 0x02C) (v ||| 1) true) = _
  rw [hp, State.hostWrite_header_taken h ht (by decide) rfl (by rw [hdrViol_commit s p _ hs, hk]; rfl)]
  rw [hdrTake_commit s p _ hs, h0, h1, h2]
  rfl

theorem exec_discard (v : Word) (hs : capShadow p = true) (hk : s.locked p = false) :
    exec (.discard page v) s = .next ((s.discard p).setRf p 0x02C 2 2 (fld v 2 2)) := by
  have h1 : (v ||| 2).getLsbD 1 = true := getLsbD_or_set v (by decide)
  have h2 : fld (v ||| 2) 2 2 = fld v 2 2 := fld_or_of_clear v (by decide)
  show Host.Outcome.next (s.hostWrite (addr page.toNat 0x02C) (v ||| 2) true) = _
  rw [hp, State.hostWrite_header_taken h ht (by decide) rfl (by rw [hdrViol_commit s p _ hs, hk]; rfl)]
  rw [hdrTake_commit s p _ hs, h1, h2]
  rfl

/-! ### Events, errors and the counter of errors -/

theorem exec_pgIrqPnd (v : Word) :
    exec (.pgIrqPnd page v) s = .next (s.setReg p 0x014 ((s.reg p 0x014 &&& ~~~v) ||| winLevel s p)).syncIrq := by
  show Host.Outcome.next (s.hostWrite (addr page.toNat 0x01C) v true) = _
  rw [hp, State.hostWrite_header_taken h ht (by decide) rfl rfl]
  rfl

theorem exec_pgErrCode : exec (.pgErrCode page) s = .next (s.setReg p 0x020 0) := by
  show Host.Outcome.next (s.hostWrite (addr page.toNat 0x020) 0x80000000 true) = _
  rw [hp, State.hostWrite_header_taken h ht (by decide) rfl rfl]
  rfl

omit hp in
theorem exec_clr_errors {a : BitVec 20} (ha : a.toNat = addr p 0x024) :
    exec (.clr a) s = .next (s.setReg p 0x024 (setFld (s.reg p 0x024) 16 0 0)) := by
  show Host.Outcome.next (s.hostWrite a.toNat 0x80000000 true) = _
  rw [ha, State.hostWrite_header_taken h ht (by decide) rfl rfl]
  rfl

end clauses

/-! ### What DISCARD leaves (rules R71, R79) -/

/-- A shadow copy takes its applied value. -/
def State.copyShad (s : State) (a : Nat) : State := s.setShadAtSlot a (s.regAtSlot a)

theorem State.shadAtSlot_copyShad (s : State) (a b : Nat) :
    (s.copyShad a).shadAtSlot b = if b = a then s.regAtSlot b else s.shadAtSlot b := by
  show Tab.get regReset (Tab.set regReset s.shadow a (s.regAtSlot a)) b = _
  rw [Tab.get_set]
  split
  · next hb => rw [hb]
  · rfl

/-- Copying a list of places leaves every place that was copied, and every one that agreed already, at its applied value. -/
theorem State.shadAtSlot_copies {l : List (Nat × Word)} {s : State} {b : Nat}
    (hb : s.shadAtSlot b = s.regAtSlot b ∨ ∃ e ∈ l, e.1 = b) :
    (l.foldl (fun s e => s.copyShad e.1) s).shadAtSlot b = s.regAtSlot b := by
  induction l generalizing s with
  | nil => simpa using hb
  | cons x l ih =>
    refine ih (s := s.copyShad x.1) ?_
    rw [State.shadAtSlot_copyShad]
    show (if b = x.1 then s.regAtSlot b else s.shadAtSlot b) = s.regAtSlot b ∨ _
    split
    · exact .inl rfl
    · next hne =>
      obtain hb | ⟨e, he, rfl⟩ := hb
      · exact .inl hb
      · obtain rfl | he := List.mem_cons.1 he
        · exact absurd rfl hne
        · exact .inr ⟨e, he, rfl⟩

theorem State.regAtSlot_copies (l : List (Nat × Word)) (s : State) (b : Nat) :
    (l.foldl (fun s e => s.copyShad e.1) s).regAtSlot b = s.regAtSlot b := by
  induction l generalizing s with
  | nil => rfl
  | cons x l ih => exact ih (s.copyShad x.1)

theorem State.shadAtSlot_discard (s : State) {p : Nat} {e : Nat × Word} (he : e ∈ shadowSlots p) :
    (s.discard p).shadAtSlot e.1 = s.regAtSlot e.1 := by
  show (((shadowSlots p).foldl (fun s e => s.copyShad e.1) s).copyShad (addr p 0x00C)).shadAtSlot e.1 = _
  rw [State.shadAtSlot_copyShad, State.regAtSlot_copies, State.shadAtSlot_copies (.inr ⟨e, he, rfl⟩), ite_self]

theorem State.armed_discard (s : State) (p : Nat) : (s.discard p).armed p = false := by
  show (State.reg (State.setRf _ p 0x02C 0 0 0) p 0x02C).getLsbD 0 = false
  rw [State.reg_cell, State.cell_setRf, if_pos rfl, getLsbD_setFld _ _ (by decide)]
  simp

/-- Settles O26: each clause is the header's own case of a write, taken or refused. -/
theorem pageHeaders : Obligations.PageHeaders := by
  intro s page p h ht
  have hp : page.toNat = p := rfl
  refine ⟨fun v hs hk hl => ends_of_exec (exec_srst hp h ht v hs hk hl), fun v hk hb => ends_of_exec (exec_srst_busy hp h ht v hk hb),
    fun v hk => ?_, fun v hk hv => ends_of_exec (exec_lock hp h ht v hk hv), fun hk he => ends_of_exec (exec_selected hp h ht hk he),
    fun m hk hm => ends_of_exec (exec_selected_bad hp h ht hk hm), fun v hs hk hv => ends_of_exec (exec_arm hp h ht v hs hk hv),
    fun v hs hk => ⟨ends_of_exec (exec_discard hp h ht v hs hk), s.armed_discard p, fun e he => s.shadAtSlot_discard he⟩,
    fun v => ⟨_, exec_pgIrqPnd hp h ht v, alike_syncIrq _⟩, ends_of_exec (exec_pgErrCode hp h ht),
    fun a ha => ends_of_exec (exec_clr_errors h ht ha)⟩
  obtain ⟨hsrst, hlock⟩ := exec_ctl_locked hp h ht v hk
  exact ⟨ends_of_exec hsrst, ends_of_exec hlock⟩

end Sys2Proof.Machine

/-! ## Commands that are taken at once (rules R124 to R128, R135, R611) -/

namespace Sys2Proof.Machine

/-! ### A record in ring memory (rule R124) -/

/-- Nothing has changed but exchange memory with its marks and host memory. -/
def SameButMemory (s t : State) : Prop := ({ t with exch := s.exch, bad := s.bad, hostMem := s.hostMem } : State) = s

theorem SameButMemory.trans {s t u : State} (h : SameButMemory s t) (g : SameButMemory t u) : SameButMemory s u := by
  unfold SameButMemory at *
  exact (congrArg (fun x : State => { x with exch := s.exch, bad := s.bad, hostMem := s.hostMem }) g).trans h

/-- What does not look at these memories is the same. -/
theorem SameButMemory.congr {α : Type} {s t : State} (h : SameButMemory s t) (g : State → α)
    (hg : ∀ (t : State) x b m, g { t with exch := x, bad := b, hostMem := m } = g t) : g t = g s :=
  (hg t _ _ _).symm.trans (congrArg g h)

theorem SameButMemory.setEx (s : State) (a : Nat) (v : Native) : SameButMemory s (s.setEx a v) := rfl

theorem SameButMemory.setHm (s : State) (a : Nat) (v : Word) : SameButMemory s (s.setHm a v) := rfl

theorem SameButMemory.putRec (s : State) (loc : Bool) (base : Nat) (ws : List Word) : SameButMemory s (s.putRec loc base ws) := by
  fun_induction State.putRec s loc base ws with
  | case1 => rfl
  | case2 => exact .setEx ..
  | case3 => exact .setHm ..
  | case4 s base a b rest hl ih => exact (SameButMemory.setEx ..).trans ih
  | case5 s base a b rest hl ih => exact ((SameButMemory.setHm ..).trans (.setHm ..)).trans ih

theorem State.hm_putRec_below (s : State) {base a : Nat} (ws : List Word) (h : a / 4 < base / 4) :
    (s.putRec false base ws).hm a = s.hm a := by
  generalize hloc : false = loc
  fun_induction State.putRec s loc base ws with
  | case1 => rfl
  | case2 s base x hl => exact absurd (hloc.trans hl) Bool.false_ne_true
  | case3 s base x hl => rw [State.hm_setHm, if_neg (by omega)]
  | case4 s base x y rest hl ih => exact absurd (hloc.trans hl) Bool.false_ne_true
  | case5 s base x y rest hl ih =>
    rw [ih (by omega), State.hm_setHm, if_neg (by omega), State.hm_setHm, if_neg (by omega)]

/-- Words of exchange memory apart from a record's stay. -/
theorem State.ex_putRec_apart (s : State) {base a : Nat} (ws : List Word)
    (h : ∀ k, 2 * k < ws.length → a % 0x10000 ≠ (base + k) % 0x10000) : (s.putRec true base ws).ex a = s.ex a := by
  generalize hloc : true = loc
  fun_induction State.putRec s loc base ws with
  | case1 => rfl
  | case2 s base x hl => rw [State.ex_setEx, if_neg (by simpa using h 0 (by simp))]
  | case3 s base x hl => exact absurd hloc.symm hl
  | case4 s base x y rest hl ih =>
    rw [ih fun k hk => by have := h (k + 1) (by simp only [List.length_cons]; omega); rwa [show base + 1 + k = base + (k + 1) by omega],
      State.ex_setEx, if_neg (by simpa using h 0 (by simp))]
  | case5 s base x y rest hl ih => exact absurd hloc.symm hl

theorem State.isBad_setEx (s : State) (a b : Nat) (v : Native) :
    (s.setEx a v).isBad 28 b = if b = a % 0x10000 then false else s.isBad 28 b := by
  rw [show (s.setEx a v).isBad 28 b = (s.setBad 28 (a % 0x10000) false).isBad 28 b from rfl, State.isBad_setBad]
  simp [badKey]

theorem State.isBad_putRec_of_good (s : State) {base b : Nat} (ws : List Word) (h : s.isBad 28 b = false) :
    (s.putRec true base ws).isBad 28 b = false := by
  generalize hloc : true = loc
  fun_induction State.putRec s loc base ws with
  | case1 => exact h
  | case2 s base x hl => rw [State.isBad_setEx, h, ite_self]
  | case3 s base x hl => exact absurd hloc.symm hl
  | case4 s base x y rest hl ih => exact ih (by rw [State.isBad_setEx, h, ite_self])
  | case5 s base x y rest hl ih => exact absurd hloc.symm hl

/-- The words of a record written are good (rule R53). -/
theorem State.isBad_putRec (s : State) {base k : Nat} {ws : List Word} (hk : 2 * k < ws.length) :
    (s.putRec true base ws).isBad 28 ((base + k) % 0x10000) = false := by
  generalize hloc : true = loc
  fun_induction State.putRec s loc base ws generalizing k with
  | case1 => simp at hk
  | case2 s base x hl =>
    obtain rfl : k = 0 := by simp only [List.length_singleton] at hk; omega
    exact State.isBad_setEx_same ..
  | case3 s base x hl => exact absurd hloc.symm hl
  | case4 s base x y rest hl ih =>
    obtain _ | k := k
    · subst hl; exact State.isBad_putRec_of_good _ rest (State.isBad_setEx_same ..)
    · rw [← Nat.add_assoc, Nat.add_right_comm]
      exact ih (by simp only [List.length_cons] at hk; omega)
  | case5 s base x y rest hl ih => exact absurd hloc.symm hl

theorem ofNat_low (a b : Word) : BitVec.ofNat 32 ((BitVec.ofNat 72 (a.toNat + b.toNat * 2 ^ 32)).toNat >>> 0) = a := by
  have ha := a.isLt; have hb := b.isLt
  refine BitVec.eq_of_toNat_eq ?_
  simp only [BitVec.toNat_ofNat, Nat.shiftRight_eq_div_pow]
  omega

theorem ofNat_high (a b : Word) : BitVec.ofNat 32 ((BitVec.ofNat 72 (a.toNat + b.toNat * 2 ^ 32)).toNat >>> 32) = b := by
  have ha := a.isLt; have hb := b.isLt
  refine BitVec.eq_of_toNat_eq ?_
  simp only [BitVec.toNat_ofNat, Nat.shiftRight_eq_div_pow]
  omega

/-- A record of an even number of words reads as it was written. -/
theorem State.recWord_putRec (s : State) (loc : Bool) {base n : Nat} {ws : List Word} (hws : ws.length = 2 * n) (hn : n ≤ 0x10000)
    {w : Nat} (hw : w < 2 * n) : (s.putRec loc base ws).recWord loc base w = ws.getD w 0 := by
  fun_induction State.putRec s loc base ws generalizing n w with
  | case1 => simp at hws; omega
  | case2 => simp at hws; omega
  | case3 => simp at hws; omega
  | case4 s base x y rest hl ih =>
    subst hl
    simp only [List.length_cons] at hws
    have hbase : ((s.setEx base (BitVec.ofNat 72 (x.toNat + y.toNat * 2 ^ 32))).putRec true (base + 1) rest).ex base =
        BitVec.ofNat 72 (x.toNat + y.toNat * 2 ^ 32) := by
      rw [State.ex_putRec_apart _ _ fun k hk => by omega, State.ex_setEx_same]
    match w with
    | 0 => exact (congrArg (fun v : Native => BitVec.ofNat 32 (v.toNat >>> 0)) hbase).trans (ofNat_low x y)
    | 1 => exact (congrArg (fun v : Native => BitVec.ofNat 32 (v.toNat >>> 32)) hbase).trans (ofNat_high x y)
    | w + 2 =>
      have hrec : ∀ t : State, t.recWord true base (w + 2) = t.recWord true (base + 1) w := fun t => by
        simp only [State.recWord, if_true, show (w + 2) / 2 = w / 2 + 1 by omega, show (w + 2) % 2 = w % 2 by omega,
          Nat.add_assoc, Nat.add_comm 1]
      rw [hrec, ih (n := n - 1) (by omega) (by omega) (by omega)]
      rfl
  | case5 s base x y rest hl ih =>
    obtain rfl := Bool.eq_false_of_not_eq_true hl
    simp only [List.length_cons] at hws
    match w with
    | 0 =>
      show State.hm _ (base + 4 * 0) = x
      rw [State.hm_putRec_below _ _ (by omega), State.hm_setHm, if_neg (by omega), State.hm_setHm, if_pos (by omega)]
    | 1 =>
      show State.hm _ (base + 4 * 1) = y
      rw [State.hm_putRec_below _ _ (by omega), State.hm_setHm, if_pos rfl]
    | w + 2 =>
      have hrec : ∀ t : State, t.recWord false base (w + 2) = t.recWord false (base + 8) w := fun t => by
        show t.hm (base + 4 * (w + 2)) = t.hm (base + 8 + 4 * w)
        rw [show base + 4 * (w + 2) = base + 8 + 4 * w by omega]
      rw [hrec, ih (n := n - 1) (by omega) (by omega) (by omega)]
      rfl

/-! ### A write of SQ_TAIL (rules R125, R146) -/

/-- The register of SQ_TAIL. -/
def sqTailReg : Reg := ⟨0x050, 1, 4, 0x0, [⟨0, 12, .rw, .any⟩]⟩

theorem regAt_sqTail : regAt 0x003 0x050 = some sqTailReg := by decide

theorem mix_low12 (v old : Word) : mix (sqTailReg.mask .rw) v old &&& ~~~(v &&& sqTailReg.mask .w1c) = setFld old 11 0 v.toNat := by
  have hrw : sqTailReg.mask .rw = 0xFFF := by decide
  have hw1c : sqTailReg.mask .w1c = 0 := by decide
  have hmask : ∀ i : Fin 32, (0xFFF#32).getLsbD i = decide (i.val < 12) := by decide
  rw [hrw, hw1c]
  refine BitVec.eq_of_getLsbD_eq fun i hi => ?_
  have hm : (0xFFF : Word).getLsbD i = decide (i < 12) := hmask ⟨i, hi⟩
  have h0 : (0 : Word).getLsbD i = false := BitVec.getLsbD_zero
  rw [getLsbD_setFld _ _ hi]
  simp only [mix, BitVec.getLsbD_or, BitVec.getLsbD_and, BitVec.getLsbD_not, hi, hm, h0]
  by_cases h : i < 12
  · simp [h, Nat.le_of_lt_succ h, BitVec.getLsbD]
  · simp [h, show ¬ i ≤ 11 by omega]

theorem winViol_sqTail {s : State} {v : Word} (hv : fld v 11 0 < 2 ^ s.rf 0x003 0x04C 3 0) : winViol s 0x003 0x050 v = [] := by
  have hlow : ¬ (0x050 = 0x050 && decide (fld v 11 0 ≥ 2 ^ s.rf 0x003 0x04C 3 0)) = true := by simpa using hv
  show violCmd s 0x050 v = []
  unfold violCmd
  rw [if_neg hlow, if_neg (by simp), List.append_nil, List.append_nil]
  simp [ringViol, cmdBases]

/-- SQ_TAIL within the ring's size is taken, and intake goes on. -/
theorem State.hostWrite_sqTail {s : State} {v : Word} (h : s.hears 0x003) (hk : s.locked 0x003 = false)
    (hv : fld v 11 0 < 2 ^ s.rf 0x003 0x04C 3 0) : s.hostWrite (addr 0x003 0x050) v true = (s.setRf 0x003 0x050 11 0 v.toNat).intake := by
  have hw : worst (regViol (s.locked 0x003) sqTailReg v ++ winViol s 0x003 0x050 v) = none := by
    rw [hk, winViol_sqTail hv, List.append_nil, regViol_eq_nil fun f hf => by
      obtain rfl := List.mem_singleton.1 hf; rfl]
    rfl
  have hslot : s.slotOf 0x003 0x050 = addr 0x003 0x050 := s.slotOf_eq_addr _ (by decide) (by decide)
  rw [State.hostWrite_of_hears h, State.regWrite_taken (p := 0x003) (off := 0x050) rfl (by decide) rfl (by decide) regAt_sqTail hw,
    State.takeWrite_rw hslot (by decide) (by decide), mix_low12]
  have hkeep : ∀ t : State, t.keepLoc 0x003 0x050 = t := fun t => State.keepLoc_of_not_ring (by decide)
  show takenCmd 0x050 (State.keepLoc _ 0x003 0x050) = _
  rw [hkeep]
  rfl

/-! ### The record placed -/

section placed

variable (s : State) (op : Nat) (f : CmdFields)

/-- SQ_TAIL after the next record. -/
def State.sqNext : Nat := (s.rf 0x003 0x050 11 0 + 1) % 2 ^ s.rf 0x003 0x04C 3 0

/-- The address of the record at the tail of the command ring. -/
def State.sqBase : Nat := s.ringBase 0x003 0x044 0x048 + s.rf 0x003 0x050 11 0 * (if s.cmdLoc then 8 else 64)

/-- The record in the ring and SQ_TAIL past it. -/
def State.placed : State := (s.putRec s.cmdLoc s.sqBase (cmdWords f op)).setRf 0x003 0x050 11 0 s.sqNext

theorem State.sqNext_lt : s.sqNext < 2 ^ s.rf 0x003 0x04C 3 0 := Nat.mod_lt _ (Nat.two_pow_pos _)

theorem rf_lt (p o hi lo : Nat) : s.rf p o hi lo < 2 ^ (hi + 1 - lo) := Nat.mod_lt _ (Nat.two_pow_pos _)

theorem State.sqNext_lt_word : s.sqNext < 2 ^ 32 :=
  s.sqNext_lt.trans (Nat.pow_lt_pow_right (by decide) ((rf_lt s 0x003 0x04C 3 0).trans (by decide)))

theorem State.placed_cmd : (s.placed op f).cmd = s.cmd :=
  (SameButMemory.putRec s s.cmdLoc s.sqBase (cmdWords f op)).congr State.cmd fun _ _ _ _ => rfl

theorem State.placed_cell {a : Nat} (h : a ≠ addr 0x003 0x050) : (s.placed op f).cell a = s.cell a := by
  rw [State.placed, State.cell_setRf, if_neg h]
  exact (SameButMemory.putRec s s.cmdLoc s.sqBase (cmdWords f op)).congr (fun t => t.cell a) fun _ _ _ _ => rfl

theorem State.placed_reg {o : Nat} (ho : o < 0x1000) (h : o ≠ 0x050) : (s.placed op f).reg 0x003 o = s.reg 0x003 o :=
  s.placed_cell op f fun e => h (addr_inj ho (by decide) e).2

theorem State.placed_rf {o : Nat} (ho : o < 0x1000) (h : o ≠ 0x050) (hi lo : Nat) :
    (s.placed op f).rf 0x003 o hi lo = s.rf 0x003 o hi lo := by
  rw [State.rf, s.placed_reg op f ho h, State.rf]

theorem State.placed_tail : (s.placed op f).rf 0x003 0x050 11 0 = s.sqNext % 4096 := by
  rw [State.rf, State.placed, State.setRf, State.reg_setReg_same, fld_setFld_same _ _ (by decide)]
  rfl

theorem State.placed_cmdLoc : (s.placed op f).cmdLoc = s.cmdLoc := by
  rw [State.cmdLoc, s.placed_rf op f (by decide) (by decide), State.cmdLoc]

theorem State.placed_ringBase : (s.placed op f).ringBase 0x003 0x044 0x048 = s.ringBase 0x003 0x044 0x048 := by
  rw [State.ringBase, s.placed_reg op f (by decide) (by decide), s.placed_reg op f (by decide) (by decide), State.ringBase]

theorem State.placed_cmdRun : (s.placed op f).cmdRun = s.cmdRun := by
  have hframe := SameButMemory.putRec s s.cmdLoc s.sqBase (cmdWords f op)
  have hr : (s.placed op f).inReset = s.inReset := hframe.congr State.inReset fun _ _ _ _ => rfl
  have hh : (s.placed op f).host = s.host := hframe.congr State.host fun _ _ _ _ => rfl
  rw [State.cmdRun, hr, hh, s.placed_rf op f (by decide) (by decide), s.placed_rf op f (by decide) (by decide), State.cmdRun]

theorem State.placed_cqFull : (s.placed op f).cqFull = s.cqFull := by
  simp only [State.cqFull, s.placed_rf op f (show 0x060 < 0x1000 by decide) (by decide),
    s.placed_rf op f (show 0x068 < 0x1000 by decide) (by decide), s.placed_rf op f (show 0x064 < 0x1000 by decide) (by decide)]

theorem State.placed_flights : (s.placed op f).flights = s.flights := by rw [State.flights, s.placed_cmd, State.flights]

/-! ### Word 0 of a record (rule R127) -/

/-- Word 0 of a record. -/
def word0 : Nat := op + f.ver.toNat * 2 ^ 16 + b2n f.nowait * 2 ^ 24 + b2n f.quiet * 2 ^ 25 + b2n f.fence * 2 ^ 26 + f.rsv.toNat * 2 ^ 27

theorem cmdWords_zero : (cmdWords f op).getD 0 0 = BitVec.ofNat 32 (word0 op f) := rfl

theorem b2n_le (b : Bool) : b2n b ≤ 1 := by cases b <;> decide

theorem b2n_eq_one (b : Bool) : decide (b2n b = 1) = b := by cases b <;> rfl

/-- The fields of word 0 read as they were put in. -/
theorem word0_fields (hop : op < 65536) : let w := (cmdWords f op).getD 0 0
    fld w 15 0 = op ∧ fld w 23 16 = f.ver.toNat ∧ w.getLsbD 24 = f.nowait ∧ w.getLsbD 26 = f.fence ∧ fld w 31 27 = f.rsv.toNat := by
  have hver := f.ver.isLt; have hrsv := f.rsv.isLt
  have hn := b2n_le f.nowait; have hq := b2n_le f.quiet; have hf := b2n_le f.fence
  have hw : (BitVec.ofNat 32 (word0 op f)).toNat = word0 op f := by
    rw [BitVec.toNat_ofNat, Nat.mod_eq_of_lt]; simp only [word0]; omega
  simp only [cmdWords_zero, fld, BitVec.getLsbD, hw, Nat.testBit_eq_decide_div_mod_eq, Nat.shiftRight_eq_div_pow]
  refine ⟨?_, ?_, (decide_eq_decide.2 ?_).trans (b2n_eq_one f.nowait), (decide_eq_decide.2 ?_).trans (b2n_eq_one f.fence), ?_⟩ <;>
    simp only [word0] <;> omega

theorem length_cmdWords : (cmdWords f op).length = 16 := by simp [cmdWords]

end placed

section takes

variable {s : State} {op : Nat} {f : CmdFields}

/-- The ring holds the record placed: its size is not 1, for the ring would be full. -/
theorem State.placed_sqEmpty (hhead : s.rf 0x003 0x050 11 0 = s.rf 0x003 0x054 11 0)
    (hsize : s.rf 0x003 0x050 11 0 < 2 ^ s.rf 0x003 0x04C 3 0) (hfull : s.sqFull = false) : (s.placed op f).sqEmpty = false := by
  have ht := rf_lt s 0x003 0x050 11 0
  simp only [State.sqFull, beq_eq_false_iff_ne, ← hhead] at hfull
  simp only [State.sqEmpty, beq_eq_false_iff_ne, s.placed_tail, s.placed_rf op f (show 0x04C < 0x1000 by decide) (by decide),
    s.placed_rf op f (show 0x054 < 0x1000 by decide) (by decide), ← hhead, State.sqNext]
  generalize 2 ^ s.rf 0x003 0x04C 3 0 = n at hfull hsize ⊢
  generalize s.rf 0x003 0x050 11 0 = t at hfull hsize ht ⊢
  rw [Nat.mod_eq_of_lt hsize] at hfull ⊢
  obtain hlt | heq : t + 1 < n ∨ t + 1 = n := by omega
  · rw [Nat.mod_eq_of_lt hlt]
    obtain h4 | h4 : t + 1 < 4096 ∨ t + 1 = 4096 := by omega
    · rw [Nat.mod_eq_of_lt h4, Nat.mod_eq_of_lt hlt]; omega
    · rw [h4, Nat.mod_self, Nat.zero_mod]; omega
  · rw [heq, Nat.mod_self] at hfull ⊢
    simpa using hfull.symm

/-- The record at the head of the ring is the one placed. -/
theorem State.placed_sqRecord (hhead : s.rf 0x003 0x050 11 0 = s.rf 0x003 0x054 11 0) : (s.placed op f).sqRecord = cmdWords f op := by
  have hrec : ∀ w, w < 16 → (s.placed op f).recWord s.cmdLoc s.sqBase w = (cmdWords f op).getD w 0 := fun w hw =>
    State.recWord_putRec s s.cmdLoc (n := 8) (length_cmdWords op f) (by decide) hw
  have hlist : (List.range 16).map ((s.placed op f).recWord s.cmdLoc s.sqBase) = cmdWords f op := by
    refine List.ext_getElem (by rw [List.length_map, List.length_range, length_cmdWords]) fun w hw _ => ?_
    rw [List.length_map, List.length_range] at hw
    rw [List.getElem_map, List.getElem_range, hrec w hw, List.getD_eq_getElem _ _ (by rwa [length_cmdWords])]
  simp only [State.sqRecord, s.placed_cmdLoc, s.placed_ringBase, s.placed_rf op f (show 0x054 < 0x1000 by decide) (by decide), ← hhead]
  exact hlist

/-- A ring in which the command is taken at once may take the record placed. -/
theorem State.placed_mayTake (hop : op < 65536) (h : s.takesCommand f) : (s.placed op f).mayTake = true := by
  obtain ⟨-, -, hrun, hhead, hsize, hfull, hcq, hheld, htaken, hfl, -, hfence, -⟩ := h
  obtain ⟨-, -, -, hbit, -⟩ := word0_fields op f hop
  have hempty := State.placed_sqEmpty (op := op) (f := f) hhead hsize hfull
  have hwait : (s.placed op f).cqWait = false := by
    rw [State.cqWait, s.placed_cqFull, s.placed_cmd, hcq, hheld]; simp
  have hf : (f.fence && !s.flights.isEmpty) = false := by
    rw [Bool.and_eq_false_imp]
    intro hb
    rw [hfence hb]
    rfl
  rw [State.mayTake, hempty, hwait, s.placed_cmdRun, hrun, s.placed_cmd, s.placed_flights, State.placed_sqRecord hhead,
    hbit, hf, decide_eq_true htaken, decide_eq_true hfl]
  rfl

/-- The host's record is placed, and intake goes on. -/
theorem State.submit_of_takes (h : s.takesCommand f) : s.submit op f = (s.placed op f).intake := by
  obtain ⟨hh, hk, -, -, -, hfull, -⟩ := h
  have hframe := SameButMemory.putRec s s.cmdLoc s.sqBase (cmdWords f op)
  have hword : (BitVec.ofNat 32 s.sqNext).toNat = s.sqNext := by rw [BitVec.toNat_ofNat, Nat.mod_eq_of_lt s.sqNext_lt_word]
  have hv : fld (BitVec.ofNat 32 s.sqNext) 11 0 < 2 ^ (s.putRec s.cmdLoc s.sqBase (cmdWords f op)).rf 0x003 0x04C 3 0 := by
    have hsize := hframe.congr (fun t => t.rf 0x003 0x04C 3 0) fun _ _ _ _ => rfl
    rw [fld, hword]
    exact (Nat.mod_le _ _).trans_lt (s.sqNext_lt.trans_eq (congrArg (2 ^ ·) hsize.symm))
  have hears : (s.putRec s.cmdLoc s.sqBase (cmdWords f op)).hears 0x003 := (hframe.congr (fun t => t.hears 0x003) fun _ _ _ _ => rfl).mpr hh
  have hlock : (s.putRec s.cmdLoc s.sqBase (cmdWords f op)).locked 0x003 = false :=
    (hframe.congr (fun t => t.locked 0x003) fun _ _ _ _ => rfl).trans hk
  obtain ⟨-, hoff, -, -⟩ := hh
  have hwrite := State.hostWrite_sqTail hears hlock hv
  rw [hword] at hwrite
  rw [State.submit, hoff, hfull, Bool.or_false, if_neg Bool.false_ne_true]
  exact hwrite

end takes

/-! ### The record taken (rules R126, R129, R135) -/

theorem mem_of_mem_dropOldest {l : List JEntry} {x : JEntry} (h : x ∈ dropOldest l) : x ∈ l := by
  rw [dropOldest, List.span_eq_takeWhile_dropWhile] at h
  rw [← List.mem_reverse, ← List.takeWhile_append_dropWhile (p := fun e : JEntry => decide (e.disp = .inFlight)) (l := l.reverse),
    List.mem_append]
  split at h
  · next a b rest heq =>
    rw [Prod.mk.injEq] at heq
    rw [heq.1, heq.2]
    rw [List.mem_reverse, List.mem_append] at h
    exact h.imp_right (List.mem_cons_of_mem b)
  · next a heq =>
    rw [Prod.mk.injEq] at heq
    rw [heq.1]
    exact .inl (List.mem_reverse.1 h)

/-- In flight beside a new record are only commands that were before. -/
theorem State.mem_flights_jadd {s : State} {e x : JEntry} (h : x ∈ (s.jadd e).flights) : x = e ∨ x ∈ s.flights := by
  simp only [State.flights, State.jadd, List.mem_reverse, List.mem_filter] at h ⊢
  obtain ⟨hx, hd⟩ := h
  obtain rfl | hx := List.mem_cons.1 hx
  · exact .inl rfl
  · refine .inr ⟨?_, hd⟩
    split at hx
    · exact mem_of_mem_dropOldest hx
    · exact hx

/-- A command waits for no other where none in flight names or holds its handle. -/
theorem State.blocked_jadd {s : State} {e : JEntry}
    (h : ∀ x ∈ s.flights, e.named = 0 ∨ (x.named ≠ e.named ∧ x.handle ≠ e.named)) : (s.jadd e).blocked e = false := by
  rw [State.blocked, Bool.and_eq_false_imp]
  intro hn
  rw [List.any_eq_false]
  intro x hx
  obtain ⟨hseq, hmem⟩ := List.mem_takeWhile_imp hx, (List.takeWhile_prefix _).subset hx
  obtain rfl | hmem := State.mem_flights_jadd hmem
  · simp at hseq
  · obtain h0 | ⟨h1, h2⟩ := h x hmem
    · simp [h0] at hn
    · simp [h1, h2]

section takes

variable {s : State} {op : Nat} {f : CmdFields}

/-- The words of the record placed are good, and meeting them does nothing. -/
theorem State.placed_meet : (if s.cmdLoc then (s.placed op f).meetEx s.sqBase 8 else s.placed op f) = s.placed op f := by
  split
  · next hl =>
    refine State.meetEx_of_good fun i hi => ?_
    show (s.putRec s.cmdLoc s.sqBase (cmdWords f op)).isBad 28 ((s.sqBase + i) % 0x10000) = false
    rw [hl]
    exact s.isBad_putRec (by rw [length_cmdWords]; omega)
  · rfl

/-- The record placed and both indices past it, its command counted. -/
def State.takenOff (s : State) (op : Nat) (f : CmdFields) : State :=
  { (s.placed op f).setReg 0x003 0x054 (BitVec.ofNat 32 s.sqNext) with cmd := { (s.placed op f).cmd with taken := s.cmd.taken + 1 } }

theorem State.recorded_eq : s.recorded op f = (s.takenOff op f).jadd (recordOf op f) := rfl

theorem State.takenOff_jrn : (s.takenOff op f).cmd.jrn = s.cmd.jrn :=
  show (s.placed op f).cmd.jrn = s.cmd.jrn by rw [s.placed_cmd]

/-- The record at the head of the ring is taken off it. -/
theorem State.placed_takeOne (hhead : s.rf 0x003 0x050 11 0 = s.rf 0x003 0x054 11 0) :
    (s.placed op f).takeOne = (s.takenOff op f).takeRecord (cmdWords f op) := by
  have hbase : (s.placed op f).ringBase 0x003 0x044 0x048 + (s.placed op f).rf 0x003 0x054 11 0 * 8 =
      s.ringBase 0x003 0x044 0x048 + s.rf 0x003 0x050 11 0 * 8 := by
    rw [s.placed_ringBase, s.placed_rf op f (by decide) (by decide), hhead]
  have hmeet : (if (s.placed op f).cmdLoc then (s.placed op f).meetEx ((s.placed op f).ringBase 0x003 0x044 0x048 +
      (s.placed op f).rf 0x003 0x054 11 0 * 8) 8 else s.placed op f) = s.placed op f := by
    rw [s.placed_cmdLoc, hbase]
    refine Eq.trans ?_ (State.placed_meet (s := s) (op := op) (f := f))
    split
    · next hl => rw [State.sqBase, if_pos hl]
    · rfl
  have hnext : ((s.placed op f).rf 0x003 0x054 11 0 + 1) % 2 ^ (s.placed op f).rf 0x003 0x04C 3 0 = s.sqNext := by
    rw [s.placed_rf op f (by decide) (by decide), s.placed_rf op f (by decide) (by decide), ← hhead, State.sqNext]
  have htaken : (s.placed op f).cmd.taken = s.cmd.taken := congrArg CmdSt.taken (s.placed_cmd op f)
  unfold State.takeOne
  simp only [hmeet, hnext, htaken, State.placed_sqRecord hhead]
  rfl

/-- A record whose sequence number is new and whose handle is free starts its command. -/
theorem State.takenOff_takeRecord (hnew : s.jfind f.seq = none)
    (hothers : ∀ e ∈ s.flights, f.handle = 0 ∨ (e.named ≠ f.handle ∧ e.handle ≠ f.handle)) :
    (s.takenOff op f).takeRecord (cmdWords f op) = startCmd (s.recorded op f) (recordOf op f) := by
  have hfind : (s.takenOff op f).jfind (recordOf op f).seq = none := by
    rw [State.jfind, State.takenOff_jrn]; exact hnew
  have hflights : (s.takenOff op f).flights = s.flights := by rw [State.flights, State.takenOff_jrn, State.flights]
  have hfree : (s.recorded op f).blocked (recordOf op f) = false := State.blocked_jadd (hflights ▸ hothers)
  have hrecord : (s.takenOff op f).takeRecord (cmdWords f op) = (s.recorded op f).enter (recordOf op f) := by
    unfold State.takeRecord
    simp only [show ({ words := cmdWords f op } : JEntry) = recordOf op f from rfl, hfind, State.recorded_eq]
  rw [hrecord, State.enter, hfree, if_neg Bool.false_ne_true]

/-! ### Intake (rules R107, R126) -/

theorem State.intakeN_settled {t : State} (h : t.settled) (n : Nat) : t.intakeN n = t := by
  obtain ⟨hwait, hempty⟩ := h
  have htake : t.mayTake = false := by rw [State.mayTake, hempty]; simp
  cases n with
  | zero => rfl
  | succ n => simp [State.intakeN, hwait, htake]

/-- Intake takes the one record placed, after which nothing more can start. -/
theorem State.placed_intake (hop : op < 65536) (h : s.takesCommand f)
    (hset : (startCmd (s.recorded op f) (recordOf op f)).settled) : let t := startCmd (s.recorded op f) (recordOf op f)
    (s.placed op f).intake = { t with cmd := { t.cmd with stalled := false } } := by
  intro t
  have htake := State.placed_mayTake hop h
  obtain ⟨-, -, hrun, hhead, -, -, -, -, -, -, hothers, -, hnew⟩ := h
  have hr : (s.placed op f).inReset = false := by
    have hrun' := (s.placed_cmdRun op f).trans hrun
    simp only [State.cmdRun, Bool.and_eq_true, Bool.not_eq_true'] at hrun'
    obtain ⟨⟨hr, -⟩, -⟩ := hrun'
    exact hr
  have hwait : (s.placed op f).flights.find? (fun e => e.wait && !(s.placed op f).blocked e) = none := by
    rw [List.find?_eq_none, s.placed_flights]
    intro e he
    obtain ⟨hw, -⟩ := hothers e he
    simp [hw]
  have hone : (s.placed op f).takeOne = t :=
    (State.placed_takeOne hhead).trans (State.takenOff_takeRecord hnew fun e he => (hothers e he).2)
  have hall : (s.placed op f).intakeN 512 = t := by
    show State.intakeN (511 + 1) _ = t
    rw [State.intakeN, hwait]
    simp only [htake, if_true]
    rw [hone, State.intakeN_settled hset]
  obtain ⟨-, hempty⟩ := id hset
  have hcq : t.cqWait = false := by rw [State.cqWait, hempty]; simp
  rw [State.intake, hr, if_neg Bool.false_ne_true]
  simp only [hall, hcq, Bool.false_and, Bool.false_eq_true, if_false]

/-- A command that is taken at once leaves what its start leaves, with intake not stalled. -/
theorem accepts_of_startCmd {c : Instr} {post : State → Prop} (hexec : exec c s = .next (s.submit op f)) (hop : op < 65536)
    (h : s.takesCommand f) (hpost : let t := startCmd (s.recorded op f) (recordOf op f)
      post { t with cmd := { t.cmd with stalled := false } }) : Accepts c op f s post := by
  intro hset
  refine ⟨_, hexec, ?_⟩
  rw [State.submit_of_takes h, State.placed_intake hop h hset]
  exact ⟨rfl, hpost⟩

end takes

/-! ### What a completion leaves alone (rules R125, R128, R135) -/

/-- Completions were posted: the journal, the ledger and the handle table stand, and of the registers only CQ_TAIL and the events of
the CMD page have changed. -/
structure Posted (s t : State) : Prop where
  jrn : t.cmd.jrn = s.cmd.jrn
  books : t.cmd.books = s.cmd.books
  ents : t.cmd.ents = s.cmd.ents
  cell : ∀ a, a ≠ addr 0x003 0x068 → a ≠ addr 0x003 0x014 → t.cell a = s.cell a

theorem Posted.refl (s : State) : Posted s s := ⟨rfl, rfl, rfl, fun _ _ _ => rfl⟩

theorem Posted.trans {s t u : State} (h : Posted s t) (g : Posted t u) : Posted s u :=
  ⟨g.jrn.trans h.jrn, g.books.trans h.books, g.ents.trans h.ents, fun a h1 h2 => (g.cell a h1 h2).trans (h.cell a h1 h2)⟩

theorem Posted.putRec (s : State) (loc : Bool) (base : Nat) (ws : List Word) : Posted s (s.putRec loc base ws) := by
  have h := SameButMemory.putRec s loc base ws
  exact ⟨h.congr (fun t => t.cmd.jrn) fun _ _ _ _ => rfl, h.congr (fun t => t.cmd.books) fun _ _ _ _ => rfl,
    h.congr (fun t => t.cmd.ents) fun _ _ _ _ => rfl, fun a _ _ => h.congr (fun t => t.cell a) fun _ _ _ _ => rfl⟩

theorem Posted.cqTail (s : State) (v : Word) (ph : Bool) :
    Posted s { s.setReg 0x003 0x068 v with cmd := { s.cmd with phase := ph } } :=
  ⟨rfl, rfl, rfl, fun a h _ => by
    show (s.setReg 0x003 0x068 v).cell a = s.cell a
    rw [State.cell_setReg, if_neg h]⟩

theorem Posted.raise (s : State) (bit : Nat) : Posted s (s.raise 0x003 bit) := by
  have hrest : (s.raise 0x003 bit).rest.cmd = s.rest.cmd := by rw [State.rest_raise]
  have h : (s.raise 0x003 bit).cmd = s.cmd := hrest
  exact ⟨by rw [h], by rw [h], by rw [h], fun a _ h2 => by rw [State.cell_raise, if_neg h2]⟩

theorem Posted.putCompl (s : State) (ws : List Word) (quiet : Bool) : Posted s (s.putCompl ws quiet) := by
  have hin : ∀ t : State, ∀ v ph, Posted t { t.setReg 0x003 0x068 v with cmd := { (t.setReg 0x003 0x068 v).cmd with phase := ph } } :=
    fun t v ph => Posted.cqTail t v ph
  unfold State.putCompl
  dsimp only
  split
  · exact (Posted.putRec ..).trans (hin ..)
  · exact ((Posted.putRec ..).trans (hin ..)).trans (Posted.raise ..)

theorem Posted.held (s : State) (l : List (List Word × Bool)) : Posted s { s with cmd := { s.cmd with held := l } } :=
  ⟨rfl, rfl, rfl, fun _ _ _ => rfl⟩

theorem Posted.flushHeld (s : State) (l : List (List Word × Bool)) : Posted s (s.flushHeld l) := by
  induction l generalizing s with
  | nil => exact .held ..
  | cons x l ih =>
    rw [State.flushHeld]
    split
    · exact (Posted.putCompl ..).trans (ih _)
    · exact .held ..

theorem Posted.postCompl (s : State) (ws : List Word) (quiet : Bool) : Posted s (s.postCompl ws quiet) :=
  (Posted.held ..).trans (.flushHeld ..)

theorem Posted.dups (ws : List Word) (l : List Bool) (s : State) :
    Posted s (l.foldl (fun s q => s.postCompl (dupWords ws s.heat) q) s) := by
  induction l generalizing s with
  | nil => exact .refl s
  | cons q l ih => exact (Posted.postCompl ..).trans (ih _)

/-! ### The journal entry of a command that completes -/

theorem State.jfind_jmod {s : State} {seq : Word} {x : JEntry} {g : JEntry → JEntry} (hg : ∀ y, (g y).seq = y.seq)
    (h : s.jfind seq = some x) : (s.jmod seq g).jfind seq = some (g x) := by
  have hseq : x.seq = seq := by simpa using List.find?_some h
  have hsame : ((fun y : JEntry => y.seq == seq) ∘ fun y => if y.seq = seq then g y else y) = fun y => y.seq == seq := by
    funext y
    by_cases hy : y.seq = seq <;> simp [hy, hg]
  show (s.cmd.jrn.map _).find? _ = _
  rw [List.find?_map, hsame]
  exact (congrArg (Option.map _) h).trans (by simp [hseq])

/-- The journal entry as its command's completion leaves it. -/
def JEntry.finished (x : JEntry) (status step : Nat) (handle : Word) (ws : List Word) : JEntry :=
  { x with disp := .done, status := status, step := if status = 0 then step else step - 1, wait := false,
           handle := handle, compl := ws, dups := [] }

theorem State.finish_posted (s : State) (e : JEntry) (status step detail : Nat) (handle a1 a2 : Word) :
    Posted (s.jmod e.seq fun x => x.finished status step handle (s.complWords e status step detail handle a1 a2))
      (s.finish e status step detail handle a1 a2) := by
  simp only [State.finish]
  exact (Posted.postCompl ..).trans (Posted.dups ..)

/-- A command that completes is done with its status and its completion words. -/
theorem State.finish_doneAs {s : State} {e x : JEntry} (h : s.jfind e.seq = some x) (status step detail : Nat) (handle a1 a2 : Word) :
    (s.finish e status step detail handle a1 a2).doneAs e.seq status (s.complWords e status step detail handle a1 a2) := by
  refine ⟨x.finished status step handle (s.complWords e status step detail handle a1 a2), ?_, rfl, rfl, rfl⟩
  rw [State.jfind, (s.finish_posted ..).jrn]
  exact State.jfind_jmod (fun _ => rfl) h

theorem State.finish_books (s : State) (e : JEntry) (status step detail : Nat) (handle a1 a2 : Word) :
    (s.finish e status step detail handle a1 a2).cmd.books = s.cmd.books := (s.finish_posted ..).books

theorem State.finish_ents (s : State) (e : JEntry) (status step detail : Nat) (handle a1 a2 : Word) :
    (s.finish e status step detail handle a1 a2).cmd.ents = s.cmd.ents := (s.finish_posted ..).ents

theorem State.finish_cmdSel (s : State) (e : JEntry) (status step detail : Nat) (handle a1 a2 : Word) :
    (s.finish e status step detail handle a1 a2).cmdSel = s.cmdSel :=
  congrArg (fun v : Word => fld v 23 16) ((s.finish_posted e status step detail handle a1 a2).cell (addr 0x000 0x058) (by decide) (by decide))

/-! ### The record of a command that starts -/

section recorded

variable (s : State) (op : Nat) (f : CmdFields)

/-- The state in which a recorded command starts: it does not wait. -/
def State.started : State := (s.recorded op f).jmod f.seq fun x => { x with wait := false }

theorem State.started_books : (s.started op f).cmd.books = s.cmd.books := by
  show (s.placed op f).cmd.books = s.cmd.books
  rw [s.placed_cmd]

theorem State.started_ents : (s.started op f).cmd.ents = s.cmd.ents := by
  show (s.placed op f).cmd.ents = s.cmd.ents
  rw [s.placed_cmd]

theorem State.started_jfind : (s.started op f).jfind f.seq = some (recordOf op f) := by
  refine State.jfind_jmod (x := recordOf op f) (fun _ => rfl) ?_
  exact List.find?_cons_of_pos (beq_self_eq_true f.seq)

theorem State.cell_jmod (seq : Word) (g : JEntry → JEntry) (a : Nat) : (s.jmod seq g).cell a = s.cell a := rfl

theorem State.cell_jadd (e : JEntry) (a : Nat) : (s.jadd e).cell a = s.cell a := rfl

theorem State.started_cell {a : Nat} (h1 : a ≠ addr 0x003 0x050) (h2 : a ≠ addr 0x003 0x054) : (s.started op f).cell a = s.cell a := by
  have hoff : (s.takenOff op f).cell a = ((s.placed op f).setReg 0x003 0x054 (BitVec.ofNat 32 s.sqNext)).cell a := rfl
  rw [State.started, State.cell_jmod, State.recorded_eq, State.cell_jadd, hoff, State.cell_setReg, if_neg h2, s.placed_cell op f h1]

theorem State.started_cmdSel : (s.started op f).cmdSel = s.cmdSel :=
  congrArg (fun v : Word => fld v 23 16) (s.started_cell op f (a := addr 0x000 0x058) (by decide) (by decide))

end recorded

/-! ### Rules 2 to 7 of R611 for the commands that execute whatever the service -/

section start

variable {s t : State} {e : JEntry} (hs : s.jmod e.seq (fun x => { x with wait := false }) = t)
  (he : ({ e with wait := false } : JEntry) = e) (hr : fld (e.w 0) 31 27 = 0) (hbit : (e.w 0).getLsbD 24 = false)

include hs he hr hbit

theorem startCmd_versionSelect (hop : e.op = 0x0101) (hv : fld (e.w 0) 23 16 = 1) : startCmd s e = versionSelect t e := by
  have hal : opAlways 0x0101 = true := by decide
  unfold startCmd
  simp only [hs, he, hop, hv, hr, hbit, hal, Bool.true_eq_false, and_false, if_false, if_true, ne_eq, not_true, Bool.false_eq_true,
    or_self]

theorem startCmd_ledgerQuery (hop : e.op = 0x0102) (hv : fld (e.w 0) 23 16 = t.cmdSel) (h0 : t.cmdSel ≠ 0) :
    startCmd s e = ledgerQuery t e := by
  have hal : opAlways 0x0102 = true := by decide
  have hsince : opSince 0x0102 = some 1 := by decide
  have hcls : (opClass 0x0102).isSome = false := by decide
  have hold : ¬ 1 > t.cmdSel := by omega
  have hfirst : firstStep t e = ledgerQuery t e := by rw [firstStep, hop]; rfl
  unfold startCmd
  simp only [hs, he, hop, hv, hr, hbit, hal, hsince, hcls, hold, hfirst, Bool.true_eq_false, and_false, false_and, if_false, ne_eq,
    not_true, Bool.false_eq_true, or_self, show ¬ (0x0102 = 0x0101) by decide, show ¬ (0x0102 = 0x0103) by decide]

theorem startCmd_handleQuery (hop : e.op = 0x0103) (hv : fld (e.w 0) 23 16 = t.cmdSel) (h0 : t.cmdSel ≠ 0) :
    startCmd s e = handleQuery t e := by
  have hal : opAlways 0x0103 = true := by decide
  have hsince : opSince 0x0103 = some 1 := by decide
  have hold : ¬ 1 > t.cmdSel := by omega
  unfold startCmd
  simp only [hs, he, hop, hv, hr, hbit, hal, hsince, hold, Bool.true_eq_false, and_false, false_and, if_false, if_true, ne_eq,
    not_true, Bool.false_eq_true, or_self, show ¬ (0x0103 = 0x0101) by decide]

end start

/-- What a record of an opcode says in word 0. -/
theorem recordOf_fields {op : Nat} (hop : op < 65536) {f : CmdFields} (hrsv : f.rsv = 0) (hnow : f.nowait = false) :
    (recordOf op f).op = op ∧ fld ((recordOf op f).w 0) 23 16 = f.ver.toNat ∧ fld ((recordOf op f).w 0) 31 27 = 0 ∧
      ((recordOf op f).w 0).getLsbD 24 = false := by
  obtain ⟨h1, h2, h3, -, h5⟩ := word0_fields op f hop
  exact ⟨h1, h2, h5.trans (congrArg BitVec.toNat hrsv), h3.trans hnow⟩

/-! ### The three answers -/

section answers

variable {t : State} {e x : JEntry} (hj : t.jfind e.seq = some x)

include hj

/-- VERSION_SELECT of a version in range takes it where no handle is live. -/
theorem versionSelect_takes (hbad : badWord e [(3, 0xFF)] [] = none) (h1 : 1 ≤ fld (e.w 3) 7 0) (h3 : fld (e.w 3) 7 0 ≤ 3)
    (hlive : t.hostLive = false) : (versionSelect t e).cmdSel = fld (e.w 3) 7 0 ∧ ∃ ws, (versionSelect t e).doneAs e.seq stOK ws := by
  have hrange : ¬ (fld (e.w 3) 7 0 < 1 ∨ 3 < fld (e.w 3) 7 0) := by omega
  unfold versionSelect
  simp only [hbad, hrange, hlive, if_false, Bool.false_eq_true]
  split
  · next hsame => exact ⟨(State.finish_cmdSel ..).trans hsame.symm, _, State.finish_doneAs hj ..⟩
  · have hset : (t.setRf 0x000 0x058 23 16 (fld (e.w 3) 7 0)).jfind e.seq = some x := hj
    refine ⟨(State.finish_cmdSel ..).trans ?_, _, State.finish_doneAs hset ..⟩
    rw [State.cmdSel, State.rf, State.setRf, State.reg_setReg_same, fld_setFld_same _ _ (by decide)]
    exact Nat.mod_eq_of_lt (by omega)

/-- LEDGER_QUERY answers the pool's balance and books nothing. -/
theorem ledgerQuery_answers (hbad : badWord e [(3, 0xF)] [(3, decide (1 ≤ fld (e.w 3) 3 0 ∧ fld (e.w 3) 3 0 ≤ 6))] = none) :
    let p := fld (e.w 3) 3 0
    (ledgerQuery t e).cmd.books = t.cmd.books ∧ (ledgerQuery t e).doneAs e.seq stOK (t.complWords e stOK 1 (t.poolFree p) 0
      (BitVec.ofNat 32 (t.booked p % 2 ^ 28 + p * 2 ^ 28)) (BitVec.ofNat 32 (poolCap p + p * 2 ^ 28))) := by
  intro p
  unfold ledgerQuery
  simp only [hbad]
  exact ⟨State.finish_books .., State.finish_doneAs hj ..⟩

/-- HANDLE_QUERY answers what stands at an entry, where the handle names it or has GEN 0. -/
theorem handleQuery_answers (hbad : badWord e [] [] = none) (hok : hGen e.named = 0 ∨
      ((1 ≤ hCls e.named ∧ hCls e.named ≤ 7 ∨ hCls e.named = 15) ∧ (t.ent (hIdx e.named)).st = .live ∧
        (t.ent (hIdx e.named)).gen = hGen e.named)) :
    let i := hIdx e.named
    let y := t.ent i
    let b := t.bookWords (if y.cls = 15 then .sys (1000 + i) else .entry i)
    (handleQuery t e).cmd.ents = t.cmd.ents ∧ (handleQuery t e).doneAs e.seq stOK (t.complWords e stOK 1
      (y.gen + (match y.st with | .free => 0 | .live => 1 | .dying => 2) * 2 ^ 16 + b2n y.torn * 2 ^ 18 + b2n y.sys * 2 ^ 19
        + y.cls * 2 ^ 20) (if hGen e.named = 0 then t.handleOf i else e.named) b.1 b.2) := by
  intro i y b
  have hcls : ¬ (hGen e.named ≠ 0 ∧ ¬ ((1 ≤ hCls e.named ∧ hCls e.named ≤ 7) ∨ hCls e.named = 15)) := by
    rintro ⟨hgen, hno⟩
    obtain h0 | ⟨hc, -⟩ := hok
    · exact hgen h0
    · exact hno hc
  have hstale : (decide (hGen e.named ≠ 0) && ((t.ent i).st != .live || (t.ent i).gen != hGen e.named)) = false := by
    obtain h0 | ⟨-, hst, hgen⟩ := hok
    · simp [h0]
    · simp [i, hst, hgen]
  have heq : handleQuery t e = t.finish e stOK 1
      (y.gen + (match y.st with | .free => 0 | .live => 1 | .dying => 2) * 2 ^ 16 + b2n y.torn * 2 ^ 18 + b2n y.sys * 2 ^ 19
        + y.cls * 2 ^ 20) (if hGen e.named = 0 then t.handleOf i else e.named) b.1 b.2 := by
    unfold handleQuery
    rw [if_neg hcls, if_neg (by rw [hstale]; exact Bool.false_ne_true), hbad] <;> rfl
  rw [heq]
  exact ⟨State.finish_ents .., State.finish_doneAs hj ..⟩

end answers

/-- Settles O39: the record placed is taken and starts, and its completion is the answer. -/
theorem queriesAnswer : Obligations.QueriesAnswer := by
  intro s f ht hrsv hnow
  refine ⟨?_, ?_, ?_⟩
  · intro hver hbad h1 h3 hlive
    obtain ⟨hop, hv, hr, hbit⟩ := recordOf_fields (op := 0x0101) (by decide) hrsv hnow
    refine accepts_of_startCmd (c := .versionSelect f) (op := 0x0101) rfl (by decide) ht ?_
    rw [startCmd_versionSelect (t := s.started 0x0101 f) rfl rfl hr hbit hop (hv.trans hver)]
    have hlive' : (s.started 0x0101 f).hostLive = false := by rw [State.hostLive, s.started_ents]; exact hlive
    obtain ⟨hsel, ws, hdone⟩ := versionSelect_takes (e := recordOf 0x0101 f) (s.started_jfind 0x0101 f) hbad h1 h3 hlive'
    exact ⟨hsel, ws, hdone⟩
  · intro hver h0 p hbad
    obtain ⟨hop, hv, hr, hbit⟩ := recordOf_fields (op := 0x0102) (by decide) hrsv hnow
    have hsel := s.started_cmdSel 0x0102 f
    refine accepts_of_startCmd (c := .ledgerQuery f) (op := 0x0102) rfl (by decide) ht ?_
    rw [startCmd_ledgerQuery (t := s.started 0x0102 f) rfl rfl hr hbit hop (hv.trans (hver.trans hsel.symm)) (hsel ▸ h0)]
    obtain ⟨hbooks, hdone⟩ := ledgerQuery_answers (e := recordOf 0x0102 f) (s.started_jfind 0x0102 f) hbad
    exact ⟨hbooks.trans (s.started_books 0x0102 f), hdone⟩
  · intro hver h0 hbad x hok
    obtain ⟨hop, hv, hr, hbit⟩ := recordOf_fields (op := 0x0103) (by decide) hrsv hnow
    have hsel := s.started_cmdSel 0x0103 f
    have hent : (s.started 0x0103 f).ent (hIdx f.handle) = s.ent (hIdx f.handle) := by rw [State.ent, s.started_ents, State.ent]
    have hown : (s.started 0x0103 f).handleOf (hIdx f.handle) = s.handleOf (hIdx f.handle) := by
      rw [State.handleOf, hent, State.handleOf]
    refine accepts_of_startCmd (c := .handleQuery f) (op := 0x0103) rfl (by decide) ht ?_
    rw [startCmd_handleQuery (t := s.started 0x0103 f) rfl rfl hr hbit hop (hv.trans (hver.trans hsel.symm)) (hsel ▸ h0)]
    have hnamed : (recordOf 0x0103 f).named = f.handle := rfl
    obtain ⟨hents, hdone⟩ := handleQuery_answers (e := recordOf 0x0103 f) (s.started_jfind 0x0103 f) hbad
      (by rw [hnamed, hent]; exact hok)
    rw [hnamed, hent, hown] at hdone
    exact ⟨hents.trans (s.started_ents 0x0103 f), hdone⟩

end Sys2Proof.Machine

/-! ## Repeats and the cycle budget of the Casak cores (rules R113, R455, R456, R471) -/

namespace Sys2Proof.Machine

/-! ### REP and REPN (rules R455, R456) -/

/-- What a repeat instruction makes of its core: LC takes the count, a count of 0 passes the next instruction over. -/
def Core.repeatBy (c : Core) (n : Bool) (num : BitVec 16) : Core :=
  if num = 0 then { c with lc := 0, skip := true, pc := c.pc + 4 }
  else { c with lc := num, repAct := true, repN := n, repFirst := true, pc := c.pc + 4 }

/-- The count of a repeat instruction: LC's, or its own field and one more. -/
def Core.repCount (c : Core) (src : Bool) (cnt : BitVec 12) : BitVec 16 := if src then c.lc else cnt.zeroExtend 16 + 1

/-- How a repeat instruction issues. -/
def repIssue (c : Core) (n src : Bool) : Issue :=
  { len := 4, ctl := true, noRep := true, bad := n && src && decide (c.lc.toNat > 4096) }

/-- A repeat instruction whose count is in range, where a control instruction may stand, sets its repeat up. -/
theorem repeatOf_ready {k : CoreId} {s : State} {n src : Bool} {cnt : BitVec 12} (h : s.readyCtl k)
    (hn : n = true → src = true → (s.core k).lc.toNat ≤ 4096) :
    let q := repIssue (s.core k) n src
    repeatOf k n src cnt s = (((s.stalled k q).modCore k fun c => c.repeatBy n (c.repCount src cnt)).modCore k fun c =>
      c.issued ((s.core k).stalled q.uses).clk q).stopIfDue k := by
  intro q
  obtain ⟨hready, hslot, hrep⟩ := h
  have hbad : q.bad = false := by
    cases n with
    | false => rfl
    | true => cases src with
      | false => rfl
      | true => exact decide_eq_false (Nat.not_lt.2 (hn rfl rfl))
  have hown : repeatOf k n src cnt s = s.issue k q fun t => .own (t.modCore k fun c => c.repeatBy n (c.repCount src cnt)) := rfl
  rw [hown]
  exact State.issue_own hready (Nat.le_refl 4) hbad (fun _ => ⟨hslot, hrep⟩) (fun _ => hrep) rfl

/-- The two repeat instructions, REP and REPN. -/
theorem exec_repeat (k : CoreId) (n src : Bool) (cnt : BitVec 12) (s : State) :
    exec (if n then .repn k src cnt else .rep k src cnt) s = .next (repeatOf k n src cnt s) := by
  cases n <;> rfl

/-- A repeat instruction completes with LC at its count and the next instruction the repeated one, or passed over at a count of 0. -/
theorem repeat_sets {k : CoreId} {s : State} {n src : Bool} {cnt : BitVec 12} (h : s.readyCtl k)
    (hn : n = true → src = true → (s.core k).lc.toNat ≤ 4096) :
    let num := (s.core k).repCount src cnt
    ∃ t, exec (if n then .repn k src cnt else .rep k src cnt) s = .next t ∧ (t.core k).pc = (s.core k).pc + 4 ∧
      (t.core k).slot = .no ∧ (t.core k).lc = num ∧
      (num ≠ 0 → (t.core k).repAct = true ∧ (t.core k).repN = n ∧ (t.core k).repFirst = true ∧ (t.core k).skip = false) ∧
      (num = 0 → (t.core k).repAct = false ∧ (t.core k).skip = true) ∧
      CoreFrame (s.core k) (t.core k) [] [] [] [] ∧ SegXY (s.core k) (t.core k) ∧ Outside k s t := by
  intro num
  refine ⟨_, exec_repeat .., ?_⟩
  rw [repeatOf_ready h hn]
  obtain ⟨⟨-, -, hskip⟩, hslot, hrep⟩ := h
  obtain ⟨st, sr, hcore, hst, hout⟩ := State.stopIfDue_core (((s.stalled k (repIssue (s.core k) n src)).modCore k fun c =>
    c.repeatBy n (c.repCount src cnt)).modCore k fun c =>
      c.issued ((s.core k).stalled (repIssue (s.core k) n src).uses).clk (repIssue (s.core k) n src)) k
  have houtside := (((Outside.setCore s k _).trans (Outside.setCore _ k _)).trans (Outside.setCore _ k _)).trans hout
  rw [State.core_modCore_same, State.core_modCore_same, State.core_stalled] at hcore hst
  rw [hcore]
  have hnum : ((s.core k).stalled (repIssue (s.core k) n src).uses).repCount src cnt = num := rfl
  rw [hnum] at hst ⊢
  by_cases h0 : num = 0
  · rw [Core.repeatBy, if_pos h0] at hst ⊢
    exact ⟨rfl, hslot, h0.symm, fun h => absurd h0 h, fun _ => ⟨hrep, rfl⟩,
      ⟨fun _ _ => rfl, fun _ _ => rfl, fun _ _ => rfl, fun _ _ => rfl, rfl, rfl, rfl, rfl, rfl, hst⟩, ⟨rfl, rfl, rfl⟩, houtside⟩
  · rw [Core.repeatBy, if_neg h0] at hst ⊢
    exact ⟨rfl, hslot, rfl, fun _ => ⟨rfl, rfl, rfl, hskip⟩, fun h => absurd h h0,
      ⟨fun _ _ => rfl, fun _ _ => rfl, fun _ _ => rfl, fun _ _ => rfl, rfl, rfl, rfl, rfl, rfl, hst⟩, ⟨rfl, rfl, rfl⟩, houtside⟩

/-! ### The budget (rules R113, R471; that the overrun is counted at once, with the heat before, is log entry 25) -/

/-- An overrun changes no core. -/
theorem State.recordOverrun_core (s : State) (unit heat k : Nat) : (s.recordOverrun unit heat).core k = s.core k := by
  simp [State.recordOverrun, State.core, State.count]

/-- An overrun counts, is the last, and sets OVERRUN; no other register changes. -/
theorem State.recordOverrun_regs (s : State) (unit heat : Nat) : let t := s.recordOverrun unit heat
    t.reg 0x001 0x078 = cntUp (s.reg 0x001 0x078) ∧ t.reg 0x001 0x07C = BitVec.ofNat 32 (unit % 256 + heat % 2 ^ 24 * 256) ∧
    (t.reg 0x001 0x014).getLsbD 16 = true ∧
    ∀ a, a ≠ addr 0x001 0x078 → a ≠ addr 0x001 0x07C → a ≠ addr 0x001 0x014 → t.cell a = s.cell a := by
  refine ⟨?_, ?_, ?_, fun a h1 h2 h3 => ?_⟩
  · simp [State.recordOverrun, State.reg_cell, addr]
  · simp [State.recordOverrun, State.reg_cell, addr]
  · simp only [State.recordOverrun, State.reg_cell, State.cell_raise, if_true]
    exact getLsbD_or_two_pow _ (by decide)
  · simp [State.recordOverrun, h1, h2, h3]

/-- A user core whose cycle count has reached its booking is held, BUDGET is raised, and the heat before counts as overrun. -/
theorem budget_holds {k : CoreId} {s : State} (hrun : (s.core k).st = .run) (huser : (s.core k).user = true)
    (hcyc : s.rf (corePage k) 0x04C 19 0 ≤ (s.core k).cyc) :
    ∃ t, exec (.budget k) s = .next t ∧ t.core k = { s.core k with st := .held } ∧
      (t.reg (corePage k) 0x014).getLsbD 17 = true ∧ t.reg 0x001 0x078 = cntUp (s.reg 0x001 0x078) ∧
      t.reg 0x001 0x07C = BitVec.ofNat 32 (0x20 + k.val + (s.heat - 1) % 2 ^ 24 * 256) ∧
      (t.reg 0x001 0x014).getLsbD 16 = true ∧ (∀ j, j ≠ k.val → t.core j = s.core j) ∧
      (∀ p o, addr p o ≠ addr (corePage k) 0x014 → addr p o ≠ addr 0x001 0x078 → addr p o ≠ addr 0x001 0x07C →
        addr p o ≠ addr 0x001 0x014 → t.reg p o = s.reg p o) := by
  have hk := k.isLt
  let u := (s.setCore k { s.core k with st := .held }).raise (corePage k) 17
  have hexec : exec (.budget k) s = .next (u.recordOverrun (0x20 + k) (s.heat - 1)) := by
    have hdue : (decide ((s.core k).st = .run) && (s.core k).user && decide ((s.core k).cyc ≥ s.rf (corePage k) 0x04C 19 0)) = true := by
      rw [decide_eq_true hrun, huser, decide_eq_true hcyc]; rfl
    exact congrArg Host.Outcome.next (if_pos hdue)
  have hcore : ∀ j, u.core j = (s.setCore k { s.core k with st := .held }).core j := fun j => by
    show Tab.get _ u.cores j = Tab.get _ _ j
    rw [State.raise_cores]
  have hcell : ∀ a, u.cell a = if a = addr (corePage k) 0x014 then _ else s.cell a := fun a => State.cell_raise ..
  have hother : ∀ o, o < 0x1000 → addr 0x001 o ≠ addr (corePage k) 0x014 := fun o ho => by
    simp only [addr, corePage]; omega
  obtain ⟨hcount, hlast, hovr, hrest⟩ := u.recordOverrun_regs (0x20 + k) (s.heat - 1)
  refine ⟨_, hexec, ?_, ?_, ?_, ?_, hovr, fun j hj => ?_, fun p o h1 h2 h3 h4 => ?_⟩
  · rw [State.recordOverrun_core, hcore, State.core_setCore_same]
  · rw [State.reg_cell, hrest _ (hother _ (by decide)).symm (hother _ (by decide)).symm (hother _ (by decide)).symm, hcell, if_pos rfl]
    exact getLsbD_or_two_pow _ (by decide)
  · rw [hcount, State.reg_cell u, hcell, if_neg (hother _ (by decide)), State.reg_cell]
  · rw [hlast, Nat.mod_eq_of_lt (by omega : 0x20 + k.val < 256)]
  · rw [State.recordOverrun_core, hcore, State.core_setCore_ne _ _ hj]
  · rw [State.reg_cell, hrest _ h2 h3 h4, hcell, if_neg h1, State.reg_cell]

/-- Settles O13: the repeats by the count they set, the budget by what an overrun records. -/
theorem repeatsAndBudget : Obligations.RepeatsAndBudget := fun _ _ =>
  ⟨fun h _ _ _ hn => repeat_sets h hn, budget_holds⟩

end Sys2Proof.Machine

/-! ## The start of a recorded command (rules R92, R127, R129, R138, R611) -/

namespace Sys2Proof.Machine

/-! ### Every command of the host submits its record -/

/-- A command of the host with its opcode. -/
def IsCommand (f : CmdFields) (op : Nat) (c : Instr) : Prop := op < 65536 ∧ ∀ s, exec c s = .next (s.submit op f)

/-- The commands of the host with their opcodes. -/
def hostCommands (f : CmdFields) : List (Nat × Instr) :=
  [(0x0101, .versionSelect f), (0x0102, .ledgerQuery f), (0x0103, .handleQuery f), (0x0201, .chCreate f),
    (0x0202, .chModify f), (0x0203, .chDestroy f), (0x0301, .srchSubmit f), (0x0302, .srchCancel f), (0x0401, .injStart f),
    (0x0402, .injStop f), (0x0501, .toutSchedule f), (0x0502, .toutCancel f), (0x0601, .tinArm f), (0x0602, .tinDisarm f),
    (0x0701, .subscribe f), (0x0702, .unsubscribe f), (0x0801, .combCreate f), (0x0802, .combDestroy f), (0x0901, .timeStep f),
    (0x0902, .timeSlew f), (0x0903, .timeReepoch f)]

theorem isCommand_of_mem {f : CmdFields} : ∀ x ∈ hostCommands f, IsCommand f x.1 x.2 := by
  simp only [hostCommands, List.forall_mem_cons, List.not_mem_nil, false_implies, implies_true, and_true]
  refine ⟨?_, ?_, ?_, ?_, ?_, ?_, ?_, ?_, ?_, ?_, ?_, ?_, ?_, ?_, ?_, ?_, ?_, ?_, ?_, ?_, ?_⟩ <;> exact ⟨by decide, fun _ => rfl⟩

/-- The record placed is taken and its command starts, after which nothing more can start. -/
theorem IsCommand.ends {s : State} {f : CmdFields} {op : Nat} {c : Instr} (hc : IsCommand f op c) (h : s.takesCommand f)
    (hset : (startCmd (s.recorded op f) (recordOf op f)).settled) : let t := startCmd (s.recorded op f) (recordOf op f)
    Ends c s { t with cmd := { t.cmd with stalled := false } } := by
  obtain ⟨hop, hexec⟩ := hc
  refine ⟨_, hexec s, ?_⟩
  rw [State.submit_of_takes h, State.placed_intake hop h hset]
  exact .refl _

/-- A command whose start is known is accepted with what its start leaves. -/
theorem IsCommand.accepts {s t : State} {f : CmdFields} {op : Nat} {c : Instr} {post : State → Prop} (hc : IsCommand f op c)
    (h : s.takesCommand f) (hstart : startCmd (s.recorded op f) (recordOf op f) = t)
    (hpost : post { t with cmd := { t.cmd with stalled := false } }) : Accepts c op f s post :=
  accepts_of_startCmd (hc.2 s) hc.1 h (by rw [hstart]; exact hpost)

/-! ### Rules 2 to 7 of R611 -/

/-- What follows the check of a command's handle: the answer that refuses it, or the first step. -/
def State.afterCheck (s : State) (e : JEntry) : Option (Nat × Nat) → State
  | some (st, d) => s.answer e st d
  | none => firstStep s e

section start

variable {s : State} {op : Nat} {f : CmdFields}

theorem State.started_svc : (s.started op f).svc = s.svc :=
  congrArg (fun v : Word => fld v 2 0) (s.started_cell op f (a := addr 0x000 0x054) (by decide) (by decide))

theorem State.started_complWords (s : State) (op : Nat) (f : CmdFields) (e : JEntry) (status step detail : Nat) (h a1 a2 : Word) :
    (s.started op f).complWords e status step detail h a1 a2 = (s.recorded op f).complWords e status step detail h a1 a2 := rfl

variable (hop : op < 65536)

include hop

theorem recordOf_op : (recordOf op f).op = op := (word0_fields op f hop).1

theorem recordOf_ver : fld ((recordOf op f).w 0) 23 16 = f.ver.toNat := (word0_fields op f hop).2.1

/-- In a quench a command that does not always execute is not started. -/
theorem startCmd_quenched (h4 : s.svc = 4) (hal : opAlways op = false) :
    startCmd (s.recorded op f) (recordOf op f) = (s.started op f).notStarted (recordOf op f) stQUENCHED 0 := by
  have hq : (s.started op f).svc = 4 ∧ opAlways (recordOf op f).op = false := ⟨State.started_svc.trans h4, by rwa [recordOf_op hop]⟩
  exact if_pos hq

/-- In service 3 a command of another version than the one selected is answered so. -/
theorem startCmd_otherVersion (h3 : s.svc = 3) (h0101 : op ≠ 0x0101) (hver : f.ver.toNat ≠ s.cmdSel) :
    startCmd (s.recorded op f) (recordOf op f) = (s.started op f).answer (recordOf op f) stVERSION s.cmdSel := by
  have hsvc : (s.started op f).svc = 3 := State.started_svc.trans h3
  have hsel := s.started_cmdSel op f
  have hv : fld ((recordOf op f).w 0) 23 16 ≠ (s.started op f).cmdSel := by rwa [recordOf_ver hop, hsel]
  have hne : (recordOf op f).op ≠ 0x0101 := by rwa [recordOf_op hop]
  refine (if_neg fun h => ?_).trans ((if_neg fun h => h.1 hsvc).trans ((if_neg hne).trans ((if_pos hv).trans ?_)))
  · exact absurd (hsvc.symm.trans h.1) (by decide)
  · exact congrArg _ hsel

variable {v : Nat} (h3 : s.svc = 3) (hver : f.ver.toNat = s.cmdSel) (hrsv : f.rsv = 0) (hnow : f.nowait = false)
  (hsince : opSince op = some v) (hv : v ≤ s.cmdSel) (h0101 : op ≠ 0x0101) (h0103 : op ≠ 0x0103)

include h3 hver hrsv hnow hsince hv h0101 h0103

/-- In service 3 a known command of the version selected comes to the check of its handle. -/
theorem startCmd_checked : startCmd (s.recorded op f) (recordOf op f) = (s.started op f).afterCheck (recordOf op f)
    (if (opClass op).isSome then (s.started op f).checkHandle op f.handle else none) := by
  obtain ⟨hop', hver', hrsv', hnow'⟩ := recordOf_fields hop hrsv hnow
  have hwait : ({ recordOf op f with wait := false } : JEntry) = recordOf op f := rfl
  have hstart : (s.recorded op f).jmod (recordOf op f).seq (fun x => { x with wait := false }) = s.started op f := rfl
  have hsvc : (s.started op f).svc = 3 := State.started_svc.trans h3
  have hsel := s.started_cmdSel op f
  have hver'' : fld ((recordOf op f).w 0) 23 16 = (s.started op f).cmdSel := hver'.trans (hver.trans hsel.symm)
  have hold : ¬ v > (s.started op f).cmdSel := by omega
  have hnamed : (recordOf op f).named = f.handle := rfl
  unfold startCmd
  simp only [hwait, hstart, hop', hsvc, hver'', hsince, hold, hrsv', hnow', hnamed, h0101, h0103, if_false, false_and, ne_eq,
    not_true, not_false_eq_true, true_and, or_self, Bool.false_eq_true, show ¬ (3 = 4) by decide]
  rfl

/-- A handle that does not pass its check is answered before step 1. -/
theorem startCmd_badHandle {st d : Nat} (hcls : (opClass op).isSome) (hk : (s.started op f).checkHandle op f.handle = some (st, d)) :
    startCmd (s.recorded op f) (recordOf op f) = (s.started op f).answer (recordOf op f) st d := by
  rw [startCmd_checked hop h3 hver hrsv hnow hsince hv h0101 h0103, if_pos hcls, hk, State.afterCheck]

/-- A command whose handle, if it names one, passes its check does its first step. -/
theorem startCmd_firstStep (hk : (opClass op).isSome = true → (s.started op f).checkHandle op f.handle = none) :
    startCmd (s.recorded op f) (recordOf op f) = firstStep (s.started op f) (recordOf op f) := by
  have hnone : (if (opClass op).isSome then (s.started op f).checkHandle op f.handle else none) = none := by
    split
    · next hc => exact hk hc
    · rfl
  rw [startCmd_checked hop h3 hver hrsv hnow hsince hv h0101 h0103, hnone, State.afterCheck]

end start

/-! ### Handles as a started command finds them -/

theorem State.started_ent (s : State) (op : Nat) (f : CmdFields) (i : Nat) : (s.started op f).ent i = s.ent i := by
  rw [State.ent, s.started_ents, State.ent]

theorem State.started_checkHandle (s : State) (op op' : Nat) (f : CmdFields) (h : Word) :
    (s.started op f).checkHandle op' h = s.checkHandle op' h := by
  simp only [State.checkHandle, s.started_ent op f]

/-- The handle of an entry that is not live, or of another generation, is stale. -/
theorem State.checkHandle_stale {s : State} {op : Nat} {h : Word} (hc : opClass op = some (hCls h))
    (hno : (s.ent (hIdx h)).st ≠ .live ∨ (s.ent (hIdx h)).gen ≠ hGen h) : s.checkHandle op h = some (stSTALE, 0) := by
  have hs : (s.ent (hIdx h)).st ≠ .live ∨ (s.ent (hIdx h)).gen ≠ hGen h ∨ hGen h = 0 := hno.imp_right .inl
  exact (if_neg (not_not.2 hc)).trans (if_pos hs)

/-! ### Commands that have no effect -/

/-- The journal entry of a command that is not started. -/
def JEntry.unstarted (x : JEntry) (status : Nat) (ws : List Word) : JEntry :=
  { x with disp := .notStarted, status := status, step := 0, wait := false, compl := ws, dups := [] }

/-- A command not started: its journal entry says so, and neither ledger nor handle table has changed. -/
theorem State.notStarted_spec {s : State} {e x : JEntry} (h : s.jfind e.seq = some x) (status detail : Nat) :
    let t := s.notStarted e status detail
    ∃ j, t.jfind e.seq = some j ∧ j.disp = .notStarted ∧ j.status = status ∧ t.cmd.books = s.cmd.books ∧ t.cmd.ents = s.cmd.ents := by
  intro t
  have hpost : Posted (s.jmod e.seq fun x => x.unstarted status (s.complWords e status 0 detail e.named 0 0)) t :=
    (Posted.postCompl ..).trans (Posted.dups ..)
  refine ⟨x.unstarted status (s.complWords e status 0 detail e.named 0 0), ?_, rfl, rfl, hpost.books, hpost.ents⟩
  rw [State.jfind, hpost.jrn]
  exact State.jfind_jmod (fun _ => rfl) h

/-- A record answered before its step 1 is done with that answer, and neither ledger nor handle table has changed. -/
theorem State.answer_started (s : State) (op : Nat) (f : CmdFields) (status detail : Nat) :
    let t := (s.started op f).answer (recordOf op f) status detail
    t.doneAs f.seq status ((s.recorded op f).complWords (recordOf op f) status 0 detail f.handle 0 0) ∧
      t.cmd.books = s.cmd.books ∧ t.cmd.ents = s.cmd.ents :=
  ⟨State.finish_doneAs (e := recordOf op f) (s.started_jfind op f) .., (State.finish_books ..).trans (s.started_books op f),
    (State.finish_ents ..).trans (s.started_ents op f)⟩

/-- What executes whatever the service are the queries and VERSION_SELECT. -/
theorem opAlways_eq_false {op : Nat} (h : op ∉ [0x0101, 0x0102, 0x0103]) : opAlways op = false := by
  simpa [opAlways, and_assoc] using h

/-- Settles O38: intake takes the record placed, and each answer is a case of the command's start. -/
theorem intakeTakesRecords : Obligations.IntakeTakesRecords := by
  intro s f ht x hx r e
  have hc : IsCommand f x.1 x.2 := isCommand_of_mem x hx
  have hop := hc.1
  refine ⟨?_, fun h4 hal => ?_, fun h3 h0101 hver => ?_, fun h3 hver hrsv hnow ⟨v, hsince, hv⟩ hx hcls hno => ?_⟩
  · rintro t rfl hset
    exact hc.ends ht hset
  · obtain ⟨j, hj, hdisp, hstatus, hbooks, hents⟩ :=
      State.notStarted_spec (e := recordOf x.1 f) (s.started_jfind x.1 f) stQUENCHED 0
    exact hc.accepts ht (startCmd_quenched hop h4 (opAlways_eq_false hal))
      ⟨j, hj, hdisp, hstatus, hbooks.trans (s.started_books ..), hents.trans (s.started_ents ..)⟩
  · exact hc.accepts ht (startCmd_otherVersion hop h3 h0101 hver) (s.answer_started x.1 f stVERSION s.cmdSel)
  · have hk : (s.started x.1 f).checkHandle x.1 f.handle = some (stSTALE, 0) :=
      (s.started_checkHandle ..).trans (State.checkHandle_stale hcls hno)
    have hstart := startCmd_badHandle hop h3 hver hrsv hnow hsince hv (by rintro h; rw [h] at hx; simp at hx)
      (by rintro h; rw [h] at hx; simp at hx) (by rw [hcls]; rfl) hk
    exact hc.accepts ht hstart (s.answer_started x.1 f stSTALE 0)

end Sys2Proof.Machine

/-! ## The commands that end an object (rules R131, R205, R211) -/

namespace Sys2Proof.Machine

/-! ### What a sample of the return lane leaves alone (rules R205, R206) -/

/-- Commands, ring registers and the return lane itself are as before: only the page of the return lane may have changed. -/
def SampleOnly (s t : State) : Prop := t.cmd = s.cmd ∧ t.rl = s.rl ∧ ∀ a, a / 0x1000 ≠ 0x018 → t.cell a = s.cell a

theorem SampleOnly.refl (s : State) : SampleOnly s s := ⟨rfl, rfl, fun _ _ => rfl⟩

theorem SampleOnly.trans {s t u : State} (h : SampleOnly s t) (g : SampleOnly t u) : SampleOnly s u := by
  obtain ⟨h1, h2, h3⟩ := h
  obtain ⟨g1, g2, g3⟩ := g
  exact ⟨g1.trans h1, g2.trans h2, fun a ha => (g3 a ha).trans (h3 a ha)⟩

theorem SampleOnly.ite {c : Prop} [Decidable c] {s t u : State} (ht : SampleOnly s t) (hu : SampleOnly s u) :
    SampleOnly s (if c then t else u) := by
  split
  · exact ht
  · exact hu

/-- A fold whose steps only take samples, read through the part of its accumulator that is a state. -/
theorem SampleOnly.foldl {α β : Type} (get : β → State) {f : β → α → β} (h : ∀ b a, SampleOnly (get b) (get (f b a))) (l : List α)
    (b : β) : SampleOnly (get b) (get (l.foldl f b)) := by
  induction l generalizing b with
  | nil => exact .refl _
  | cons a l ih => exact (h b a).trans (ih _)

theorem State.injVal_sampleOnly (s : State) (j : InjJob) (at_ : Rat) : SampleOnly s (s.injVal j at_).2 := by
  unfold State.injVal
  split <;> exact .refl s

theorem State.injSum_sampleOnly (s : State) (at_ : Rat) : SampleOnly s (s.injSum at_).2 := by
  have hsum := SampleOnly.foldl (α := Nat × InjJob) (Prod.snd (α := Cx))
    (f := fun a e => if e.2.st = .active then ((a.2.injVal e.2 at_).1.add a.1, (a.2.injVal e.2 at_).2) else a)
    (fun a e => by
      split
      · exact a.2.injVal_sampleOnly e.2 at_
      · exact .refl _) s.rl.jobs ({}, s)
  unfold State.injSum
  refine .ite hsum (hsum.trans ⟨State.count_cmd .., ?_, fun a ha => State.cell_count_of_page (by decide) ha⟩)
  rw [State.count, State.setReg_rl]

/-- The state in which a frame's samples are taken: jobs that join have started. -/
def State.frameJoined (s : State) : State :=
  if s.rl.jobs.any fun e => e.2.st == .joining then s.injStarts .joining (s.tb.now - (s.el - s.rl.next)) else s

/-- A frame leaves commands and the rings' registers as the jobs that join with it leave them. -/
theorem State.rlOne_frame (s : State) : s.rlOne.cmd = s.frameJoined.cmd ∧
    ∀ a, a / 0x1000 ≠ 0x018 → s.rlOne.cell a = s.frameJoined.cell a := by
  have hslots := fun f => SampleOnly.foldl (α := Nat) (Prod.snd (α := List (Int × Int))) (f := f)
  have h := hslots (fun a k => if s.frameJoined.rl.st = .active then
      (a.1 ++ [(a.2.injSum (((s.tb.now - (s.el - s.rl.next) : Nat) : Rat) + ((k * s.frameTime : Nat) : Rat) / (s.rlSlots : Nat))).1],
        (a.2.injSum (((s.tb.now - (s.el - s.rl.next) : Nat) : Rat) + ((k * s.frameTime : Nat) : Rat) / (s.rlSlots : Nat))).2)
      else (a.1 ++ [(0, 0)], a.2)) (fun a k => by
    split
    · exact a.2.injSum_sampleOnly _
    · exact .refl _) (List.range s.rlSlots) ([], s.frameJoined)
  exact ⟨h.1, h.2.2⟩

/-- Step 1 of INJ_STOP leaves commands and the rings' registers as the frames up to now leave them. -/
theorem State.injStop_frame (s : State) (i : Nat) : (s.injStop i).cmd = s.rlRun.cmd ∧
    ∀ a, a / 0x1000 ≠ 0x018 → (s.injStop i).cell a = s.rlRun.cell a := by
  have hun : ∀ t : State, t.unsuspend.cmd = t.cmd ∧ ∀ a, a / 0x1000 ≠ 0x018 → t.unsuspend.cell a = t.cell a := fun t => by
    unfold State.unsuspend
    split
    · exact ⟨by simp, fun a ha => by rw [State.cell_syncIrq, State.cell_setReg_of_page (by decide) ha]⟩
    · exact ⟨rfl, fun _ _ => rfl⟩
  unfold State.injStop
  dsimp only
  split
  · exact ⟨rfl, fun _ _ => rfl⟩
  · exact hun _

/-! ### A job that joins under the number of the command that ends another -/

/-- A live injection object of entry 1, and a job of another entry that joins the running return lane with the next frame, which is due;
that job has the sequence number 9, which the journal does not hold. -/
def joiningState : State := { tObj 1 3 with
  rl := { st := .active, next := 5 * msUnits, jobs := [(0, { entry := 2, seq := 9, st := .joining })] } }

/-- INJ_STOP of entry 1, with the sequence number 9. -/
def stopOne : CmdFields := tF (mkHandle 3 1 1) []

/-- The state in which that INJ_STOP does its first step. -/
def stopStarts : State := joiningState.started 0x0402 stopOne

theorem joining_takes : joiningState.takesCommand stopOne := by
  unfold State.takesCommand State.hears
  decide +kernel

/-- One frame is due. -/
theorem stopStarts_rlRun : stopStarts.rlRun = stopStarts.rlOne := by
  have hdue : ¬ (stopStarts.inReset = true ∨ stopStarts.rl.st = .idle ∨
      (if stopStarts.rl.st = .leadIn ∨ stopStarts.rl.st = .tail then min stopStarts.el (stopStarts.rl.el + stopStarts.frames256 - 1)
        else stopStarts.el) < stopStarts.rl.next) := by decide +kernel
  have hone : ((if stopStarts.rl.st = .leadIn ∨ stopStarts.rl.st = .tail then min stopStarts.el (stopStarts.rl.el + stopStarts.frames256 - 1)
      else stopStarts.el) - stopStarts.rl.next) / stopStarts.frameTime + 1 = 1 := by decide +kernel
  unfold State.rlRun
  dsimp only
  rw [if_neg hdue, hone]
  rfl

/-- The state in which the INJ_STOP leaves its first step. -/
def stopped : State := ((stopStarts.injStop 1).dying 1).jstep 9 1 (stopStarts.heat + 1)

/-- What the INJ_STOP makes of the commands as the frame left them. -/
def stepsOf (c : CmdSt) : CmdSt := (({ joiningState with cmd := c } : State).dying 1 |>.jstep 9 1 (stopStarts.heat + 1)).cmd

theorem stopped_cmd : stopped.cmd = stepsOf stopStarts.frameJoined.cmd := by
  have h : (stopStarts.injStop 1).cmd = stopStarts.frameJoined.cmd := by
    rw [(stopStarts.injStop_frame 1).1, stopStarts_rlRun, stopStarts.rlOne_frame.1]
  rw [← h]
  rfl

theorem stopped_cell {a : Nat} (h : a / 0x1000 ≠ 0x018) : stopped.cell a = stopStarts.frameJoined.cell a := by
  show (stopStarts.injStop 1).cell a = _
  rw [(stopStarts.injStop_frame 1).2 a h, stopStarts_rlRun, stopStarts.rlOne_frame.2 a h]

theorem startCmd_stopOne : startCmd (joiningState.recorded 0x0402 stopOne) (recordOf 0x0402 stopOne) = stopped := by
  rw [startCmd_firstStep (v := 2) (by decide) (by decide +kernel) (by decide +kernel) rfl rfl (by decide) (by decide +kernel) (by decide)
    (by decide) fun _ => by decide +kernel]
  have hbad : badWord (recordOf 0x0402 stopOne) [] [] = none := by decide +kernel
  have hstep : firstStep stopStarts (recordOf 0x0402 stopOne) = stepEnd stopStarts (recordOf 0x0402 stopOne) := by
    rfl
  show firstStep stopStarts _ = _
  rw [hstep, stepEnd, hbad]
  rfl

/-- The frame's start of the job completed the command of number 9, the INJ_STOP. -/
theorem stopped_done : (stopped.jfind 9).map (·.disp) = some .done := by
  rw [State.jfind, stopped_cmd]
  decide +kernel

theorem stopped_settled : stopped.settled := by
  have hreg : ∀ o, o < 0x1000 → stopped.reg 0x003 o = stopStarts.frameJoined.reg 0x003 o := fun o ho =>
    stopped_cell (by simp only [addr]; omega)
  refine ⟨?_, ?_⟩
  · rw [State.flights, stopped_cmd]
    have hnone : ((stepsOf stopStarts.frameJoined.cmd).jrn.filter fun e => e.disp = .inFlight) = [] := by decide +kernel
    rw [hnone]
    rfl
  · simp only [State.sqEmpty, State.rf, hreg 0x04C (by decide), hreg 0x050 (by decide), hreg 0x054 (by decide)]
    decide +kernel

/-- Refutes O41: before an INJ_STOP ends its job, the frames of the return lane up to now are sent (rule R211), and a job that joins with
one completes the command in flight of its own sequence number. Nothing in the statement keeps that number apart from the new command's:
here the INJ_STOP is done, and not in flight. -/
theorem not_endersAndTimeAccept : ¬ Obligations.EndersAndTimeAccept := by
  intro h
  obtain ⟨hend, -⟩ := h joiningState stopOne joining_takes rfl rfl (by decide +kernel) (by decide +kernel) (by decide +kernel)
  have hstop := hend (0x0402, .injStop stopOne) (by simp) (by decide +kernel) (by decide +kernel) (fun hop => absurd hop (by decide))
  obtain ⟨t, hexec, -, -, ⟨e, hfind, hflight, -⟩, -⟩ := hstop (by rw [startCmd_stopOne]; exact stopped_settled)
  have hstate : t = { stopped with cmd := { stopped.cmd with stalled := false } } := by
    have hsub : joiningState.submit 0x0402 stopOne = { stopped with cmd := { stopped.cmd with stalled := false } } := by
      rw [State.submit_of_takes joining_takes, State.placed_intake (by decide) joining_takes (by rw [startCmd_stopOne]; exact stopped_settled),
        startCmd_stopOne]
    rw [← hsub]
    exact (Host.Outcome.next.inj hexec).symm
  have hdone : (t.jfind 9).map (·.disp) = some .done := by rw [hstate]; exact stopped_done
  rw [show t.jfind 9 = some e from hfind] at hdone
  rw [Option.map_some, hflight] at hdone
  cases hdone

end Sys2Proof.Machine

/-! ## Commands that make an object (rules R102 to R105, R119 to R121, R130, R132) -/

namespace Sys2Proof.Machine

/-! ### The state in which a recorded command starts -/

/-- Nothing has changed but registers, commands, exchange memory with its marks and host memory. -/
def SameButRing (s t : State) : Prop :=
  ({ t with regs := s.regs, cmd := s.cmd, exch := s.exch, bad := s.bad, hostMem := s.hostMem } : State) = s

/-- What does not look at these is the same. -/
theorem SameButRing.congr {α : Type} {s t : State} (h : SameButRing s t) (g : State → α)
    (hg : ∀ (t : State) r c x b m, g { t with regs := r, cmd := c, exch := x, bad := b, hostMem := m } = g t) : g t = g s :=
  (hg t _ _ _ _ _).symm.trans (congrArg g h)

theorem State.started_ring (s : State) (op : Nat) (f : CmdFields) : SameButRing s (s.started op f) := by
  have h := SameButMemory.putRec s s.cmdLoc s.sqBase (cmdWords f op)
  exact congrArg (fun t : State => { t with regs := s.regs, cmd := s.cmd }) h

/-! ### Allocating an entry (rules R119 to R121) -/

/-- The generation after one. -/
def nextGen (g : Nat) : Nat := if g ≥ 32767 then 1 else g + 1

theorem nextGen_ne_zero (g : Nat) : nextGen g ≠ 0 := by
  unfold nextGen
  split <;> omega

/-- The free queue with its head taken. -/
def CmdSt.takeHead (c : CmdSt) : CmdSt :=
  { c with fresh := if c.fresh < 8192 then c.fresh + 1 else c.fresh, freed := if c.fresh < 8192 then c.freed else c.freed.tail }

/-- The entry that an allocation makes. -/
def Entry.made (e : Entry) (cls : Nat) : Entry := { st := .live, gen := nextGen e.gen, cls := cls, torn := false, sys := false, host := true }

/-- The state in which the host's allocation of entry i leaves the handle table. -/
def State.allocated (s : State) (i cls : Nat) : State :=
  ({ s with cmd := s.cmd.takeHead } : State).setEnt i ((s.ent i).made cls)

/-- The entry at the head of the free queue is allocated where its class has room. -/
theorem State.alloc_of_room {s : State} {i cls : Nat} (hi : s.freeHead = some i) (hr : s.classRoom cls = true) :
    s.alloc cls true false = (some i, s.allocated i cls) := by
  rw [State.alloc, hi]
  simp only [hr, if_true]
  rfl

theorem State.ent_congr {s t : State} (h : t.cmd.ents = s.cmd.ents) (i : Nat) : t.ent i = s.ent i := by rw [State.ent, h, State.ent]

theorem State.jfind_congr {s t : State} (h : t.cmd.jrn = s.cmd.jrn) (q : Word) : t.jfind q = s.jfind q := by
  rw [State.jfind, h, State.jfind]

theorem State.ent_setEnt_same (s : State) (i : Nat) (e : Entry) : (s.setEnt i e).ent i = e := Tab.get_set_same ..

theorem State.ent_allocated (s : State) (i cls : Nat) : (s.allocated i cls).ent i = (s.ent i).made cls := State.ent_setEnt_same ..

/-- What happens to the commands beside the handle table leaves the entry as it was allocated. -/
theorem State.ent_of_allocated {u t : State} {i cls : Nat} (h : t.cmd.ents = (u.allocated i cls).cmd.ents) :
    t.ent i = (u.ent i).made cls := (State.ent_congr h i).trans (u.ent_allocated i cls)

theorem State.handleOf_made {s : State} {i cls : Nat} {e : Entry} (h : s.ent i = e.made cls) :
    s.handleOf i = mkHandle cls (nextGen e.gen) i := by
  rw [State.handleOf, h]
  exact if_neg (nextGen_ne_zero _)

/-! ### Bookings (rules R102 to R105, R112) -/

theorem sumAmt_foldl (l : List Booking) (n : Nat) : l.foldl (fun n b => n + b.amt) n = n + sumAmt l := by
  induction l generalizing n with
  | nil => rfl
  | cons b l ih => rw [sumAmt, List.foldl_cons, List.foldl_cons, ih, ih (0 + b.amt)]; omega

theorem sumAmt_append (l m : List Booking) : sumAmt (l ++ m) = sumAmt l + sumAmt m :=
  (List.foldl_append ..).trans (sumAmt_foldl m _)

theorem sumAmt_map {g : Booking → Booking} (hg : ∀ b, (g b).amt = b.amt) (l : List Booking) : sumAmt (l.map g) = sumAmt l := by
  simp only [sumAmt, List.foldl_map, hg]

/-- Bookings are the pools' balance (rule R112). -/
theorem State.booked_congr {s t : State} (h : t.cmd.books = s.cmd.books) {p : Nat} (hp : p ≠ 6) : t.booked p = s.booked p := by
  rw [State.booked, State.booked, if_neg hp, if_neg hp, h]

/-- A booking raises its own pool by its amount. -/
theorem State.booked_book (s : State) {p q : Nat} (amt : Nat) (own : Owner) (seq : Word) (hq : q ≠ 6) :
    (s.book p amt own seq).booked q = s.booked q + if p = q then amt else 0 := by
  unfold State.book
  split
  · next h0 => simp [h0]
  · rw [State.booked, State.booked, if_neg hq, if_neg hq, List.filter_append, sumAmt_append]
    by_cases hp : p = q <;> simp [hp, sumAmt]

/-- Bookings that pass to another owner keep their pools and amounts. -/
theorem State.booked_chown (s : State) (a b : Owner) {q : Nat} (hq : q ≠ 6) : (s.chown a b).booked q = s.booked q := by
  let give : Booking → Booking := fun x => if x.own = a then { x with own := b } else x
  have hpool : ∀ x : Booking, (give x).pool = x.pool := fun x => by simp only [give]; split <;> rfl
  have hamt : ∀ x : Booking, (give x).amt = x.amt := fun x => by simp only [give]; split <;> rfl
  have hsame : ((fun x : Booking => decide (x.pool = q)) ∘ give) = fun x => decide (x.pool = q) := by
    funext x
    exact congrArg (fun n => decide (n = q)) (hpool x)
  rw [State.booked, State.booked, if_neg hq, if_neg hq]
  show sumAmt ((s.cmd.books.map give).filter _) = _
  rw [List.filter_map, hsame, sumAmt_map hamt]

/-- The state with other bookings. -/
def State.withBooks (s : State) (l : List Booking) : State := { s with cmd := { s.cmd with books := l } }

/-- A booking changes the bookings only. -/
theorem State.book_withBooks (s : State) (p amt : Nat) (own : Owner) (seq : Word) : ∃ l, s.book p amt own seq = s.withBooks l := by
  unfold State.book
  split
  · exact ⟨s.cmd.books, rfl⟩
  · exact ⟨_, rfl⟩

theorem State.book_ent (s : State) (p amt : Nat) (own : Owner) (seq : Word) (i : Nat) : (s.book p amt own seq).ent i = s.ent i := by
  obtain ⟨l, hl⟩ := s.book_withBooks p amt own seq
  rw [hl]
  rfl

theorem State.book_jfind (s : State) (p amt : Nat) (own : Owner) (seq q : Word) : (s.book p amt own seq).jfind q = s.jfind q := by
  obtain ⟨l, hl⟩ := s.book_withBooks p amt own seq
  rw [hl]
  rfl

/-! ### A step done -/

/-- The journal entry with its handle and argument noted. -/
def JEntry.noted (y : JEntry) (h : Word) (arg : Nat) : JEntry := { y with handle := h, arg := arg }

/-- A command whose step is done is in flight with its next step due. -/
theorem State.inFlightAt_jstep {s : State} {seq : Word} {x : JEntry} (h : s.jfind seq = some x) (hx : x.disp = .inFlight)
    (step due : Nat) : (s.jstep seq step due).inFlightAt seq step due x.handle :=
  ⟨{ x with step := step, due := due }, State.jfind_jmod (g := fun e => { e with step := step, due := due }) (fun _ => rfl) h, hx, rfl, rfl, rfl⟩

/-- The same with its handle noted first. -/
theorem State.inFlightAt_noted {s : State} {seq : Word} {x : JEntry} (h : s.jfind seq = some x) (hx : x.disp = .inFlight)
    (hd : Word) (arg step due : Nat) : ((s.jmod seq fun y => y.noted hd arg).jstep seq step due).inFlightAt seq step due hd :=
  State.inFlightAt_jstep (x := x.noted hd arg) (State.jfind_jmod (g := fun y => y.noted hd arg) (fun _ => rfl) h) hx step due

/-- The first step of a started command, with no handle to check, is what intake leaves. -/
theorem IsCommand.accepts_first {s t : State} {f : CmdFields} {op v : Nat} {c : Instr} {post : State → Prop} (hc : IsCommand f op c)
    (ht : s.takesCommand f) (h3 : s.svc = 3) (hver : f.ver.toNat = s.cmdSel) (hsel : s.cmdSel = 3) (hrsv : f.rsv = 0)
    (hnow : f.nowait = false) (hsince : opSince op = some v) (hv : v ≤ 3) (h0101 : op ≠ 0x0101) (h0103 : op ≠ 0x0103)
    (hcls : (opClass op).isSome = true → s.checkHandle op f.handle = none)
    (hfirst : firstStep (s.started op f) (recordOf op f) = t)
    (hpost : post { t with cmd := { t.cmd with stalled := false } }) : Accepts c op f s post := by
  refine hc.accepts ht ?_ hpost
  rw [startCmd_firstStep hc.1 h3 hver hrsv hnow hsince (by omega) h0101 h0103 fun h => (s.started_checkHandle ..).trans (hcls h)]
  exact hfirst

end Sys2Proof.Machine

namespace Sys2Proof.Machine

/-! ### The first steps of the commands that make an object -/

/-- The handle on an input that a TIN_ARM asks for, in the lowest free slot of its input. -/
def State.newArm (u : State) (e : JEntry) : TinArm :=
  { input := fld (e.w 3) 1 0, edge := fld (e.w 3) 3 2, window := (e.w 3).getLsbD 4,
    openPs10 := u.start10 (e.w 4).toNat (e.w 5).toNat 0, closePs10 := u.start10 (e.w 6).toNat (e.w 7).toNat 0,
    count := (e.w 8).toNat,
    slot := ((List.range 4).find? fun t => !((u.armsOf (fld (e.w 3) 1 0)).any fun a => a.2.slot == t)).getD 0 }

/-- The state with a handle on an input. -/
def State.setArm (s : State) (i : Nat) (a : TinArm) : State := { s with tinArms := Tab.ins s.tinArms i a }

/-- The registers of a slot of the MEAS page cleared. -/
def State.clearedSlot (s : State) (t : Nat) : State :=
  ((s.setReg 0x070 (0x400 + 8 * t) 0).setReg 0x070 (0x404 + 8 * t) 0).setRegAtSlot (wrapAddr t) 0

theorem State.clearedSlot_cmd (s : State) (t : Nat) : (s.clearedSlot t).cmd = s.cmd := by rw [State.clearedSlot]; rfl

section create

variable {u : State} {e : JEntry} {i : Nat} (hi : u.freeHead = some i)

/-- The handle that an allocation of entry i gives. -/
def State.newHandle (u : State) (cls i : Nat) : Word := mkHandle cls (nextGen (u.ent i).gen) i

include hi

theorem stepChCreate_makes {g b : Nat} {els : List Nat} (hr : u.classRoom 1 = true) (hok : u.chanRefused e = none)
    (hels : u.elsOf (u.prmOf e 0x7F {}).stream (u.prmOf e 0x7F {}).eprompt = els)
    (hg : grainsOf ((u.prmOf e 0x7F {}).taps + els.length) (u.streamRate (u.prmOf e 0x7F {}).stream) = g) (hfree : g ≤ u.poolFree 1)
    (hcy : cyclesOf (u.prmOf e 0x7F {}).vec ≤ u.poolFree 3) (hb : u.placeFor g ((u.prmOf e 0x7F {}).signal == 0x44) = some b) :
    stepChCreate u e =
      ((((((u.book 1 g (.cmd e.seq) e.seq).book 3 (cyclesOf (u.prmOf e 0x7F {}).vec) (.cmd e.seq) e.seq).allocated i 1).chown
        (.cmd e.seq) (.entry i)).setChan i (newChan (u.prmOf e 0x7F {}) els b ((u.freeSlot b).getD 0))).jmod e.seq fun y =>
          y.noted (u.newHandle 1 i) i).jstep e.seq 3 (u.heat + 1) := by
  obtain ⟨l1, h1⟩ := u.book_withBooks 1 g (.cmd e.seq) e.seq
  obtain ⟨l2, h2⟩ := (u.withBooks l1).book_withBooks 3 (cyclesOf (u.prmOf e 0x7F {}).vec) (.cmd e.seq) e.seq
  have hw : (u.book 1 g (.cmd e.seq) e.seq).book 3 (cyclesOf (u.prmOf e 0x7F {}).vec) (.cmd e.seq) e.seq = u.withBooks l2 := by
    rw [h1, h2]; rfl
  have halloc : (u.withBooks l2).alloc 1 true false = (some i, (u.withBooks l2).allocated i 1) := State.alloc_of_room hi hr
  have hhandle : ((((u.withBooks l2).allocated i 1).chown (.cmd e.seq) (.entry i)).setChan i
      (newChan (u.prmOf e 0x7F {}) els b ((u.freeSlot b).getD 0))).handleOf i = u.newHandle 1 i :=
    State.handleOf_made (e := u.ent i) ((u.withBooks l2).ent_allocated i 1)
  unfold stepChCreate
  simp only [hok, hels, hg, hb, hw, halloc, Nat.not_lt.2 hfree, Nat.not_lt.2 hcy, if_false, hhandle]
  rfl

theorem stepSrchSubmit_makes (hr : u.classRoom 2 = true) (hok : u.srchRefused e = none) (hnow : (e.w 0).getLsbD 24 = false) :
    let v : State := { (u.allocated i 2).setJob i (u.newJob e) with jobSeq := u.jobSeq + 1 }
    stepSrchSubmit u e = (v.tryReserve i).refreshFloor.finish e stOK 2 (jTotal e.words) ((v.tryReserve i).handleOf i) 0 0 := by
  have halloc := State.alloc_of_room hi hr
  unfold stepSrchSubmit
  simp only [hok, halloc, hnow, Bool.false_eq_true, if_false]

theorem stepInjStart_makes {k : Nat} (hr : u.classRoom 3 = true) (hok : u.injBad e = none)
    (hk : (List.range 8).find? (fun k => !u.hasInj k) = some k) :
    let v := (u.allocated i 3).setInj k { entry := i, seq := e.seq, words := e.words, startEl := u.el, behind := u.calWaits }
    stepInjStart u e = (({ v with rl := { v.rl with res := v.rl.res.filter fun r => r.1 / 64 != k } } : State).jmod e.seq fun y =>
      y.noted (u.newHandle 3 i) k).jstep e.seq 1 (u.heat + 1) := by
  intro v
  have halloc := State.alloc_of_room hi hr
  have hslot : (List.range 8).find? (fun k => !(u.allocated i 3).hasInj k) = some k := hk
  have hhandle : ∀ r, ({ v with rl := r } : State).handleOf i = u.newHandle 3 i := fun r =>
    State.handleOf_made (e := u.ent i) (u.ent_allocated i 3)
  unfold stepInjStart
  simp only [hok, halloc, hslot, Option.getD_some]
  rw [← hhandle { v.rl with res := v.rl.res.filter fun r => r.1 / 64 != k }]
  rfl

theorem stepToutSchedule_makes (hr : u.classRoom 4 = true) (hok : toutBad e = none)
    (hn : u.schedsOf (fld (e.w 3) 7 0) < (if fld (e.w 3) 7 0 < 8 then 8 else 4))
    (hnear : (e.w 11).toNat = 0 ∨ (ofNs 2000000 * 100 : Nat) ≤
      (u.start10 (e.w 4).toNat (fld (e.w 5) 29 0) (fld (e.w 6) 6 0) : Int) * (unitsPerNs : Nat) - (u.tb.now * 100 : Nat))
    (hfar : (u.start10 (e.w 4).toNat (fld (e.w 5) 29 0) (fld (e.w 6) 6 0) : Int) * (unitsPerNs : Nat) - (u.tb.now * 100 : Nat) ≤
      (ofNs (10 ^ 15) * 100 : Nat)) :
    stepToutSchedule u e = (((u.allocated i 4).setSched i
      { target := fld (e.w 3) 7 0, gate := fld (e.w 3) 9 8, start := u.start10 (e.w 4).toNat (fld (e.w 5) 29 0) (fld (e.w 6) 6 0),
        periodNs := (e.w 7).toNat, div := fld (e.w 8) 15 0, width := fld (e.w 9) 29 0 * 100 + fld (e.w 10) 6 0,
        finite := (e.w 11).toNat != 0, left := (e.w 11).toNat }).jmod e.seq fun y => y.noted (u.newHandle 4 i) i).jstep e.seq 2
          (u.heat + 1) := by
  have halloc := State.alloc_of_room hi hr
  have hstart : (u.allocated i 4).start10 = u.start10 := rfl
  have htb : (u.allocated i 4).tb = u.tb := rfl
  have hhandle : (u.allocated i 4).handleOf i = u.newHandle 4 i := State.handleOf_made (u.ent_allocated i 4)
  have hin : ¬ (((e.w 11).toNat ≠ 0 ∧ (u.start10 (e.w 4).toNat (fld (e.w 5) 29 0) (fld (e.w 6) 6 0) : Int) * (unitsPerNs : Nat) -
      (u.tb.now * 100 : Nat) < (ofNs 2000000 * 100 : Nat)) ∨ (u.start10 (e.w 4).toNat (fld (e.w 5) 29 0) (fld (e.w 6) 6 0) : Int) *
        (unitsPerNs : Nat) - (u.tb.now * 100 : Nat) > (ofNs (10 ^ 15) * 100 : Nat)) := by
    rintro (⟨h0, hlt⟩ | hgt)
    · obtain h | h := hnear
      · exact h0 h
      · exact absurd hlt (not_lt.2 h)
    · exact absurd hgt (not_lt.2 hfar)
  unfold stepToutSchedule
  simp only [hok, halloc, ge_iff_le, Nat.not_le.2 hn, if_false, hstart, htb, hin, hhandle]
  rfl

theorem stepTinArm_makes (hr : u.classRoom 5 = true) (hok : tinBad u e = none) (hn : (u.armsOf (fld (e.w 3) 1 0)).length < 4) :
    stepTinArm u e = (((u.allocated i 5).setArm i (u.newArm e)).jmod e.seq fun y => y.noted (u.newHandle 5 i) i).jstep e.seq 1
      (u.heat + 1) := by
  have halloc := State.alloc_of_room hi hr
  have hhandle : (u.allocated i 5).handleOf i = u.newHandle 5 i := State.handleOf_made (u.ent_allocated i 5)
  unfold stepTinArm
  simp only [hok, halloc, ge_iff_le, Nat.not_le.2 hn, if_false, hhandle]
  rfl

theorem stepSubscribe_makes (hr : u.classRoom 6 = true) (hok : u.subRefused e = none) (hfree : subMax e.words ≤ u.poolFree 5) :
    stepSubscribe u e = ((((((u.book 5 (subMax e.words) (.cmd e.seq) e.seq).allocated i 6).chown (.cmd e.seq) (.entry i)).setSub i
      { words := e.words, slot := u.freeSub }).clearedSlot u.freeSub).jmod e.seq fun y => y.noted (u.newHandle 6 i) i).jstep e.seq 2
        (u.heat + 1) := by
  obtain ⟨l, hl⟩ := u.book_withBooks 5 (subMax e.words) (.cmd e.seq) e.seq
  have halloc : (u.withBooks l).alloc 6 true false = (some i, (u.withBooks l).allocated i 6) := State.alloc_of_room hi hr
  have hslot : ((u.withBooks l).allocated i 6).freeSub = u.freeSub := rfl
  have hhandle : (((((u.withBooks l).allocated i 6).chown (.cmd e.seq) (.entry i)).setSub i
      { words := e.words, slot := u.freeSub }).clearedSlot u.freeSub).handleOf i = u.newHandle 6 i :=
    State.handleOf_made (e := u.ent i) (by rw [State.ent, State.clearedSlot_cmd]; exact (u.withBooks l).ent_allocated i 6)
  unfold stepSubscribe
  simp only [hok, hl, halloc, Nat.not_lt.2 hfree, if_false, hslot]
  rw [← hhandle]
  rfl

theorem stepCombCreate_makes (hr : u.classRoom 7 = true) (hok : u.combRefused e = none) (hfit : (u.allocated i 7).combUnfit e = none) :
    stepCombCreate u e = (((u.allocated i 7).setGroup u.freeGroup
      { entry := i, out := fld (e.w 3) 7 0, n := combN e, ref := combRef e, act := combRef e, rejoin := (e.w 3).getLsbD 15,
        streams := (List.range (combN e)).map (combStream e), delays := (List.range (combN e)).map (combDelay e),
        loadDb := fld (e.w 14) 15 8, members := List.range (combN e) }).jmod e.seq fun y => y.noted (u.newHandle 7 i) u.freeGroup).jstep
          e.seq 2 (u.heat + 1) := by
  have halloc := State.alloc_of_room hi hr
  have hfree : (u.allocated i 7).freeGroup = u.freeGroup := rfl
  have hhandle : ∀ g x, ((u.allocated i 7).setGroup g x).handleOf i = u.newHandle 7 i := fun g x =>
    State.handleOf_made (e := u.ent i) (u.ent_allocated i 7)
  unfold stepCombCreate
  simp only [hok, halloc, hfit, hfree, hhandle]
  rfl

end create

/-! ### What these steps leave -/

section post

variable {u : State} {e x : JEntry} {i : Nat} (hi : u.freeHead = some i) (hj : u.jfind e.seq = some x) (hx : x.disp = .inFlight)

include hi hj hx

theorem stepChCreate_leaves {g b : Nat} {els : List Nat} {prm : ChanPrm} (hr : u.classRoom 1 = true) (hok : u.chanRefused e = none)
    (hprm : u.prmOf e 0x7F {} = prm) (hels : u.elsOf prm.stream prm.eprompt = els)
    (hg : grainsOf (prm.taps + els.length) (u.streamRate prm.stream) = g) (hfree : g ≤ u.poolFree 1)
    (hcy : cyclesOf prm.vec ≤ u.poolFree 3) (hb : u.placeFor g (prm.signal == 0x44) = some b) : let t := stepChCreate u e
    t.ent i = (u.ent i).made 1 ∧ t.inFlightAt e.seq 3 (u.heat + 1) (u.newHandle 1 i) ∧
      t.chan i = newChan prm els b ((u.freeSlot b).getD 0) ∧ t.booked 1 = u.booked 1 + g ∧ t.booked 3 = u.booked 3 + cyclesOf prm.vec := by
  subst hprm
  have hent := ((u.book 1 g (.cmd e.seq) e.seq).book_ent 3 (cyclesOf (u.prmOf e 0x7F {}).vec) (.cmd e.seq) e.seq i).trans (u.book_ent ..)
  have hfind := ((u.book 1 g (.cmd e.seq) e.seq).book_jfind 3 (cyclesOf (u.prmOf e 0x7F {}).vec) (.cmd e.seq) e.seq e.seq).trans
    ((u.book_jfind ..).trans hj)
  have hbooked : ∀ {p}, p ≠ 6 → _ := fun {p} hp => ((u.book 1 g (.cmd e.seq) e.seq).booked_book (p := 3) (q := p)
    (cyclesOf (u.prmOf e 0x7F {}).vec) (.cmd e.seq) e.seq hp).trans (congrArg (· + _) (u.booked_book (p := 1) g (.cmd e.seq) e.seq hp))
  rw [stepChCreate_makes hi hr hok hels hg hfree hcy hb]
  generalize (u.book 1 g (.cmd e.seq) e.seq).book 3 (cyclesOf (u.prmOf e 0x7F {}).vec) (.cmd e.seq) e.seq = w at hent hfind hbooked ⊢
  have hsum : ∀ {v : State} {p}, v.cmd.books = ((w.allocated i 1).chown (.cmd e.seq) (.entry i)).cmd.books → p ≠ 6 →
      v.booked p = w.booked p := fun hv hp => by
    rw [State.booked_congr hv hp, State.booked_chown _ _ _ hp]
    exact State.booked_congr rfl hp
  refine ⟨?_, State.inFlightAt_noted (x := x) (hd := u.newHandle 1 i) ?_ hx i 3 (u.heat + 1), ?_, ?_, ?_⟩
  · refine (State.ent_of_allocated (u := w) ?_).trans (congrArg (Entry.made · 1) hent)
    rfl
  · refine (State.jfind_congr (s := w) ?_ _).trans hfind
    rfl
  · exact Tab.get_ins_same ..
  · refine (hsum ?_ (by decide)).trans ?_
    · rfl
    · rw [hbooked (by decide), if_pos rfl, if_neg (by decide), Nat.add_zero]
  · refine (hsum ?_ (by decide)).trans ?_
    · rfl
    · rw [hbooked (by decide), if_neg (by decide), if_pos rfl, Nat.add_zero]

theorem stepInjStart_leaves {k : Nat} (hr : u.classRoom 3 = true) (hok : u.injBad e = none)
    (hk : (List.range 8).find? (fun k => !u.hasInj k) = some k) : let t := stepInjStart u e
    t.ent i = (u.ent i).made 3 ∧ t.inFlightAt e.seq 1 (u.heat + 1) (u.newHandle 3 i) ∧
      t.inj k = { entry := i, seq := e.seq, words := e.words, startEl := u.el, behind := u.calWaits } ∧ t.rl.st = u.rl.st := by
  rw [stepInjStart_makes hi hr hok hk]
  refine ⟨?_, State.inFlightAt_noted (x := x) (hd := u.newHandle 3 i) ?_ hx k 1 (u.heat + 1), ?_, rfl⟩
  · exact State.ent_of_allocated rfl
  · exact (State.jfind_congr rfl _).trans hj
  · exact Tab.get_ins_same ..

theorem stepToutSchedule_leaves (hr : u.classRoom 4 = true) (hok : toutBad e = none)
    (hn : u.schedsOf (fld (e.w 3) 7 0) < (if fld (e.w 3) 7 0 < 8 then 8 else 4)) {st : Nat}
    (hst : u.start10 (e.w 4).toNat (fld (e.w 5) 29 0) (fld (e.w 6) 6 0) = st)
    (hnear : (e.w 11).toNat = 0 ∨ (ofNs 2000000 * 100 : Nat) ≤ (st : Int) * (unitsPerNs : Nat) - (u.tb.now * 100 : Nat))
    (hfar : (st : Int) * (unitsPerNs : Nat) - (u.tb.now * 100 : Nat) ≤ (ofNs (10 ^ 15) * 100 : Nat)) : let t := stepToutSchedule u e
    t.ent i = (u.ent i).made 4 ∧ t.inFlightAt e.seq 2 (u.heat + 1) (u.newHandle 4 i) ∧ t.sched i =
      { target := fld (e.w 3) 7 0, gate := fld (e.w 3) 9 8, start := st, periodNs := (e.w 7).toNat, div := fld (e.w 8) 15 0,
        width := fld (e.w 9) 29 0 * 100 + fld (e.w 10) 6 0, finite := (e.w 11).toNat != 0, left := (e.w 11).toNat } := by
  subst hst
  rw [stepToutSchedule_makes hi hr hok hn hnear hfar]
  refine ⟨?_, State.inFlightAt_noted (x := x) (hd := u.newHandle 4 i) ?_ hx i 2 (u.heat + 1), ?_⟩
  · exact State.ent_of_allocated rfl
  · exact (State.jfind_congr rfl _).trans hj
  · exact Tab.get_set_same ..

theorem stepTinArm_leaves (hr : u.classRoom 5 = true) (hok : tinBad u e = none) (hn : (u.armsOf (fld (e.w 3) 1 0)).length < 4) :
    let t := stepTinArm u e
    t.ent i = (u.ent i).made 5 ∧ t.inFlightAt e.seq 1 (u.heat + 1) (u.newHandle 5 i) ∧
      Tab.get (fun _ => ({} : TinArm)) t.tinArms i = u.newArm e := by
  rw [stepTinArm_makes hi hr hok hn]
  refine ⟨?_, State.inFlightAt_noted (x := x) (hd := u.newHandle 5 i) ?_ hx i 1 (u.heat + 1), ?_⟩
  · exact State.ent_of_allocated rfl
  · exact (State.jfind_congr rfl _).trans hj
  · exact Tab.get_ins_same ..

theorem stepSubscribe_leaves (hr : u.classRoom 6 = true) (hok : u.subRefused e = none) (hfree : subMax e.words ≤ u.poolFree 5) :
    let t := stepSubscribe u e
    t.ent i = (u.ent i).made 6 ∧ t.inFlightAt e.seq 2 (u.heat + 1) (u.newHandle 6 i) ∧
      t.sub i = { words := e.words, slot := u.freeSub } ∧ t.booked 5 = u.booked 5 + subMax e.words := by
  have hent := u.book_ent 5 (subMax e.words) (.cmd e.seq) e.seq i
  have hfind := (u.book_jfind 5 (subMax e.words) (.cmd e.seq) e.seq e.seq).trans hj
  have hbooked := u.booked_book (p := 5) (q := 5) (subMax e.words) (.cmd e.seq) e.seq (by decide)
  rw [stepSubscribe_makes hi hr hok hfree]
  generalize u.book 5 (subMax e.words) (.cmd e.seq) e.seq = w at hent hfind hbooked ⊢
  refine ⟨?_, State.inFlightAt_noted (x := x) (hd := u.newHandle 6 i) ?_ hx i 2 (u.heat + 1), ?_, ?_⟩
  · refine (State.ent_of_allocated (u := w) ?_).trans (congrArg (Entry.made · 6) hent)
    rfl
  · refine (State.jfind_congr (s := w) ?_ _).trans hfind
    rfl
  · exact Tab.get_ins_same ..
  · refine (State.booked_congr (s := (w.allocated i 6).chown (.cmd e.seq) (.entry i)) ?_ (by decide)).trans
      ((State.booked_chown _ _ _ (by decide)).trans ?_)
    · rfl
    · refine (State.booked_congr (s := w) ?_ (by decide)).trans ?_
      · rfl
      · rw [hbooked, if_pos rfl]

theorem stepCombCreate_leaves (hr : u.classRoom 7 = true) (hok : u.combRefused e = none) (hfit : (u.allocated i 7).combUnfit e = none) :
    let t := stepCombCreate u e
    t.ent i = (u.ent i).made 7 ∧ t.inFlightAt e.seq 2 (u.heat + 1) (u.newHandle 7 i) ∧ let g := t.group u.freeGroup
      g.entry = i ∧ g.out = fld (e.w 3) 7 0 ∧ g.n = combN e ∧ g.ref = combRef e ∧
      g.streams = (List.range (combN e)).map (combStream e) ∧ g.members = List.range (combN e) := by
  rw [stepCombCreate_makes hi hr hok hfit]
  refine ⟨?_, State.inFlightAt_noted (x := x) (hd := u.newHandle 7 i) ?_ hx u.freeGroup 2 (u.heat + 1), ?_⟩
  · exact State.ent_of_allocated rfl
  · exact (State.jfind_congr rfl _).trans hj
  · intro g
    have hg : g = _ := Tab.get_set_same ..
    rw [hg]
    exact ⟨rfl, rfl, rfl, rfl, rfl, rfl⟩

end post

end Sys2Proof.Machine

namespace Sys2Proof.Machine

/-! ### What completions cannot reach -/

/-- The state without what a completion can change: registers, ring memory, interrupt requests, messages and the host's commands. -/
def State.beyondRings (s : State) : State :=
  { s with regs := [], cmd := {}, exch := [], bad := [], hostMem := [], outbox := [], msixReq := 0, msixPba := 0 }

theorem State.beyondRings_of_rest {s t : State} (h : t.rest = s.rest) : t.beyondRings = s.beyondRings := by
  show t.rest.beyondRings = s.rest.beyondRings
  rw [h]

theorem State.beyondRings_putRec (s : State) (loc : Bool) (base : Nat) (ws : List Word) :
    (s.putRec loc base ws).beyondRings = s.beyondRings := (SameButMemory.putRec ..).congr _ fun _ _ _ _ => rfl

theorem State.beyondRings_raise (s : State) (p bit : Nat) : (s.raise p bit).beyondRings = s.beyondRings :=
  State.beyondRings_of_rest (s.rest_raise p bit)

theorem State.beyondRings_putCompl (s : State) (ws : List Word) (quiet : Bool) : (s.putCompl ws quiet).beyondRings = s.beyondRings := by
  unfold State.putCompl
  dsimp only
  split
  · exact State.beyondRings_putRec ..
  · exact (State.beyondRings_raise ..).trans (State.beyondRings_putRec ..)

theorem State.beyondRings_flushHeld (s : State) (l : List (List Word × Bool)) : (s.flushHeld l).beyondRings = s.beyondRings := by
  induction l generalizing s with
  | nil => rfl
  | cons x l ih =>
    rw [State.flushHeld]
    split
    · exact (ih _).trans (State.beyondRings_putCompl ..)
    · rfl

theorem State.beyondRings_postCompl (s : State) (ws : List Word) (quiet : Bool) : (s.postCompl ws quiet).beyondRings = s.beyondRings :=
  State.beyondRings_flushHeld ..

theorem State.beyondRings_dups (ws : List Word) (l : List Bool) (s : State) :
    (l.foldl (fun s q => s.postCompl (dupWords ws s.heat) q) s).beyondRings = s.beyondRings := by
  induction l generalizing s with
  | nil => rfl
  | cons q l ih => exact (ih _).trans (State.beyondRings_postCompl ..)

theorem State.beyondRings_finish (s : State) (e : JEntry) (status step detail : Nat) (handle a1 a2 : Word) :
    (s.finish e status step detail handle a1 a2).beyondRings = s.beyondRings := by
  simp only [State.finish]
  exact (State.beyondRings_dups ..).trans (State.beyondRings_postCompl ..)

/-- What does not look at registers, interrupt requests and messages is the same after an event is raised. -/
theorem State.congr_raise {α : Type} {g : State → α} (hg : ∀ s : State, g s.rest = g s) (s : State) (p bit : Nat) :
    g (s.raise p bit) = g s := by rw [← hg, s.rest_raise, hg]

/-! ### SRCH_SUBMIT (rules R248, R252) -/

/-- A job that finds room in the snapshot memory, or does not, keeps its words; no other part of the queue changes. -/
theorem State.reserve_spec {s t : State} {i first : Nat} (h : s.reserve i first = some t) :
    t.cmd = s.cmd ∧ t.jobSeq = s.jobSeq ∧ (t.job i).words = (s.job i).words ∧ (t.job i).seq = (s.job i).seq := by
  have hjob : ∀ (v : State), (∃ j : Job, v.jobs = (s.setJob i j).jobs ∧ j.words = (s.job i).words ∧ j.seq = (s.job i).seq) →
      (v.job i).words = (s.job i).words ∧ (v.job i).seq = (s.job i).seq := by
    rintro v ⟨j, hv, hw, hs⟩
    have : v.job i = j := (congrArg (fun l => Tab.get (fun _ => ({} : Job)) l i) hv).trans (Tab.get_ins_same ..)
    rw [this]
    exact ⟨hw, hs⟩
  unfold State.reserve at h
  dsimp only at h
  split at h
  · next e he =>
    cases h
    exact ⟨rfl, rfl, hjob _ ⟨_, rfl, rfl, rfl⟩⟩
  · split at h
    · cases h
    · cases h
      exact ⟨rfl, rfl, hjob _ ⟨_, rfl, rfl, rfl⟩⟩

theorem State.tryReserve_spec (s : State) (i : Nat) : let t := s.tryReserve i
    t.cmd = s.cmd ∧ t.jobSeq = s.jobSeq ∧ (t.job i).words = (s.job i).words ∧ (t.job i).seq = (s.job i).seq := by
  unfold State.tryReserve
  cases h : s.reserve i (s.heat + 1) with
  | none => exact ⟨rfl, rfl, rfl, rfl⟩
  | some t => exact State.reserve_spec h

theorem State.refreshFloor_spec (s : State) : let t := s.refreshFloor
    t.cmd = s.cmd ∧ t.jobSeq = s.jobSeq ∧ t.jobs = s.jobs := by
  unfold State.refreshFloor
  dsimp only
  split
  · exact ⟨rfl, rfl, rfl⟩
  · split
    · exact ⟨State.congr_raise (g := State.cmd) (fun _ => rfl) .., State.congr_raise (g := State.jobSeq) (fun _ => rfl) ..,
        State.congr_raise (g := State.jobs) (fun _ => rfl) ..⟩
    · exact ⟨rfl, rfl, rfl⟩

theorem stepSrchSubmit_leaves {u : State} {e x : JEntry} {i : Nat} (hi : u.freeHead = some i) (hj : u.jfind e.seq = some x)
    (hr : u.classRoom 2 = true) (hok : u.srchRefused e = none) (hnow : (e.w 0).getLsbD 24 = false) : let t := stepSrchSubmit u e
    t.ent i = (u.ent i).made 2 ∧ (t.job i).words = e.words ∧ (t.job i).seq = e.seq ∧ t.jobSeq = u.jobSeq + 1 ∧
      ∃ ws, t.doneAs e.seq stOK ws := by
  rw [stepSrchSubmit_makes hi hr hok hnow]
  intro t
  let v : State := { (u.allocated i 2).setJob i (u.newJob e) with jobSeq := u.jobSeq + 1 }
  obtain ⟨hcmd, hseq, hwords, hjseq⟩ := v.tryReserve_spec i
  obtain ⟨hcmd', hseq', hjobs'⟩ := (v.tryReserve i).refreshFloor_spec
  have hv : v.job i = u.newJob e := Tab.get_ins_same ..
  have hjobs : t.jobs = (v.tryReserve i).jobs := (congrArg State.jobs (State.beyondRings_finish ..)).trans hjobs'
  have hjob : t.job i = (v.tryReserve i).job i := by rw [State.job, hjobs, State.job]
  have hents : t.cmd.ents = v.cmd.ents := (State.finish_ents ..).trans (by rw [hcmd', hcmd])
  have hfind : (v.tryReserve i).refreshFloor.jfind e.seq = some x := by
    refine (State.jfind_congr (s := v) ?_ _).trans hj
    rw [hcmd', hcmd]
  refine ⟨State.ent_of_allocated hents, ?_, ?_, ?_, ⟨_, State.finish_doneAs hfind ..⟩⟩
  · rw [hjob, hwords, hv, State.newJob]
  · rw [hjob, hjseq, hv, State.newJob]
  · exact (congrArg State.jobSeq (State.beyondRings_finish ..)).trans (hseq'.trans hseq)

/-- The state with another journal. -/
def State.withJrn (s : State) (l : List JEntry) : State := { s with cmd := { s.cmd with jrn := l } }

/-! What the checks of a command read is beside the journal. -/

section withJrn

variable (t : State) (l : List JEntry) (e : JEntry)

theorem State.withJrn_freeHead : (t.withJrn l).freeHead = t.freeHead := rfl

theorem State.withJrn_classRoom (cls : Nat) : (t.withJrn l).classRoom cls = t.classRoom cls := rfl

theorem State.withJrn_chanRefused : (t.withJrn l).chanRefused e = t.chanRefused e := rfl

theorem State.withJrn_prmOf (m : Nat) (p : ChanPrm) : (t.withJrn l).prmOf e m p = t.prmOf e m p := rfl

theorem State.withJrn_elsOf (st : Nat) (x : Bool) : (t.withJrn l).elsOf st x = t.elsOf st x := rfl

theorem State.withJrn_streamRate (st : Nat) : (t.withJrn l).streamRate st = t.streamRate st := rfl

theorem State.withJrn_placeFor (g : Nat) (x : Bool) : (t.withJrn l).placeFor g x = t.placeFor g x := rfl

theorem State.withJrn_freeSlot (b : Nat) : (t.withJrn l).freeSlot b = t.freeSlot b := rfl

theorem State.withJrn_poolFree (p : Nat) : (t.withJrn l).poolFree p = t.poolFree p := rfl

theorem State.withJrn_srchRefused : (t.withJrn l).srchRefused e = t.srchRefused e := rfl

theorem State.withJrn_injBad : (t.withJrn l).injBad e = t.injBad e := rfl

theorem State.withJrn_tinBad : tinBad (t.withJrn l) e = tinBad t e := rfl

theorem State.withJrn_subRefused : (t.withJrn l).subRefused e = t.subRefused e := rfl

theorem State.withJrn_combRefused : (t.withJrn l).combRefused e = t.combRefused e := rfl

theorem State.withJrn_combUnfit (i cls : Nat) :
    ((t.withJrn l).allocated i cls).combUnfit e = (t.allocated i cls).combUnfit e := rfl

end withJrn

/-! ### A started command finds the host's state -/

section started

variable (s : State) (op : Nat) (f : CmdFields)

/-- A command that starts has its record in the journal as taken, but for the mark that it waits. -/
theorem State.started_withJrn : ∃ l, s.started op f = (s.recorded op f).withJrn l := ⟨_, rfl⟩

/-- A record taken changes of the commands the count of the heat and the journal. -/
theorem State.started_cmd : ∃ l, (s.started op f).cmd = { s.cmd with taken := s.cmd.taken + 1, jrn := l } := by
  have h : ∃ l, (s.started op f).cmd = { (s.placed op f).cmd with taken := s.cmd.taken + 1, jrn := l } := ⟨_, rfl⟩
  rwa [s.placed_cmd] at h

theorem State.started_freeHead : (s.started op f).freeHead = s.freeHead := by
  obtain ⟨l, hl⟩ := s.started_cmd op f
  rw [State.freeHead, hl, State.freeHead]

theorem State.started_classRoom (c : Nat) : (s.started op f).classRoom c = s.classRoom c := by
  have hlive : ∀ c, (s.started op f).classLive c = s.classLive c := fun c => by
    rw [State.classLive, s.started_ents, State.classLive]
  rw [State.classRoom, hlive, hlive, hlive, State.classRoom]

theorem State.started_booked {p : Nat} (hp : p ≠ 6) : (s.started op f).booked p = s.booked p := by
  rw [State.booked, State.booked, if_neg hp, if_neg hp, s.started_books]

/-- The entry that an allocation by a started command makes. -/
theorem State.started_made (i cls : Nat) : ((s.started op f).ent i).made cls = (s.ent i).made cls := by rw [s.started_ent]

theorem State.started_newHandle (cls i : Nat) : (s.started op f).newHandle cls i = s.newHandle cls i := by
  rw [State.newHandle, s.started_ent, State.newHandle]

theorem State.started_heat : (s.started op f).heat = s.heat := (s.started_ring op f).congr State.heat fun _ _ _ _ _ _ => rfl

end started

end Sys2Proof.Machine

namespace Sys2Proof.Machine

/-! ### The statement -/

section accepted

variable {s : State} {f : CmdFields} {i : Nat} (ht : s.takesCommand f) (hrsv : f.rsv = 0) (hnow : f.nowait = false) (h3 : s.svc = 3)
  (hver : f.ver.toNat = s.cmdSel) (hsel : s.cmdSel = 3) (hi : s.freeHead = some i)

include ht hrsv hnow h3 hver hsel

/-- A command that names no object is accepted with what its first step leaves. -/
theorem IsCommand.creates {op v : Nat} {c : Instr} {t : State} {post : State → Prop} (hc : IsCommand f op c)
    (hsince : opSince op = some v) (hv : v ≤ 3) (hq : op ≠ 0x0101 ∧ op ≠ 0x0103) (hcls : opClass op = none)
    (hfirst : firstStep (s.started op f) (recordOf op f) = t) (hpost : post { t with cmd := { t.cmd with stalled := false } }) :
    Accepts c op f s post :=
  hc.accepts_first ht h3 hver hsel hrsv hnow hsince hv hq.1 hq.2 (fun h => by rw [hcls] at h; cases h) hfirst hpost

include hi

theorem chCreate_accepts (hr : s.classRoom 1 = true) {prm : ChanPrm} {els : List Nat} {g b : Nat}
    (hok : (s.recorded 0x0201 f).chanRefused (recordOf 0x0201 f) = none)
    (hprm : (s.recorded 0x0201 f).prmOf (recordOf 0x0201 f) 0x7F {} = prm)
    (hels : (s.recorded 0x0201 f).elsOf prm.stream prm.eprompt = els)
    (hg : grainsOf (prm.taps + els.length) ((s.recorded 0x0201 f).streamRate prm.stream) = g)
    (hfree : g ≤ (s.recorded 0x0201 f).poolFree 1) (hcy : cyclesOf prm.vec ≤ (s.recorded 0x0201 f).poolFree 3)
    (hb : (s.recorded 0x0201 f).placeFor g (prm.signal == 0x44) = some b) : Accepts (.chCreate f) 0x0201 f s fun t =>
      t.ent i = (s.ent i).made 1 ∧ t.inFlightAt f.seq 3 (s.heat + 1) (s.newHandle 1 i) ∧
        t.chan i = newChan prm els b (((s.recorded 0x0201 f).freeSlot b).getD 0) ∧
        t.booked 1 = s.booked 1 + g ∧ t.booked 3 = s.booked 3 + cyclesOf prm.vec := by
  obtain ⟨l, hl⟩ := s.started_withJrn 0x0201 f
  have hstep := stepChCreate_leaves (e := recordOf 0x0201 f) (u := s.started 0x0201 f) (prm := prm) (els := els) (g := g) (b := b)
    ((s.started_freeHead 0x0201 f).trans hi) (s.started_jfind 0x0201 f) rfl ((s.started_classRoom ..).trans hr)
    (by rw [hl, State.withJrn_chanRefused, hok]) (by rw [hl, State.withJrn_prmOf, hprm]) (by rw [hl, State.withJrn_elsOf, hels])
    (by rw [hl, State.withJrn_streamRate, hg]) (by rwa [hl, State.withJrn_poolFree]) (by rwa [hl, State.withJrn_poolFree])
    (by rw [hl, State.withJrn_placeFor, hb])
  rw [hl, State.withJrn_freeSlot, ← hl, s.started_made, s.started_newHandle, s.started_heat, s.started_booked _ _ (by decide),
    s.started_booked _ _ (by decide)] at hstep
  exact IsCommand.creates ht hrsv hnow h3 hver hsel ⟨by decide, fun _ => rfl⟩ (v := 1) (by decide) (by decide) (by decide) (by decide)
    (by rw [firstStep, recordOf_op (by decide)]; rfl) hstep

theorem srchSubmit_accepts (hr : s.classRoom 2 = true) (hok : (s.recorded 0x0301 f).srchRefused (recordOf 0x0301 f) = none) :
    Accepts (.srchSubmit f) 0x0301 f s fun t => t.ent i = (s.ent i).made 2 ∧ (t.job i).words = (recordOf 0x0301 f).words ∧
      (t.job i).seq = f.seq ∧ t.jobSeq = s.jobSeq + 1 ∧ ∃ ws, t.doneAs f.seq stOK ws := by
  obtain ⟨l, hl⟩ := s.started_withJrn 0x0301 f
  have hstep := stepSrchSubmit_leaves (e := recordOf 0x0301 f) (u := s.started 0x0301 f) ((s.started_freeHead ..).trans hi)
    (s.started_jfind 0x0301 f) ((s.started_classRoom ..).trans hr) (by rw [hl, State.withJrn_srchRefused, hok])
    (recordOf_fields (by decide) hrsv hnow).2.2.2
  have hseq : (s.started 0x0301 f).jobSeq = s.jobSeq := (s.started_ring ..).congr State.jobSeq fun _ _ _ _ _ _ => rfl
  rw [s.started_made, hseq] at hstep
  exact IsCommand.creates ht hrsv hnow h3 hver hsel ⟨by decide, fun _ => rfl⟩ (v := 1) (by decide) (by decide) (by decide) (by decide)
    (by rw [firstStep, recordOf_op (by decide)]; rfl) hstep

theorem injStart_accepts (hr : s.classRoom 3 = true) (hok : (s.recorded 0x0401 f).injBad (recordOf 0x0401 f) = none) {k : Nat}
    (hk : k < 8) (hfree : s.hasInj k = false) (hlow : ∀ j, j < k → s.hasInj j = true) : Accepts (.injStart f) 0x0401 f s fun t =>
      t.ent i = (s.ent i).made 3 ∧ t.inFlightAt f.seq 1 (s.heat + 1) (s.newHandle 3 i) ∧
        t.inj k = { entry := i, seq := f.seq, words := (recordOf 0x0401 f).words, startEl := s.el, behind := s.calWaits } ∧
        t.rl.st = s.rl.st := by
  obtain ⟨l, hl⟩ := s.started_withJrn 0x0401 f
  have hring := s.started_ring 0x0401 f
  have hinj : (s.started 0x0401 f).hasInj = s.hasInj := hring.congr State.hasInj fun _ _ _ _ _ _ => rfl
  have hslot : (List.range 8).find? (fun k => !(s.started 0x0401 f).hasInj k) = some k := by
    rw [hinj, List.find?_range_eq_some]
    exact ⟨by rw [hfree]; rfl, List.mem_range.2 hk, fun j hj => by rw [hlow j hj]; rfl⟩
  have hstep := stepInjStart_leaves (e := recordOf 0x0401 f) (u := s.started 0x0401 f) ((s.started_freeHead ..).trans hi)
    (s.started_jfind 0x0401 f) rfl ((s.started_classRoom ..).trans hr) (by rw [hl, State.withJrn_injBad, hok]) hslot
  have hel : (s.started 0x0401 f).el = s.el := hring.congr State.el fun _ _ _ _ _ _ => rfl
  have hwaits : (s.started 0x0401 f).calWaits = s.calWaits := hring.congr State.calWaits fun _ _ _ _ _ _ => rfl
  have hrl : (s.started 0x0401 f).rl = s.rl := hring.congr State.rl fun _ _ _ _ _ _ => rfl
  rw [s.started_made, s.started_newHandle, s.started_heat, hel, hwaits, hrl] at hstep
  exact IsCommand.creates ht hrsv hnow h3 hver hsel ⟨by decide, fun _ => rfl⟩ (v := 2) (by decide) (by decide) (by decide) (by decide)
    (by rw [firstStep, recordOf_op (by decide)]; rfl) hstep

theorem toutSchedule_accepts (hr : s.classRoom 4 = true) {e : JEntry} {st : Nat} (he : recordOf 0x0501 f = e) (hok : toutBad e = none)
    (hst : s.start10 (e.w 4).toNat (fld (e.w 5) 29 0) (fld (e.w 6) 6 0) = st)
    (hn : s.schedsOf (fld (e.w 3) 7 0) < (if fld (e.w 3) 7 0 < 8 then 8 else 4))
    (hnear : (e.w 11).toNat = 0 ∨ (ofNs 2000000 * 100 : Nat) ≤ (st : Int) * (unitsPerNs : Nat) - (s.tb.now * 100 : Nat))
    (hfar : (st : Int) * (unitsPerNs : Nat) - (s.tb.now * 100 : Nat) ≤ (ofNs (10 ^ 15) * 100 : Nat)) :
    Accepts (.toutSchedule f) 0x0501 f s fun t =>
      t.ent i = (s.ent i).made 4 ∧ t.inFlightAt f.seq 2 (s.heat + 1) (s.newHandle 4 i) ∧
        t.sched i = { target := fld (e.w 3) 7 0, gate := fld (e.w 3) 9 8, start := st, periodNs := (e.w 7).toNat,
                      div := fld (e.w 8) 15 0, width := fld (e.w 9) 29 0 * 100 + fld (e.w 10) 6 0,
                      finite := (e.w 11).toNat != 0, left := (e.w 11).toNat } := by
  subst he
  have hring := s.started_ring 0x0501 f
  have hstart : (s.started 0x0501 f).start10 = s.start10 := hring.congr State.start10 fun _ _ _ _ _ _ => rfl
  have htb : (s.started 0x0501 f).tb = s.tb := hring.congr State.tb fun _ _ _ _ _ _ => rfl
  have hscheds : (s.started 0x0501 f).schedsOf = s.schedsOf := hring.congr State.schedsOf fun _ _ _ _ _ _ => rfl
  have hstep := stepToutSchedule_leaves (e := recordOf 0x0501 f) (u := s.started 0x0501 f) (st := st)
    ((s.started_freeHead ..).trans hi) (s.started_jfind 0x0501 f) rfl ((s.started_classRoom ..).trans hr) hok
    (by rwa [hscheds]) (by rw [hstart, hst]) (by rwa [htb]) (by rwa [htb])
  rw [s.started_made, s.started_newHandle, s.started_heat] at hstep
  exact IsCommand.creates ht hrsv hnow h3 hver hsel ⟨by decide, fun _ => rfl⟩ (v := 1) (by decide) (by decide) (by decide) (by decide)
    (by rw [firstStep, recordOf_op (by decide)]; rfl) hstep

theorem tinArm_accepts (hr : s.classRoom 5 = true) {e : JEntry} (he : recordOf 0x0601 f = e)
    (hok : tinBad (s.recorded 0x0601 f) e = none) (hn : (s.armsOf (fld (e.w 3) 1 0)).length < 4) :
    Accepts (.tinArm f) 0x0601 f s fun t =>
      t.ent i = (s.ent i).made 5 ∧ t.inFlightAt f.seq 1 (s.heat + 1) (s.newHandle 5 i) ∧
        ∃ x, Tab.get (fun _ => ({} : TinArm)) t.tinArms i = x ∧ x.input = fld (e.w 3) 1 0 ∧ x.edge = fld (e.w 3) 3 2 ∧
          x.window = (e.w 3).getLsbD 4 ∧ x.count = (e.w 8).toNat ∧ x.armed = false ∧ x.used = 0 := by
  subst he
  obtain ⟨l, hl⟩ := s.started_withJrn 0x0601 f
  have harms : (s.started 0x0601 f).armsOf = s.armsOf := (s.started_ring ..).congr State.armsOf fun _ _ _ _ _ _ => rfl
  obtain ⟨hmade, hflight, harm⟩ := stepTinArm_leaves (e := recordOf 0x0601 f) (u := s.started 0x0601 f) ((s.started_freeHead ..).trans hi)
    (s.started_jfind 0x0601 f) rfl ((s.started_classRoom ..).trans hr) (by rw [hl, State.withJrn_tinBad, hok]) (by rwa [harms])
  rw [s.started_made] at hmade
  rw [s.started_newHandle, s.started_heat] at hflight
  exact IsCommand.creates ht hrsv hnow h3 hver hsel ⟨by decide, fun _ => rfl⟩ (v := 1) (by decide) (by decide) (by decide) (by decide)
    (by rw [firstStep, recordOf_op (by decide)]; rfl) ⟨hmade, hflight, _, harm, rfl, rfl, rfl, rfl, rfl, rfl⟩

theorem subscribe_accepts (hr : s.classRoom 6 = true) (hok : (s.recorded 0x0701 f).subRefused (recordOf 0x0701 f) = none)
    (hfree : subMax (recordOf 0x0701 f).words ≤ (s.recorded 0x0701 f).poolFree 5) : Accepts (.subscribe f) 0x0701 f s fun t =>
      t.ent i = (s.ent i).made 6 ∧ t.inFlightAt f.seq 2 (s.heat + 1) (s.newHandle 6 i) ∧
        t.sub i = { words := (recordOf 0x0701 f).words, slot := s.freeSub } ∧
        t.booked 5 = s.booked 5 + subMax (recordOf 0x0701 f).words := by
  obtain ⟨l, hl⟩ := s.started_withJrn 0x0701 f
  have hstep := stepSubscribe_leaves (e := recordOf 0x0701 f) (u := s.started 0x0701 f) ((s.started_freeHead ..).trans hi)
    (s.started_jfind 0x0701 f) rfl ((s.started_classRoom ..).trans hr) (by rw [hl, State.withJrn_subRefused, hok])
    (by rwa [hl, State.withJrn_poolFree])
  have hslot : (s.started 0x0701 f).freeSub = s.freeSub := (s.started_ring ..).congr State.freeSub fun _ _ _ _ _ _ => rfl
  rw [s.started_made, s.started_newHandle, s.started_heat, hslot, s.started_booked _ _ (by decide)] at hstep
  exact IsCommand.creates ht hrsv hnow h3 hver hsel ⟨by decide, fun _ => rfl⟩ (v := 1) (by decide) (by decide) (by decide) (by decide)
    (by rw [firstStep, recordOf_op (by decide)]; rfl) hstep

theorem combCreate_accepts (hr : s.classRoom 7 = true) {e : JEntry} (he : recordOf 0x0801 f = e)
    (hok : (s.recorded 0x0801 f).combRefused e = none)
    (hfit : ∀ t, t = ((s.recorded 0x0801 f).alloc 7 true false).2 → t.combUnfit e = none) : Accepts (.combCreate f) 0x0801 f s fun t =>
      t.ent i = (s.ent i).made 7 ∧ t.inFlightAt f.seq 2 (s.heat + 1) (s.newHandle 7 i) ∧
        let g := t.group s.freeGroup
        g.entry = i ∧ g.out = fld (e.w 3) 7 0 ∧ g.n = combN e ∧ g.ref = combRef e ∧
        g.streams = (List.range (combN e)).map (combStream e) ∧ g.members = List.range (combN e) := by
  subst he
  obtain ⟨l, hl⟩ := s.started_withJrn 0x0801 f
  have hhead : (s.started 0x0801 f).freeHead = some i := (s.started_freeHead ..).trans hi
  have hroom : (s.started 0x0801 f).classRoom 7 = true := (s.started_classRoom ..).trans hr
  have hunfit : ((s.started 0x0801 f).allocated i 7).combUnfit (recordOf 0x0801 f) = none := by
    rw [hl, State.withJrn_freeHead] at hhead
    rw [hl, State.withJrn_classRoom] at hroom
    rw [hl, State.withJrn_combUnfit]
    exact hfit _ (congrArg Prod.snd (State.alloc_of_room hhead hroom)).symm
  have hstep := stepCombCreate_leaves (e := recordOf 0x0801 f) (u := s.started 0x0801 f) hhead
    (s.started_jfind 0x0801 f) rfl hroom (by rw [hl, State.withJrn_combRefused, hok]) hunfit
  have hgroup : (s.started 0x0801 f).freeGroup = s.freeGroup := (s.started_ring ..).congr State.freeGroup fun _ _ _ _ _ _ => rfl
  rw [s.started_made, s.started_newHandle, s.started_heat, hgroup] at hstep
  exact IsCommand.creates ht hrsv hnow h3 hver hsel ⟨by decide, fun _ => rfl⟩ (v := 2) (by decide) (by decide) (by decide) (by decide)
    (by rw [firstStep, recordOf_op (by decide)]; rfl) hstep

end accepted

/-- Settles O40: each command that makes an object is accepted with what its first step leaves. -/
theorem creatorsAccept : Obligations.CreatorsAccept := by
  intro s f i ht hrsv hnow h3 hver hsel hi made h
  refine ⟨?_, ?_, ?_, ?_, ?_, ?_, ?_⟩
  · intro r e prm els g hok hfree hcy hr b hb
    exact chCreate_accepts ht hrsv hnow h3 hver hsel hi hr hok rfl rfl rfl hfree hcy hb
  · intro r e hok hr
    exact srchSubmit_accepts ht hrsv hnow h3 hver hsel hi hr hok
  · intro r e hok hr k hk hfree hlow
    exact injStart_accepts ht hrsv hnow h3 hver hsel hi hr hok hk hfree hlow
  · intro e st ahead hok hn hr hnear hfar
    exact toutSchedule_accepts ht hrsv hnow h3 hver hsel hi hr rfl hok rfl hn hnear hfar
  · intro r e hok hn hr
    exact tinArm_accepts ht hrsv hnow h3 hver hsel hi hr rfl hok hn
  · intro r e hok hfree hr
    exact subscribe_accepts ht hrsv hnow h3 hver hsel hi hr hok hfree
  · intro r e hok hr hfit
    exact combCreate_accepts ht hrsv hnow h3 hver hsel hi hr rfl hok hfit

end Sys2Proof.Machine

/-! ## Ring indices and RUN bits (rules R56, R337, R612) -/

namespace Sys2Proof.Machine

/-- A correction ring in exchange memory, stopped, whose first byte waits in a word with an uncorrectable error. -/
def badWordRing : State :=
  { State.reset with
    inReset := false
    regs := [(addr 0x000 0x050, 1), (addr 0x071 0x080, 2), (addr 0x071 0x090, 1)]
    bad := [(badKey 28 0, true)] }

/-- A ring of 2^8 bytes in exchange memory with RUN set. -/
def startLocal : Word := 0x23

theorem badWordRing_hears : badWordRing.hears 0x071 :=
  ⟨by decide, by decide +kernel, fun h => absurd h (by decide), fun h => absurd h (by decide)⟩

theorem badWordRing_takesRun : badWordRing.takesRun 2 0x071 0x080 startLocal := by
  refine ⟨by decide +kernel, fun _ => .inr fun b hb => ?_, fun _ => ⟨by decide, by decide, fun h => absurd h (by decide +kernel)⟩,
    fun h => absurd h (by decide)⟩
  obtain rfl : b = (0x084, 0x088, 1, 1) := by simpa [ringBases] using hb
  exact ⟨by decide +kernel, fun _ => by decide +kernel⟩

/-- Started, the ring takes the byte that waits: the bad word is met, and counted in PG_ERR_CNT of the CMD page. -/
theorem badWordRing_counts : badWordRing.cell (addr 0x003 0x024) = 0 ∧
    (badWordRing.hostWrite (addr 0x071 0x080) startLocal true).cell (addr 0x003 0x024) = 1 := by decide +kernel

/-- Refutes O59: starting the correction ring with LOC 1 takes the bytes that wait there, and one in a word with an uncorrectable error
is counted and captured on the CMD page (rules R52, R56), which the statement says keeps its registers. -/
theorem not_ringIndices : ¬ Obligations.RingIndices := by
  intro h
  obtain ⟨-, hrun, -⟩ := h badWordRing
  obtain ⟨hstarts, -⟩ := hrun 2 badWordRing_hears (by decide +kernel) startLocal
  obtain ⟨t, hexec, -, hkept⟩ := hstarts badWordRing_takesRun (fun h => absurd h (by decide)) (fun h => absurd h (by decide))
  have hsame : t.cell (addr 0x003 0x024) = badWordRing.cell (addr 0x003 0x024) := hkept _ (by decide)
  have hstate : badWordRing.hostWrite (addr 0x071 0x080) startLocal true = t := Host.Outcome.next.inj hexec
  obtain ⟨hzero, hone⟩ := badWordRing_counts
  rw [← hstate, hzero, hone] at hsame
  exact absurd hsame (by decide)

end Sys2Proof.Machine

/-! ## Captures of the search engine (rules R139, R255, R256, R258, R270) -/

namespace Sys2Proof.Machine

/-! ### Jobs in their table -/

/-- A change of every entry under its own key shows where the key is listed. -/
theorem Tab.get_map {α : Type} (d : Nat → α) (g : Nat × α → Nat × α) (hg : ∀ e, (g e).1 = e.1) {t : Tab α} {k : Nat}
    (h : (t.any fun e => e.1 == k) = true) : Tab.get d (t.map g) k = (g (k, Tab.get d t k)).2 := by
  induction t with
  | nil => cases h
  | cons e t ih =>
    obtain ⟨j, v⟩ := e
    by_cases hj : j = k
    · subst hj
      rw [List.map_cons, Tab.get, if_pos (hg (j, v)), Tab.get, if_pos rfl]
    · rw [List.map_cons, Tab.get, if_neg fun h => hj ((hg (j, v)).symm.trans h), Tab.get, if_neg hj]
      exact ih (by simpa [hj] using h)

theorem Tab.any_ins {α : Type} (t : Tab α) (k j : Nat) (x : α) :
    ((Tab.ins t k x).any fun e => e.1 == j) = (t.any (fun e => e.1 == j) || k == j) := by
  have hput : ∀ t : Tab α, ((Tab.put t k x).any fun e => e.1 == j) = (t.any (fun e => e.1 == j) || k == j) := fun t => by
    induction t with
    | nil => simp [Tab.put]
    | cons e t ih =>
      rw [Tab.put]
      split
      · rw [List.any_cons, Bool.or_comm]
      · rw [List.any_cons, List.any_cons, ih, Bool.or_assoc]
  rw [Tab.ins, hput, Tab.del, List.any_filter]
  by_cases hk : k = j
  · simp [hk]
  · congr 2
    funext e
    by_cases he : e.1 = j
    · simp [he, Ne.symm hk]
    · simp [he]

theorem State.job_congr {s t : State} (h : t.jobs = s.jobs) (i : Nat) : t.job i = s.job i := by rw [State.job, h, State.job]

theorem State.hasJob_congr {s t : State} (h : t.jobs = s.jobs) (i : Nat) : t.hasJob i = s.hasJob i := by
  rw [State.hasJob, h, State.hasJob]

theorem State.job_setJob_same (s : State) (i : Nat) (x : Job) : (s.setJob i x).job i = x := Tab.get_ins_same ..

theorem State.job_setJob_ne (s : State) {i k : Nat} (x : Job) (h : k ≠ i) : (s.setJob i x).job k = s.job k := Tab.get_ins_ne _ _ _ h

theorem State.job_modJob_same {s : State} {i : Nat} (h : s.hasJob i = true) (f : Job → Job) : (s.modJob i f).job i = f (s.job i) := by
  rw [State.modJob, if_pos h, State.job_setJob_same]

theorem State.job_modJob_ne (s : State) {i k : Nat} (f : Job → Job) (h : k ≠ i) : (s.modJob i f).job k = s.job k := by
  unfold State.modJob
  split
  · exact s.job_setJob_ne _ h
  · rfl

theorem State.hasJob_modJob (s : State) (i k : Nat) (f : Job → Job) : (s.modJob i f).hasJob k = s.hasJob k := by
  unfold State.modJob
  split
  · next hi =>
    refine (Tab.any_ins s.jobs i k _).trans ?_
    by_cases hk : i = k
    · subst hk
      exact (Bool.or_eq_true_iff.2 (.inl hi)).trans hi.symm
    · rw [beq_eq_false_iff_ne.2 hk, Bool.or_false, State.hasJob]
  · rfl

theorem State.regs_modJob (s : State) (i : Nat) (f : Job → Job) : (s.modJob i f).regs = s.regs := by
  unfold State.modJob
  split <;> rfl

theorem State.cell_modJob (s : State) (i : Nat) (f : Job → Job) (a : Nat) : (s.modJob i f).cell a = s.cell a := by
  rw [State.cell, s.regs_modJob, State.cell]

/-- Bringing the floor job up to date raises at most FLOOR_SET. -/
theorem State.cell_refreshFloor (s : State) {a : Nat} (h : a ≠ addr 0x041 0x014) : s.refreshFloor.cell a = s.cell a := by
  unfold State.refreshFloor
  dsimp only
  split
  · rfl
  · split
    · rw [State.cell_raise, if_neg h]
      rfl
    · rfl

theorem State.job_refreshFloor (s : State) (i : Nat) : s.refreshFloor.job i = s.job i := State.job_congr s.refreshFloor_spec.2.2 i

/-! ### A capture starts (rule R255) -/

/-- The job at the start of its capture. -/
def Job.begun (j : Job) (el at' : Nat) : Job :=
  { j with phase := if jStreamMode j.words then .processing else .capturing, capEl := el, start := some at', capAt := none,
           spoilt := false, cond := 0, heats := 0, shift := 0, coh := [], stat := [], inp := [], pow := 0, seen := 0 }

/-- The entry of a job of the snapshot that is armed starts. -/
def beginEntry (n el at' : Nat) (e : Nat × Job) : Nat × Job :=
  if e.2.snap = n ∧ e.2.phase = .armed then (e.1, e.2.begun el at') else e

theorem beginEntry_fst (n el at' : Nat) (e : Nat × Job) : (beginEntry n el at' e).1 = e.1 := by
  unfold beginEntry
  split <;> rfl

/-- The state in which the capture of a snapshot starts. -/
def State.begun (s : State) (n el at' : Nat) : State := { s.resetSnap n with jobs := s.jobs.map (beginEntry n el at') }

theorem State.snap_begun (s : State) (n el at' : Nat) : (s.begun n el at').snap n = { s.snap n with hist := [], count := 0 } :=
  Tab.get_set_same ..

theorem State.job_begun (s : State) (n el at' : Nat) {i : Nat} (hi : s.hasJob i = true) : (s.begun n el at').job i =
    if (s.job i).snap = n ∧ (s.job i).phase = .armed then (s.job i).begun el at' else s.job i := by
  refine (Tab.get_map _ _ (beginEntry_fst n el at') hi).trans ?_
  exact apply_ite Prod.snd ..

theorem captureStart_begins {s : State} {idx : Fin 8192} (h : s.hasJob idx.val = true) (hdue : s.startDue (s.job idx.val) = true) :
    exec (.captureStart idx) s = .next (s.begun (s.job idx.val).snap (s.el - (s.tb.now - s.startAt (s.job idx.val)))
      (s.startAt (s.job idx.val))) := if_pos (by rw [h, hdue]; rfl)

/-- Every armed job of the snapshot starts, and no other job changes. -/
theorem State.begun_spec (s : State) (n el at' i : Nat) (hi : s.hasJob i = true) : let x := (s.begun n el at').job i
    ((s.job i).snap = n → (s.job i).phase = .armed → x.start = some at' ∧ x.capEl = el ∧ x.capAt = none ∧ x.spoilt = false ∧
      x.heats = 0 ∧ x.phase = (if jStreamMode (s.job i).words then .processing else .capturing)) ∧
    ((s.job i).snap ≠ n ∨ (s.job i).phase ≠ .armed → x = s.job i) := by
  rw [s.job_begun n el at' hi]
  constructor
  · intro hs hp
    rw [if_pos ⟨hs, hp⟩]
    exact ⟨rfl, rfl, rfl, rfl, rfl, rfl⟩
  · intro hno
    exact if_neg fun hboth => hno.elim (fun h => h hboth.1) fun h => h hboth.2

/-! ### A capture is complete (rule R258) -/

/-- The jobs of a list are CAPTURED. -/
def State.captureAll (s : State) (l : List Nat) : State := l.foldl (fun s i => s.modJob i fun j => { j with phase := .captured }) s

theorem State.cell_captureAll (s : State) (l : List Nat) (a : Nat) : (s.captureAll l).cell a = s.cell a := by
  induction l generalizing s with
  | nil => rfl
  | cons k l ih => exact (ih _).trans (s.cell_modJob ..)

theorem State.job_captureAll_of_notMem {s : State} {l : List Nat} {i : Nat} (h : i ∉ l) : (s.captureAll l).job i = s.job i := by
  induction l generalizing s with
  | nil => rfl
  | cons k l ih =>
    rw [List.mem_cons, not_or] at h
    exact (ih h.2).trans (s.job_modJob_ne _ h.1)

theorem State.phase_captureAll {s : State} {l : List Nat} {i : Nat} (hi : s.hasJob i = true) (h : i ∈ l) :
    ((s.captureAll l).job i).phase = .captured := by
  induction l generalizing s with
  | nil => cases h
  | cons k l ih =>
    by_cases hl : i ∈ l
    · exact ih ((s.hasJob_modJob ..).trans hi) hl
    · obtain rfl : i = k := (List.mem_cons.1 h).resolve_right hl
      exact (congrArg Job.phase (State.job_captureAll_of_notMem hl)).trans (congrArg Job.phase (State.job_modJob_same hi _))

/-- The entry listed at a key. -/
theorem Tab.mem_of_any {α : Type} (d : Nat → α) {t : Tab α} {k : Nat} (h : (t.any fun e => e.1 == k) = true) :
    (k, Tab.get d t k) ∈ t := by
  induction t with
  | nil => cases h
  | cons e t ih =>
    obtain ⟨j, v⟩ := e
    by_cases hj : j = k
    · subst hj
      rw [Tab.get, if_pos rfl]
      exact List.mem_cons_self
    · rw [Tab.get, if_neg hj]
      exact List.mem_cons_of_mem _ (ih (by simpa [hj] using h))

theorem State.mem_capsOf {s : State} {i : Nat} (hi : s.hasJob i = true) (hc : (s.job i).capturing = true) : i ∈ s.capsOf (s.job i).snap :=
  List.mem_map.2 ⟨(i, s.job i), List.mem_filter.2 ⟨Tab.mem_of_any _ hi, by simp [hc]⟩, rfl⟩

theorem State.notMem_capsOf {s : State} {n i : Nat} (h : ∀ e ∈ s.jobs, e.1 = i → e.2.snap ≠ n) : i ∉ s.capsOf n := by
  intro hi
  obtain ⟨e, he, rfl⟩ := List.mem_map.1 hi
  obtain ⟨hmem, hsnap⟩ := List.mem_filter.1 he
  exact h e hmem rfl (of_decide_eq_true hsnap).1

/-! ### Impaired captures (rule R256) -/

theorem State.getLsbD_raise_of {s : State} {a b : Nat} (p bit : Nat) (h : (s.cell a).getLsbD b = true) :
    ((s.raise p bit).cell a).getLsbD b = true := by
  rw [State.cell_raise]
  split
  · rw [BitVec.getLsbD_or, h, Bool.true_or]
  · exact h

theorem State.getLsbD_raise_same (s : State) {p bit : Nat} (h : bit < 32) : ((s.raise p bit).reg p 0x014).getLsbD bit = true := by
  rw [State.reg_cell, State.cell_raise, if_pos rfl, BitVec.getLsbD_or, BitVec.getLsbD_ofNat]
  simp [h]

/-- The job as it waits for its capture to start over. -/
def Job.restarted (j : Job) (imp : Bool) : Job :=
  { j with
    phase := .armed, restarts := j.restarts + 1, impRestarts := j.impRestarts + b2n imp, waitReal := j.waitReal || imp,
    start := none, cond := 0, capAt := none, spoilt := false, coh := [], stat := [], inp := [], pow := 0, heats := 0 }

/-- The limit for restarts, RESTART_MAX. -/
def State.restartMax (s : State) : Nat := s.rf 0x041 0x040 3 0

section restart

variable {s : State} {i : Nat}

theorem State.restartJob_ends (h : s.restartMax < (s.job i).impRestarts + 1) :
    s.restartJob i true = (s.modJob i fun j => { j with nq := true }).raise 0x041 18 := by
  unfold State.restartJob
  dsimp only
  exact if_pos (by simpa [State.restartMax] using h)

theorem State.restartJob_restarts (h : (s.job i).impRestarts + 1 ≤ s.restartMax) : s.restartJob i true =
    (((s.modJob i fun j => j.restarted true).resetSnap (s.job i).snap).count 0x041 0x064).raise 0x041 17 := by
  unfold State.restartJob
  dsimp only
  exact if_neg (by simpa [State.restartMax] using h)

/-- The restart, or the end, of a capture that an impairment spoilt: no other job, no job's being listed and no limit changes, and no
event is taken back. -/
theorem State.restartJob_keeps (s : State) (i : Nat) : let t := s.restartJob i true
    (∀ k, k ≠ i → t.job k = s.job k) ∧ (∀ k, t.hasJob k = s.hasJob k) ∧ t.restartMax = s.restartMax ∧
      ∀ b, (s.reg 0x041 0x014).getLsbD b = true → (t.reg 0x041 0x014).getLsbD b = true := by
  obtain hle | hlt := Nat.lt_or_ge s.restartMax ((s.job i).impRestarts + 1)
  · rw [State.restartJob_ends hle]
    refine ⟨fun k hk => ?_, fun k => ?_, ?_, fun b hb => ?_⟩
    · exact (State.congr_raise (g := fun s => s.job k) (fun _ => rfl) ..).trans (s.job_modJob_ne _ hk)
    · exact (State.congr_raise (g := fun s => s.hasJob k) (fun _ => rfl) ..).trans (s.hasJob_modJob ..)
    · exact congrArg (fun v : Word => fld v 3 0) ((State.cell_raise ..).trans ((if_neg (by decide)).trans (s.cell_modJob ..)))
    · exact State.getLsbD_raise_of _ _ ((congrArg (fun v : Word => v.getLsbD b) (s.cell_modJob ..)).trans hb)
  · rw [State.restartJob_restarts hlt]
    have hcell : ∀ {a}, a ≠ addr 0x041 0x064 →
        (((s.modJob i fun j => j.restarted true).resetSnap (s.job i).snap).count 0x041 0x064).cell a = s.cell a := fun ha =>
      (State.cell_count ..).trans ((if_neg ha).trans (s.cell_modJob ..))
    refine ⟨fun k hk => ?_, fun k => ?_, ?_, fun b hb => ?_⟩
    · exact (State.congr_raise (g := fun s => s.job k) (fun _ => rfl) ..).trans (s.job_modJob_ne _ hk)
    · exact (State.congr_raise (g := fun s => s.hasJob k) (fun _ => rfl) ..).trans (s.hasJob_modJob ..)
    · exact congrArg (fun v : Word => fld v 3 0) ((State.cell_raise ..).trans ((if_neg (by decide)).trans (hcell (by decide))))
    · exact State.getLsbD_raise_of _ _ ((congrArg (fun v : Word => v.getLsbD b) (hcell (by decide))).trans hb)

end restart

/-- The work of the heat that ends on one entry of the job table. -/
def State.impairEntry (s : State) (e : Nat × Job) : State :=
  if e.2.capturing && e.2.spoilt && !e.2.cancelled && !e.2.torn then s.restartJob e.1 true else s

/-- The jobs of other entries, the jobs listed, the limit and the events that stand are as before. -/
theorem State.impairEntries_keeps (l : List (Nat × Job)) (s : State) {i : Nat} (h : ∀ e ∈ l, e.1 ≠ i) :
    let t := l.foldl State.impairEntry s
    t.job i = s.job i ∧ t.hasJob i = s.hasJob i ∧ t.restartMax = s.restartMax ∧
      ∀ b, (s.reg 0x041 0x014).getLsbD b = true → (t.reg 0x041 0x014).getLsbD b = true := by
  induction l generalizing s with
  | nil => exact ⟨rfl, rfl, rfl, fun _ h => h⟩
  | cons e l ih =>
    obtain ⟨hjob, hlist, hmax, hbits⟩ := ih (s.impairEntry e) fun x hx => h x (List.mem_cons_of_mem _ hx)
    have hone : (s.impairEntry e).job i = s.job i ∧ (s.impairEntry e).hasJob i = s.hasJob i ∧
        (s.impairEntry e).restartMax = s.restartMax ∧
        ∀ b, (s.reg 0x041 0x014).getLsbD b = true → ((s.impairEntry e).reg 0x041 0x014).getLsbD b = true := by
      unfold State.impairEntry
      split
      · obtain ⟨hjob, hlist, hmax, hbits⟩ := s.restartJob_keeps e.1
        exact ⟨hjob i (h e List.mem_cons_self).symm, hlist i, hmax, hbits⟩
      · exact ⟨rfl, rfl, rfl, fun _ h => h⟩
    obtain ⟨hjob1, hlist1, hmax1, hbits1⟩ := hone
    exact ⟨hjob.trans hjob1, hlist.trans hlist1, hmax.trans hmax1, fun b hb => hbits b (hbits1 b hb)⟩

theorem Tab.get_append_of_notMem {α : Type} (d : Nat → α) {t : Tab α} {k : Nat} (h : ∀ e ∈ t, e.1 ≠ k) (u : Tab α) :
    Tab.get d (t ++ u) k = Tab.get d u k := by
  induction t with
  | nil => rfl
  | cons e t ih =>
    obtain ⟨j, v⟩ := e
    rw [List.cons_append, Tab.get, if_neg (h (j, v) List.mem_cons_self)]
    exact ih fun x hx => h x (List.mem_cons_of_mem _ hx)

/-- A job listed once stands in its table between others. -/
theorem State.jobs_split {s : State} {i : Nat} (h : (s.jobs.filter fun e => e.1 = i).length = 1) :
    ∃ l r, s.jobs = l ++ (i, s.job i) :: r ∧ (∀ e ∈ l, e.1 ≠ i) ∧ ∀ e ∈ r, e.1 ≠ i := by
  obtain ⟨⟨k, x⟩, he⟩ := List.length_eq_one_iff.1 h
  obtain ⟨l, r, hjobs, hl, hk, hr⟩ := List.filter_eq_cons_iff.1 he
  obtain rfl : k = i := of_decide_eq_true hk
  have hl' : ∀ e ∈ l, e.1 ≠ k := fun e he h => hl e he (decide_eq_true h)
  have hx : s.job k = x := by
    rw [State.job, hjobs, Tab.get_append_of_notMem _ hl', Tab.get, if_pos rfl]
  exact ⟨l, r, hx ▸ hjobs, hl', fun e he h => List.filter_eq_nil_iff.1 hr e he (decide_eq_true h)⟩

/-- A job listed once: at the boundary its own entry decides, on a state in which it is as before. -/
theorem State.impairJobs_spec {s : State} {i : Nat} (h : (s.jobs.filter fun e => e.1 = i).length = 1) :
    ∃ u : State, u.job i = s.job i ∧ u.hasJob i = true ∧ u.restartMax = s.restartMax ∧ let t := u.impairEntry (i, s.job i)
      s.impairJobs.job i = t.job i ∧ ∀ b, (t.reg 0x041 0x014).getLsbD b = true → (s.impairJobs.reg 0x041 0x014).getLsbD b = true := by
  obtain ⟨l, r, hjobs, hl, hr⟩ := State.jobs_split h
  obtain ⟨hjob, hlist, hmax, -⟩ := State.impairEntries_keeps l s hl
  obtain ⟨hjob', -, -, hbits'⟩ := State.impairEntries_keeps r ((l.foldl State.impairEntry s).impairEntry (i, s.job i)) hr
  have hfold : s.impairJobs = r.foldl State.impairEntry ((l.foldl State.impairEntry s).impairEntry (i, s.job i)) := by
    have hall : s.impairJobs = s.jobs.foldl State.impairEntry s := rfl
    rw [hall, hjobs, List.foldl_append, List.foldl_cons]
  have hhas : s.hasJob i = true := by
    rw [State.hasJob, hjobs]
    simp
  rw [hfold]
  exact ⟨_, hjob, hlist.trans hhas, hmax, hjob', hbits'⟩

/-- What the boundary makes of a capture that no one has cancelled. -/
theorem State.impairJobs_capturing {s : State} {i : Nat} (hone : (s.jobs.filter fun e => e.1 = i).length = 1)
    (hp : (s.job i).phase = .capturing) (hcancel : (s.job i).cancelled = false) (htorn : (s.job i).torn = false) :
    let j := s.job i
    let t := s.impairJobs
    (j.spoilt = false → t.job i = j) ∧
      (j.spoilt = true → j.impRestarts + 1 ≤ s.restartMax → t.job i = j.restarted true ∧ (t.reg 0x041 0x014).getLsbD 17 = true) ∧
      (j.spoilt = true → s.restartMax < j.impRestarts + 1 →
        t.job i = { j with nq := true } ∧ (t.reg 0x041 0x014).getLsbD 18 = true) := by
  intro j t
  obtain ⟨u, hjob, hhas, hmax, hsame, hbits⟩ := State.impairJobs_spec hone
  have hentry : u.impairEntry (i, s.job i) = if j.spoilt = true then u.restartJob i true else u := by
    unfold State.impairEntry
    simp [Job.capturing, hp, hcancel, htorn, j]
  rw [hentry] at hsame hbits
  refine ⟨fun h => ?_, fun h hle => ?_, fun h hlt => ?_⟩
  · rw [h, if_neg Bool.false_ne_true] at hsame
    exact hsame.trans hjob
  · rw [if_pos h, State.restartJob_restarts (by rwa [hjob, hmax])] at hsame hbits
    refine ⟨hsame.trans ((State.congr_raise (g := fun s => s.job i) (fun _ => rfl) ..).trans ?_),
      hbits 17 (State.getLsbD_raise_same _ (by decide))⟩
    exact (State.job_modJob_same hhas _).trans (congrArg (Job.restarted · true) hjob)
  · rw [if_pos h, State.restartJob_ends (by rwa [hjob, hmax])] at hsame hbits
    refine ⟨hsame.trans ((State.congr_raise (g := fun s => s.job i) (fun _ => rfl) ..).trans ?_),
      hbits 18 (State.getLsbD_raise_same _ (by decide))⟩
    exact (State.job_modJob_same hhas _).trans (congrArg (fun x : Job => { x with nq := true }) hjob)

/-! ### SNAP_HWM (rule R270) -/

/-- SNAP_HWM in its page's table. -/
def snapHwmReg : Reg := ⟨0x050, 1, 4, 0x0, [⟨31, 1, .wo, .any⟩]⟩

theorem State.hostWrite_snapHwm {s : State} (h : s.hears 0x041) : s.hostWrite (addr 0x041 0x050) 0x80000000 true =
    (s.setReg 0x041 0x050 (s.reg 0x041 0x050)).setReg 0x041 0x050 (BitVec.ofNat 32 s.snapUsed) := by
  have hviol : regViol (s.locked 0x041) snapHwmReg 0x80000000 = [] := regViol_wo_any fun f hf => by
    obtain rfl := List.mem_singleton.1 hf
    exact ⟨rfl, rfl⟩
  have hnone : ∀ a, a ≠ .wo → snapHwmReg.mask a = 0 := fun a ha => Reg.mask_eq_zero fun f hf => by
    obtain rfl := List.mem_singleton.1 hf
    exact Ne.symm ha
  rw [State.hostWrite_of_hears h, State.regWrite_taken (p := 0x041) (off := 0x050) (r := snapHwmReg) rfl (by decide) rfl (by decide)
    (by decide) (by rw [hviol]; rfl), State.takeWrite_rw (s.slotOf_eq_addr _ (by decide) (by decide)) (hnone _ (by decide))
    (hnone _ (by decide)), hnone _ (by decide), hnone _ (by decide), mix_none]
  show takenCruc0 0x050 0x80000000 (State.keepLoc _ 0x041 0x050) = _
  rw [State.keepLoc_of_not_ring (by decide)]
  rfl

/-- Settles O49, clause by clause. -/
theorem searchCaptures : Obligations.SearchCaptures := by
  refine ⟨?_, ?_, ?_, ?_, ?_⟩
  · intro idx s h hdue j at'
    refine ⟨_, captureStart_begins h hdue, rfl, rfl, ?_, ?_, ?_, fun i hi => s.begun_spec _ _ _ i hi⟩
    · rw [s.snap_begun]
    · rw [s.snap_begun]
    · rw [s.snap_begun]
  · intro idx dt s u j h hp hrun
    have hcap : (u.job idx.val).capturing = true := by
      have : (u.job idx.val).phase = .capturing := hp
      rw [Job.capturing, this]
      rfl
    refine ⟨fun hcount hspoilt => ⟨((u.captureAll (u.capsOf j.snap)).refreshFloor), ?_, ?_, fun i hi => ?_, fun a ha => ?_⟩, ?_⟩
    · refine congrArg Host.Outcome.next (if_pos ?_)
      simp only [Bool.and_eq_true, decide_eq_true_eq, beq_iff_eq, Bool.not_eq_true']
      exact ⟨⟨⟨⟨h, hp⟩, hcount⟩, hspoilt⟩, hrun⟩
    · rw [State.job_refreshFloor]
      exact State.phase_captureAll h (State.mem_capsOf h hcap)
    · rw [State.job_refreshFloor, State.job_captureAll_of_notMem (State.notMem_capsOf hi)]
    · rw [State.cell_refreshFloor _ (fun h => ha (List.mem_singleton.2 h)), State.cell_captureAll]
    · intro hno
      refine congrArg Host.Outcome.next (if_neg fun hall => ?_)
      simp only [Bool.and_eq_true, Bool.not_eq_true', decide_eq_true_eq] at hall
      obtain ⟨⟨⟨-, hcount⟩, hspoilt⟩, -⟩ := hall
      exact hno.elim (Nat.not_lt.2 hcount) fun h => Bool.false_ne_true (hspoilt.symm.trans h)
  · intro i s j t hone hp hcancel htorn
    obtain ⟨hkept, hagain, hend⟩ := State.impairJobs_capturing hone hp hcancel htorn
    refine ⟨hkept, fun hs hle => ?_, fun hs hlt => ?_⟩
    · obtain ⟨hjob, hbit⟩ := hagain hs hle
      exact ⟨congrArg Job.phase hjob, (congrArg Job.waitReal hjob).trans (Bool.or_true _), congrArg Job.impRestarts hjob,
        congrArg Job.restarts hjob, hbit⟩
    · obtain ⟨hjob, hbit⟩ := hend hs hlt
      exact ⟨congrArg Job.nq hjob, hbit⟩
  · intro idx s j h hbooked hdone hprio hage
    refine ⟨(s.modJob idx.val fun j => { j with prio := j.prio + 1, ageHeats := 0 }).refreshFloor, ?_, ?_, fun i hi => ?_, fun a ha => ?_⟩
    · exact congrArg Host.Outcome.next (if_pos (by simp [h, Job.queued, hbooked, hdone, hprio, hage, j]))
    · rw [State.job_refreshFloor, State.job_modJob_same h]
    · rw [State.job_refreshFloor, s.job_modJob_ne _ hi]
    · rw [State.cell_refreshFloor _ fun h => ha (List.mem_singleton.2 h), s.cell_modJob]
  · intro s h
    refine ⟨_, congrArg Host.Outcome.next (State.hostWrite_snapHwm h), ?_, rfl, fun a ha => ?_⟩
    · exact (State.cell_setReg ..).trans (if_pos rfl)
    · have hne : a ≠ addr 0x041 0x050 := fun h => ha (List.mem_singleton.2 h)
      rw [State.cell_setReg, if_neg hne, State.cell_setReg, if_neg hne]

end Sys2Proof.Machine

/-! ## What moves the clock of the heats (rules R96 to R100)

The heat number, ALIVE, the elapsed time, the reset and the instants of the heat in progress are moved by a heat boundary itself. What a
boundary has the planes do leaves them alone: one lemma for each operation that a boundary comes to, in the order of the model, as for the
queue of commands and the fuses. Where the disciplining, a command or a step works on the time base, the lemma speaks of the instants
only; all other operations leave the time base as it is. -/

namespace Sys2Proof.Machine

/-- The heat number, ALIVE, the reset, the elapsed time and the time base are as before. -/
abbrev KeepsTime (s t : State) : Prop :=
  t.heat = s.heat ∧ t.alive = s.alive ∧ t.inReset = s.inReset ∧ t.el = s.el ∧ t.tb = s.tb

/-- The same, but of the time base only the instants of the heat in progress. -/
abbrev SameClock (s t : State) : Prop :=
  t.heat = s.heat ∧ t.alive = s.alive ∧ t.inReset = s.inReset ∧ t.el = s.el ∧ t.tb.hStart = s.tb.hStart ∧ t.tb.hEnd = s.tb.hEnd

theorem KeepsTime.refl (s : State) : KeepsTime s s := ⟨rfl, rfl, rfl, rfl, rfl⟩

theorem SameClock.refl (s : State) : SameClock s s := ⟨rfl, rfl, rfl, rfl, rfl, rfl⟩

theorem KeepsTime.trans {s t u : State} (h : KeepsTime s t) (g : KeepsTime t u) : KeepsTime s u := by
  obtain ⟨h1, h2, h3, h4, h5⟩ := h
  obtain ⟨g1, g2, g3, g4, g5⟩ := g
  exact ⟨g1.trans h1, g2.trans h2, g3.trans h3, g4.trans h4, g5.trans h5⟩

theorem SameClock.trans {s t u : State} (h : SameClock s t) (g : SameClock t u) : SameClock s u := by
  obtain ⟨h1, h2, h3, h4, h5, h6⟩ := h
  obtain ⟨g1, g2, g3, g4, g5, g6⟩ := g
  exact ⟨g1.trans h1, g2.trans h2, g3.trans h3, g4.trans h4, g5.trans h5, g6.trans h6⟩

theorem KeepsTime.clock {s t : State} (h : KeepsTime s t) : SameClock s t := by
  obtain ⟨h1, h2, h3, h4, h5⟩ := h
  exact ⟨h1, h2, h3, h4, congrArg TimeBase.hStart h5, congrArg TimeBase.hEnd h5⟩

section ite

variable (c : Prop) [Decidable c] (a b : State) (x y : TimeBase)

@[simp] theorem State.heat_ite : (if c then a else b).heat = if c then a.heat else b.heat := apply_ite ..

@[simp] theorem State.alive_ite : (if c then a else b).alive = if c then a.alive else b.alive := apply_ite ..

@[simp] theorem State.inReset_ite : (if c then a else b).inReset = if c then a.inReset else b.inReset := apply_ite ..

@[simp] theorem State.el_ite : (if c then a else b).el = if c then a.el else b.el := apply_ite ..

@[simp] theorem State.tb_ite : (if c then a else b).tb = if c then a.tb else b.tb := apply_ite ..

@[simp] theorem TimeBase.hStart_ite : (if c then x else y).hStart = if c then x.hStart else y.hStart := apply_ite ..

@[simp] theorem TimeBase.hEnd_ite : (if c then x else y).hEnd = if c then x.hEnd else y.hEnd := apply_ite ..

end ite

/-- A fold whose steps keep them, read through the part of its accumulator that is a state. -/
theorem KeepsTime.foldl_of {α β : Type} (get : β → State) {f : β → α → β} (h : ∀ b a, KeepsTime (get b) (get (f b a))) (l : List α)
    (b : β) : KeepsTime (get b) (get (l.foldl f b)) := by
  induction l generalizing b with
  | nil => exact .refl _
  | cons a l ih => exact (h b a).trans (ih _)

@[simp] theorem KeepsTime.foldl {α : Type} {f : State → α → State} (h : ∀ s a, KeepsTime s (f s a)) (l : List α) (s : State) :
    KeepsTime s (l.foldl f s) := KeepsTime.foldl_of id h l s

@[simp] theorem SameClock.foldl {α : Type} {f : State → α → State} (h : ∀ s a, SameClock s (f s a)) (l : List α) (s : State) :
    SameClock s (l.foldl f s) := by
  induction l generalizing s with
  | nil => exact .refl _
  | cons a l ih => exact (h s a).trans (ih _)

/-! ### Registers and memories -/

@[simp] theorem State.setRf_time (s : State) (p o hi lo x : Nat) : KeepsTime s (s.setRf p o hi lo x) := .refl _

@[simp] theorem State.count_time (s : State) (p o : Nat) : KeepsTime s (s.count p o) := .refl _

@[simp] theorem State.setSvc_time (s : State) (v : Nat) : KeepsTime s (s.setSvc v) := .refl _

@[simp] theorem State.logPut_time (s : State) (src sev code a : Nat) (w : Word) : KeepsTime s (s.logPut src sev code a w) := by
  simp [State.logPut, KeepsTime]

@[simp] theorem State.logAdd_time (s : State) (src sev code a : Nat) (w : Word) : KeepsTime s (s.logAdd src sev code a w) := by
  simp [State.logAdd, KeepsTime]

@[simp] theorem State.logOwn_time (s : State) (code a : Nat) (w : Word) : KeepsTime s (s.logOwn code a w) := by
  simp [State.logOwn, KeepsTime]

@[simp] theorem State.assertQuench_time (s : State) (cls unit : Nat) : KeepsTime s (s.assertQuench cls unit) := by
  simp [State.assertQuench, KeepsTime]

@[simp] theorem State.raiseClass_time (s : State) (cls unit : Nat) : KeepsTime s (s.raiseClass cls unit) := by
  unfold State.raiseClass
  dsimp only
  split_ifs <;> (try split) <;> simp [KeepsTime]

theorem State.bump_time (s : State) : KeepsTime s s.bump := .refl _

@[simp] theorem State.setBad_time (s : State) (mem a : Nat) (b : Bool) : KeepsTime s (s.setBad mem a b) := .refl _

@[simp] theorem State.meet_time (s : State) (page mem a : Nat) : KeepsTime s (s.meet page mem a) := by simp [State.meet, KeepsTime]

@[simp] theorem State.meetEx_time (s : State) (base n : Nat) : KeepsTime s (s.meetEx base n) := by simp [State.meetEx, KeepsTime]

@[simp] theorem State.setEx_time (s : State) (a : Nat) (v : Native) : KeepsTime s (s.setEx a v) := .refl _

@[simp] theorem State.setMr_time (s : State) (a : Nat) (v : Native) : KeepsTime s (s.setMr a v) := .refl _

@[simp] theorem State.setExByte_time (s : State) (base i : Nat) (b : Byte) : KeepsTime s (s.setExByte base i b) := .refl _

@[simp] theorem State.putRec_time (loc : Bool) : ∀ (ws : List Word) (s : State) (base : Nat), KeepsTime s (s.putRec loc base ws)
  | [], _, _ => .refl _
  | [_], s, base => by simp [State.putRec, KeepsTime]
  | _ :: _ :: ws, s, base => by simp [State.putRec, KeepsTime, State.putRec_time loc ws]

@[simp] theorem State.setCore_time (s : State) (k : Nat) (c : Core) : KeepsTime s (s.setCore k c) := .refl _

@[simp] theorem State.modCore_time (s : State) (k : Nat) (f : Core → Core) : KeepsTime s (s.modCore k f) := .refl _

@[simp] theorem State.dataWr_time (s : State) (k space a : Nat) (v : Native) : KeepsTime s (s.dataWr k space a v) := by
  simp [State.dataWr, KeepsTime]

@[simp] theorem State.haltCore_time (s : State) (k cause : Nat) (pc : BitVec 16) : KeepsTime s (s.haltCore k cause pc) := by
  simp [State.haltCore, KeepsTime]

/-- An access that may fault answers, where it does not, a value whose state keeps the time. -/
def OkClock {α : Type} (s : State) (get : α → State) : Except (Nat × Nat) α → Prop
  | .ok r => KeepsTime s (get r)
  | .error _ => True

theorem OkClock.of_eq {α : Type} {s : State} {get : α → State} {x : Except (Nat × Nat) α} {r : α} (h : OkClock s get x)
    (hx : x = .ok r) : KeepsTime s (get r) := by
  subst hx; exact h

theorem State.pushWord_time (s : State) (k : Nat) (v : Native) : OkClock s id (s.pushWord k v) := by
  simp only [State.pushWord]
  split
  · trivial
  · split
    · trivial
    · exact ((s.modCore_time k _).trans (State.bump_time _)).trans (State.dataWr_time ..)

@[simp] theorem State.enterExc_time (s : State) (k v code : Nat) (resume cont : BitVec 16) (slot : Bool) :
    KeepsTime s (s.enterExc k v code resume cont slot) := by
  unfold State.enterExc
  split
  · simp [KeepsTime]
  next h => simpa [KeepsTime] using (s.pushWord_time k _).of_eq h

@[simp] theorem State.stopIfDue_time (s : State) (k : Nat) : KeepsTime s (s.stopIfDue k) := by simp [State.stopIfDue, KeepsTime]

@[simp] theorem State.takeFault_time (s : State) (k v code len : Nat) : KeepsTime s (s.takeFault k v code len) := by
  simp [State.takeFault, KeepsTime]

@[simp] theorem State.wake_time (s : State) (k : Nat) : KeepsTime s (s.wake k) := by simp [State.wake, KeepsTime]

@[simp] theorem State.coreEvent_time (s : State) (k b : Nat) : KeepsTime s (s.coreEvent k b) := by simp [State.coreEvent, KeepsTime]

@[simp] theorem State.recordOverrun_time (s : State) (unit heat : Nat) : KeepsTime s (s.recordOverrun unit heat) := by
  simp [State.recordOverrun, KeepsTime]

@[simp] theorem State.setRegAtSlot_time (s : State) (a : Nat) (v : Word) : KeepsTime s (s.setRegAtSlot a v) := .refl _

@[simp] theorem State.ungroup_time (s : State) (p : Nat) : KeepsTime s (s.ungroup p) := .refl _

/-- What the pages add at a commit and at a soft reset leaves the clock alone. -/
structure PageHooks.SameClock (h : PageHooks) : Prop where
  applied : ∀ s p t, Machine.SameClock t (h.applied s p t)
  reset : ∀ s p, Machine.SameClock s (h.reset s p)

@[simp] theorem State.applyShadows_time (s : State) (p : Nat) : KeepsTime s (s.applyShadows p) := by simp [State.applyShadows, KeepsTime]

@[simp] theorem State.commitDone_time (s : State) (p : Nat) : KeepsTime s (s.commitDone p) := by simp [State.commitDone, KeepsTime]

@[simp] theorem State.commitRefuse_time (s : State) (p code : Nat) : KeepsTime s (s.commitRefuse p code) := by
  simp [State.commitRefuse, KeepsTime]

@[simp] theorem State.softReset_clock {h : PageHooks} (hk : h.SameClock) (s : State) (p : Nat) : SameClock s (s.softReset h p) := by
  simp [State.softReset, SameClock, hk.reset]

@[simp] theorem State.softResets_clock {h : PageHooks} (hk : h.SameClock) (s : State) : SameClock s (s.softResets h) := by
  simp [State.softResets, SameClock, hk]

@[simp] theorem State.commitSet_clock {h : PageHooks} (hk : h.SameClock) (s : State) (ps : List Nat) : SameClock s (s.commitSet h ps) := by
  simp [State.commitSet, SameClock, hk.applied]

@[simp] theorem State.commitPass_clock {h : PageHooks} (hk : h.SameClock) (s : State) : SameClock s (s.commitPass h) := by
  simp [State.commitPass, SameClock, hk]

@[simp] theorem State.book_time (s : State) (pool amt : Nat) (own : Owner) (seq : Word) : KeepsTime s (s.book pool amt own seq) := by
  simp [State.book, KeepsTime]

@[simp] theorem State.releaseAll_time (s : State) (own : Owner) : KeepsTime s (s.releaseAll own) := .refl _

@[simp] theorem State.rebook_time (s : State) (pool amt : Nat) (own : Owner) (seq : Word) : KeepsTime s (s.rebook pool amt own seq) := by
  simp [State.rebook, KeepsTime]

@[simp] theorem State.chown_time (s : State) (a b : Owner) : KeepsTime s (s.chown a b) := .refl _

@[simp] theorem State.setEnt_time (s : State) (i : Nat) (e : Entry) : KeepsTime s (s.setEnt i e) := .refl _

@[simp] theorem State.alloc_time (s : State) (cls : Nat) (host sys : Bool) : KeepsTime s (s.alloc cls host sys).2 := by
  simp only [State.alloc]
  repeat' split
  all_goals simp [KeepsTime]

theorem State.alloc_time_of {s : State} {cls : Nat} {host sys : Bool} {r : Option Nat × State} (h : s.alloc cls host sys = r) :
    KeepsTime s r.2 := h ▸ s.alloc_time ..

@[simp] theorem State.freeNow_time (s : State) (i : Nat) : KeepsTime s (s.freeNow i) := by simp [State.freeNow, KeepsTime]

@[simp] theorem State.freeLater_time (s : State) (i : Nat) : KeepsTime s (s.freeLater i) := by simp [State.freeLater, KeepsTime]

@[simp] theorem State.joinFree_time (s : State) : KeepsTime s s.joinFree := by simp [State.joinFree, KeepsTime]

@[simp] theorem State.dying_time (s : State) (i : Nat) : KeepsTime s (s.dying i) := .refl _

@[simp] theorem State.jmod_time (s : State) (seq : Word) (f : JEntry → JEntry) : KeepsTime s (s.jmod seq f) := .refl _

@[simp] theorem State.jadd_time (s : State) (e : JEntry) : KeepsTime s (s.jadd e) := .refl _

@[simp] theorem State.jstep_time (s : State) (seq : Word) (step due : Nat) : KeepsTime s (s.jstep seq step due) := .refl _

@[simp] theorem State.putCompl_time (s : State) (ws : List Word) (quiet : Bool) : KeepsTime s (s.putCompl ws quiet) := by
  simp [State.putCompl, KeepsTime]

@[simp] theorem State.flushHeld_time (s : State) (l : List (List Word × Bool)) : KeepsTime s (s.flushHeld l) := by
  induction l generalizing s with
  | nil => exact .refl _
  | cons x l ih => simp [State.flushHeld, KeepsTime, ih]

@[simp] theorem State.flush_time (s : State) : KeepsTime s s.flush := by simp [State.flush, KeepsTime]

@[simp] theorem State.postCompl_time (s : State) (ws : List Word) (quiet : Bool) : KeepsTime s (s.postCompl ws quiet) := by
  simp [State.postCompl, KeepsTime]

@[simp] theorem State.finish_time (s : State) (e : JEntry) (status step detail : Nat) (handle a1 a2 : Word) :
    KeepsTime s (s.finish e status step detail handle a1 a2) := by
  simp [State.finish, KeepsTime]

@[simp] theorem State.refuse_time (s : State) (e : JEntry) (status step detail : Nat) : KeepsTime s (s.refuse e status step detail) := by
  simp [State.refuse, KeepsTime]

@[simp] theorem State.refuseBudget_time (s : State) (e : JEntry) (pool amt avail : Nat) (placed : Bool) :
    KeepsTime s (s.refuseBudget e pool amt avail placed) := by
  simp [State.refuseBudget, KeepsTime]

@[simp] theorem State.done_time (s : State) (e : JEntry) (step detail : Nat) (handle : Word) :
    KeepsTime s (s.done e step detail handle) := by
  simp [State.done, KeepsTime]

@[simp] theorem State.notStarted_time (s : State) (e : JEntry) (status detail : Nat) : KeepsTime s (s.notStarted e status detail) := by
  simp [State.notStarted, KeepsTime]

@[simp] theorem State.startCore_time (s : State) (k : Nat) : KeepsTime s (s.startCore k) := .refl _

@[simp] theorem State.stopCore_time (s : State) (k : Nat) : KeepsTime s (s.stopCore k) := by
  simp only [State.stopCore]
  split <;> simp [KeepsTime]

@[simp] theorem appliedCore_time (p : Nat) (s : State) : KeepsTime s (appliedCore p s) := by
  simp only [appliedCore]
  repeat' split
  all_goals simp [KeepsTime]

@[simp] theorem resetCore_time (s : State) (p : Nat) : KeepsTime s (resetCore s p) := by simp [resetCore, KeepsTime]

@[simp] theorem State.heatCore_time (s : State) (k : Nat) : KeepsTime s (s.heatCore k) := by simp [State.heatCore, KeepsTime]

@[simp] theorem State.heatCores_time (s : State) : KeepsTime s s.heatCores := by simp [State.heatCores, KeepsTime]

@[simp] theorem State.takeCorr_clock (s : State) (e : JEntry) (re : Bool) : SameClock s (s.takeCorr e re) := .refl _

@[simp] theorem stepTimeStep_clock (s : State) (e : JEntry) : SameClock s (stepTimeStep s e) := by
  unfold stepTimeStep
  repeat' split
  all_goals simp [SameClock]

@[simp] theorem State.drawNonce_time (s : State) : KeepsTime s s.drawNonce := by simp [State.drawNonce, KeepsTime]

@[simp] theorem State.authority_time (s : State) : KeepsTime s s.authority.2 := by
  simp only [State.authority]
  repeat' split
  all_goals simp [KeepsTime]

@[simp] theorem stepReepoch_clock (s : State) (e : JEntry) : SameClock s (stepReepoch s e) := by
  simp only [stepReepoch]
  repeat' split
  all_goals simp [SameClock]

@[simp] theorem State.dropSlew_clock (s : State) : SameClock s s.dropSlew := by
  unfold State.dropSlew
  split <;> simp [SameClock]

@[simp] theorem State.applyCorr_clock (s : State) (c : Correction) : SameClock s (s.applyCorr c) := by simp [State.applyCorr, SameClock]

@[simp] theorem State.corrAtBoundary_clock (s : State) : SameClock s s.corrAtBoundary.2 := by
  simp only [State.corrAtBoundary]
  repeat' split
  all_goals simp [SameClock]

@[simp] theorem State.endAlign_clock (s : State) : SameClock s s.endAlign := by
  simp only [State.endAlign]
  repeat' split
  all_goals simp [SameClock]

@[simp] theorem State.autoStep_clock (s : State) : SameClock s s.autoStep := by simp [State.autoStep, SameClock]

@[simp] theorem stepTimeSlew_time (s : State) (e : JEntry) : KeepsTime s (stepTimeSlew s e) := by
  simp only [stepTimeSlew]
  split <;> simp [KeepsTime]

theorem State.setSlew_clock (s : State) (w : Option Slew) : SameClock s { s with tb := { s.tb with slew := w } } := .refl s

@[simp] theorem applySlew_clock (s : State) (e : JEntry) : SameClock s (applySlew s e) := by
  unfold applySlew
  exact (s.setSlew_clock _).trans (State.finish_time ..).clock

@[simp] theorem State.modDisc_time (s : State) (f : Disc → Disc) : KeepsTime s (s.modDisc f) := .refl _

@[simp] theorem State.setDisc_time (s : State) (n : DiscSt) : KeepsTime s (s.setDisc n) := by simp [State.setDisc, KeepsTime]

@[simp] theorem State.discOut_clock (s : State) : SameClock s s.discOut := by simp [State.discOut, SameClock]

@[simp] theorem State.oscWrite_time (s : State) : KeepsTime s s.oscWrite := by simp [State.oscWrite, KeepsTime]

@[simp] theorem State.discOff_clock (s : State) : SameClock s s.discOff := by simp [State.discOff, SameClock]

@[simp] theorem State.discOn_time (s : State) : KeepsTime s s.discOn := by simp [State.discOn, KeepsTime]

@[simp] theorem State.holdoverEntry_clock (s : State) : SameClock s s.holdoverEntry := by simp [State.holdoverEntry, SameClock]

@[simp] theorem State.toHoldover_clock (s : State) : SameClock s s.toHoldover := by simp [State.toHoldover, SameClock]

@[simp] theorem State.discStepped_time (s : State) (re : Bool) : KeepsTime s (s.discStepped re) := by
  unfold State.discStepped
  split <;> simp [KeepsTime]

@[simp] theorem State.discMeas_time (s : State) (x var : Rat) : KeepsTime s (s.discMeas x var) := by simp [State.discMeas, KeepsTime]

@[simp] theorem appliedDisc_clock (old s : State) : SameClock s (appliedDisc old s) := by simp [appliedDisc, SameClock]

@[simp] theorem resetDisc_clock (s : State) : SameClock s (resetDisc s) := by simp [resetDisc, SameClock]

@[simp] theorem State.setSched_time (s : State) (i : Nat) (x : Sched) : KeepsTime s (s.setSched i x) := .refl _

@[simp] theorem stepToutSchedule_time (s : State) (e : JEntry) : KeepsTime s (stepToutSchedule s e) := by
  have ha := s.alloc_time 4 true false
  simp only [stepToutSchedule]
  repeat' split
  all_goals simp_all [KeepsTime]

@[simp] theorem State.schedEnd_time (s : State) (i : Nat) : KeepsTime s (s.schedEnd i) := by simp [State.schedEnd, KeepsTime]

@[simp] theorem State.schedDone_time (s : State) (i : Nat) : KeepsTime s (s.schedDone i) := by simp [State.schedDone, KeepsTime]

@[simp] theorem loadSched_time (s : State) (e : JEntry) : KeepsTime s (loadSched s e) := by simp [loadSched, KeepsTime]

@[simp] theorem State.dropSched_time (s : State) (i : Nat) : KeepsTime s (s.dropSched i) := by simp [State.dropSched, KeepsTime]

@[simp] theorem State.freeEndedScheds_time (s : State) : KeepsTime s s.freeEndedScheds := by simp [State.freeEndedScheds, KeepsTime]

@[simp] theorem State.stepScheds_time (s : State) (off : Int) : KeepsTime s (s.stepScheds off) := by simp [State.stepScheds, KeepsTime]

@[simp] theorem stepTinArm_time (s : State) (e : JEntry) : KeepsTime s (stepTinArm s e) := by
  have ha := s.alloc_time 5 true false
  simp only [stepTinArm]
  repeat' split
  all_goals simp_all [KeepsTime]

@[simp] theorem armTin_time (s : State) (e : JEntry) : KeepsTime s (armTin s e) := by simp [armTin, KeepsTime]

@[simp] theorem State.dropTin_time (s : State) (i : Nat) : KeepsTime s (s.dropTin i) := .refl _

@[simp] theorem State.setLane_time (s : State) (n : Nat) (x : Lane) : KeepsTime s (s.setLane n x) := .refl _

@[simp] theorem State.setGroup_time (s : State) (g : Nat) (x : Group) : KeepsTime s (s.setGroup g x) := .refl _

@[simp] theorem State.setChan_time (s : State) (i : Nat) (x : Chan) : KeepsTime s (s.setChan i x) := .refl _

@[simp] theorem State.modChan_time (s : State) (i : Nat) (f : Chan → Chan) : KeepsTime s (s.modChan i f) := .refl _

@[simp] theorem State.setJob_time (s : State) (i : Nat) (x : Job) : KeepsTime s (s.setJob i x) := .refl _

@[simp] theorem State.setFec_time (s : State) (n : Nat) (x : Fec) : KeepsTime s (s.setFec n x) := .refl _

@[simp] theorem State.setCr_time (s : State) (st o : Nat) (v : Word) : KeepsTime s (s.setCr st o v) := .refl _

@[simp] theorem State.raiseCr_time (s : State) (st k : Nat) : KeepsTime s (s.raiseCr st k) := by simp [State.raiseCr, KeepsTime]

@[simp] theorem State.setChain_time (s : State) (st : Nat) (c : Chain) : KeepsTime s (s.setChain st c) := .refl _

@[simp] theorem State.realSample_time (s : State) (st fmt : Nat) (odd : Bool) (i q : Nat) :
    KeepsTime s (s.realSample st fmt odd i q).2 := by
  simp only [State.realSample]
  repeat' split
  all_goals simp [KeepsTime]

@[simp] theorem State.fillSample_time (s : State) (st : Nat) : KeepsTime s (s.fillSample st).2 := by
  simp only [State.fillSample]
  split <;> simp [KeepsTime]

@[simp] theorem State.endCond_time (s : State) (st : Nat) : KeepsTime s (s.endCond st) := by simp [State.endCond, KeepsTime]

@[simp] theorem State.releaseNotch_time (s : State) (st k : Nat) : KeepsTime s (s.releaseNotch st k) := by
  simp [State.releaseNotch, KeepsTime]

@[simp] theorem State.dropTwins_time (s : State) (st : Nat) : KeepsTime s (s.dropTwins st) := by simp [State.dropTwins, KeepsTime]

@[simp] theorem State.putNotch_time (s : State) (st k : Nat) (w : BitVec 32) : KeepsTime s (s.putNotch st k w) := by
  simp [State.putNotch, KeepsTime]

@[simp] theorem State.detect_time (s : State) (st k : Nat) (p q : Rat) : KeepsTime s (s.detect st k p q) := by
  simp only [State.detect]
  repeat' split
  all_goals simp [KeepsTime]

@[simp] theorem State.monitor_time (s : State) (st : Nat) : KeepsTime s (s.monitor st) := by simp [State.monitor, KeepsTime]

@[simp] theorem State.slaveStream_time (s : State) (r st : Nat) : KeepsTime s (s.slaveStream r st) := by simp [State.slaveStream, KeepsTime]

@[simp] theorem State.slaveNotches_time (s : State) : KeepsTime s s.slaveNotches := by
  unfold State.slaveNotches
  refine KeepsTime.foldl (fun t st => ?_) _ s
  dsimp only
  split <;> simp [KeepsTime]

@[simp] theorem State.markStat_time (s : State) (st : Nat) : KeepsTime s (s.markStat st) := .refl _

@[simp] theorem State.clearStat_time (s : State) (st : Nat) : KeepsTime s (s.clearStat st) := by simp [State.clearStat, KeepsTime]

@[simp] theorem resetCond_time (s : State) (p : Nat) : KeepsTime s (resetCond s p) := .refl _

@[simp] theorem State.chanSample_time (s : State) (i : Nat) (x : Smp) (els : Nat → Cx) (t ts : Rat) (drops : List Nat) :
    KeepsTime s (s.chanSample i x els t ts drops) := by
  simp [State.chanSample, KeepsTime]

@[simp] theorem State.setSnap_time (s : State) (n : Nat) (x : Snap) : KeepsTime s (s.setSnap n x) := .refl _

@[simp] theorem State.putSample_time (s : State) (n i : Nat) (y : Int × Int) : KeepsTime s (s.putSample n i y) := by
  unfold State.putSample
  split <;> simp [KeepsTime]

@[simp] theorem State.storeNext_time (s : State) (i : Nat) (y : Int × Int) : KeepsTime s (s.storeNext i y) := by
  simp [State.storeNext, KeepsTime]

@[simp] theorem State.storeDue_time (fuel : Nat) (s : State) (i : Nat) (t ts : Rat) : KeepsTime s (s.storeDue fuel i t ts) := by
  induction fuel generalizing s with
  | zero => exact .refl _
  | succ n ih => simp [State.storeDue, KeepsTime, ih]

@[simp] theorem State.snapSample_time (s : State) (n : Nat) (x : Smp) (brk : Bool) (cond : Nat) (t ts : Rat) (drop : Bool) :
    KeepsTime s (s.snapSample n x brk cond t ts drop) := by
  unfold State.snapSample
  split <;> simp [KeepsTime]

@[simp] theorem State.capture_time (s : State) (st : Nat) (x : Smp) (brk : Bool) (cond : Nat) (t ts : Rat) (drop : Bool) :
    KeepsTime s (s.capture st x brk cond t ts drop) := by
  simp [State.capture, KeepsTime]

@[simp] theorem State.modGroup_time (s : State) (g : Nat) (f : Group → Group) : KeepsTime s (s.modGroup g f) := .refl _

@[simp] theorem State.toUsers_time (s : State) (st : Nat) (x : Smp) (els : Nat → Cx) (brk : Bool) (cond : Nat) (t ts : Rat)
    (drops : List Nat) :
    KeepsTime s (s.toUsers st x els brk cond t ts drops) := by
  simp [State.toUsers, KeepsTime]

@[simp] theorem State.combineDue_time (fuel : Nat) (s : State) (g : Nat) : KeepsTime s (s.combineDue fuel g) := by
  induction fuel generalizing s with
  | zero => exact .refl _
  | succ n ih =>
    simp only [State.combineDue]
    split <;> simp [KeepsTime, ih]

@[simp] theorem State.toGroup_time (s : State) (g k : Nat) (x : Smp) (brk : Bool) (raw ts : Rat) :
    KeepsTime s (s.toGroup g k x brk raw ts) := by
  simp [State.toGroup, KeepsTime]

@[simp] theorem State.lostTaps_time (s : State) (st : Nat) (x : Smp) (t : Rat) : KeepsTime s (s.lostTaps st x t) := by
  simp [State.lostTaps, KeepsTime]

@[simp] theorem State.sink_time (s : State) (st : Nat) (x : Smp) (brk : Bool) (raw delay ts : Rat) (drops : List Nat) :
    KeepsTime s (s.sink st x brk raw delay ts drops) := by
  simp only [State.sink]
  repeat' split
  all_goals simp [KeepsTime]

@[simp] theorem State.modLane_time (s : State) (n : Nat) (f : Lane → Lane) : KeepsTime s (s.modLane n f) := .refl _

@[simp] theorem State.capCode_time (s : State) (p code : Nat) : KeepsTime s (s.capCode p code) := by simp [State.capCode, KeepsTime]

@[simp] theorem State.ccFell_time (s old : State) : KeepsTime s (s.ccFell old) := by simp [State.ccFell, KeepsTime]

@[simp] theorem State.ccLeave_time (s : State) (n : Nat) : KeepsTime s (s.ccLeave n) := by simp [State.ccLeave, KeepsTime]

@[simp] theorem State.laneTo_time (s : State) (n : Nat) (st : LaneSt) : KeepsTime s (s.laneTo n st) := by simp [State.laneTo, KeepsTime]

@[simp] theorem State.newBlock_time (s : State) (n stamp : Nat) (fill mask disc : Bool) (gap : Nat) :
    KeepsTime s (s.newBlock n stamp fill mask disc gap) := by
  simp [State.newBlock, KeepsTime]

@[simp] theorem State.markFill_time (s : State) (n : Nat) : KeepsTime s (s.markFill n) := by
  unfold State.markFill
  split <;> simp [KeepsTime]

@[simp] theorem State.frameIn_time (s : State) (n stamp : Nat) (fill : Bool) : KeepsTime s (s.frameIn n stamp fill) := by
  simp [State.frameIn, KeepsTime]

@[simp] theorem State.slotOut_time (s : State) (n : Nat) (t : Nat × Nat × Nat) (o : Option Smp) (drops : List Nat) :
    KeepsTime s (s.slotOut n t o drops) := by
  simp only [State.slotOut]
  split <;> simp [KeepsTime]

@[simp] theorem State.fillSlots_time (s : State) (n : Nat) (drops : List Nat) : KeepsTime s (s.fillSlots n drops) := by
  simp [State.fillSlots, KeepsTime]

@[simp] theorem State.fillFrame_time (s : State) (n el : Nat) : KeepsTime s (s.fillFrame n el) := by simp [State.fillFrame, KeepsTime]

@[simp] theorem State.fillSteps_time (k : Nat) (s : State) (n el0 i : Nat) : KeepsTime s (s.fillSteps k n el0 i) := by
  induction k generalizing s i with
  | zero => exact .refl _
  | succ k ih => simp [State.fillSteps, KeepsTime, ih]

@[simp] theorem State.pace_time (s : State) (n : Nat) : KeepsTime s (s.pace n) := by simp [State.pace, KeepsTime]

@[simp] theorem State.startFill_time (s : State) (n : Nat) : KeepsTime s (s.startFill n) := .refl _

@[simp] theorem State.slotApplied_time (s : State) (n short : Nat) (begun : Bool) : KeepsTime s (s.slotApplied n short begun) := by
  simp [State.slotApplied, KeepsTime]

@[simp] theorem State.hdrBad_time (s : State) (n : Nat) : KeepsTime s (s.hdrBad n) := by simp [State.hdrBad, KeepsTime]

@[simp] theorem State.deliver_time (s : State) (n : Nat) (fill : Bool) (codes : List (BitVec 8 × BitVec 8)) (drops : List Nat) :
    KeepsTime s (s.deliver n fill codes drops) := by
  simp [State.deliver, KeepsTime]

@[simp] theorem State.countDrops_time (s : State) (n : Nat) (drops : List Nat) : KeepsTime s (s.countDrops n drops) := by
  simp [State.countDrops, KeepsTime]

@[simp] theorem State.realFrame_time (s : State) (n : Nat) (e : FrameEv) : KeepsTime s (s.realFrame n e) := by
  simp [State.realFrame, KeepsTime]

@[simp] theorem State.frameLost_time (s : State) (n : Nat) : KeepsTime s (s.frameLost n) := by simp [State.frameLost, KeepsTime]

@[simp] theorem State.qualify_time (s : State) (n : Nat) : KeepsTime s (s.qualify n) := by simp [State.qualify, KeepsTime]

@[simp] theorem State.applyFill_time (s : State) (n : Nat) (e : FrameEv) (cfg : List Word) : KeepsTime s (s.applyFill n e cfg) := by
  simp [State.applyFill, KeepsTime]

@[simp] theorem State.frameAt_time (s : State) (e : FrameEv) : KeepsTime s (s.frameAt e) := by
  simp only [State.frameAt]
  repeat' split
  all_goals simp [KeepsTime]

@[simp] theorem State.lateFrame_time (s : State) : KeepsTime s s.lateFrame := by simp [State.lateFrame, KeepsTime]

@[simp] theorem State.rateTol_time (s : State) (n : Nat) (ppb : Rat) (valid : Bool) : KeepsTime s (s.rateTol n ppb valid) := by
  simp [State.rateTol, KeepsTime]

@[simp] theorem State.endRate_time (s : State) (n : Nat) : KeepsTime s (s.endRate n) := by simp [State.endRate, KeepsTime]

@[simp] theorem State.ccWindow_time (s : State) (n r : Nat) (k : Int) : KeepsTime s (s.ccWindow n r k) := by
  simp only [State.ccWindow]
  repeat' split
  all_goals simp [KeepsTime]

@[simp] theorem State.endCc_time (s : State) (n : Nat) : KeepsTime s (s.endCc n) := by
  simp only [State.endCc]
  repeat' split
  all_goals simp [KeepsTime]

@[simp] theorem State.endLanes_time (s : State) : KeepsTime s s.endLanes := by simp [State.endLanes, KeepsTime]

@[simp] theorem State.clearLaneFlags_time (s : State) : KeepsTime s s.clearLaneFlags := by simp [State.clearLaneFlags, KeepsTime]

@[simp] theorem State.rebookLanes_time (s : State) : KeepsTime s s.rebookLanes := by simp [State.rebookLanes, KeepsTime]

@[simp] theorem appliedLane_time (old : State) (p : Nat) (s : State) : KeepsTime s (appliedLane old p s) := by simp [appliedLane, KeepsTime]

@[simp] theorem resetLane_time (s : State) (p : Nat) : KeepsTime s (resetLane s p) := by simp [resetLane, KeepsTime]

@[simp] theorem State.modFec_time (s : State) (n : Nat) (f : Fec → Fec) : KeepsTime s (s.modFec n f) := .refl _

@[simp] theorem State.uflGo_time (s : State) (n : Nat) : KeepsTime s (s.uflGo n) := by
  unfold State.uflGo
  split <;> simp [KeepsTime]

@[simp] theorem State.uflSend_time (s : State) (n : Nat) (r : UflReq) : KeepsTime s (s.uflSend n r) := by simp [State.uflSend, KeepsTime]

@[simp] theorem State.uflNext_time (s : State) (n : Nat) : KeepsTime s (s.uflNext n) := by simp [State.uflNext, KeepsTime]

@[simp] theorem State.fecTo_time (s : State) (n : Nat) (st : FecSt) : KeepsTime s (s.fecTo n st) := by simp [State.fecTo, KeepsTime]

@[simp] theorem State.fecFault_time (s : State) (n code : Nat) : KeepsTime s (s.fecFault n code) := by simp [State.fecFault, KeepsTime]

@[simp] theorem State.fecTune_time (s : State) (n : Nat) : KeepsTime s (s.fecTune n) := by simp [State.fecTune, KeepsTime]

@[simp] theorem State.calStart_time (s : State) (n : Nat) (go : Bool) : KeepsTime s (s.calStart n go) := by simp [State.calStart, KeepsTime]

@[simp] theorem State.setInj_time (s : State) (k : Nat) (j : InjJob) : KeepsTime s (s.setInj k j) := .refl _

@[simp] theorem State.injVal_time (s : State) (j : InjJob) (at_ : Rat) : KeepsTime s (s.injVal j at_).2 := by
  simp only [State.injVal]
  split <;> simp [KeepsTime]

@[simp] theorem State.injSum_time (s : State) (at_ : Rat) : KeepsTime s (s.injSum at_).2 := by
  have hf := KeepsTime.foldl_of Prod.snd (f := fun (a : Cx × State) (e : Nat × InjJob) =>
    if e.2.st = .active then ((a.2.injVal e.2 at_).1.add a.1, (a.2.injVal e.2 at_).2) else a) (fun a e => by split <;> simp [KeepsTime])
    s.rl.jobs ({}, s)
  simp only [State.injSum]
  split <;> simpa [KeepsTime] using hf

@[simp] theorem State.injActive_time (s : State) (k at_ : Nat) : KeepsTime s (s.injActive k at_) := by
  simp only [State.injActive]
  split <;> simp [KeepsTime]

@[simp] theorem State.injStarts_time (s : State) (st : InjSt) (at_ : Nat) : KeepsTime s (s.injStarts st at_) := by
  simp [State.injStarts, KeepsTime]

@[simp] theorem State.rlOne_time (s : State) : KeepsTime s s.rlOne := by
  simp only [State.rlOne]
  generalize hs : (if s.rl.jobs.any fun e => e.2.st == .joining then s.injStarts .joining (s.tb.now - (s.el - s.rl.next)) else s) = s1
  have hk : KeepsTime s s1 := by subst hs; simp [KeepsTime]
  have hf := KeepsTime.foldl_of Prod.snd (f := fun (a : List (Int × Int) × State) k =>
    if s1.rl.st = .active then
      (a.1 ++ [(a.2.injSum ((s.tb.now - (s.el - s.rl.next) : Nat) + ((k * s.frameTime : Nat) : Rat) / (s.rlSlots : Nat))).1],
        (a.2.injSum ((s.tb.now - (s.el - s.rl.next) : Nat) + ((k * s.frameTime : Nat) : Rat) / (s.rlSlots : Nat))).2)
    else (a.1 ++ [(0, 0)], a.2)) (fun a e => by split <;> simp [KeepsTime]) (List.range s.rlSlots) ([], s1)
  exact (hk.trans hf).trans (.refl _)

@[simp] theorem State.rlRun_time (s : State) : KeepsTime s s.rlRun := by simp [State.rlRun, KeepsTime]

@[simp] theorem State.suspendInj_time (s0 : State) (n : Nat) : KeepsTime s0 (s0.suspendInj n) := by simp [State.suspendInj, KeepsTime]

@[simp] theorem stepInjStart_time (s : State) (e : JEntry) : KeepsTime s (stepInjStart s e) := by
  have ha := s.alloc_time 3 true false
  simp only [stepInjStart]
  repeat' split
  all_goals simp_all [KeepsTime]

@[simp] theorem State.fillResults_time (s : State) (k : Nat) : KeepsTime s (s.fillResults k) := by simp [State.fillResults, KeepsTime]

@[simp] theorem State.cutWindow_time (s : State) (k : Nat) : KeepsTime s (s.cutWindow k) := by simp [State.cutWindow, KeepsTime]

@[simp] theorem State.unsuspend_time (s : State) : KeepsTime s s.unsuspend := by simp [State.unsuspend, KeepsTime]

@[simp] theorem State.injStop_time (s0 : State) (i : Nat) : KeepsTime s0 (s0.injStop i) := by simp [State.injStop, KeepsTime]

@[simp] theorem State.dropInj_time (s : State) (i : Nat) : KeepsTime s (s.dropInj i) := .refl _

@[simp] theorem State.quenchInj_time (s : State) : KeepsTime s s.quenchInj := by simp [State.quenchInj, KeepsTime]

@[simp] theorem State.injUnderrun_time (s : State) (k n : Nat) : KeepsTime s (s.injUnderrun k n) := by simp [State.injUnderrun, KeepsTime]

@[simp] theorem State.endInjHeat_time (s : State) (repeats : List (Fin 8 × Nat)) : KeepsTime s (s.endInjHeat repeats) := by
  simp [State.endInjHeat, KeepsTime]

@[simp] theorem State.queuedCal_time (s : State) : KeepsTime s s.queuedCal := by simp [State.queuedCal, KeepsTime]

@[simp] theorem State.endCalHeat_time (s : State) : KeepsTime s s.endCalHeat := by simp [State.endCalHeat, KeepsTime]

@[simp] theorem State.fecOff_time (s : State) (n : Nat) : KeepsTime s (s.fecOff n) := by simp [State.fecOff, KeepsTime]

@[simp] theorem appliedFec_time (old : State) (p : Nat) (s : State) : KeepsTime s (appliedFec old p s) := by
  simp only [appliedFec]
  repeat' split
  all_goals simp [KeepsTime]

@[simp] theorem resetFec_time (s : State) (p : Nat) : KeepsTime s (resetFec s p) := by simp [resetFec, KeepsTime]

@[simp] theorem resetRlane_time (s : State) : KeepsTime s (resetRlane s) := by simp [resetRlane, KeepsTime]

@[simp] theorem stepChCreate_time (s : State) (e : JEntry) : KeepsTime s (stepChCreate s e) := by
  simp only [stepChCreate]
  repeat' split
  all_goals simp [KeepsTime]
  all_goals next h => simpa [KeepsTime] using State.alloc_time_of h

@[simp] theorem State.pullIn_time (s : State) (i : Nat) (aided : Bool) : KeepsTime s (s.pullIn i aided) := .refl _

@[simp] theorem runChan_time (s : State) (e : JEntry) : KeepsTime s (runChan s e) := by simp [runChan, KeepsTime]

@[simp] theorem stepChModify_time (s : State) (e : JEntry) : KeepsTime s (stepChModify s e) := by
  simp only [stepChModify]
  split <;> simp [KeepsTime]

@[simp] theorem State.slip_time (s : State) (i : Nat) : KeepsTime s (s.slip i) := by simp [State.slip, KeepsTime]

@[simp] theorem State.slipIf_time (s : State) (i : Nat) (b : Bool) : KeepsTime s (s.slipIf i b) := by simp [State.slipIf, KeepsTime]

@[simp] theorem State.uncouple_time (s : State) (i : Nat) : KeepsTime s (s.uncouple i) := .refl _

@[simp] theorem applyModify_time (s : State) (e : JEntry) : KeepsTime s (applyModify s e) := by simp [applyModify, KeepsTime]

@[simp] theorem State.dropChan_time (s : State) (i : Nat) : KeepsTime s (s.dropChan i) := .refl _

@[simp] theorem State.makeChan_time (s : State) (prm : ChanPrm) (cls : Nat) (host : Bool) (seq : Word) :
    KeepsTime s (s.makeChan prm cls host seq).2.2 := by
  have ha := s.alloc_time cls host (cls == 15)
  simp only [State.makeChan]
  repeat' split
  all_goals simp_all [KeepsTime]

@[simp] theorem State.switchMigs_time (s : State) : KeepsTime s s.switchMigs := by
  refine KeepsTime.foldl (fun t e => ?_) _ s
  split <;> simp [KeepsTime]

@[simp] theorem State.chanTo_time (s : State) (i : Nat) (st : ChanSt) : KeepsTime s (s.chanTo i st) := by
  unfold State.chanTo
  split <;> simp [KeepsTime]

@[simp] theorem State.resume_time (s : State) (i : Nat) : KeepsTime s (s.resume i) := by simp [State.resume, KeepsTime]

@[simp] theorem State.updated_time (s : State) (i : Nat) (before : Chan) (e : Rat) : KeepsTime s (s.updated i before e) := by
  simp only [State.updated]
  split <;> simp [KeepsTime]

@[simp] theorem State.update_time (s : State) (i : Nat) (sums : List Cx) : KeepsTime s (s.update i sums) := by
  simp [State.update, KeepsTime]

@[simp] theorem State.useDump_time (s : State) (i : Nat) (d : Dump) : KeepsTime s (s.useDump i d) := by
  simp only [State.useDump]
  repeat' split
  all_goals simp [KeepsTime]

@[simp] theorem State.runDumps_time (s : State) (i : Nat) (x : ChanIn) : KeepsTime s (s.runDumps i x) :=
  (KeepsTime.foldl (fun t d => t.useDump_time i d) _ s).trans (State.modChan_time ..)

@[simp] theorem State.pullAgain_time (s : State) (i : Nat) (u : Rat × Rat) : KeepsTime s (s.pullAgain i u) := by
  simp [State.pullAgain, KeepsTime]

@[simp] theorem State.endPullin_time (s : State) (i : Nat) (x : ChanIn) (off : Bool) : KeepsTime s (s.endPullin i x off) := by
  simp only [State.endPullin]
  repeat' split
  all_goals simp [KeepsTime]

@[simp] theorem State.endLocked_time (s : State) (i : Nat) (x : ChanIn) (imp absent : Bool) : KeepsTime s (s.endLocked i x imp absent) := by
  simp [State.endLocked, KeepsTime]

@[simp] theorem State.endCoast_time (s : State) (i : Nat) (x : ChanIn) (imp absent : Bool) : KeepsTime s (s.endCoast i x imp absent) := by
  simp [State.endCoast, KeepsTime]

@[simp] theorem State.endChan_time (s : State) (ins : List ChanIn) (ovr : List Nat) (i : Nat) : KeepsTime s (s.endChan ins ovr i) := by
  simp only [State.endChan]
  split <;> simp [KeepsTime]

@[simp] theorem State.quenchHeat_time (s : State) : KeepsTime s s.quenchHeat := .refl _

@[simp] theorem State.quenchChans_time (s : State) : KeepsTime s s.quenchChans := by simp [State.quenchChans, KeepsTime]

@[simp] theorem State.vectorBoundary_time (s0 : State) (ins : List ChanIn) : KeepsTime s0 (s0.vectorBoundary ins) := by
  simp [State.vectorBoundary, KeepsTime]

@[simp] theorem State.modJob_time (s : State) (i : Nat) (f : Job → Job) : KeepsTime s (s.modJob i f) := by simp [State.modJob, KeepsTime]

@[simp] theorem State.snapMark_time (s : State) : KeepsTime s s.snapMark := .refl _

theorem State.reserve_time {s t : State} {i first : Nat} (h : s.reserve i first = some t) : KeepsTime s t := by
  simp only [State.reserve] at h
  repeat' split at h
  all_goals cases h; try simp [KeepsTime]

@[simp] theorem State.freeSnaps_time (s : State) : KeepsTime s s.freeSnaps := .refl _

@[simp] theorem State.refreshFloor_time (s : State) : KeepsTime s s.refreshFloor := by simp [State.refreshFloor, KeepsTime]

@[simp] theorem State.bookJob_time (s : State) (i amt : Nat) : KeepsTime s (s.bookJob i amt) := by simp [State.bookJob, KeepsTime]

@[simp] theorem State.startJobs_time (fuel : Nat) (s : State) : KeepsTime s (s.startJobs fuel) := by
  induction fuel generalizing s with
  | zero => exact .refl _
  | succ n ih =>
    simp only [State.startJobs]
    repeat' split
    all_goals simp [KeepsTime, ih]

@[simp] theorem State.undoJob_time (s : State) (i : Nat) : KeepsTime s (s.undoJob i) := .refl _

@[simp] theorem State.submitNow_time (s : State) (e : JEntry) (i : Nat) : KeepsTime s (s.submitNow e i) := by
  unfold State.submitNow
  split
  · simp [KeepsTime]
  · split
    · simp [KeepsTime]
    next h => simpa [KeepsTime] using State.reserve_time h

@[simp] theorem State.tryReserve_time (s : State) (i : Nat) : KeepsTime s (s.tryReserve i) := by
  unfold State.tryReserve
  cases h : s.reserve i (s.heat + 1) with
  | none => exact .refl _
  | some t => exact State.reserve_time h

@[simp] theorem stepSrchSubmit_time (s : State) (e : JEntry) : KeepsTime s (stepSrchSubmit s e) := by
  have ha := s.alloc_time 2 true false
  simp only [stepSrchSubmit]
  repeat' split
  all_goals simp_all [KeepsTime]

@[simp] theorem State.resetSnap_time (s : State) (n : Nat) : KeepsTime s (s.resetSnap n) := .refl _

@[simp] theorem State.restartJob_time (s : State) (i : Nat) (imp : Bool) : KeepsTime s (s.restartJob i imp) := by
  simp [State.restartJob, KeepsTime]

@[simp] theorem State.retimeJobs_time (s : State) : KeepsTime s s.retimeJobs := by simp [State.retimeJobs, KeepsTime]

@[simp] theorem State.putHostBytes_time (s : State) (base : Nat) (l : List Byte) : KeepsTime s (s.putHostBytes base l) := by
  simp [State.putHostBytes, KeepsTime]

@[simp] theorem State.putExWords_time (s : State) (base : Nat) (l : List Native) : KeepsTime s (s.putExWords base l) := by
  simp [State.putExWords, KeepsTime]

@[simp] theorem State.putResult_time (s : State) (l : List Native) : KeepsTime s (s.putResult l) := by simp [State.putResult, KeepsTime]

@[simp] theorem State.flushList_time (s : State) (l : List Nat) : KeepsTime s (s.flushList l) := by
  induction l generalizing s with
  | nil => exact .refl _
  | cons i l ih => simp [State.flushList, KeepsTime, ih]

@[simp] theorem State.flushResults_time (s : State) : KeepsTime s s.flushResults := by simp [State.flushResults, KeepsTime]

@[simp] theorem State.foldFloor_time (s : State) (st : Nat) (floor : Int) : KeepsTime s (s.foldFloor st floor).2 := by
  simp [State.foldFloor, KeepsTime]

@[simp] theorem State.spawn_time (s : State) (j : Job) (peaks : List Peak) : KeepsTime s (s.spawn j peaks).2.2 := by
  simp only [State.spawn]
  repeat' split
  all_goals simp [KeepsTime]

@[simp] theorem State.endJob_time (s : State) (i status : Nat) : KeepsTime s (s.endJob i status) := by
  simp [State.endJob, KeepsTime, apply_ite Prod.snd]

@[simp] theorem State.workJob_time (s : State) (i : Nat) (ovr : Bool) (dropped : List (Nat × Nat)) :
    KeepsTime s (s.workJob i ovr dropped) := by
  simp [State.workJob, KeepsTime]

@[simp] theorem State.impairJobs_time (s : State) : KeepsTime s s.impairJobs := by simp [State.impairJobs, KeepsTime]

@[simp] theorem State.beginJobs_time (s : State) : KeepsTime s s.beginJobs := .refl _

@[simp] theorem State.closeStream_time (s : State) (i : Nat) : KeepsTime s (s.closeStream i) := by simp [State.closeStream, KeepsTime]

@[simp] theorem State.reserveAll_time (s : State) (l : List Nat) : KeepsTime s (s.reserveAll l) := by
  induction l generalizing s with
  | nil => exact .refl _
  | cons i l ih =>
    unfold State.reserveAll
    split
    next h => exact (State.reserve_time h).trans (ih _)
    · exact .refl _

@[simp] theorem State.releaseStarts_time (s : State) (aligned : Bool) : KeepsTime s (s.releaseStarts aligned) := .refl _

@[simp] theorem State.ageJobs_time (s : State) : KeepsTime s s.ageJobs := .refl _

@[simp] theorem State.freeJobs_time (s : State) : KeepsTime s s.freeJobs := by simp [State.freeJobs, KeepsTime]

@[simp] theorem endCancel_time (s : State) (e : JEntry) : KeepsTime s (endCancel s e) := by simp [endCancel, KeepsTime]

/-- The end of a job that is at its end. -/
def State.endIfDue (s : State) (i : Nat) : State :=
  match s.jobEnd (s.job i) with
  | some st => s.endJob i st
  | none => s

@[simp] theorem State.endIfDue_time (s : State) (i : Nat) : KeepsTime s (s.endIfDue i) := by
  unfold State.endIfDue
  split <;> simp [KeepsTime]

/-- What the Crucible does at a boundary once the jobs at their ends have ended. -/
def State.crucibleGoesOn (s : State) (aligned : Bool) : State :=
  let s4 := (s.releaseStarts aligned).beginJobs
  let s5 := s4.reserveAll s4.waitMem
  (s5.startJobs (s5.jobs.length + 1)).ageJobs.refreshFloor

@[simp] theorem State.crucibleGoesOn_time (s : State) (aligned : Bool) : KeepsTime s (s.crucibleGoesOn aligned) := by
  simp [State.crucibleGoesOn, KeepsTime]

theorem State.crucible_eq (s : State) (ins : List JobIn) (ovr aligned ret : Bool) : s.crucible ins ovr aligned ret =
    let s2 := ((s.freeJobs.jobs.map (·.1)).foldl (fun s i => (s.closeStream i).workJob i ovr
      (((ins.find? fun x => x.idx == i).map (·.dropped)).getD [])) s.freeJobs).impairJobs
    ((s.freeJobs.jobs.map (·.1)).foldl State.endIfDue (if ret then s2.retimeJobs else s2)).crucibleGoesOn aligned := rfl

@[simp] theorem State.crucible_time (s : State) (ins : List JobIn) (ovr aligned ret : Bool) :
    KeepsTime s (s.crucible ins ovr aligned ret) := by
  rw [State.crucible_eq]
  simp [KeepsTime]

@[simp] theorem State.quenchJobs_time (s : State) : KeepsTime s s.quenchJobs := by simp [State.quenchJobs, KeepsTime]

@[simp] theorem stepCombCreate_time (s : State) (e : JEntry) : KeepsTime s (stepCombCreate s e) := by
  have ha := s.alloc_time 7 true false
  simp only [stepCombCreate]
  repeat' split
  all_goals simp_all [KeepsTime]

@[simp] theorem State.setWTau_time (s : State) (g x : Nat) : KeepsTime s (s.setWTau g x) := .refl _

@[simp] theorem formGroup_time (s : State) (e : JEntry) : KeepsTime s (formGroup s e) := by simp [formGroup, KeepsTime]

@[simp] theorem firstWeights_time (s : State) (e : JEntry) : KeepsTime s (firstWeights s e) := by simp [firstWeights, KeepsTime]

@[simp] theorem stepCombDestroy_time (s : State) (e : JEntry) : KeepsTime s (stepCombDestroy s e) := by
  unfold stepCombDestroy
  split <;> simp [KeepsTime]

@[simp] theorem State.dropGroup_time (s : State) (i : Nat) : KeepsTime s (s.dropGroup i) := by
  unfold State.dropGroup
  split <;> simp [KeepsTime]

@[simp] theorem State.weighAll_time (s : State) : KeepsTime s s.weighAll := by simp [State.weighAll, KeepsTime]

@[simp] theorem State.spoilOn_time (s : State) (out : Nat) : KeepsTime s (s.spoilOn out) := .refl _

@[simp] theorem State.combGroup_time (s : State) (g : Nat) : KeepsTime s (s.combGroup g) := by simp [State.combGroup, KeepsTime]

@[simp] theorem State.combBoundary_time (s : State) : KeepsTime s s.combBoundary := by simp [State.combBoundary, KeepsTime]

@[simp] theorem State.markSplits_time (s : State) : KeepsTime s s.markSplits := .refl _

@[simp] theorem State.setUart_time (s : State) (n : Nat) (x : Uart) : KeepsTime s (s.setUart n x) := .refl _

@[simp] theorem State.modUart_time (s : State) (n : Nat) (f : Uart → Uart) : KeepsTime s (s.modUart n f) := .refl _

@[simp] theorem State.uartLevels_time (s : State) (n : Nat) : KeepsTime s (s.uartLevels n) := by simp [State.uartLevels, KeepsTime]

@[simp] theorem State.uartKick_time (s : State) (n : Nat) : KeepsTime s (s.uartKick n) := by
  simp only [State.uartKick]
  repeat' split
  all_goals simp [KeepsTime]

@[simp] theorem State.uartPush_time (s : State) (n : Nat) (l : List Byte) : KeepsTime s (s.uartPush n l) := by
  simp [State.uartPush, KeepsTime]

@[simp] theorem appliedUart_time (old : State) (p : Nat) (s : State) : KeepsTime s (appliedUart old p s) := by simp [appliedUart, KeepsTime]

@[simp] theorem resetUart_time (s : State) (p : Nat) : KeepsTime s (resetUart s p) := .refl _

@[simp] theorem State.setSub_time (s : State) (i : Nat) (x : Sub) : KeepsTime s (s.setSub i x) := .refl _

@[simp] theorem State.modSub_time (s : State) (i : Nat) (f : Sub → Sub) : KeepsTime s (s.modSub i f) := by simp [State.modSub, KeepsTime]

@[simp] theorem stepSubscribe_time (s : State) (e : JEntry) : KeepsTime s (stepSubscribe s e) := by
  simp only [stepSubscribe]
  repeat' split
  all_goals simp [KeepsTime]
  all_goals next h => simpa [KeepsTime] using State.alloc_time_of h

@[simp] theorem attachSub_time (s : State) (e : JEntry) : KeepsTime s (attachSub s e) := by simp [attachSub, KeepsTime]

@[simp] theorem State.setHmByte_time (s : State) (a : Nat) (b : Byte) : KeepsTime s (s.setHmByte a b) := .refl _

@[simp] theorem State.subDrop_time (s : State) (slot : Nat) : KeepsTime s (s.subDrop slot) := by simp [State.subDrop, KeepsTime]

@[simp] theorem State.subWrite_time (s : State) (x : Sub) (l : List Native) : KeepsTime s (s.subWrite x l) := by
  simp [State.subWrite, KeepsTime]

@[simp] theorem State.subBytes_time (s : State) (x : Sub) (l : List Byte) : KeepsTime s (s.subBytes x l) := by
  simp [State.subBytes, KeepsTime]

@[simp] theorem State.subSeq_time (s : State) (i : Nat) : KeepsTime s (s.subSeq i) := by simp [State.subSeq, KeepsTime]

@[simp] theorem State.formRaw_time (s : State) (i : Nat) (ns : Nat) : KeepsTime s (s.formRaw i ns) := by simp [State.formRaw, KeepsTime]

@[simp] theorem State.formSol_time (s : State) (i : Nat) (text : List (Nat × Nat × List Byte)) (ns : Nat) :
    KeepsTime s (s.formSol i text ns) := by
  simp [State.formSol, KeepsTime]

@[simp] theorem State.gather_time (s : State) (torn ret : Bool) : KeepsTime s (s.gather torn ret) := .refl _

@[simp] theorem State.writeOwed_time (s : State) (i : Nat) : KeepsTime s (s.writeOwed i) := by simp [State.writeOwed, KeepsTime]

@[simp] theorem State.formAll_time (s : State) (h : HeatIn) (ms : Nat) : KeepsTime s (s.formAll h ms) := by simp [State.formAll, KeepsTime]

@[simp] theorem State.writeAll_time (s : State) : KeepsTime s s.writeAll := by simp [State.writeAll, KeepsTime]

@[simp] theorem State.dropSub_time (s : State) (i : Nat) : KeepsTime s (s.dropSub i) := by simp [State.dropSub, KeepsTime]

@[simp] theorem State.modNav_time (s : State) (f : Nav → Nav) : KeepsTime s (s.modNav f) := .refl _

@[simp] theorem State.ciTake_time (s : State) : KeepsTime s s.ciTake := by simp [State.ciTake, KeepsTime]

@[simp] theorem State.setInd_time (s : State) (bit : Nat) (on : Bool) : KeepsTime s (s.setInd bit on) := by simp [State.setInd, KeepsTime]

@[simp] theorem State.look_time (s : State) (bit need : Nat) (cond : Bool) : KeepsTime s (s.look bit need cond) := by
  simp [State.look, KeepsTime]

@[simp] theorem State.survey_time (s : State) (x : NavIn) : KeepsTime s (s.survey x) := by simp [State.survey, KeepsTime]

@[simp] theorem State.surveyEnd_time (s : State) : KeepsTime s s.surveyEnd := by
  unfold State.surveyEnd
  split <;> simp [KeepsTime]

@[simp] theorem State.solMeas_time (s : State) : KeepsTime s s.solMeas := by simp [State.solMeas, KeepsTime]

@[simp] theorem State.solution_clock (s : State) (x0 : NavIn) (torn : Bool) : SameClock s (s.solution x0 torn) := by
  simp [State.solution, SameClock]

@[simp] theorem State.navBoundary_clock (s : State) (x : Option NavIn) (torn : Bool) : SameClock s (s.navBoundary x torn) := by
  unfold State.navBoundary
  split <;> simp [SameClock]

@[simp] theorem State.calBoundary_time (s : State) : KeepsTime s s.calBoundary := by simp [State.calBoundary, KeepsTime]

@[simp] theorem appliedNav_time (old s : State) : KeepsTime s (appliedNav old s) := by simp [appliedNav, KeepsTime]

@[simp] theorem State.modAuth_time (s : State) (f : Auth → Auth) : KeepsTime s (s.modAuth f) := .refl _

@[simp] theorem appliedAuth_time (old s : State) : KeepsTime s (appliedAuth old s) := by simp [appliedAuth, KeepsTime]

@[simp] theorem State.modPort_time (s : State) (n : Nat) (f : EthPort → EthPort) : KeepsTime s (s.modPort n f) := .refl _

@[simp] theorem State.modPtp_time (s : State) (f : PtpInst → PtpInst) : KeepsTime s (s.modPtp f) := .refl _

@[simp] theorem State.setPs_time (s : State) (n ps : Nat) : KeepsTime s (s.setPs n ps) := by simp [State.setPs, KeepsTime]

@[simp] theorem State.dropExch_time (s : State) (n : Nat) : KeepsTime s (s.dropExch n) := .refl _

@[simp] theorem State.sendPtp_time (s : State) (n typ seq : Nat) (f : List Int) : KeepsTime s (s.sendPtp n typ seq f) := .refl _

@[simp] theorem State.sendRequest_time (s : State) (n who typ : Nat) (l : Int) : KeepsTime s (s.sendRequest n who typ l) := by
  simp [State.sendRequest, KeepsTime]

@[simp] theorem State.askGrant_time (s : State) (n who typ : Nat) (l : Int) : KeepsTime s (s.askGrant n who typ l) := by
  simp [State.askGrant, KeepsTime]

@[simp] theorem State.toListening_time (s : State) (n : Nat) : KeepsTime s (s.toListening n) := by simp [State.toListening, KeepsTime]

@[simp] theorem State.linkDrop_time (s : State) (n : Nat) : KeepsTime s (s.linkDrop n) := by simp [State.linkDrop, KeepsTime]

@[simp] theorem State.toMaster_time (s : State) (n : Nat) (now_ : Bool) : KeepsTime s (s.toMaster n now_) := by
  simp [State.toMaster, KeepsTime]

@[simp] theorem State.toSlave_time (s : State) (n : Nat) (f : Foreign) : KeepsTime s (s.toSlave n f) := by simp [State.toSlave, KeepsTime]

@[simp] theorem State.bmcaPort_time (s : State) (n : Nat) (late : Bool) : KeepsTime s (s.bmcaPort n late) := by
  simp only [State.bmcaPort]
  repeat' split
  all_goals simp [KeepsTime]

@[simp] theorem State.ptpEval_time (s : State) : KeepsTime s s.ptpEval := by simp [State.ptpEval, KeepsTime]

@[simp] theorem State.bmca_time (s : State) : KeepsTime s s.bmca := by simp [State.bmca, KeepsTime]

@[simp] theorem State.ethBoundary_time (s : State) (utc : Option (Int × Bool × Bool)) : KeepsTime s (s.ethBoundary utc) := by
  unfold State.ethBoundary
  split <;> simp [KeepsTime]

@[simp] theorem appliedEth_time (old : State) (p : Nat) (s : State) : KeepsTime s (appliedEth old p s) := by simp [appliedEth, KeepsTime]

@[simp] theorem resetEth_time (s : State) (p : Nat) : KeepsTime s (resetEth s p) := by simp [resetEth, KeepsTime]

@[simp] theorem State.hostBoundary_time (s : State) : KeepsTime s s.hostBoundary := .refl _

@[simp] theorem State.modTemper_time (s : State) (i : Nat) (f : Temper → Temper) : KeepsTime s (s.modTemper i f) := .refl _

@[simp] theorem State.temperHeat_time (s : State) (l : List TemperIn) : KeepsTime s (s.temperHeat l) := by
  simp [State.temperHeat, KeepsTime]

@[simp] theorem State.modBk_time (s : State) (f : Backup → Backup) : KeepsTime s (s.modBk f) := .refl _

@[simp] theorem State.setRet_time (s : State) (r : Nat) (v : Row) : KeepsTime s (s.setRet r v) := .refl _

@[simp] theorem State.retain_time (s : State) (r : Nat) (v : Row) : KeepsTime s (s.retain r v) := by simp [State.retain, KeepsTime]

@[simp] theorem State.retainSolution_time (s : State) : KeepsTime s s.retainSolution := by simp [State.retainSolution, KeepsTime]

@[simp] theorem State.systemNmea_time (s : State) (text : List Byte) : KeepsTime s (s.systemNmea text) := by
  simp [State.systemNmea, KeepsTime]

@[simp] theorem State.finalise_time (s : State) : KeepsTime s s.finalise := by simp [State.finalise, KeepsTime]

@[simp] theorem State.quenchStop_clock (s : State) : SameClock s s.quenchStop := by simp [State.quenchStop, SameClock]

@[simp] theorem State.quenchBoundary_time (s : State) : KeepsTime s s.quenchBoundary := by simp [State.quenchBoundary, KeepsTime]

@[simp] theorem State.dropObject_time (s : State) (i : Nat) : KeepsTime s (s.dropObject i) := by simp [State.dropObject, KeepsTime]

@[simp] theorem versionSelect_time (s : State) (e : JEntry) : KeepsTime s (versionSelect s e) := by
  unfold versionSelect
  split <;> simp [KeepsTime]

@[simp] theorem ledgerQuery_time (s : State) (e : JEntry) : KeepsTime s (ledgerQuery s e) := by
  simp only [ledgerQuery]
  split <;> simp [KeepsTime]

@[simp] theorem handleQuery_time (s : State) (e : JEntry) : KeepsTime s (handleQuery s e) := by
  unfold handleQuery
  split <;> simp [KeepsTime]

@[simp] theorem stepEnd_time (s : State) (e : JEntry) : KeepsTime s (stepEnd s e) := by
  unfold stepEnd
  split <;> simp [KeepsTime]

@[simp] theorem firstStep_clock (s : State) (e : JEntry) : SameClock s (firstStep s e) := by simp [firstStep, SameClock]

@[simp] theorem State.answer_time (s : State) (e : JEntry) (status detail : Nat) : KeepsTime s (s.answer e status detail) := by
  simp [State.answer, KeepsTime]

@[simp] theorem startCmd_clock (s : State) (e0 : JEntry) : SameClock s (startCmd s e0) := by
  simp only [startCmd]
  repeat' split
  all_goals simp [SameClock]

@[simp] theorem State.enter_clock (s : State) (e : JEntry) : SameClock s (s.enter e) := by simp [State.enter, SameClock]

@[simp] theorem State.takeRecord_clock (s : State) (ws : List Word) : SameClock s (s.takeRecord ws) := by
  simp only [State.takeRecord]
  repeat' split
  all_goals simp [SameClock]

@[simp] theorem State.takeOne_clock (s : State) : SameClock s s.takeOne := by simp [State.takeOne, SameClock]

@[simp] theorem State.intakeN_clock (fuel : Nat) (s : State) : SameClock s (s.intakeN fuel) := by
  induction fuel generalizing s with
  | zero => exact .refl _
  | succ n ih =>
    simp only [State.intakeN]
    split <;> simp [SameClock, ih]

@[simp] theorem State.intake_clock (s : State) : SameClock s s.intake := by simp [State.intake, SameClock]

@[simp] theorem State.flightBoundary_clock (s : State) (e : JEntry) : SameClock s (s.flightBoundary e) := by
  simp [State.flightBoundary, SameClock]

@[simp] theorem State.flightsBoundary_clock (s : State) : SameClock s s.flightsBoundary := by simp [State.flightsBoundary, SameClock]

@[simp] theorem winApplied_clock (old : State) (p : Nat) (s : State) : SameClock s (winApplied old p s) := by
  unfold winApplied
  split <;> simp [SameClock]

@[simp] theorem winReset_clock (s : State) (p : Nat) : SameClock s (winReset s p) := by
  unfold winReset
  split <;> simp [SameClock]

@[simp] theorem hooks_clock : hooks.SameClock where
  applied s p t := winApplied_clock s p t
  reset := winReset_clock

@[simp] theorem State.shiftInstants_time (s : State) (off : Int) : KeepsTime s (s.shiftInstants off) := .refl _

@[simp] theorem State.paceAll_time (s : State) : KeepsTime s s.paceAll := by simp [State.paceAll, KeepsTime]

@[simp] theorem State.endStreams_time (s : State) : KeepsTime s s.endStreams := by simp [State.endStreams, KeepsTime]

@[simp] theorem State.endWork_time (s : State) (ovr : List Nat) (b : Nat) : KeepsTime s (s.endWork ovr b) := by
  simp [State.endWork, KeepsTime]

@[simp] theorem State.endBillets_time (s : State) (h : HeatIn) (ids : List Nat) (torn : Bool) : KeepsTime s (s.endBillets h ids torn) := by
  simp [State.endBillets, KeepsTime]

@[simp] theorem State.tornRecords_time (s : State) : KeepsTime s s.tornRecords := by simp [State.tornRecords, KeepsTime]

@[simp] theorem State.endMeas_clock (s : State) (h : HeatIn) (torn ret : Bool) (ms : Nat) : SameClock s (s.endMeas h torn ret ms) := by
  simp [State.endMeas, SameClock]

@[simp] theorem State.startHeat_clock (s : State) (h : HeatIn) : SameClock s (s.startHeat h) := by simp [State.startHeat, SameClock]

@[simp] theorem State.overrunsAt_time (s : State) (next : List Nat) : KeepsTime s (s.overrunsAt next) := by
  simp [State.overrunsAt, KeepsTime]

@[simp] theorem State.restBoundary_time (s : State) (h : HeatIn) : KeepsTime s (s.restBoundary h) := by simp [State.restBoundary, KeepsTime]

end Sys2Proof.Machine

/-! ## A heat boundary and a run of the placement loop (rules R96, R97, R100, R116) -/

namespace Sys2Proof.Machine

/-! ### The end of the heat and the instants of the next -/

/-- The end of the heat comes: the time base stands at its instant, and return lane and fill are up to it. -/
def State.atEnd (s : State) : State := (s.advance (s.ticksTo s.tb.hEnd)).rlRun.paceAll

/-- The heat number has risen, a quench has stopped what it stops, and an alignment heat has ended. -/
def State.numbered (s : State) : State := (if s.fault.qBoundary then s.nextHeat.quenchStop else s.nextHeat).endAlign

/-- The work of the planes from the heat that ended up to what the host armed for the one that begins. -/
def State.planes (s : State) (h : HeatIn) (torn aligned ret : Bool) (ms : Nat) (ids : List Nat) : State :=
  let s4 := s.endStreams
  let s5 := if s4.running then s4.crucible h.jobs (h.overruns.contains 16) aligned ret else s4
  let s6 := ((s5.endInjHeat h.repeats).endCalHeat).endBillets h ids torn
  ((s6.endMeas h torn ret ms).clearLaneFlags).startHeat h

/-- The work at the end of a boundary. -/
def State.closes (s : State) (h : HeatIn) : State := (((s.restBoundary h).overrunsAt h.overruns).lateFrame).intake

theorem exec_heatBoundary {s : State} (h : HeatIn) (hr : s.inReset = false) (hl : s.tb.everLocked = true) :
    exec (.heatBoundary h) s = .next ((s.atEnd.numbered.alignHeat.2.planes h s.atEnd.fault.qBoundary s.atEnd.tb.align
      s.atEnd.numbered.alignHeat.1 (s.atEnd.tb.hEnd / msUnits) (s.atEnd.chans.map (·.1))).toggleAlive.closes h) := by
  have hno : ¬ (s.inReset || !s.tb.everLocked) = true := by rw [hr, hl]; decide
  show execHeatBoundary h s = _
  unfold execHeatBoundary State.closes State.planes State.numbered State.atEnd
  rw [if_neg hno]

theorem State.planes_clock (s : State) (h : HeatIn) (torn aligned ret : Bool) (ms : Nat) (ids : List Nat) :
    SameClock s (s.planes h torn aligned ret ms ids) := by
  simp [State.planes, SameClock]

theorem State.closes_clock (s : State) (h : HeatIn) : SameClock s (s.closes h) := by simp [State.closes, SameClock]

/-! ### Up to the new instants -/

/-- Ticks that pass move the elapsed time by what the time base gains, and neither the heat nor a correction. -/
theorem State.advance_spec {s : State} (hl : s.tb.everLocked = true) (n : Nat) : let t := s.advance n
    t.heat = s.heat ∧ t.alive = s.alive ∧ t.inReset = s.inReset ∧ t.el = s.el + s.unitsIn n ∧ t.tb.hEnd = s.tb.hEnd ∧
      t.tb.corr = s.tb.corr := by
  unfold State.advance
  rw [if_neg (by rw [hl]; decide)]
  dsimp only
  split
  · exact ⟨rfl, rfl, rfl, rfl, rfl, rfl⟩
  · split
    · exact ⟨rfl, rfl, rfl, rfl, rfl, rfl⟩
    · split
      · exact ⟨rfl, rfl, rfl, rfl, rfl, rfl⟩
      · simp

theorem State.atEnd_spec {s : State} (hl : s.tb.everLocked = true) : let t := s.atEnd
    t.heat = s.heat ∧ t.alive = s.alive ∧ t.inReset = s.inReset ∧ t.el = s.el + s.unitsIn (s.ticksTo s.tb.hEnd) ∧
      t.tb.hEnd = s.tb.hEnd ∧ t.tb.corr = s.tb.corr := by
  have hadv := State.advance_spec hl (s.ticksTo s.tb.hEnd)
  simpa [State.atEnd] using hadv

@[simp] theorem TimeBase.corr_ite (c : Prop) [Decidable c] (x y : TimeBase) :
    (if c then x else y).corr = if c then x.corr else y.corr := apply_ite ..

/-- Holdover asks for no correction, and drops none. -/
theorem State.toHoldover_corr (s : State) : s.toHoldover.tb.corr = s.tb.corr := by
  have hout : ∀ t : State, t.discOut.tb.corr = t.tb.corr := fun t => by simp [State.discOut]
  simp [State.toHoldover, State.holdoverEntry, hout]

/-- A quench stops a correction that has not applied, and asks for none. -/
theorem State.quenchStop_corr {s : State} (h : s.tb.corr = none) : s.quenchStop.tb.corr = none := by
  simp [State.quenchStop, State.toHoldover_corr, h]

theorem State.endAlign_corr {s : State} (h : s.tb.corr = none) : s.endAlign.tb.corr = none := by
  simp [State.endAlign, h]

theorem State.numbered_spec (s : State) : let t := s.numbered
    t.heat = s.heat + 1 ∧ t.alive = s.alive ∧ t.inReset = s.inReset ∧ t.el = s.el ∧ t.tb.hEnd = s.tb.hEnd ∧
      (s.tb.corr = none → t.tb.corr = none) := by
  have hnext : s.nextHeat.tb = s.tb := rfl
  unfold State.numbered
  split
  · obtain ⟨h1, h2, h3, h4, -, h6⟩ := s.nextHeat.quenchStop_clock.trans (State.endAlign_clock _)
    exact ⟨h1, h2, h3, h4, h6, fun h => State.endAlign_corr (State.quenchStop_corr h)⟩
  · obtain ⟨h1, h2, h3, h4, -, h6⟩ := s.nextHeat.endAlign_clock
    exact ⟨h1, h2, h3, h4, h6, fun h => State.endAlign_corr h⟩

/-- Where no correction is due the next heat follows at once and lasts 1 ms. -/
theorem State.alignHeat_of_noCorr {s : State} (h : s.tb.corr = none) :
    s.alignHeat = (false, { s with tb := { s.tb with hStart := s.tb.hEnd, hEnd := s.tb.hEnd + msUnits } }) := by
  have hcorr : s.corrAtBoundary = (false, s) := by rw [State.corrAtBoundary, h]
  unfold State.alignHeat
  rw [hcorr, ite_self]
  rfl

/-- The new instants leave the number of the heat, ALIVE, the reset and the elapsed time. -/
theorem State.alignHeat_spec (s : State) : let t := s.alignHeat.2
    t.heat = s.heat ∧ t.alive = s.alive ∧ t.inReset = s.inReset ∧ t.el = s.el := by
  have hcorr : SameClock s (if s.running then s.corrAtBoundary else (false, s)).2 := by split <;> simp [SameClock]
  simp only [State.alignHeat]
  generalize (if s.running then s.corrAtBoundary else (false, s)) = r at hcorr ⊢
  obtain ⟨h1, h2, h3, h4, -⟩ := hcorr
  split
  · simp [h1, h2, h3, h4]
  · exact ⟨h1, h2, h3, h4⟩

theorem State.toggleAlive_spec (s : State) : let t := s.toggleAlive
    t.heat = s.heat ∧ t.alive = (!s.alive) ∧ t.inReset = s.inReset ∧ t.el = s.el ∧ t.tb = s.tb := ⟨rfl, rfl, rfl, rfl, rfl⟩

/-- A heat boundary moves the number, ALIVE and the instants of the heat, and lets the elapsed time come to the end of the heat. -/
theorem State.heatBoundary_spec {s t : State} {h : HeatIn} (hl : s.tb.everLocked = true) {torn aligned ret : Bool} {ms : Nat}
    {ids : List Nat} (ht : t = (s.atEnd.numbered.alignHeat.2.planes h torn aligned ret ms ids).toggleAlive.closes h) :
    t.heat = s.heat + 1 ∧ t.alive = (!s.alive) ∧ t.inReset = s.inReset ∧ t.el = s.el + s.unitsIn (s.ticksTo s.tb.hEnd) ∧
      (s.tb.corr = none → t.tb.hStart = s.tb.hEnd ∧ t.tb.hEnd = s.tb.hEnd + msUnits) := by
  obtain ⟨a1, a2, a3, a4, a5, a6⟩ := State.atEnd_spec hl
  obtain ⟨b1, b2, b3, b4, b5, b6⟩ := s.atEnd.numbered_spec
  obtain ⟨c1, c2, c3, c4⟩ := s.atEnd.numbered.alignHeat_spec
  obtain ⟨d1, d2, d3, d4, d5, d6⟩ := s.atEnd.numbered.alignHeat.2.planes_clock h torn aligned ret ms ids
  generalize s.atEnd.numbered.alignHeat.2.planes h torn aligned ret ms ids = u at ht d1 d2 d3 d4 d5 d6
  obtain ⟨e1, e2, e3, e4, e5, e6⟩ := u.toggleAlive.closes_clock h
  obtain ⟨f1, f2, f3, f4, f5⟩ := u.toggleAlive_spec
  subst ht
  refine ⟨?_, ?_, ?_, ?_, fun hc => ?_⟩
  · rw [e1, f1, d1, c1, b1, a1]
  · rw [e2, f2, d2, c2, b2, a2]
  · rw [e3, f3, d3, c3, b3, a3]
  · rw [e4, f4, d4, c4, b4, a4]
  · have halign := State.alignHeat_of_noCorr (b6 (a6.trans hc))
    have hend := b5.trans a5
    rw [e5, e6, f5, d5, d6, halign, hend]
    exact ⟨rfl, rfl⟩

/-! ### The placement loop (rules R116, R117) -/

/-- What a change of every entry under its own key keeps of the values shows at every key. -/
theorem Tab.get_map_of_keeps {α β : Type} (d : Nat → α) {g : Nat × α → Nat × α} (hg : ∀ e, (g e).1 = e.1) (φ : α → β)
    (hφ : ∀ e, φ (g e).2 = φ e.2) (t : Tab α) (k : Nat) : φ (Tab.get d (t.map g) k) = φ (Tab.get d t k) := by
  induction t with
  | nil => rfl
  | cons e t ih =>
    have hk := hg e
    obtain ⟨j, v⟩ := e
    by_cases hj : j = k
    · rw [List.map_cons, Tab.get, if_pos (hk.trans hj), Tab.get, if_pos hj]
      exact hφ (j, v)
    · rw [List.map_cons, Tab.get, if_neg fun h => hj (hk.symm.trans h), Tab.get, if_neg hj]
      exact ih

/-- A channel without its migration. -/
def Chan.unmoved (c : Chan) : Chan := { c with mig := none }

/-- Nothing has changed but migrations of channels. -/
def MovesOnly (s t : State) : Prop := { t with chans := s.chans } = s ∧ ∀ i, (t.chan i).unmoved = (s.chan i).unmoved

theorem MovesOnly.refl (s : State) : MovesOnly s s := ⟨rfl, fun _ => rfl⟩

theorem MovesOnly.trans {s t u : State} (h : MovesOnly s t) (g : MovesOnly t u) : MovesOnly s u :=
  ⟨(congrArg (fun x : State => { x with chans := s.chans }) g.1).trans h.1, fun i => (g.2 i).trans (h.2 i)⟩

theorem MovesOnly.congr {α : Type} {s t : State} (h : MovesOnly s t) (g : State → α)
    (hg : ∀ (t : State) c, g { t with chans := c } = g t) : g t = g s := (hg t _).symm.trans (congrArg g h.1)

theorem MovesOnly.modChan (s : State) (i : Nat) (m : Option (Nat × Nat × Nat)) :
    MovesOnly s (s.modChan i fun c => { c with mig := m }) :=
  ⟨rfl, fun k => Tab.get_map_of_keeps _ (fun e => by split <;> rfl) Chan.unmoved (fun e => by split <;> rfl) s.chans k⟩

theorem MovesOnly.moveOnce (hyst : Nat) (x : State × Nat) : MovesOnly x.1 (Machine.moveOnce hyst x).1 := by
  unfold Machine.moveOnce
  split
  · exact .refl _
  · exact .modChan ..

theorem State.moves_movesOnly (s : State) (n hyst : Nat) : MovesOnly s (s.moves n hyst).2.2 := by
  have h : ∀ (l : List Nat) (x : State × Nat), MovesOnly x.1 (l.foldl (fun x _ => moveOnce hyst x) x).1 := fun l => by
    induction l with
    | nil => exact fun x => .refl _
    | cons a l ih => exact fun x => (MovesOnly.moveOnce hyst x).trans (ih _)
  exact h (List.range n) (s, 0)

/-- Where no move is due a run makes none. -/
theorem State.moves_of_none {s : State} {n hyst sp : Nat} (h : s.nextMove hyst = (sp, none)) : s.moves n hyst = (0, sp, s) := by
  have hone : moveOnce hyst (s, 0) = (s, 0) := by
    unfold moveOnce
    dsimp only
    rw [h]
  have hfold : (List.range n).foldl (fun x _ => moveOnce hyst x) (s, 0) = (s, 0) := by
    refine List.foldlRecOn (motive := (· = (s, 0))) _ _ rfl fun x hx _ _ => ?_
    rw [hx, hone]
  rw [State.moves, hfold, h]

/-- What a run leaves of its moves: their number and the spread in PLACE_STAT, and the heat of the run. -/
def State.ranLoop (s : State) (r : Nat × Nat × State) : State :=
  { r.2.2.setReg 0x001 0x074 (BitVec.ofNat 32 ((s.rf 0x001 0x074 15 0 + r.1) % 65536 + min 65535 r.2.1 * 65536)) with placeHeat := s.heat }

/-- A run of the loop that is due. -/
theorem exec_placement {s : State} (hr : s.inReset = false) (hl : s.tb.everLocked = true) (hen : s.rf 0x001 0x070 0 0 = 1)
    (hper : s.rf 0x001 0x070 15 8 ≠ 0) (hdue : s.heat % s.rf 0x001 0x070 15 8 = 0) (hnew : s.placeHeat ≠ s.heat)
    (hrun : s.fault.phase = .run) :
    exec .placement s = .next (s.ranLoop (s.moves (s.rf 0x001 0x070 7 4) (s.rf 0x001 0x070 31 16))) := by
  have hmax : max 1 (fld (s.reg 0x001 0x070) 15 8) = s.rf 0x001 0x070 15 8 := max_eq_right (Nat.one_le_iff_ne_zero.2 hper)
  have hone : fld (s.reg 0x001 0x070) 0 0 = 1 := hen
  have hno : ¬ (s.inReset || !s.tb.everLocked || fld (s.reg 0x001 0x070) 0 0 == 0 ||
      s.heat % max 1 (fld (s.reg 0x001 0x070) 15 8) != 0 || s.placeHeat == s.heat || !decide (s.fault.phase = .run)) = true := by
    simp only [hr, hl, hone, hmax, hdue, hrun, beq_eq_false_iff_ne.2 hnew]
    decide
  show execPlacement s = _
  unfold execPlacement
  dsimp only
  rw [if_neg hno]
  rfl

/-- Settles O43: the operations of a boundary leave the clock of the heats to it, and a run of the placement loop changes migrations
only. -/
theorem heatsAndPlacement : Obligations.HeatsAndPlacement := by
  refine ⟨fun s h hr hl => ?_, fun s hr hl hen hper hdue hnew hrun => ?_⟩
  · have hexec := exec_heatBoundary h hr hl
    obtain ⟨hheat, halive, hreset, hel, hinst⟩ := State.heatBoundary_spec hl rfl
    obtain ⟨hpending, hfuses⟩ := exec_kept rfl s _ hexec
    exact ⟨_, hexec, hheat, halive, hreset.trans hr, hel, hfuses, hpending, hinst⟩
  · have hexec := exec_placement hr hl hen hper hdue hnew hrun
    have hmoves := s.moves_movesOnly (s.rf 0x001 0x070 7 4) (s.rf 0x001 0x070 31 16)
    have hnone := fun sp => State.moves_of_none (s := s) (n := s.rf 0x001 0x070 7 4) (hyst := s.rf 0x001 0x070 31 16) (sp := sp)
    generalize s.moves (s.rf 0x001 0x070 7 4) (s.rf 0x001 0x070 31 16) = r at hexec hmoves hnone
    refine ⟨_, hexec, rfl, hmoves.congr State.cmd fun _ _ => rfl, fun a ha => ?_, hmoves.2, fun sp hsp => ?_⟩
    · refine (State.cell_setReg ..).trans ((if_neg fun h => ha (List.mem_singleton.2 h)).trans ?_)
      exact hmoves.congr (fun s => s.cell a) fun _ _ => rfl
    · rw [hnone sp hsp]
      refine ⟨rfl, (State.reg_setReg_same ..).trans ?_⟩
      have hlt : s.rf 0x001 0x074 15 0 < 65536 := rf_lt ..
      rw [Nat.add_zero, Nat.mod_eq_of_lt hlt]

end Sys2Proof.Machine

/-! ## The frames of the return lane (rules R203 to R205, R210) -/

namespace Sys2Proof.Machine

/-! ### What frames leave alone -/

/-- The state without what frames of the return lane can change: what completions can, the lane itself, and the free numbers. -/
def State.beyondLane (s : State) : State := { s.beyondRings with rl := {}, freeCtr := 0 }

/-- Nothing has changed beyond the return lane and the completions of its jobs; of the registers only those of the lane's page and of the
CMD page. -/
structure LaneOnly (s t : State) : Prop where
  beyond : t.beyondLane = s.beyondLane
  cell : ∀ a, a / 0x1000 ≠ 0x003 → a / 0x1000 ≠ 0x018 → t.cell a = s.cell a

theorem LaneOnly.refl (s : State) : LaneOnly s s := ⟨rfl, fun _ _ _ => rfl⟩

theorem LaneOnly.trans {s t u : State} (h : LaneOnly s t) (g : LaneOnly t u) : LaneOnly s u :=
  ⟨g.beyond.trans h.beyond, fun a h3 h18 => (g.cell a h3 h18).trans (h.cell a h3 h18)⟩

/-- A fold whose steps leave it so, read through the part of its accumulator that is a state. -/
theorem LaneOnly.foldl_of {α β : Type} (get : β → State) {f : β → α → β} (h : ∀ b a, LaneOnly (get b) (get (f b a)))
    (l : List α) (b : β) : LaneOnly (get b) (get (l.foldl f b)) := by
  induction l generalizing b with
  | nil => exact .refl _
  | cons a l ih => exact (h b a).trans (ih _)

theorem LaneOnly.foldl {α : Type} {f : State → α → State} (h : ∀ s a, LaneOnly s (f s a)) (l : List α) (s : State) :
    LaneOnly s (l.foldl f s) := LaneOnly.foldl_of id h l s

/-- What looks at neither is the same. -/
theorem LaneOnly.congr {α : Type} {s t : State} (h : LaneOnly s t) (g : State → α) (hg : ∀ s : State, g s.beyondLane = g s) :
    g t = g s := by rw [← hg, h.beyond, hg]

theorem LaneOnly.fecs {s t : State} (h : LaneOnly s t) : t.fecs = s.fecs := h.congr State.fecs fun _ => rfl

/-- The registers of another page. -/
theorem LaneOnly.reg {s t : State} (h : LaneOnly s t) {p o : Nat} (ho : o < 0x1000) (h3 : p ≠ 0x003) (h18 : p ≠ 0x018) :
    t.reg p o = s.reg p o := h.cell _ (by rwa [addr_div ho]) (by rwa [addr_div ho])

theorem LaneOnly.withRl (s : State) (r : Rlane) : LaneOnly s { s with rl := r } := ⟨rfl, fun _ _ _ => rfl⟩

theorem LaneOnly.setInj (s : State) (k : Nat) (j : InjJob) : LaneOnly s (s.setInj k j) := .withRl ..

theorem LaneOnly.emit (s : State) (o : Output) : LaneOnly s (s.emit o) := ⟨rfl, fun _ _ _ => rfl⟩

theorem LaneOnly.jmod (s : State) (seq : Word) (f : JEntry → JEntry) : LaneOnly s (s.jmod seq f) := ⟨rfl, fun _ _ _ => rfl⟩

theorem LaneOnly.count (s : State) {o : Nat} (ho : o < 0x1000) : LaneOnly s (s.count 0x018 o) :=
  ⟨rfl, fun _ _ h18 => State.cell_count_of_page ho h18⟩

theorem State.beyondLane_of_rings {s t : State} (h : t.beyondRings = s.beyondRings) : t.beyondLane = s.beyondLane :=
  congrArg (fun s : State => { s with rl := {}, freeCtr := 0 }) h

theorem LaneOnly.raise (s : State) (bit : Nat) : LaneOnly s (s.raise 0x018 bit) :=
  ⟨State.beyondLane_of_rings (s.beyondRings_raise ..), fun _ _ h18 => State.cell_raise_of_page h18⟩

theorem LaneOnly.finish (s : State) (e : JEntry) (status step detail : Nat) (handle a1 a2 : Word) :
    LaneOnly s (s.finish e status step detail handle a1 a2) :=
  ⟨State.beyondLane_of_rings (s.beyondRings_finish ..), fun _ h3 _ => (s.finish_posted e status step detail handle a1 a2).cell _
    (addr_ne_of_page (by decide) h3) (addr_ne_of_page (by decide) h3)⟩

theorem LaneOnly.injVal (s : State) (j : InjJob) (at_ : Rat) : LaneOnly s (s.injVal j at_).2 := by
  unfold State.injVal
  split
  · exact ⟨rfl, fun _ _ _ => rfl⟩
  · exact .refl s

theorem LaneOnly.injSum (s : State) (at_ : Rat) : LaneOnly s (s.injSum at_).2 := by
  have hsum := LaneOnly.foldl_of (α := Nat × InjJob) (Prod.snd (α := Cx))
    (f := fun a e => if e.2.st = .active then ((a.2.injVal e.2 at_).1.add a.1, (a.2.injVal e.2 at_).2) else a)
    (fun a e => by
      split
      · exact LaneOnly.injVal a.2 e.2 at_
      · exact .refl _) s.rl.jobs ({}, s)
  unfold State.injSum
  dsimp only
  split
  · exact hsum
  · exact hsum.trans (.count _ (by decide))

/-- A job as its first sample leaves it (rule R209; the second of that sample is log entry 94). -/
def State.runJob (s : State) (at_ : Nat) (j : InjJob) : InjJob :=
  { j with st := .active, winHeat := s.heat + 1, spoilt := false, badLanes := 0, sec := secOf at_ }

/-- A job's first sample leaves what only a completion can change. -/
theorem State.beyondRings_injActive (s : State) (k at_ : Nat) :
    (s.injActive k at_).beyondRings = (s.setInj k (s.runJob at_ (s.inj k))).beyondRings := by
  unfold State.injActive
  dsimp only
  split
  · split
    · exact State.beyondRings_finish ..
    · rfl
  · rfl

theorem LaneOnly.injActive (s : State) (k at_ : Nat) : LaneOnly s (s.injActive k at_) := by
  unfold State.injActive
  dsimp only
  split
  · split
    · exact (LaneOnly.setInj ..).trans (.finish ..)
    · exact .setInj ..
  · exact .setInj ..

theorem LaneOnly.injStarts (s : State) (st : InjSt) (at_ : Nat) : LaneOnly s (s.injStarts st at_) := by
  refine (LaneOnly.withRl s { s.rl with st := .active }).trans (.foldl (fun v e => ?_) ..)
  split
  · exact (LaneOnly.jmod ..).trans (.injActive ..)
  · exact .refl v

theorem LaneOnly.frameJoined (s : State) : LaneOnly s s.frameJoined := by
  unfold State.frameJoined
  split
  · exact .injStarts ..
  · exact .refl s

/-- The samples of a frame with what they leave. -/
def State.frameSlots (s : State) (at_ : Nat) : List (Int × Int) × State :=
  (List.range s.rlSlots).foldl (fun (a : List (Int × Int) × State) k =>
    if s.frameJoined.rl.st = .active then
      let v := a.2.injSum ((at_ : Rat) + ((k * s.frameTime : Nat) : Rat) / (s.rlSlots : Nat))
      (a.1 ++ [v.1], v.2)
    else (a.1 ++ [(0, 0)], a.2)) ([], s.frameJoined)

/-- The instant of the frame to come. -/
def State.nextFrame (s : State) : Nat := s.tb.now - (s.el - s.rl.next)

/-- A frame: the jobs that join, its samples, what is sent, and the instant of the next. -/
theorem State.rlOne_eq (s : State) : s.rlOne =
    { (s.frameSlots s.nextFrame).2.emit (.rlFrame s.nextFrame s.rlHeader (s.frameSlots s.nextFrame).1) with
      rl := { (s.frameSlots s.nextFrame).2.rl with next := s.rl.next + s.frameTime } } := rfl

theorem LaneOnly.frameSlots (s : State) (at_ : Nat) : LaneOnly s.frameJoined (s.frameSlots at_).2 :=
  LaneOnly.foldl_of Prod.snd (fun a k => by
    split
    · exact LaneOnly.injSum a.2 _
    · exact .refl _) (List.range s.rlSlots) ([], s.frameJoined)

theorem State.frameSlots_sampleOnly (s : State) (at_ : Nat) : SampleOnly s.frameJoined (s.frameSlots at_).2 :=
  SampleOnly.foldl Prod.snd (fun a k => by
    split
    · exact a.2.injSum_sampleOnly _
    · exact .refl _) (List.range s.rlSlots) ([], s.frameJoined)

theorem LaneOnly.rlOne (s : State) : LaneOnly s s.rlOne :=
  ((LaneOnly.frameJoined s).trans (.frameSlots s s.nextFrame)).trans ((LaneOnly.emit ..).trans (.withRl ..))

/-- A frame changes the lane as the jobs that join it do, and moves it on. -/
theorem State.rlOne_rl (s : State) : s.rlOne.rl = { s.frameJoined.rl with next := s.rl.next + s.frameTime } := by
  obtain ⟨-, hrl, -⟩ := s.frameSlots_sampleOnly s.nextFrame
  rw [State.rlOne_eq, hrl]

/-- What the frames up to now keep is what one frame keeps. -/
theorem State.rlRun_of_rlOne {P : State → Prop} (h : ∀ s, P s → P s.rlOne) {s : State} (hs : P s) : P s.rlRun := by
  unfold State.rlRun
  dsimp only
  generalize (if s.rl.st = .leadIn ∨ s.rl.st = .tail then min s.el (s.rl.el + s.frames256 - 1) else s.el) = lim
  split
  · exact hs
  · exact List.foldlRecOn (motive := P) _ _ hs fun t ht _ _ => h t ht

theorem LaneOnly.rlRun (s : State) : LaneOnly s s.rlRun :=
  State.rlRun_of_rlOne (P := LaneOnly s) (fun _ h => h.trans (.rlOne _)) (.refl s)

theorem LaneOnly.suspendInj (s : State) (n : Nat) : LaneOnly s (s.suspendInj n) := by
  unfold State.suspendInj
  dsimp only
  split
  · exact .refl s
  · split
    · exact .rlRun s
    · exact ((LaneOnly.rlRun s).trans (.withRl ..)).trans (.raise ..)

end Sys2Proof.Machine

/-! ## Front-ends and their links (rules R184 to R202) -/

namespace Sys2Proof.Machine

/-! ### A front-end and the registers of its page -/

theorem State.fec_of_fecs {s t : State} (h : t.fecs = s.fecs) (n : Nat) : t.fec n = s.fec n := by rw [State.fec, h, State.fec]

theorem LaneOnly.fec {s t : State} (h : LaneOnly s t) (n : Nat) : t.fec n = s.fec n := State.fec_of_fecs h.fecs n

@[simp] theorem State.fec_setFec_same (s : State) (n : Nat) (x : Fec) : (s.setFec n x).fec n = x := Tab.get_set_same ..

@[simp] theorem State.fec_modFec_same (s : State) (n : Nat) (f : Fec → Fec) : (s.modFec n f).fec n = f (s.fec n) :=
  State.fec_setFec_same ..

@[simp] theorem State.fec_raise (s : State) (p bit n : Nat) : (s.raise p bit).fec n = s.fec n := State.fec_of_fecs (s.raise_fecs ..) n

@[simp] theorem State.fec_capErr (s : State) (p code off n : Nat) : (s.capErr p code off).fec n = s.fec n :=
  State.fec_of_fecs (s.capErr_fecs ..) n

@[simp] theorem State.regs_modFec (s : State) (n : Nat) (f : Fec → Fec) : (s.modFec n f).regs = s.regs := rfl

/-- Putting a request on the wire changes the wire only. -/
theorem State.uflGo_frame (s : State) (n : Nat) : ∃ l, s.uflGo n = { s with outbox := l } := by
  unfold State.uflGo
  split
  · exact ⟨_, rfl⟩
  · exact ⟨_, rfl⟩

@[simp] theorem State.fec_uflGo (s : State) (n m : Nat) : (s.uflGo n).fec m = s.fec m := by
  obtain ⟨l, h⟩ := s.uflGo_frame n
  rw [h]
  rfl

/-- Only the wire and the front-ends' own parts have changed. -/
def LinkOnly (s t : State) : Prop := ∃ l f, t = { s with outbox := l, fecs := f }

theorem LinkOnly.congr {α : Type} {s t : State} (h : LinkOnly s t) (g : State → α)
    (hg : ∀ (s : State) l f, g { s with outbox := l, fecs := f } = g s) : g t = g s := by
  obtain ⟨l, f, rfl⟩ := h
  exact hg s l f

theorem LinkOnly.modFec (s : State) (n : Nat) (f : Fec → Fec) : LinkOnly s (s.modFec n f) := ⟨s.outbox, _, rfl⟩

theorem LinkOnly.uflGo (s : State) (n : Nat) : LinkOnly s (s.uflGo n) := by
  obtain ⟨l, h⟩ := s.uflGo_frame n
  exact ⟨l, s.fecs, h⟩

theorem LinkOnly.trans {s t u : State} (h : LinkOnly s t) (g : LinkOnly t u) : LinkOnly s u := by
  obtain ⟨_, _, rfl⟩ := h
  obtain ⟨l, f, rfl⟩ := g
  exact ⟨l, f, rfl⟩

theorem LinkOnly.regs {s t : State} (h : LinkOnly s t) : t.regs = s.regs := h.congr State.regs fun _ _ _ => rfl

theorem LinkOnly.reg {s t : State} (h : LinkOnly s t) (p o : Nat) : t.reg p o = s.reg p o := by rw [State.reg, h.regs, State.reg]

/-- A front-end with one more request waiting; on an idle link it goes out at once. -/
def Fec.queued (x : Fec) (r : UflReq) : Fec :=
  { x with q := x.q ++ [r], tries := if x.q.isEmpty then 0 else x.tries, wait := if x.q.isEmpty then false else x.wait }

@[simp] theorem State.fec_uflSend_same (s : State) (n : Nat) (r : UflReq) : (s.uflSend n r).fec n = (s.fec n).queued r := by
  unfold State.uflSend Fec.queued
  dsimp only
  split
  · rw [State.fec_uflGo, State.fec_modFec_same, State.fec_modFec_same]
  · rw [State.fec_modFec_same]

theorem LinkOnly.uflSend (s : State) (n : Nat) (r : UflReq) : LinkOnly s (s.uflSend n r) := by
  unfold State.uflSend
  dsimp only
  split
  · exact ((LinkOnly.modFec ..).trans (.modFec ..)).trans (.uflGo ..)
  · exact .modFec ..

theorem LinkOnly.uflNext (s : State) (n : Nat) : LinkOnly s (s.uflNext n) := (LinkOnly.modFec ..).trans (.uflGo ..)

@[simp] theorem State.fec_uflNext_same (s : State) (n : Nat) :
    (s.uflNext n).fec n = { s.fec n with q := (s.fec n).q.tail, tries := 0, wait := false } := by
  rw [State.uflNext, State.fec_uflGo, State.fec_modFec_same]

@[simp] theorem State.fec_fecTo_same (s : State) (n : Nat) (st : FecSt) :
    (s.fecTo n st).fec n = { s.fec n with st := st, el := s.el } := by
  unfold State.fecTo
  split
  · next h => rw [State.fec_modFec_same, h]
  · rw [State.fec_raise, State.fec_modFec_same]

/-! ### What a front-end's steps keep -/

/-- A request that a fault leaves on the link (rules R192, R202). -/
def UflReq.stays (r : UflReq) : Bool := r.tag == .keepalive || r.tag == .raw

/-- The front-end is brought up, and a link that fails is its fault (rule R198). -/
def FecSt.up (st : FecSt) : Prop := st = .lockwait ∨ st = .calibrate ∨ st = .ready ∨ st = .powerup

/-- The front-end's own work: requests that a fault would drop are put behind those that wait, and the status last read stands. -/
structure Fec.Works (x y : Fec) : Prop where
  q : ∃ l, y.q = x.q ++ l ∧ l.filter UflReq.stays = []
  lock : y.lock = x.lock
  injOn : y.injOn = x.injOn
  up : x.st.up → y.st.up
  busy : x.q ≠ [] → y.tries = x.tries ∧ y.wait = x.wait

theorem Fec.Works.refl (x : Fec) : x.Works x := ⟨⟨[], by simp⟩, rfl, rfl, id, fun _ => ⟨rfl, rfl⟩⟩

theorem Fec.Works.trans {x y z : Fec} (h : x.Works y) (g : y.Works z) : x.Works z := by
  obtain ⟨l, hl, hs⟩ := h.q
  obtain ⟨m, hm, ht⟩ := g.q
  refine ⟨⟨l ++ m, by rw [hm, hl, List.append_assoc], by rw [List.filter_append, hs, ht, List.nil_append]⟩, g.lock.trans h.lock,
    g.injOn.trans h.injOn, g.up ∘ h.up, fun hne => ?_⟩
  obtain ⟨ht, hw⟩ := h.busy hne
  obtain ⟨ht', hw'⟩ := g.busy (by rw [hl]; exact fun h => hne (List.append_eq_nil_iff.1 h).1)
  exact ⟨ht'.trans ht, hw'.trans hw⟩

theorem Fec.Works.queued (x : Fec) {r : UflReq} (h : r.stays = false) : x.Works (x.queued r) := by
  refine ⟨⟨[r], rfl, by simp [h]⟩, rfl, rfl, id, fun hne => ?_⟩
  have hq : x.q.isEmpty = false := by simpa using hne
  simp [Fec.queued, hq]

/-- A change of the other parts of a front-end. -/
theorem Fec.Works.of_same {x y : Fec} (hq : y.q = x.q) (hl : y.lock = x.lock) (hi : y.injOn = x.injOn) (hs : x.st.up → y.st.up)
    (ht : y.tries = x.tries) (hw : y.wait = x.wait) : x.Works y :=
  ⟨⟨[], by simp [hq]⟩, hl, hi, hs, fun _ => ⟨ht, hw⟩⟩

/-- On a front-end's page events that stood still stand, and the other registers are as before. -/
structure PageStands (n : Nat) (s t : State) : Prop where
  reg : ∀ o, o < 0x1000 → o ≠ 0x014 → t.reg (fecPage n) o = s.reg (fecPage n) o
  event : ∀ b, (s.reg (fecPage n) 0x014).getLsbD b = true → (t.reg (fecPage n) 0x014).getLsbD b = true

section page

variable {n : Nat} {s t u : State}

theorem PageStands.refl (n : Nat) (s : State) : PageStands n s s := ⟨fun _ _ _ => rfl, fun _ => id⟩

theorem PageStands.trans (h : PageStands n s t) (g : PageStands n t u) : PageStands n s u :=
  ⟨fun o ho hne => (g.reg o ho hne).trans (h.reg o ho hne), fun b => g.event b ∘ h.event b⟩

theorem PageStands.of_reg (h : ∀ o, o < 0x1000 → t.reg (fecPage n) o = s.reg (fecPage n) o) : PageStands n s t :=
  ⟨fun o ho _ => h o ho, fun b hb => by rwa [h _ (by decide)]⟩

theorem PageStands.of_regs (n : Nat) (h : t.regs = s.regs) : PageStands n s t :=
  .of_reg fun o _ => by rw [State.reg, h, State.reg]

theorem PageStands.raise (n : Nat) (s : State) (bit : Nat) : PageStands n s (s.raise (fecPage n) bit) := by
  refine ⟨fun o ho hne => ?_, fun b => State.getLsbD_raise_of _ _⟩
  rw [State.reg_cell, State.cell_raise, if_neg (addr_event_ne ho hne).symm, State.reg_cell]

theorem PageStands.fecTo (n : Nat) (s : State) (st : FecSt) : PageStands n s (s.fecTo n st) := by
  unfold State.fecTo
  split
  · exact .of_regs n rfl
  · exact (PageStands.of_regs n (State.regs_modFec ..)).trans (.raise ..)

theorem PageStands.of_laneOnly (n : Nat) (h : LaneOnly s t) : PageStands n s t :=
  .of_reg fun _ ho => h.reg ho (by unfold fecPage; omega) (by unfold fecPage; omega)

end page

/-- The front-end's work: on its own part and on its page. -/
structure FecWorks (n : Nat) (s t : State) : Prop where
  fec : (s.fec n).Works (t.fec n)
  page : PageStands n s t

section works

variable {n : Nat} {s t u : State}

theorem FecWorks.refl (n : Nat) (s : State) : FecWorks n s s := ⟨.refl _, .refl n s⟩

theorem FecWorks.trans (h : FecWorks n s t) (g : FecWorks n t u) : FecWorks n s u := ⟨h.fec.trans g.fec, h.page.trans g.page⟩

theorem FecWorks.foldl {α : Type} {f : State → α → State} (h : ∀ s a, FecWorks n s (f s a)) (l : List α) (s : State) :
    FecWorks n s (l.foldl f s) :=
  List.foldlRecOn (motive := FecWorks n s) _ _ (.refl n s) fun t ht a _ => ht.trans (h t a)

/-- What changes no register works where the front-end does. -/
theorem FecWorks.of_regs (h : t.regs = s.regs) (hf : (s.fec n).Works (t.fec n)) : FecWorks n s t := ⟨hf, .of_regs n h⟩

theorem FecWorks.modFec {f : Fec → Fec} (h : (s.fec n).Works (f (s.fec n))) : FecWorks n s (s.modFec n f) :=
  .of_regs rfl (by rwa [State.fec_modFec_same])

theorem FecWorks.raise (n : Nat) (s : State) (bit : Nat) : FecWorks n s (s.raise (fecPage n) bit) :=
  ⟨by rw [State.fec_raise]; exact .refl _, .raise n s bit⟩

theorem FecWorks.uflSend (s : State) {r : UflReq} (h : r.stays = false) : FecWorks n s (s.uflSend n r) :=
  .of_regs (LinkOnly.uflSend s n r).regs (by rw [State.fec_uflSend_same]; exact .queued _ h)

theorem FecWorks.fecTo (s : State) {st : FecSt} (h : st.up) : FecWorks n s (s.fecTo n st) := by
  refine ⟨?_, .fecTo n s st⟩
  rw [State.fec_fecTo_same]
  exact .of_same rfl rfl rfl (fun _ => h) rfl rfl

theorem FecWorks.startGain (n : Nat) (s : State) (j g : Nat) : FecWorks n s (s.startGain n j g) := by
  unfold State.startGain
  refine .foldl (fun s b => ?_) _ s
  exact .of_regs rfl (.refl _)

theorem FecWorks.writeGain (n : Nat) (s : State) (j g : Nat) : FecWorks n s (s.writeGain n j g) :=
  (FecWorks.uflSend s rfl).trans (.startGain ..)

theorem up_ready : FecSt.ready.up := .inr (.inr (.inl rfl))

theorem up_lockwait : FecSt.lockwait.up := .inl rfl

theorem up_calibrate : FecSt.calibrate.up := .inr (.inl rfl)

theorem up_powerup : FecSt.powerup.up := .inr (.inr (.inr rfl))

theorem FecWorks.fecReadyInit (n : Nat) (s : State) : FecWorks n s (s.fecReadyInit n) := by
  unfold State.fecReadyInit
  dsimp only
  split
  · exact (FecWorks.foldl (fun s j => .writeGain n s j _) _ s).trans (.fecTo _ up_ready)
  · exact .fecTo _ up_ready

theorem FecWorks.fecReadyStart (n : Nat) (s : State) : FecWorks n s (s.fecReadyStart n) :=
  (FecWorks.foldl (fun s j => .startGain n s j _) _ s).trans (.fecTo _ up_ready)

theorem FecWorks.calStart (n : Nat) (s : State) (go : Bool) : FecWorks n s (s.calStart n go) := by
  unfold State.calStart
  dsimp only
  split
  · exact ((FecWorks.modFec (.of_same rfl rfl rfl id rfl rfl)).trans (.fecTo _ up_calibrate)).trans (.uflSend _ rfl)
  · exact (FecWorks.modFec (.of_same rfl rfl rfl id rfl rfl)).trans (.fecTo _ up_calibrate)

theorem FecWorks.fecLocked (n : Nat) (s : State) : FecWorks n s (s.fecLocked n) := by
  have hstale : ∀ f : Fec → Fec, (s.fec n).Works (f (s.fec n)) → FecWorks n s (s.modFec n f) := fun _ => .modFec
  unfold State.fecLocked
  dsimp only
  split_ifs
  · exact .refl n s
  · exact (hstale _ (.of_same rfl rfl rfl id rfl rfl)).trans (.fecReadyInit ..)
  · exact (hstale _ (.of_same rfl rfl rfl id rfl rfl)).trans (.fecReadyStart ..)
  · exact .calStart ..
  · exact (hstale _ (.of_same rfl rfl rfl id rfl rfl)).trans (.fecReadyStart ..)

theorem FecWorks.fecScript (n : Nat) (s : State) (i : Nat) : FecWorks n s (s.fecScript n i) := by
  unfold State.fecScript
  dsimp only
  split
  · exact .modFec (.of_same rfl rfl rfl id rfl rfl)
  · exact (FecWorks.modFec (.of_same rfl rfl rfl id rfl rfl)).trans (.uflSend _ rfl)

theorem FecWorks.fecPowerup (n : Nat) (s : State) : FecWorks n s (s.fecPowerup n) :=
  (FecWorks.fecTo s up_powerup).trans (.fecScript ..)

theorem FecWorks.of_laneOnly (n : Nat) (h : LaneOnly s t) : FecWorks n s t :=
  ⟨by rw [h.fec]; exact .refl _, .of_laneOnly n h⟩

end works

/-! ### A status byte (rules R189, R198) -/

/-- A front-end with the status byte noted. -/
def Fec.noted (x : Fec) (b : BitVec 8) (after : Bool) (el : Nat) : Fec :=
  { x with
    lock := b.getLsbD 2, injOn := b.getLsbD 4
    lockEl := if x.st = .lockwait ∧ after ∧ b.getLsbD 2 ∧ x.lockEl.isNone then some el else x.lockEl }

/-- The status byte noted, and the injection suspended where it says that LOCK is clear or SAFE set. -/
def State.noteStatus (s : State) (n : Nat) (b : BitVec 8) (after : Bool) : State :=
  let s1 := s.modFec n fun x => x.noted b after s.el
  if !b.getLsbD 2 || b.getLsbD 5 then s1.suspendInj n else s1

section status

variable (s : State) (n : Nat) (b : BitVec 8) (after : Bool)

theorem State.noteStatus_laneOnly : LaneOnly (s.modFec n fun x => x.noted b after s.el) (s.noteStatus n b after) := by
  unfold State.noteStatus
  dsimp only
  split
  · exact .suspendInj ..
  · exact .refl _

theorem State.fec_noteStatus : (s.noteStatus n b after).fec n = (s.fec n).noted b after s.el :=
  ((s.noteStatus_laneOnly n b after).fec n).trans (State.fec_modFec_same ..)

theorem State.fecStatus_eq : s.fecStatus n b after =
    if (s.fec n).st = .ready ∧ b.getLsbD 2 = false then ((s.noteStatus n b after).raise (fecPage n) 17).fecTo n .lockwait
    else if (s.fec n).st = .ready ∧ b.getLsbD 5 = true then ((s.noteStatus n b after).raise (fecPage n) 20).fecPowerup n
    else (s.noteStatus n b after).fecLocked n := rfl

/-- Whatever the status says, the front-end works on from it. -/
theorem State.fecStatus_works : FecWorks n (s.modFec n fun x => x.noted b after s.el) (s.fecStatus n b after) := by
  refine (FecWorks.of_laneOnly n (s.noteStatus_laneOnly n b after)).trans ?_
  rw [State.fecStatus_eq]
  split_ifs
  · exact (FecWorks.raise ..).trans (.fecTo _ up_lockwait)
  · exact (FecWorks.raise ..).trans (.fecPowerup ..)
  · exact .fecLocked ..

variable {s n b after}

/-- A front-end in READY whose LOCK is clear loses the lock. -/
theorem State.fecStatus_lost (hst : (s.fec n).st = .ready) (hb : b.getLsbD 2 = false) : let t := s.fecStatus n b after
    t.fec n = { (s.fec n).noted b after s.el with st := .lockwait, el := (s.noteStatus n b after).el } ∧
      (t.reg (fecPage n) 0x014).getLsbD 17 = true := by
  intro t
  have ht : t = ((s.noteStatus n b after).raise (fecPage n) 17).fecTo n .lockwait := (s.fecStatus_eq n b after).trans (if_pos ⟨hst, hb⟩)
  rw [ht]
  refine ⟨?_, (PageStands.fecTo ..).event 17 (State.irq_raise_same _ _ (by decide))⟩
  rw [State.fec_fecTo_same, State.fec_raise, State.fec_noteStatus, State.raise_el]

/-- A front-end in READY in its safe state starts again. -/
theorem State.fecStatus_safe (hst : (s.fec n).st = .ready) (hl : b.getLsbD 2 = true) (hb : b.getLsbD 5 = true) :
    let t := s.fecStatus n b after
    (t.fec n).st = .powerup ∧ (t.fec n).scriptPos = 0 ∧ (t.reg (fecPage n) 0x014).getLsbD 20 = true := by
  intro t
  have ht : t = ((s.noteStatus n b after).raise (fecPage n) 20).fecPowerup n := by
    refine (s.fecStatus_eq n b after).trans ((if_neg fun h => ?_).trans (if_pos ⟨hst, hb⟩))
    exact Bool.noConfusion (h.2.symm.trans hl)
  rw [ht]
  refine ⟨?_, ?_, (FecWorks.fecPowerup ..).page.event 20 (State.irq_raise_same _ _ (by decide))⟩ <;>
  · unfold State.fecPowerup State.fecScript
    dsimp only
    split
    · simp
    · simp [Fec.queued]

/-- A front-end in READY that is locked and not in its safe state stays as it is. -/
theorem State.fecStatus_steady (hst : (s.fec n).st = .ready) (hl : b.getLsbD 2 = true) (hb : b.getLsbD 5 = false) :
    (s.fecStatus n b after).fec n = (s.fec n).noted b after s.el := by
  have hnot : ((s.noteStatus n b after).fecLocked n) = s.noteStatus n b after := by
    unfold State.fecLocked
    rw [State.fec_noteStatus]
    simp [Fec.noted, hst]
  rw [State.fecStatus_eq, if_neg (fun h => Bool.noConfusion (h.2.symm.trans hl)),
    if_neg (fun h => Bool.noConfusion (h.2.symm.trans hb)), hnot, State.fec_noteStatus]

end status

end Sys2Proof.Machine

namespace Sys2Proof.Machine

/-! ### A front-end's fault (rules R190, R192, R198, R202) -/

/-- A free capture register takes the code of the error (rule R82). -/
theorem State.errCode_capErr {s : State} {p code : Nat} (hc : code < 256) (h : s.rf p 0x020 31 31 = 0) :
    (s.capErr p code 0).rf p 0x020 7 0 = code := by
  have hraise : ∀ (u : State) (bit : Nat), (u.raise p bit).reg p 0x020 = u.reg p 0x020 := fun u bit => by
    rw [State.reg_cell, State.cell_raise, if_neg (addr_event_ne (by decide) (by decide)).symm, State.reg_cell]
  have hcnt : (s.countErr p).reg p 0x020 = s.reg p 0x020 := by
    have hcount : (s.count p 0x024).reg p 0x020 = s.reg p 0x020 := State.reg_setReg_other (by decide) (by decide) (by decide)
    unfold State.countErr
    dsimp only
    split
    · rw [hraise, hcount]
    · exact hcount
  have hfree : ¬ fld ((s.countErr p).reg p 0x020) 31 31 = 1 := by
    rw [hcnt]
    exact fun h1 => absurd (h1.symm.trans h) (by decide)
  rw [State.capErr, if_neg hfree, State.rf, hraise, State.reg_setReg_same, fld, BitVec.toNat_ofNat, Nat.shiftRight_zero]
  omega

theorem getLsbD_capErr_of {s : State} {p q code off b : Nat} (h : (s.reg q 0x014).getLsbD b = true) :
    ((s.capErr p code off).reg q 0x014).getLsbD b = true := by
  have hset : ∀ (u : State) (o : Nat) (v : Word), o < 0x1000 → o ≠ 0x014 → (u.setReg p o v).reg q 0x014 = u.reg q 0x014 :=
    fun u o v ho hne => by rw [State.reg_cell, State.cell_setReg, if_neg (addr_event_ne ho hne), State.reg_cell]
  have hcnt : ((s.countErr p).reg q 0x014).getLsbD b = true := by
    have hcount : ((s.count p 0x024).reg q 0x014).getLsbD b = true := by
      rw [State.count, hset _ _ _ (by decide) (by decide)]
      exact h
    unfold State.countErr
    dsimp only
    split
    · exact State.getLsbD_raise_of _ _ hcount
    · exact hcount
  unfold State.capErr
  dsimp only
  split
  · exact hcnt
  · refine State.getLsbD_raise_of (a := addr q 0x014) _ _ ?_
    rw [← State.reg_cell, hset _ _ _ (by decide) (by decide)]
    exact hcnt

/-- The requests that a fault leaves on a link. -/
def Fec.faultQ (x : Fec) : List UflReq :=
  (if x.wait && !(x.q.take 1).any UflReq.stays then [] else x.q.take 1) ++ (x.q.drop 1).filter UflReq.stays

/-- The error captured, with the requests behind the one on the wire that stay. -/
def State.faulty (s : State) (n code : Nat) : State :=
  (s.capErr (fecPage n) code 0).modFec n fun x => { x with q := x.q.take 1 ++ (x.q.drop 1).filter UflReq.stays }

/-- The request on the wire goes too, where it waits for its retry and does not stay. -/
def State.faultLink (s : State) (n code : Nat) : State :=
  if (s.fec n).wait && !((s.fec n).q.take 1).any UflReq.stays then (s.faulty n code).uflNext n else s.faulty n code

theorem State.fecFault_eq (s : State) (n code : Nat) : s.fecFault n code = (s.faultLink n code).fecTo n .fault := rfl

theorem State.faultLink_regs (s : State) (n code : Nat) : (s.faultLink n code).regs = (s.capErr (fecPage n) code 0).regs := by
  unfold State.faultLink
  split
  · exact (LinkOnly.uflNext ..).regs
  · rfl

theorem State.faultLink_q (s : State) (n code : Nat) : ((s.faultLink n code).fec n).q = (s.fec n).faultQ := by
  have hq : ((s.faulty n code).fec n).q = (s.fec n).q.take 1 ++ ((s.fec n).q.drop 1).filter UflReq.stays := by
    rw [State.faulty, State.fec_modFec_same, State.fec_capErr]
  unfold State.faultLink Fec.faultQ
  split
  · rw [State.fec_uflNext_same, hq]
    cases (s.fec n).q <;> rfl
  · exact hq

/-- A front-end's fault: its state, what stays on the link, its code, and the events that stood. -/
theorem State.fecFault_spec (s : State) (n : Nat) {code : Nat} (hc : code < 256) : let t := s.fecFault n code
    (t.fec n).st = .fault ∧ (t.fec n).q = (s.fec n).faultQ ∧
      (s.rf (fecPage n) 0x020 31 31 = 0 → t.rf (fecPage n) 0x020 7 0 = code) ∧
      ∀ b, (s.reg (fecPage n) 0x014).getLsbD b = true → (t.reg (fecPage n) 0x014).getLsbD b = true := by
  have hpage := (PageStands.of_regs n (s.faultLink_regs n code)).trans (.fecTo n (s.faultLink n code) .fault)
  rw [State.fecFault_eq]
  refine ⟨?_, ?_, fun h => ?_, fun b hb => hpage.event b (getLsbD_capErr_of hb)⟩
  · rw [State.fec_fecTo_same]
  · rw [State.fec_fecTo_same, State.faultLink_q]
  · rw [State.rf, hpage.reg _ (by decide) (by decide)]
    exact State.errCode_capErr hc h

/-! ### A transaction ends (rules R187 to R190, R198) -/

/-- A response can be read: its CRC holds, and a front-end answered. -/
def answered (resp : List Byte) : Bool := respCrc resp && resp.headD 0xFF != 0xFF

/-- A response accepts its request. -/
def UflReq.accepted (r : UflReq) (resp : List Byte) : Bool :=
  answered resp && !(resp.headD 0xFF).getLsbD 1 && resp.length == r.respLen + 2

theorem answered_iff {resp : List Byte} : answered resp = true ↔
    2 ≤ resp.length ∧ (resp.getLastD 0).toNat = crc8 resp.dropLast ∧ resp.headD 0xFF ≠ 0xFF := by
  simp [answered, respCrc, and_assoc]

theorem UflReq.accepted_iff {r : UflReq} {resp : List Byte} : r.accepted resp = true ↔
    (2 ≤ resp.length ∧ (resp.getLastD 0).toNat = crc8 resp.dropLast ∧ resp.headD 0xFF ≠ 0xFF) ∧
      (resp.headD 0xFF).getLsbD 1 = false ∧ resp.length = r.respLen + 2 := by
  simp only [UflReq.accepted, Bool.and_eq_true, answered_iff, Bool.not_eq_true', beq_iff_eq, and_assoc]

/-- The status byte of a response was sent after the last TUNE. -/
def afterTune (r : UflReq) (rest : List UflReq) : Bool := r.tag != .tune && !(rest.any fun q => q.tag == .tune)

section transaction

variable {link : Fin 8} {s : State} {dt : Nat} {r : UflReq} {rest : List UflReq} {resp : List Byte}
  (hr : (s.after dt).inReset = false) (hq : ((s.after dt).fec link.val).q = r :: rest) (hw : ((s.after dt).fec link.val).wait = false)

include hr hq hw

/-- A response that does not accept its request. -/
theorem exec_transaction_refused (hbad : r.accepted resp = false) : let n := link.val
    let u := s.after dt
    let v := if answered resp then u.fecStatus n (resp.headD 0xFF) (afterTune r rest) else u
    exec (.transaction link dt resp) s = .next (if 3 ≤ (u.fec n).tries then v.uflFailed n r
      else v.modFec n fun y => { y with wait := true, waitEl := u.el }) := by
  have hno : (!answered resp || (resp.headD 0xFF).getLsbD 1 || resp.length != r.respLen + 2) = true := by
    rw [UflReq.accepted] at hbad
    revert hbad
    cases answered resp <;> cases (resp.headD 0xFF).getLsbD 1 <;> simp
  show execTransaction link dt resp s = _
  unfold execTransaction
  simp only [hr, hw, hq, Bool.or_self, Bool.false_eq_true, if_false]
  exact congrArg _ (if_pos hno)

/-- A response that accepts its request. -/
theorem exec_transaction_accepted (hgood : r.accepted resp = true) : let n := link.val
    let u := s.after dt
    exec (.transaction link dt resp) s = .next
      ((((u.goodGap n).uflNext n).uflDone n r (resp.drop 1).dropLast).fecStatus n (resp.headD 0xFF) (afterTune r rest)) := by
  have hno : ¬ (!answered resp || (resp.headD 0xFF).getLsbD 1 || resp.length != r.respLen + 2) = true := by
    rw [UflReq.accepted] at hgood
    revert hgood
    cases answered resp <;> cases (resp.headD 0xFF).getLsbD 1 <;> simp
  show execTransaction link dt resp s = _
  unfold execTransaction
  simp only [hr, hw, hq, Bool.or_self, Bool.false_eq_true, if_false]
  exact congrArg _ (if_neg hno)

end transaction

/-- A request of a front-end that is up has failed for good: the link is in FAULT. -/
theorem State.uflFailed_spec {s : State} {n : Nat} {r : UflReq} (hup : (s.fec n).st.up) (hw : (s.fec n).wait = false)
    {rest : List UflReq} (hq : (s.fec n).q = r :: rest) : let t := s.uflFailed n r
    (t.fec n).st = .fault ∧ (t.fec n).q = rest.filter UflReq.stays ∧ (t.reg (fecPage n) 0x014).getLsbD 19 = true ∧
      (s.rf (fecPage n) 0x020 31 31 = 0 → t.rf (fecPage n) 0x020 7 0 = 0x40) := by
  obtain ⟨v, hpage, hvw, hvq, ht⟩ : ∃ v : State, PageStands n (s.raise (fecPage n) 19) v ∧ (v.fec n).wait = false ∧
      (v.fec n).q = r :: rest ∧
      s.uflFailed n r = (v.fecFault n 0x40).uflNext n := by
    refine ⟨if r.tag = .raw then (s.raise (fecPage n) 19).rawEnd n true else s.raise (fecPage n) 19, ?_, ?_, ?_, ?_⟩
    · split
      · exact (PageStands.of_regs n (State.regs_modFec ..)).trans (.raise ..)
      · exact .refl ..
    · split <;> simpa [State.rawEnd] using hw
    · split <;> simpa [State.rawEnd] using hq
    · unfold State.uflFailed
      rcases hup with h | h | h | h <;> rw [h]
  obtain ⟨hst, hfq, hcode, hev⟩ := v.fecFault_spec n (code := 0x40) (by decide)
  have hnext := PageStands.of_regs n (LinkOnly.uflNext (v.fecFault n 0x40) n).regs
  intro t
  rw [show t = _ from ht]
  refine ⟨by rw [State.fec_uflNext_same, hst], ?_, ?_, fun h => ?_⟩
  · rw [State.fec_uflNext_same, hfq, Fec.faultQ, hvw, hvq]
    rfl
  · exact hnext.event 19 (hev 19 (hpage.event 19 (State.irq_raise_same _ _ (by decide))))
  · rw [State.rf, hnext.reg _ (by decide) (by decide)]
    refine hcode ?_
    rw [State.rf, ((PageStands.raise n s 19).trans hpage).reg _ (by decide) (by decide)]
    exact h

theorem State.uflDone_keepalive {s : State} {r : UflReq} (h : r.tag = .keepalive) (n : Nat) (d : List Byte) : s.uflDone n r d = s := by
  unfold State.uflDone
  dsimp only
  rw [h]
  exact ite_self s

end Sys2Proof.Machine

namespace Sys2Proof.Machine

/-- A request that fails for good after the front-end's own work on a status. -/
theorem FecWorks.uflFailed_spec {w v : State} {n : Nat} {r : UflReq} {rest : List UflReq} (h : FecWorks n w v)
    (hup : (w.fec n).st.up) (hw : (w.fec n).wait = false) (hq : (w.fec n).q = r :: rest) : let t := v.uflFailed n r
    (t.fec n).st = .fault ∧ (t.fec n).q = rest.filter UflReq.stays ∧ (t.reg (fecPage n) 0x014).getLsbD 19 = true ∧
      (w.rf (fecPage n) 0x020 31 31 = 0 → t.rf (fecPage n) 0x020 7 0 = 0x40) := by
  obtain ⟨l, hl, hstays⟩ := h.fec.q
  have hvq : (v.fec n).q = r :: (rest ++ l) := by rw [hl, hq, List.cons_append]
  obtain ⟨-, hvw⟩ := h.fec.busy (by rw [hq]; exact List.cons_ne_nil _ _)
  obtain ⟨hst, htq, hev, hcode⟩ := State.uflFailed_spec (h.fec.up hup) (hvw.trans hw) hvq
  refine ⟨hst, by rw [htq, List.filter_append, hstays, List.append_nil], hev, fun h0 => hcode ?_⟩
  rwa [State.rf, h.page.reg _ (by decide) (by decide)]

section transaction

variable {link : Fin 8} {s : State} {dt : Nat} {r : UflReq} {rest : List UflReq} {resp : List Byte}
  (hr : (s.after dt).inReset = false) (hq : ((s.after dt).fec link.val).q = r :: rest) (hw : ((s.after dt).fec link.val).wait = false)

include hr hq hw

/-- No answer, with retries left. -/
theorem exec_transaction_silent (ht : ((s.after dt).fec link.val).tries < 3) (hno : answered resp = false) :
    exec (.transaction link dt resp) s =
      .next ((s.after dt).modFec link.val fun y => { y with wait := true, waitEl := (s.after dt).el }) := by
  have hbad : r.accepted resp = false := by simp [UflReq.accepted, hno]
  rw [exec_transaction_refused hr hq hw hbad, if_neg (Nat.not_le.2 ht), hno, if_neg Bool.false_ne_true]

/-- A refusal that can be read, with retries left: its status counts. -/
theorem exec_transaction_refusal (ht : ((s.after dt).fec link.val).tries < 3) (hread : answered resp = true)
    (hbad : r.accepted resp = false) : let n := link.val
    let u := s.after dt
    let st := resp.headD 0xFF
    ∃ t, exec (.transaction link dt resp) s = .next t ∧ (t.fec n).wait = true ∧ (t.fec n).waitEl = u.el ∧
      (t.fec n).tries = (u.fec n).tries ∧ (t.fec n).q.head? = some r ∧
      (t.fec n).lock = st.getLsbD 2 ∧ (t.fec n).injOn = st.getLsbD 4 ∧
      ((u.fec n).st = .ready → st.getLsbD 2 = false → (t.fec n).st = .lockwait ∧ (t.reg (fecPage n) 0x014).getLsbD 17 = true) := by
  intro n u st
  have hworks := (u.fecStatus_works n st (afterTune r rest)).fec
  rw [State.fec_modFec_same] at hworks
  obtain ⟨l, hl, -⟩ := hworks.q
  obtain ⟨htries, -⟩ := hworks.busy (by simp [Fec.noted, u, n, hq])
  refine ⟨_, exec_transaction_refused hr hq hw hbad, ?_⟩
  rw [if_neg (Nat.not_le.2 ht), hread, if_pos rfl, State.fec_modFec_same]
  refine ⟨rfl, rfl, htries, ?_, hworks.lock, hworks.injOn, fun hst hlock => ?_⟩
  · show (List.head? ((u.fecStatus n st (afterTune r rest)).fec n).q) = some r
    rw [hl]
    simp [Fec.noted, u, n, hq]
  · obtain ⟨hfec, hev⟩ := State.fecStatus_lost (n := n) (after := afterTune r rest) hst hlock
    exact ⟨congrArg Fec.st hfec, hev⟩

/-- The third retry fails. -/
theorem exec_transaction_fails (ht : 3 ≤ ((s.after dt).fec link.val).tries) (hbad : r.accepted resp = false)
    (hup : ((s.after dt).fec link.val).st.up) : let n := link.val
    let u := s.after dt
    ∃ t, exec (.transaction link dt resp) s = .next t ∧ (t.fec n).st = .fault ∧ (t.fec n).q = rest.filter UflReq.stays ∧
      (t.reg (fecPage n) 0x014).getLsbD 19 = true ∧ (u.rf (fecPage n) 0x020 31 31 = 0 → t.rf (fecPage n) 0x020 7 0 = 0x40) := by
  intro n u
  refine ⟨_, exec_transaction_refused hr hq hw hbad, ?_⟩
  rw [if_pos ht]
  split
  · refine (u.fecStatus_works n (resp.headD 0xFF) (afterTune r rest)).uflFailed_spec ?_ ?_ ?_ <;> rw [State.fec_modFec_same]
    · exact hup
    · exact hw
    · exact hq
  · exact (FecWorks.refl n u).uflFailed_spec hup hw hq

/-- A keep-alive's good answer in READY, by the status byte. -/
theorem exec_transaction_keepalive (hgood : r.accepted resp = true) (htag : r.tag = .keepalive)
    (hst : ((s.after dt).fec link.val).st = .ready) : let n := link.val
    let u := s.after dt
    let st := resp.headD 0xFF
    ∃ t, exec (.transaction link dt resp) s = .next t ∧
      (st.getLsbD 2 = true → st.getLsbD 5 = false → (t.fec n).q = rest ∧ (t.fec n).st = .ready ∧ (t.fec n).lock = true ∧
        (t.fec n).goodEl = some u.el ∧ (t.fec n).tries = 0) ∧
      (st.getLsbD 2 = false → (t.fec n).st = .lockwait ∧ (t.fec n).lock = false ∧ (t.fec n).lockEl = (u.fec n).lockEl ∧
        (t.reg (fecPage n) 0x014).getLsbD 17 = true) ∧
      (st.getLsbD 2 = true → st.getLsbD 5 = true → (t.fec n).st = .powerup ∧ (t.fec n).scriptPos = 0 ∧
        (t.reg (fecPage n) 0x014).getLsbD 20 = true) := by
  intro n u st
  let v : State := (u.goodGap n).uflNext n
  have hv : v.fec n = { u.fec n with
      goodEl := some u.el,
      maxGap := max (u.fec n).maxGap (match (u.fec n).goodEl with | some e => min 0xFFFF ((u.el - e) / usUnits 10) | none => 0),
      q := rest, tries := 0, wait := false } := by
    rw [State.fec_uflNext_same, State.goodGap, State.fec_modFec_same]
    simp only [show (u.fec n).q = r :: rest from hq, List.tail_cons] <;> rfl
  have hvst : (v.fec n).st = .ready := by rw [hv]; exact hst
  refine ⟨_, exec_transaction_accepted hr hq hw hgood, ?_⟩
  rw [State.uflDone_keepalive htag]
  refine ⟨fun hl hs => ?_, fun hl => ?_, fun hl hs => ?_⟩
  · rw [show ((v.fecStatus n st (afterTune r rest)).fec n) = _ from State.fecStatus_steady hvst hl hs, hv]
    exact ⟨rfl, hst, hl, rfl, rfl⟩
  · obtain ⟨hfec, hev⟩ := State.fecStatus_lost (after := afterTune r rest) hvst hl
    rw [show ((v.fecStatus n st (afterTune r rest)).fec n) = _ from hfec, hv]
    exact ⟨rfl, hl, if_neg fun h => absurd (hst.symm.trans h.1) (by decide), hev⟩
  · exact State.fecStatus_safe hvst hl hs

end transaction

/-! ### Retries, keep-alives, DISCOVER, the script, polls and the lock (rules R190, R192, R198) -/

section link

variable {link : Fin 8} {s : State} {dt : Nat} (hr : (s.after dt).inReset = false)

include hr

/-- A request goes out again. -/
theorem exec_retry {r : UflReq} {rest : List UflReq} (hq : ((s.after dt).fec link.val).q = r :: rest)
    (hw : ((s.after dt).fec link.val).wait = true) (hdue : ((s.after dt).fec link.val).waitEl + ofNs 1000 ≤ (s.after dt).el) :
    let n := link.val
    let u := s.after dt
    ∃ t, exec (.retry link dt) s = .next t ∧ t.fec n = { u.fec n with wait := false, tries := (u.fec n).tries + 1 } ∧
      t.reg (fecPage n) 0x06C = cntUp (u.reg (fecPage n) 0x06C) ∧
      t.outbox = .ufl n (r.bytes (if r.tag = .discover then 1 else (u.fec n).ver)) :: u.outbox ∧
      RegsKept [addr (fecPage n) 0x06C] u t := by
  intro n u
  let v : State := (u.modFec n fun x => { x with wait := false, tries := x.tries + 1 }).count (fecPage n) 0x06C
  have hv : v.fec n = { u.fec n with wait := false, tries := (u.fec n).tries + 1 } :=
    (State.fec_of_fecs (State.setReg_fecs ..) n).trans (State.fec_modFec_same ..)
  have hgo : v.uflGo n = v.emit (.ufl n (r.bytes (if r.tag = .discover then 1 else (u.fec n).ver))) := by
    unfold State.uflGo
    rw [hv]
    simp only [show (u.fec n).q = r :: rest from hq]
  have hlt : decide ((s.after dt).el < ((s.after dt).fec link.val).waitEl + usUnits 1) = false := decide_eq_false (Nat.not_lt.2 hdue)
  have hexec : exec (.retry link dt) s = .next (v.uflGo n) := by
    show execRetry link dt s = _
    unfold execRetry
    simp only [hr, hw, hlt, Bool.not_true, Bool.or_self, Bool.false_eq_true, if_false]
    rfl
  refine ⟨_, hexec, ?_⟩
  rw [hgo]
  refine ⟨hv, (State.cell_emit ..).trans (State.reg_setReg_same ..), rfl, fun a ha => ?_⟩
  exact (State.cell_emit ..).trans ((State.cell_count ..).trans (if_neg fun h => ha (List.mem_singleton.2 h)))

/-- DISCOVER is sent again. -/
theorem exec_discoverRetry (hst : ((s.after dt).fec link.val).st = .discover)
    (hno : ∀ r ∈ ((s.after dt).fec link.val).q, r.tag ≠ .discover)
    (hdue : ((s.after dt).fec link.val).el + ofNs 100000000 ≤ (s.after dt).el) :
    exec (.discoverRetry link dt) s = .next (((s.after dt).modFec link.val fun x => { x with el := (s.after dt).el }).uflSend link.val
      { tag := .discover, op := 0xF, adr := 0 }) := by
  have hnone : (((s.after dt).fec link.val).q.any fun r => r.tag == .discover) = false := by simpa using hno
  show execDiscoverRetry link dt s = _
  unfold execDiscoverRetry
  simp only [hr, hst, hnone, decide_eq_false (Nat.not_lt.2 hdue), bne_self_eq_false, Bool.or_self, Bool.false_eq_true, if_false]

/-- The time that a script entry waits, in µs, with T_POWERUP_US after the last one. -/
def Fec.scriptUs (x : Fec) : Nat :=
  (if x.scriptN = 0 then 0 else 10 * bytesNum x.table (0x33 + 4 * x.scriptPos) 1) +
    if x.scriptN ≤ x.scriptPos + 1 then bytesNum x.table 0x12 2 else 0

/-- The wait of a script entry ends. -/
theorem exec_scriptWait (hst : ((s.after dt).fec link.val).st = .powerup)
    (hno : ∀ r ∈ ((s.after dt).fec link.val).q, r.tag ≠ .script ((s.after dt).fec link.val).scriptPos)
    (hdue : ((s.after dt).fec link.val).el + ofNs (1000 * ((s.after dt).fec link.val).scriptUs) ≤ (s.after dt).el) :
    exec (.scriptWait link dt) s = .next
      (if ((s.after dt).fec link.val).scriptN ≤ ((s.after dt).fec link.val).scriptPos + 1 then (s.after dt).fecTune link.val
      else (s.after dt).fecScript link.val (((s.after dt).fec link.val).scriptPos + 1)) := by
  have hnone : (((s.after dt).fec link.val).q.any fun r => r.tag == .script ((s.after dt).fec link.val).scriptPos) = false := by
    simpa using hno
  have hlt := decide_eq_false (Nat.not_lt.2 hdue)
  unfold Fec.scriptUs at hlt
  show execScriptWait link dt s = _
  unfold execScriptWait
  simp only [hr, hst, hnone, bne_self_eq_false, Bool.or_self, usUnits, decide_eq_true_eq, hlt, ge_iff_le,
    Bool.false_eq_true, if_false]

/-- The lock has not come in time. -/
theorem exec_lockFail (hst : ((s.after dt).fec link.val).st = .lockwait)
    (hno : ((s.after dt).fec link.val).lockEl = none ∨ ((s.after dt).fec link.val).lock = false)
    (hdue : ((s.after dt).fec link.val).el + ofNs (1000 * bytesNum ((s.after dt).fec link.val).table 0x14 2) ≤ (s.after dt).el) :
    exec (.lockFail link dt) s = .next ((s.after dt).fecFault link.val 0x45) := by
  have hlock : (((s.after dt).fec link.val).lock && ((s.after dt).fec link.val).lockEl.isSome) = false := by
    rcases hno with h | h <;> simp [h]
  have hlt : decide ((s.after dt).el < ((s.after dt).fec link.val).el +
      usUnits (bytesNum ((s.after dt).fec link.val).table 0x14 2)) = false := decide_eq_false (Nat.not_lt.2 hdue)
  show execLockFail link dt s = _
  unfold execLockFail
  simp only [hr, hst, hlock, hlt, bne_self_eq_false, Bool.or_self, Bool.false_eq_true, if_false]

/-- The status is polled. -/
theorem exec_status (hst : ((s.after dt).fec link.val).st = .lockwait)
    (hdue : ((s.after dt).fec link.val).pollEl + ofNs 10000 ≤ (s.after dt).el) :
    exec (.status link dt) s = .next (((s.after dt).modFec link.val fun x => { x with pollEl := (s.after dt).el }).uflSend link.val
      { tag := .status, op := 3, adr := 0 }) := by
  have hlt : decide ((s.after dt).el < ((s.after dt).fec link.val).pollEl + usUnits 10) = false := decide_eq_false (Nat.not_lt.2 hdue)
  show execStatus link dt s = _
  unfold execStatus
  simp only [hr, hst, hlt, bne_self_eq_false, Bool.or_self, Bool.false_eq_true, if_false]

end link

/-- A keep-alive goes out. -/
theorem exec_keepalive {link : Fin 8} {s : State} (hr : s.inReset = false) (hst : (s.fec link.val).st ≠ .off)
    (hheat : s.heat % 10 = 0) (hnew : (s.fec link.val).kaHeat ≠ some s.heat) :
    exec (.keepalive link) s = .next ((s.modFec link.val fun x => { x with kaHeat := some s.heat }).uflSend link.val
      { tag := .keepalive, op := 4, adr := 0 }) := by
  show execKeepalive link s = _
  unfold execKeepalive
  simp only [hr, hheat, beq_eq_false_iff_ne.2 hst, beq_eq_false_iff_ne.2 hnew, bne_self_eq_false, Bool.or_self,
    Bool.false_eq_true, if_false]

/-- TUNE after the script. -/
theorem State.fec_fecTune (s : State) (n : Nat) : (s.fecTune n).fec n =
    ({ s.fec n with entry := s.rf (fecPage n) 0x048 5 0, lockEl := none, haveTune := false, st := .lockwait, el := s.el } : Fec).queued
      { tag := .tune, op := 5, adr := s.rf (fecPage n) 0x048 5 0 } := by
  unfold State.fecTune
  rw [State.fec_uflSend_same, State.fec_fecTo_same, State.fec_modFec_same]
  rfl

/-- The next entry of the script. -/
theorem State.fec_fecScript {s : State} {n i : Nat} (h : i < (s.fec n).scriptN) : (s.fecScript n i).fec n =
    ({ s.fec n with scriptPos := i, el := s.el } : Fec).queued
      { tag := .script i, op := 2, adr := bytesNum (s.fec n).table (0x30 + 4 * i) 2, data := [(s.fec n).table.getD (0x32 + 4 * i) 0] } := by
  unfold State.fecScript
  dsimp only
  rw [if_neg (Nat.not_le.2 h), State.fec_uflSend_same, State.fec_modFec_same]

/-- Settles O46: a transaction by its response, then each timed event of the link. -/
theorem frontEndLink : Obligations.FrontEndLink := by
  intro link s dt n p u x queued stays hr
  refine ⟨fun r rest hq hw resp => ?_, fun r rest hq hw hdue => exec_retry hr hq hw hdue, fun hr hst hheat hnew => ?_,
    fun hst hno hdue => ?_, fun hst hno => ⟨fun hlast hdue => ?_, fun hmore hdue => ?_⟩,
    fun hst => ⟨fun hdue => ?_, fun hno hdue => ?_⟩⟩
  · intro st read good
    have hread : answered resp = true ↔ read := answered_iff
    have hgood : r.accepted resp = true ↔ good := UflReq.accepted_iff
    have hbad : ¬ good → r.accepted resp = false := fun h => Bool.eq_false_of_not_eq_true (h ∘ hgood.1)
    refine ⟨fun ht => ⟨fun h => ?_, fun h1 h2 => ?_⟩, fun h ht hup => ?_, fun h htag hst => ?_⟩
    · exact ends_of_exec (exec_transaction_silent hr hq hw ht (Bool.eq_false_of_not_eq_true (h ∘ hread.1)))
    · exact exec_transaction_refusal hr hq hw ht (hread.2 h1) (hbad h2)
    · exact exec_transaction_fails hr hq hw ht (hbad h) hup
    · obtain ⟨t, hexec, hsteady, hlost, hsafe⟩ := exec_transaction_keepalive hr hq hw (hgood.2 h) htag hst
      exact ⟨fun hl hs => ⟨t, hexec, hsteady hl hs⟩, fun hl => ⟨t, hexec, hlost hl⟩, fun hl hs => ⟨t, hexec, hsafe hl hs⟩⟩
  · refine ⟨_, exec_keepalive hr hst hheat hnew, ?_, ?_, (LinkOnly.uflSend ..).regs⟩ <;>
      rw [State.fec_uflSend_same, State.fec_modFec_same] <;> rfl
  · refine ⟨_, exec_discoverRetry hr hst hno hdue, ?_, ?_⟩
    · show (State.fec _ n).q = _
      rw [State.fec_uflSend_same, State.fec_modFec_same]
      rfl
    · rw [State.fec_uflSend_same, State.fec_modFec_same]
      rfl
  · have hexec := exec_scriptWait hr hst hno (by rwa [Fec.scriptUs, if_pos hlast])
    rw [if_pos hlast] at hexec
    refine ⟨_, hexec, ?_, ?_, ?_, ?_⟩
    · rw [State.fec_fecTune]; rfl
    · rw [State.fec_fecTune]; rfl
    · rw [State.fec_fecTune]; rfl
    · show (State.fec _ n).q = _
      rw [State.fec_fecTune]; rfl
  · have hexec := exec_scriptWait hr hst hno (by rwa [Fec.scriptUs, if_neg (Nat.not_le.2 hmore)])
    rw [if_neg (Nat.not_le.2 hmore)] at hexec
    refine ⟨_, hexec, ?_, ?_, ?_⟩
    · rw [State.fec_fecScript hmore]; exact hst
    · rw [State.fec_fecScript hmore]; rfl
    · show (State.fec _ n).q = _
      rw [State.fec_fecScript hmore]; rfl
  · refine ⟨_, exec_status hr hst hdue, ?_, ?_, (LinkOnly.uflSend ..).regs⟩
    · show (State.fec _ n).q = _
      rw [State.fec_uflSend_same, State.fec_modFec_same]
      rfl
    · rw [State.fec_uflSend_same, State.fec_modFec_same]
      rfl
  · obtain ⟨hfault, hq, hcode, -⟩ := u.fecFault_spec n (code := 0x45) (by decide)
    exact ⟨_, exec_lockFail hr hst hno hdue, hfault, hcode, hq⟩

end Sys2Proof.Machine

/-! ## Calibration, raw transactions, gain and notches (rules R200, R202, R208, R222, R227) -/

namespace Sys2Proof.Machine

/-! ### Writes of a front-end's page (rules R202, R208) -/

theorem pageType_fec : ∀ n : Fin 8, pageType (fecPage n) = some .fec := by decide

theorem fecPage_sub (n : Nat) : fecPage n - 0x020 = n := Nat.add_sub_cancel_left ..

/-- A bit that a register written with a further bit set takes, where that bit is another one. -/
theorem fld_or_apart (v : Word) {w : Word} {hi lo : Nat} (h : ∀ i, lo ≤ i → i ≤ hi → w.getLsbD i = false) :
    fld (v ||| w) hi lo = fld v hi lo :=
  fld_congr fun i hlo hhi => by rw [BitVec.getLsbD_or, h i hlo hhi, Bool.or_false]

/-- A field within the bits that are written takes the value written. -/
theorem fld_mix (v old : Word) {m : Word} {hi lo : Nat} (h : ∀ i, lo ≤ i → i ≤ hi → m.getLsbD i = true) :
    fld (mix m v old) hi lo = fld v hi lo :=
  fld_congr fun i hlo hhi => by
    rw [mix, BitVec.getLsbD_or, BitVec.getLsbD_and, BitVec.getLsbD_and, BitVec.getLsbD_not, h i hlo hhi]
    simp

theorem and_not_and_zero (x v : Word) : x &&& ~~~(v &&& 0) = x := by
  change x &&& ~~~(v &&& 0#32) = x
  rw [BitVec.and_zero, BitVec.not_zero, BitVec.and_allOnes]

section write

variable {s : State} {n : Fin 8} {off : Nat} {v : Word} {r : Reg} (h : s.hears (fecPage n)) (hk : s.locked (fecPage n) = false)
  (ho : 0x040 ≤ off ∧ off < 0x1000 ∧ off % 4 = 0) (hr : regAt (fecPage n) off = some r) (hv : ∀ f ∈ r.flds, f.ok v = true)

include h hk ho hr hv

/-- Where a write goes that only the front-end's own check can refuse. -/
theorem State.hostWrite_fec : s.hostWrite (addr (fecPage n) off) v true =
    match worst (violFec s (fecPage n) off v) with
    | some c => s.capErr (fecPage n) c off
    | none => takenFec (s.takeWrite r (fecPage n) off v) (fecPage n) off v := by
  obtain ⟨hlo, hlt, h4⟩ := ho
  have hpage : addr (fecPage n) off / 0x1000 = fecPage n := addr_div hlt
  have hoff : addr (fecPage n) off % 0x1000 / 4 * 4 = off := by unfold addr; omega
  have hp : fecPage n < 0x100 := h.1
  have hb1 : fecPage n ≠ 0x0B1 := by unfold fecPage; omega
  have h3 : fecPage n ≠ 0x003 := by unfold fecPage; omega
  have hwin : winViol s (fecPage n) off v = violFec s (fecPage n) off v := by
    simp [winViol, hb1, Nat.not_lt.2 hlo, pageType_fec]
  have hring : (fecPage n, off) ∉ ringCtls := by
    have hall : ∀ e ∈ ringCtls, pageType e.1 ≠ some .fec := by decide
    exact fun hm => hall _ hm (pageType_fec n)
  have hviol : regViol (s.locked (fecPage n)) r v ++ hooks.viol s (fecPage n) off v = violFec s (fecPage n) off v := by
    rw [hk, regViol_eq_nil hv]
    exact hwin
  rw [State.hostWrite_of_hears (by rwa [hpage])]
  split
  · next c hc =>
    rw [State.regWrite_refused hpage hp hoff hlo hr (hviol ▸ hc)]
    exact if_neg h3
  · next hc =>
    rw [State.regWrite_taken hpage hp hoff hlo hr (hviol ▸ hc)]
    show winTaken s (fecPage n) off v _ = _
    unfold winTaken
    rw [State.keepLoc_of_not_ring hring, pageType_fec]

end write

/-- CAL_CTL in its page's table. -/
def calCtlReg : Reg := ⟨0x050, 1, 4, 0xF00, [⟨0, 1, .wo, .any⟩, ⟨8, 8, .rw, .nat 1 100⟩]⟩

/-- RAW_CTL in its page's table. -/
def rawCtlReg : Reg :=
  ⟨0x070, 1, 4, 0x0, [⟨0, 16, .rw, .any⟩, ⟨16, 3, .rw, .nat 1 4⟩, ⟨19, 1, .rw, .any⟩, ⟨20, 1, .wo, .any⟩]⟩

theorem regAt_calCtl : ∀ n : Fin 8, regAt (fecPage n) 0x050 = some calCtlReg := by decide

theorem regAt_rawCtl : ∀ n : Fin 8, regAt (fecPage n) 0x070 = some rawCtlReg := by decide

/-- A register of RW and WO fields on a front-end's page, as a write leaves it. -/
theorem State.takeWrite_fec (s : State) (n : Nat) {r : Reg} (hc : r.mask .cnt = 0) (hs : r.mask .rws = 0) (h1 : r.mask .w1c = 0)
    (hn : n < 8) (off : Nat) (v : Word) :
    s.takeWrite r (fecPage n) off v = s.setReg (fecPage n) off (mix (r.mask .rw) v (s.reg (fecPage n) off)) := by
  rw [State.takeWrite_rw (s.slotOf_eq_addr off (by unfold fecPage; omega) (by unfold fecPage; omega)) hc hs, h1, and_not_and_zero]

/-! ### Calibrations start (rules R200, R208) -/

/-- A calibration that starts: its first step, from the next whole heat. -/
theorem State.calStart_spec (s : State) (n : Nat) (go : Bool) : let y := (s.calStart n go).fec n
    y.st = .calibrate ∧ y.calStep = (if (s.fec n).hasTone then 1 else 4) ∧ y.calHeat = s.wholeHeat := by
  unfold State.calStart
  dsimp only
  split
  · next ht =>
    rw [State.fec_uflSend_same, State.fec_fecTo_same, State.fec_modFec_same]
    exact ⟨rfl, if_pos ht, rfl⟩
  · next ht =>
    rw [State.fec_fecTo_same, State.fec_modFec_same]
    exact ⟨rfl, if_neg ht, rfl⟩

section calCtl

variable {s : State} {link : Fin 8} {v : Word} (h : s.hears (fecPage link)) (hk : s.locked (fecPage link) = false)
  (hlo : 1 ≤ fld v 15 8) (hhi : fld v 15 8 ≤ 100)

/-- CAL_CTL as written. -/
def State.calWritten (s : State) (n : Nat) (v : Word) : State :=
  s.setReg (fecPage n) 0x050 (mix (calCtlReg.mask .rw) (v ||| 1) (s.reg (fecPage n) 0x050))

theorem State.calWritten_win (s : State) (n : Nat) (v : Word) : (s.calWritten n v).rf (fecPage n) 0x050 15 8 = fld v 15 8 := by
  have hmask : ∀ i : Fin 16, 8 ≤ i.val → (calCtlReg.mask .rw).getLsbD i = true := by decide
  have hone : ∀ i : Fin 16, 8 ≤ i.val → (1 : Word).getLsbD i = false := by decide
  rw [State.rf, State.calWritten, State.reg_setReg_same, fld_mix _ _ fun i hi hi' => hmask ⟨i, by omega⟩ hi,
    fld_or_apart _ fun i hi hi' => hone ⟨i, by omega⟩ hi]

include h hk hlo hhi

/-- CAL_CTL.GO with a window in its range is taken. -/
theorem exec_calCtl : exec (.calCtl link v) s = .next (if s.injLive ∨ s.rl.st = .tail then
      (s.calWritten link v).modFec link fun x => { x with calQueued := true }
    else if (s.fec link).st = .ready then (s.calWritten link v).calStart link true else s.calWritten link v) := by
  have hone : ∀ i : Fin 16, 8 ≤ i.val → (1 : Word).getLsbD i = false := by decide
  have hwin : fld (v ||| 1) 15 8 = fld v 15 8 := fld_or_apart v fun i hi hi' => hone ⟨i, by omega⟩ hi
  have hok : ∀ f ∈ calCtlReg.flds, f.ok (v ||| 1) = true := by
    simp only [calCtlReg, List.mem_cons, List.not_mem_nil, or_false, forall_eq_or_imp, forall_eq]
    refine ⟨rfl, ?_⟩
    show decide (1 ≤ fld (v ||| 1) 15 8 ∧ fld (v ||| 1) 15 8 ≤ 100) = true
    rw [hwin]
    exact decide_eq_true ⟨hlo, hhi⟩
  have hviol : violFec s (fecPage link) 0x050 (v ||| 1) = [] := by simp [violFec]
  have hgo : (v ||| 1).getLsbD 0 = true := by simp
  show Host.Outcome.next (s.hostWrite (addr (fecPage link) 0x050) (v ||| 1) true) = _
  rw [State.hostWrite_fec h hk (by decide) (regAt_calCtl link) hok, hviol]
  show Host.Outcome.next (takenFec (s.takeWrite calCtlReg (fecPage link) 0x050 (v ||| 1)) (fecPage link) 0x050 (v ||| 1)) = _
  rw [State.takeWrite_fec s link (by decide) (by decide) (by decide) link.isLt]
  unfold takenFec
  rw [fecPage_sub]
  exact congrArg _ (if_pos ⟨rfl, hgo⟩)

end calCtl

end Sys2Proof.Machine

namespace Sys2Proof.Machine

/-! ### Raw transactions (rule R202) -/

/-- A raw request. -/
def rawReq (s : State) (n : Nat) (v : Word) : UflReq :=
  if v.getLsbD 19 then { tag := .raw, op := 2, adr := fld v 15 0, data := leBytes (fld v 18 16) (s.reg (fecPage n) 0x074).toNat }
  else { tag := .raw, op := 1, adr := fld v 15 0, rd := fld v 18 16 }

/-- The link is free for raw transactions, and a write is not of guarded bytes. -/
def State.takesRaw (s : State) (n : Nat) (v : Word) : Prop :=
  ((s.fec n).st = .ready ∨ (s.fec n).st = .fault) ∧ (v.getLsbD 19 = true → s.guarded n (fld v 15 0) (fld v 18 16) = false)

section rawCtl

variable {s : State} {link : Fin 8} {v : Word} (h : s.hears (fecPage link)) (hk : s.locked (fecPage link) = false)
  (hlo : 1 ≤ fld v 18 16) (hhi : fld v 18 16 ≤ 4)

theorem go_apart : ∀ i : Fin 20, (0x100000 : Word).getLsbD i = false := by decide

/-- The address, the length and the direction stand beside GO. -/
theorem raw_fields (v : Word) : fld (v ||| 0x100000) 15 0 = fld v 15 0 ∧ fld (v ||| 0x100000) 18 16 = fld v 18 16 ∧
    (v ||| 0x100000).getLsbD 19 = v.getLsbD 19 ∧ (v ||| 0x100000).getLsbD 20 = true := by
  refine ⟨fld_or_apart v fun i _ hi => go_apart ⟨i, by omega⟩, fld_or_apart v fun i _ hi => go_apart ⟨i, by omega⟩, ?_, ?_⟩
  · rw [BitVec.getLsbD_or, go_apart ⟨19, by omega⟩, Bool.or_false]
  · rw [BitVec.getLsbD_or]
    exact Bool.or_true _

include h hk hlo hhi

/-- Where RAW_CTL.GO with a length in its range goes. -/
theorem hostWrite_rawCtl : exec (.rawCtl link v) s = .next
    (match worst (violFec s (fecPage link) 0x070 (v ||| 0x100000)) with
    | some c => s.capErr (fecPage link) c 0x070
    | none => takenFec (s.setReg (fecPage link) 0x070 (mix (rawCtlReg.mask .rw) (v ||| 0x100000) (s.reg (fecPage link) 0x070)))
        (fecPage link) 0x070 (v ||| 0x100000)) := by
  obtain ⟨-, hlen, -, -⟩ := raw_fields v
  have hok : ∀ f ∈ rawCtlReg.flds, f.ok (v ||| 0x100000) = true := by
    simp only [rawCtlReg, List.mem_cons, List.not_mem_nil, or_false, forall_eq_or_imp, forall_eq]
    refine ⟨rfl, ?_, rfl, rfl⟩
    show decide (1 ≤ fld (v ||| 0x100000) 18 16 ∧ fld (v ||| 0x100000) 18 16 ≤ 4) = true
    rw [hlen]
    exact decide_eq_true ⟨hlo, hhi⟩
  rw [← State.takeWrite_fec s link (by decide) (by decide) (by decide) link.isLt]
  exact congrArg _ (State.hostWrite_fec h hk (by decide) (regAt_rawCtl link) hok)

/-- A raw transaction outside READY and FAULT is refused. -/
theorem exec_rawCtl_refused (h1 : (s.fec link).st ≠ .ready) (h2 : (s.fec link).st ≠ .fault) :
    exec (.rawCtl link v) s = .next (s.capErr (fecPage link) 0x07 0x070) := by
  obtain ⟨-, -, -, hgo⟩ := raw_fields v
  have hviol : violFec s (fecPage link) 0x070 (v ||| 0x100000) = [(20, 0x07)] := by
    unfold violFec
    rw [fecPage_sub]
    exact if_pos ⟨rfl, hgo, .inl ⟨h1, h2⟩⟩
  rw [hostWrite_rawCtl h hk hlo hhi, hviol]
  rfl

/-- A raw transaction that is not refused is queued. -/
theorem exec_rawCtl_taken (ht : s.takesRaw link v) : ∃ t, exec (.rawCtl link v) s = .next t ∧
    t.fec link = ({ s.fec link with rawDone := false, rawFail := false } : Fec).queued (rawReq s link v) := by
  obtain ⟨hadr, hlen, hwr, hgo⟩ := raw_fields v
  obtain ⟨hst, hguard⟩ := ht
  have hviol : violFec s (fecPage link) 0x070 (v ||| 0x100000) = [] := by
    unfold violFec
    rw [fecPage_sub, hadr, hlen, hwr]
    refine if_neg ?_
    rintro ⟨-, -, ⟨h1, h2⟩ | ⟨h1, h2⟩⟩
    · exact hst.elim h1 h2
    · exact Bool.noConfusion (h2.symm.trans (hguard h1))
  have hexec : exec (.rawCtl link v) s = .next
      (takenFec (s.setReg (fecPage link) 0x070 (mix (rawCtlReg.mask .rw) (v ||| 0x100000) (s.reg (fecPage link) 0x070)))
        (fecPage link) 0x070 (v ||| 0x100000)) := by
    rw [hostWrite_rawCtl h hk hlo hhi, hviol]
    rfl
  refine ⟨_, hexec, ?_⟩
  have hdata : ∀ w, (s.setReg (fecPage link) 0x070 w).reg (fecPage link) 0x074 = s.reg (fecPage link) 0x074 := fun w =>
    State.reg_setReg_other (by decide) (by decide) (by decide)
  have hfec : ∀ w, (s.setReg (fecPage link) 0x070 w).fec link = s.fec link := fun w => State.fec_of_fecs (State.setReg_fecs ..) link
  unfold takenFec
  rw [fecPage_sub, if_neg (fun hc => absurd hc.1 (by decide)), if_neg (fun hc => absurd hc.1 (by decide)), if_pos ⟨rfl, hgo⟩]
  dsimp only
  rw [State.fec_uflSend_same, State.fec_modFec_same, hfec, hdata, hadr, hlen, hwr, rawReq]

end rawCtl

/-! ### The steps of a calibration (rule R200) -/

/-- A step whose heats have passed ends. -/
theorem exec_calibrationStep {link : Fin 8} {s : State} (hr : s.inReset = false) (hst : (s.fec link).st = .calibrate)
    (hlo : 1 ≤ (s.fec link).calStep) (hhi : (s.fec link).calStep ≤ 4)
    (hdue : (s.fec link).calHeat + calHeats (s.fec link).calStep ≤ s.heat) (osc : BitVec 16) (bands : List CalMeas) :
    exec (.calibrationStep link osc bands) s = .next (s.calStepEnd link osc bands) := by
  have h0 : ((s.fec link).calStep == 0) = false := by simp; omega
  show execCalibrationStep link osc bands s = _
  unfold execCalibrationStep
  simp only [hr, hst, h0, decide_eq_false (Nat.not_lt.2 hdue), decide_eq_false (Nat.not_le.2 (Nat.lt_succ_of_le hhi)),
    bne_self_eq_false, Bool.or_self, Bool.false_eq_true, if_false]

section calStep

variable {s : State} {n : Nat} (osc : BitVec 16) (bands : List CalMeas)

/-- A step with good measurements passes to the next; tone and temperature are asked for. -/
theorem State.calStepEnd_passes (hbad : (s.fec n).calBad = false) : let y := (s.calStepEnd n osc bands).fec n
    y.calStep = (s.fec n).calStep + 1 ∧ y.calHeat = s.wholeHeat ∧
      ((s.fec n).calStep = 2 → y.q = (s.fec n).q ++ [{ tag := .tone false, op := 6, adr := 0 }] ∧ y.calOsc = osc) ∧
      ((s.fec n).calStep = 4 → y.q = (s.fec n).q ++ [{ tag := .status, op := 3, adr := 0 }]) := by
  unfold State.calStepEnd
  dsimp only
  rw [hbad, if_neg Bool.false_ne_true]
  split
  · next h2 =>
    rw [State.fec_uflSend_same, State.fec_modFec_same, State.fec_modFec_same]
    exact ⟨rfl, rfl, fun _ => ⟨rfl, rfl⟩, fun h4 => absurd (h2.symm.trans h4) (by decide)⟩
  · next h4 =>
    rw [State.fec_uflSend_same, State.fec_modFec_same, State.fec_modFec_same]
    exact ⟨rfl, rfl, fun h2 => absurd (h4.symm.trans h2) (by decide), fun _ => rfl⟩
  · next h2 h4 =>
    rw [State.fec_modFec_same]
    exact ⟨rfl, rfl, fun h => absurd h h2, fun h => absurd h h4⟩

/-- A step that was spoilt repeats. -/
theorem State.calStepEnd_repeats (hbad : (s.fec n).calBad = true) (hreps : (s.fec n).calReps < 16) :
    s.calStepEnd n osc bands = s.modFec n fun y => { y with calBad := false, calReps := y.calReps + 1, calHeat := s.wholeHeat } := by
  unfold State.calStepEnd
  dsimp only
  rw [if_pos hbad, if_neg (Nat.not_le.2 hreps)]

end calStep

theorem State.fec_startGain (s : State) (n j g m : Nat) : (s.startGain n j g).fec m = s.fec m := by
  unfold State.startGain
  exact List.foldlRecOn (motive := fun t : State => t.fec m = s.fec m) _ _ rfl fun t ht _ _ => ht

theorem State.fec_fecReadyStart (s : State) (n : Nat) : ∃ el, (s.fecReadyStart n).fec n = { s.fec n with st := .ready, el := el } := by
  have hgain : ∀ l : List Nat, (l.foldl (fun t j => t.startGain n j ((s.fec n).bandByte j 0x17)) s).fec n = s.fec n := fun l =>
    List.foldlRecOn (motive := fun t : State => t.fec n = s.fec n) _ _ rfl fun t ht j _ => (t.fec_startGain ..).trans ht
  unfold State.fecReadyStart
  rw [State.fec_fecTo_same, hgain]
  exact ⟨_, rfl⟩

/-- A calibration's end: READY, and CAL_DONE. -/
theorem State.calEnd_spec (s : State) (n : Nat) (stale : Bool) : let t := s.calEnd n stale
    (t.fec n).st = .ready ∧ (t.fec n).calStale = stale ∧ (t.reg (fecPage n) 0x014).getLsbD 18 = true ∧
      t.reg (fecPage n) 0x020 = s.reg (fecPage n) 0x020 := by
  let w : State := s.modFec n fun x => { x with calEl := s.el, calStep := 0, calBands := [], calStale := stale }
  let v : State := if (s.fec n).calGo then w.fecTo n .ready else w.fecReadyStart n
  obtain ⟨hst, hstale, hpage⟩ : (v.fec n).st = .ready ∧ (v.fec n).calStale = stale ∧ PageStands n w v := by
    unfold v
    split
    · rw [State.fec_fecTo_same, State.fec_modFec_same]
      exact ⟨rfl, rfl, .fecTo ..⟩
    · obtain ⟨el, hfec⟩ := w.fec_fecReadyStart n
      rw [hfec, State.fec_modFec_same]
      exact ⟨rfl, rfl, (FecWorks.fecReadyStart n w).page⟩
  intro t
  rw [show t = v.raise (fecPage n) 18 from rfl]
  refine ⟨by rw [State.fec_raise, hst], by rw [State.fec_raise, hstale], State.irq_raise_same _ _ (by decide), ?_⟩
  exact ((PageStands.raise n v 18).reg _ (by decide) (by decide)).trans (hpage.reg _ (by decide) (by decide))

/-- After 16 repeats a calibration is given up. -/
theorem State.calStepEnd_gives_up {s : State} {n : Nat} (hbad : (s.fec n).calBad = true) (hreps : 16 ≤ (s.fec n).calReps)
    (osc : BitVec 16) (bands : List CalMeas) : let t := s.calStepEnd n osc bands
    (t.fec n).st = .ready ∧ (t.fec n).calStale = true ∧ (t.reg (fecPage n) 0x014).getLsbD 18 = true ∧
      (s.rf (fecPage n) 0x020 31 31 = 0 → t.rf (fecPage n) 0x020 7 0 = 0x46) := by
  obtain ⟨hst, hstale, hev, hcode⟩ := (s.capErr (fecPage n) 0x46 0).calEnd_spec n true
  have ht : s.calStepEnd n osc bands = (s.capErr (fecPage n) 0x46 0).calEnd n true := by
    unfold State.calStepEnd
    dsimp only
    rw [if_pos hbad, if_pos hreps]
  intro t
  rw [show t = _ from ht]
  refine ⟨hst, hstale, hev, fun h => ?_⟩
  rw [State.rf, hcode]
  exact State.errCode_capErr (by decide) h

end Sys2Proof.Machine

namespace Sys2Proof.Machine

/-! ### Chains of streams (rules R222, R227) -/

@[simp] theorem State.chain_setChain_same (s : State) (st : Nat) (c : Chain) : (s.setChain st c).chain st = c := Tab.get_set_same ..

theorem State.chain_setChain_ne (s : State) {st q : Nat} (c : Chain) (h : q ≠ st) : (s.setChain st c).chain q = s.chain q :=
  Tab.get_set_ne _ _ _ h

@[simp] theorem State.chain_raiseCr (s : State) (st k q : Nat) : (s.raiseCr st k).chain q = s.chain q :=
  congrArg (fun t => Tab.get (fun _ => ({} : Chain)) t q) (State.raise_chains ..)

theorem State.startGain_chain (s : State) (n j g st : Nat) : ∃ g', (s.startGain n j g).chain st = { s.chain st with feGain := g' } := by
  unfold State.startGain
  refine List.foldlRecOn (motive := fun t : State => ∃ g', t.chain st = { s.chain st with feGain := g' }) _ _ ⟨_, rfl⟩ ?_
  rintro t ⟨g', ht⟩ b -
  by_cases hb : st = b.1
  · subst hb
    exact ⟨g, by rw [State.chain_setChain_same, ht]⟩
  · exact ⟨g', by rw [State.chain_setChain_ne _ _ hb, ht]⟩

theorem State.writeGain_chain (s : State) (n j g st : Nat) : ∃ g', (s.writeGain n j g).chain st = { s.chain st with feGain := g' } := by
  have hsend := LinkOnly.uflSend s n
    { tag := .gain j, op := 2, adr := bytesNum (s.fec n).table 0x18 2 + j, data := [BitVec.ofNat 8 g] }
  obtain ⟨g', hg⟩ := State.startGain_chain (s.uflSend n _) n j g st
  exact ⟨g', hg.trans (by rw [hsend.congr (fun v => v.chain st) fun _ _ _ => rfl])⟩

/-- A gain byte that is written waits on the link. -/
theorem State.writeGain_queues (s : State) (n j g : Nat) : ((s.writeGain n j g).fec n).q = (s.fec n).q ++
    [{ tag := .gain j, op := 2, adr := bytesNum (s.fec n).table 0x18 2 + j, data := [BitVec.ofNat 8 g] }] := by
  unfold State.writeGain
  rw [State.fec_startGain, State.fec_uflSend_same]
  rfl

/-! ### The gain loop (rule R222) -/

/-- The gain that a period of a stream's loop asks for, before its limits. -/
def State.wantedGain (s : State) (st : Nat) : Int := (s.chain st).feGain +
  (if 4 * fld (s.cr st 0x18) 15 0 > 5 * fld (s.cr st 0x04) 15 0 then -1
    else if 10 * fld (s.cr st 0x18) 15 0 < 8 * fld (s.cr st 0x04) 15 0 then 1 else 0)

/-- The gain that the end of a period sets on front-end n, within the front-end's limits. -/
def State.nextGain (s : State) (st n : Nat) : Int :=
  clampInt (bytesNum (s.fec n).table 0x1A 1) (bytesNum (s.fec n).table 0x1B 1) (s.wantedGain st)

/-- Periods in a row for which the gain was limited. -/
def State.clampRun (s : State) (st n : Nat) : Nat := if s.nextGain st n = s.wantedGain st then 0 else (s.chain st).feClamp + 1

/-- The chain of a stream whose period ends. -/
def State.periodChain (s : State) (st n : Nat) : Chain :=
  { s.chain st with fePer := 0, feClamp := s.clampRun st n,
                    feLimit := if s.nextGain st n = s.wantedGain st then false
                      else (s.chain st).feLimit || decide (s.clampRun st n ≥ 8) }

/-- The end of a period, before a gain is written. -/
def State.gainPeriod (s : State) (st n : Nat) : State :=
  if s.clampRun st n = 8 then (s.setChain st (s.periodChain st n)).raiseCr st 2 else s.setChain st (s.periodChain st n)

section gainPeriod

variable (s : State) (st n : Nat)

theorem State.gainPeriod_chain : (s.gainPeriod st n).chain st = s.periodChain st n := by
  unfold State.gainPeriod
  split
  · rw [State.chain_raiseCr, State.chain_setChain_same]
  · rw [State.chain_setChain_same]

theorem State.gainPeriod_rest : (s.gainPeriod st n).fecs = s.fecs ∧
    (s.gainPeriod st n).outbox.filter (fun o => !o.isMessage) = s.outbox.filter fun o => !o.isMessage := by
  unfold State.gainPeriod
  split
  · exact ⟨State.raise_fecs .., congrArg State.outbox (State.rest_raise ..)⟩
  · exact ⟨rfl, rfl⟩

end gainPeriod

/-- What a period's end does in READY, with the loop on and not held. -/
theorem exec_feGainLoop {stream : Fin 32} {s : State} {n j : Nat} (hr : s.inReset = false) (hat : s.streamAt stream = some (n, j))
    (hon : (s.cr stream 0x00).getLsbD 1 = true) (hg : (s.fec n).hasGain = true) (hst : (s.fec n).st = .ready)
    (hheld : s.feHeld stream = false) (hper : fld (s.cr stream 0x04) 27 24 ≤ (s.chain stream).fePer) :
    exec (.feGainLoop stream) s = .next (if (s.nextGain stream n).toNat = (s.chain stream).feGain then s.gainPeriod stream n
      else (s.gainPeriod stream n).writeGain n j (s.nextGain stream n).toNat) := by
  show execFeGainLoop stream s = _
  unfold execFeGainLoop
  dsimp only
  rw [hat]
  dsimp only
  rw [if_neg (by simp [hr, hon, hg, hst, hheld, hper])]
  rfl

/-- The gain loop moves a band's gain by at most one step, within its limits. -/
theorem exec_feGainLoop_spec {stream : Fin 32} {s : State} {n j : Nat} (hr : s.inReset = false) (hat : s.streamAt stream = some (n, j))
    (hon : (s.cr stream 0x00).getLsbD 1 = true) (hg : (s.fec n).hasGain = true) (hst : (s.fec n).st = .ready)
    (hheld : s.feHeld stream = false) (hper : fld (s.cr stream 0x04) 27 24 ≤ (s.chain stream).fePer) :
    let c := s.chain stream
    let g := s.nextGain stream n
    ∃ t, exec (.feGainLoop stream) s = .next t ∧ (t.chain stream).fePer = 0 ∧ (t.chain stream).feClamp = s.clampRun stream n ∧
      (g.toNat = c.feGain → t.fecs = s.fecs ∧ t.outbox.filter (fun o => !o.isMessage) = s.outbox.filter (fun o => !o.isMessage)) ∧
      (g.toNat ≠ c.feGain → (t.fec n).q = (s.fec n).q ++
        [{ tag := .gain j, op := 2, adr := bytesNum (s.fec n).table 0x18 2 + j, data := [BitVec.ofNat 8 g.toNat] }]) := by
  intro c g
  have hperiod := s.gainPeriod_chain stream n
  obtain ⟨hfecs, hout⟩ := s.gainPeriod_rest stream n
  refine ⟨_, exec_feGainLoop hr hat hon hg hst hheld hper, ?_⟩
  by_cases h : g.toNat = c.feGain
  · rw [if_pos h]
    rw [hperiod]
    exact ⟨rfl, rfl, fun _ => ⟨hfecs, hout⟩, fun hn => absurd h hn⟩
  · rw [if_neg h]
    obtain ⟨g', hchain⟩ := (s.gainPeriod stream n).writeGain_chain n j g.toNat stream
    rw [hchain, hperiod]
    refine ⟨rfl, rfl, fun hn => absurd hn h, fun _ => ?_⟩
    rw [State.writeGain_queues, State.fec_of_fecs hfecs]

/-! ### Notches (rule R227) -/

@[simp] theorem Chain.notch_setNotch_same (c : Chain) (k : Nat) (x : Notch) : (c.setNotch k x).notch k = x := by
  unfold Chain.notch Chain.setNotch
  exact Tab.get_set_same ..

theorem Chain.notch_setNotch_ne (c : Chain) {k j : Nat} (x : Notch) (h : j ≠ k) : (c.setNotch k x).notch j = c.notch j := by
  unfold Chain.notch Chain.setNotch
  exact Tab.get_set_ne _ _ _ h

/-- A notch whose depth has stayed low for long enough is released. -/
theorem exec_notchRelease {stream : Fin 32} {k : Fin 4} {s : State} (hact : ((s.chain stream).notch k).active = true)
    (hslave : ((s.chain stream).notch k).slaved = false)
    (hlow : 2 ^ fld (s.cr stream 0x0C) 31 28 ≤ ((s.chain stream).notch k).low) :
    exec (.notchRelease stream k) s = .next (s.releaseNotch stream k) := by
  show execNotchRelease stream k s = _
  unfold execNotchRelease
  simp only [hact, hslave, hlow, decide_true, Bool.not_false, Bool.and_self, if_true]

/-- A released notch is free, NOTCH is raised, and every other notch stays as it is. -/
theorem State.releaseNotch_spec (s : State) (st k : Nat) : let t := s.releaseNotch st k
    (t.chain st).notch k = {} ∧ (∀ j, j ≠ k → (t.chain st).notch j = (s.chain st).notch j) ∧
      (∀ q, q ≠ st → t.chain q = s.chain q) ∧ (t.reg (condPage st) 0x014).getLsbD (16 + 3 * (st % 2)) = true := by
  intro t
  have hchain : t.chain st = (s.chain st).setNotch k {} := (State.chain_raiseCr ..).trans (State.chain_setChain_same ..)
  refine ⟨?_, fun j hj => ?_, fun q hq => (State.chain_raiseCr ..).trans (State.chain_setChain_ne _ _ hq), ?_⟩
  · rw [hchain]
    exact Chain.notch_setNotch_same ..
  · rw [hchain]
    exact Chain.notch_setNotch_ne _ _ hj
  · exact State.irq_raise_same _ _ (by omega)

/-! ### The family's statement -/

theorem calHeats_eq (k : Nat) : calHeats k = if k = 2 ∨ k = 4 then 4 else 1 := by
  unfold calHeats
  split <;> simp_all

/-- CAL_CTL.GO: queued while an injection is live or its tail runs, else a calibration starts in READY. -/
theorem exec_calCtl_spec {s : State} {link : Fin 8} {v : Word} (h : s.hears (fecPage link)) (hk : s.locked (fecPage link) = false)
    (hlo : 1 ≤ fld v 15 8) (hhi : fld v 15 8 ≤ 100) :
    (s.injLive = true ∨ s.rl.st = .tail →
      ∃ t, exec (.calCtl link v) s = .next t ∧ t.fec link = { s.fec link with calQueued := true }) ∧
    (s.injLive = false → s.rl.st ≠ .tail → (s.fec link).st = .ready → ∃ t, exec (.calCtl link v) s = .next t ∧
      (t.fec link).st = .calibrate ∧ (t.fec link).calStep = (if (s.fec link).hasTone then 1 else 4) ∧
      (t.fec link).calHeat = s.wholeHeat ∧ t.rf (fecPage link) 0x050 15 8 = fld v 15 8) := by
  have hfec : (s.calWritten link v).fec link = s.fec link := State.fec_of_fecs (State.setReg_fecs ..) link
  have hexec := exec_calCtl h hk hlo hhi
  refine ⟨fun hq => ⟨_, hexec.trans (congrArg _ (if_pos hq)), ?_⟩, fun hlive htail hst => ?_⟩
  · rw [State.fec_modFec_same, hfec]
  · have hno : ¬(s.injLive = true ∨ s.rl.st = .tail) := by simp [hlive, htail]
    obtain ⟨hcal, hstep, hheat⟩ := (s.calWritten link v).calStart_spec link true
    refine ⟨_, hexec.trans (congrArg _ ((if_neg hno).trans (if_pos hst))), hcal, hstep.trans (by rw [hfec]), hheat.trans ?_, ?_⟩
    · unfold State.wholeHeat State.atBoundary State.calWritten State.setReg
      rfl
    · rw [State.rf, (FecWorks.calStart link (s.calWritten link v) true).page.reg _ (by decide) (by decide)]
      exact s.calWritten_win link v

/-- Settles O47: CAL_CTL and RAW_CTL through the front-end page's registers, a calibration's step from how its heats went, the gain
loop from the gain it asks for, and a notch from its run of shallow heats. -/
theorem calibrationAndGain : Obligations.CalibrationAndGain := by
  unfold Obligations.CalibrationAndGain
  refine ⟨fun link s => ⟨fun hears hlock v => ⟨fun hlo hhi => exec_calCtl_spec hears hlock hlo hhi, fun hlo hhi => ⟨?_, ?_, ?_⟩⟩, ?_⟩,
    ?_, ?_⟩
  case refine_1 => exact fun h1 h2 => ends_of_exec (exec_rawCtl_refused hears hlock hlo hhi h1 h2)
  case refine_2 =>
    intro hst hrd
    obtain ⟨t, ht, hfec⟩ := exec_rawCtl_taken hears hlock hlo hhi ⟨hst, fun hw => Bool.noConfusion (hw.symm.trans hrd)⟩
    refine ⟨t, ht, ?_⟩
    rw [hfec, rawReq, hrd]
    exact ⟨rfl, rfl, rfl⟩
  case refine_3 =>
    intro hst hwr hguard
    obtain ⟨t, ht, hfec⟩ := exec_rawCtl_taken hears hlock hlo hhi ⟨hst, fun _ => hguard⟩
    refine ⟨t, ht, ?_⟩
    rw [hfec, rawReq, hwr]
    rfl
  case refine_4 =>
    intro hr hst hlo hhi hdue osc bands
    have hexec := exec_calibrationStep hr hst hlo hhi ((calHeats_eq _).symm ▸ hdue) osc bands
    exact ⟨fun hbad => ⟨_, hexec, State.calStepEnd_passes osc bands hbad⟩,
      fun hbad hreps => hexec.trans (congrArg _ (State.calStepEnd_repeats osc bands hbad hreps)),
      fun hbad hreps => ⟨_, hexec, State.calStepEnd_gives_up hbad hreps osc bands⟩⟩
  case refine_5 => exact fun stream s n j hr hat hon hg hst hheld hper => exec_feGainLoop_spec hr hat hon hg hst hheld hper
  case refine_6 =>
    intro stream k s st c hact hslave hlow
    obtain ⟨hfree, hothers, hchains, hirq⟩ := s.releaseNotch_spec stream k
    exact ⟨_, exec_notchRelease hact hslave hlow, hfree, fun j _ hj => hothers j hj, hchains, hirq⟩

end Sys2Proof.Machine

/-! ## Injection jobs (rules R203, R204, R206, R207, R209 to R211) -/

namespace Sys2Proof.Machine

/-! ### Jobs in their slots -/

theorem Tab.mem_put {α : Type} {t : Tab α} {k : Nat} {x : α} {e : Nat × α} (h : e ∈ Tab.put t k x) : e = (k, x) ∨ e ∈ t := by
  induction t with
  | nil => exact .inl (List.mem_singleton.1 h)
  | cons a t ih =>
    rw [Tab.put] at h
    split at h
    · exact List.mem_cons.1 h
    · obtain rfl | h := List.mem_cons.1 h
      · exact .inr List.mem_cons_self
      · exact (ih h).imp_right (List.mem_cons_of_mem _)

/-- What a table lists once a value stands at a key: that value there, and the other keys' as before. -/
theorem Tab.mem_ins {α : Type} {t : Tab α} {k : Nat} {x : α} {e : Nat × α} (h : e ∈ Tab.ins t k x) :
    e = (k, x) ∨ (e ∈ t ∧ e.1 ≠ k) := by
  refine (Tab.mem_put h).imp_right fun hd => ?_
  obtain ⟨ht, hk⟩ := List.mem_filter.1 hd
  exact ⟨ht, by simpa using hk⟩

theorem Tab.del_put {α : Type} (t : Tab α) (k : Nat) (x : α) : Tab.del (Tab.put t k x) k = Tab.del t k := by
  unfold Tab.del
  induction t with
  | nil => simp [Tab.put]
  | cons a t ih =>
    rw [Tab.put]
    split
    · simp
    · rw [List.filter_cons, ih, List.filter_cons]

/-- Of two values put at one key the later stands. -/
theorem Tab.ins_ins {α : Type} (t : Tab α) (k : Nat) (x y : α) : Tab.ins (Tab.ins t k x) k y = Tab.ins t k y := by
  unfold Tab.ins
  rw [Tab.del_put]
  unfold Tab.del
  rw [List.filter_filter]
  simp

/-- The job of a slot in a table. -/
def Tab.jobAt (t : Tab InjJob) (i : Nat) : InjJob := Tab.get (fun _ => {}) t i

/-- A slot holds this job and none besides. -/
def Tab.Only (t : Tab InjJob) (i : Nat) (J : InjJob) : Prop := t.jobAt i = J ∧ ∀ e ∈ t, e.1 = i → e.2 = J

theorem Tab.Only.ins_same (t : Tab InjJob) (i : Nat) (J : InjJob) : Tab.Only (Tab.ins t i J) i J := by
  refine ⟨Tab.get_ins_same .., fun e he hi => ?_⟩
  obtain rfl | ⟨-, hne⟩ := Tab.mem_ins he
  · rfl
  · exact absurd hi hne

theorem Tab.Only.ins_ne {t : Tab InjJob} {i k : Nat} {J : InjJob} (h : t.Only i J) (x : InjJob) (hk : i ≠ k) :
    Tab.Only (Tab.ins t k x) i J := by
  obtain ⟨hat, hall⟩ := h
  refine ⟨(Tab.get_ins_ne _ _ _ hk).trans hat, fun e he hi => ?_⟩
  obtain rfl | ⟨ht, -⟩ := Tab.mem_ins he
  · exact absurd hi.symm hk
  · exact hall e ht hi

/-- A slot that is listed at most once holds what it shows. -/
theorem Tab.Only.of_once {t : Tab InjJob} {i : Nat} (h : (t.filter fun e => e.1 = i).length ≤ 1) : t.Only i (t.jobAt i) := by
  refine ⟨rfl, fun e he hi => ?_⟩
  have hmem : (i, t.jobAt i) ∈ t := Tab.mem_of_any _ (List.any_eq_true.2 ⟨e, he, by simp [hi]⟩)
  have h1 : e ∈ t.filter fun e => e.1 = i := List.mem_filter.2 ⟨he, by simp [hi]⟩
  have h2 : (i, t.jobAt i) ∈ t.filter fun e => e.1 = i := List.mem_filter.2 ⟨hmem, by simp⟩
  obtain ⟨x, hx⟩ := List.length_eq_one_iff.1 (Nat.le_antisymm h (List.length_pos_of_mem h1))
  rw [hx] at h1 h2
  exact congrArg Prod.snd ((List.mem_singleton.1 h1).trans (List.mem_singleton.1 h2).symm)

/-- A slot that shows a job other than a free slot's lists it. -/
theorem Tab.jobAt_mem {t : Tab InjJob} {i : Nat} (h : (t.jobAt i).st ≠ .pendingLock) : (i, t.jobAt i) ∈ t := by
  refine Tab.mem_of_any _ ?_
  by_contra hn
  have hno : ∀ e ∈ t, e.1 ≠ i := fun e he hi => hn (List.any_eq_true.2 ⟨e, he, by simp [hi]⟩)
  have hfree := Tab.get_append_of_notMem (fun _ => ({} : InjJob)) hno []
  rw [List.append_nil] at hfree
  exact h (congrArg InjJob.st hfree)

/-- The jobs that a list names in a state, each changed in its slot of a table. -/
def Tab.moved (st : InjSt) (g : InjJob → InjJob) (l t : Tab InjJob) : Tab InjJob :=
  l.foldl (fun t e => if e.2.st = st then Tab.ins t e.1 (g (t.jobAt e.1)) else t) t

section moved

variable {st : InjSt} {g : InjJob → InjJob} {l t : Tab InjJob} {i : Nat} {J : InjJob}

/-- A slot that the list does not name in that state keeps its job. -/
theorem Tab.Only.moved_of_other (h : t.Only i J) (hl : ∀ e ∈ l, e.1 = i → e.2.st ≠ st) : Tab.Only (Tab.moved st g l t) i J := by
  refine List.foldlRecOn (motive := fun t : Tab InjJob => t.Only i J) _ _ h fun t ht e he => ?_
  split
  · next hst => exact ht.ins_ne _ fun hi => hl e he hi.symm hst
  · exact ht

/-- A slot that the list names in that state holds its job as changed, however often it is named. -/
theorem Tab.Only.moved_of_mem (hg : ∀ j, g (g j) = g j) (ht : t.jobAt i = J ∨ t.Only i (g J))
    (hl : t.Only i (g J) ∨ ∃ e ∈ l, e.1 = i ∧ e.2.st = st) : Tab.Only (Tab.moved st g l t) i (g J) := by
  induction l generalizing t with
  | nil => exact hl.resolve_right (by simp)
  | cons e l ih =>
    rw [Tab.moved, List.foldl_cons]
    by_cases hst : e.2.st = st
    · rw [if_pos hst]
      by_cases hi : i = e.1
      · have hJ : g (t.jobAt e.1) = g J := by
          rw [← hi]
          obtain h | ⟨h, -⟩ := ht
          · rw [h]
          · rw [h, hg]
        have hnew : Tab.Only (Tab.ins t e.1 (g (t.jobAt e.1))) i (g J) := by
          rw [hJ, ← hi]
          exact .ins_same ..
        exact ih (.inr hnew) (.inl hnew)
      · refine ih (ht.imp (fun h => (Tab.get_ins_ne _ _ _ hi).trans h) fun h => h.ins_ne _ hi) ?_
        obtain h | ⟨x, hx, hxi, hxst⟩ := hl
        · exact .inl (h.ins_ne _ hi)
        · obtain rfl | hx := List.mem_cons.1 hx
          · exact absurd hxi.symm hi
          · exact .inr ⟨x, hx, hxi, hxst⟩
    · rw [if_neg hst]
      refine ih ht (hl.imp_right ?_)
      rintro ⟨x, hx, hxi, hxst⟩
      obtain rfl | hx := List.mem_cons.1 hx
      · exact absurd hxst hst
      · exact ⟨x, hx, hxi, hxst⟩

/-- A fold over states moves their jobs as each of its steps does. -/
theorem State.foldl_moves {f : State → Nat × InjJob → State} {P : State → Prop}
    (h : ∀ s e, P s → P (f s e) ∧ (f s e).rl.jobs = Tab.ins s.rl.jobs e.1 (g (s.inj e.1))) (l : Tab InjJob) {s : State} (hs : P s) :
    let t := l.foldl (fun s e => if e.2.st = st then f s e else s) s
    P t ∧ t.rl.jobs = Tab.moved st g l s.rl.jobs := by
  induction l generalizing s with
  | nil => exact ⟨hs, rfl⟩
  | cons e l ih =>
    rw [List.foldl_cons, Tab.moved, List.foldl_cons]
    by_cases hst : e.2.st = st
    · obtain ⟨hP, hjobs⟩ := h s e hs
      obtain ⟨hP', hjobs'⟩ := ih hP
      rw [if_pos hst, if_pos hst]
      exact ⟨hP', hjobs'.trans (congrArg _ hjobs)⟩
    · rw [if_neg hst, if_neg hst]
      exact ih hs

end moved

theorem State.inj_jobs (s : State) (i : Nat) : s.inj i = s.rl.jobs.jobAt i := rfl

@[simp] theorem State.inj_setInj_same (s : State) (k : Nat) (j : InjJob) : (s.setInj k j).inj k = j := Tab.get_ins_same ..

/-! ### The frames up to now (rules R203, R204) -/

/-- No frame is due yet. -/
theorem State.rlRun_early {s : State} (h : s.el < s.rl.next) : s.rlRun = s := by
  unfold State.rlRun
  refine if_pos (.inr (.inr ?_))
  split <;> omega

/-- A job's first sample changes the lane in its slot alone. -/
theorem State.injActive_rl (s : State) (k at_ : Nat) : (s.injActive k at_).rl = (s.setInj k (s.runJob at_ (s.inj k))).rl := by
  show (s.injActive k at_).beyondRings.rl = _
  rw [s.beyondRings_injActive]
  rfl

/-- The jobs in a state start in their slots, on a running lane. -/
theorem State.injStarts_rl (s : State) (st : InjSt) (at_ : Nat) : (s.injStarts st at_).rl.st = .active ∧
    (s.injStarts st at_).rl.jobs = Tab.moved st (s.runJob at_) s.rl.jobs s.rl.jobs := by
  obtain ⟨⟨-, hst⟩, hjobs⟩ := State.foldl_moves (st := st) (g := s.runJob at_) (P := fun v => v.heat = s.heat ∧ v.rl.st = .active)
    (f := fun v e => (v.jstep e.2.seq 3 (v.heat + 1)).injActive e.1 at_) (fun v e ⟨hheat, hact⟩ => by
      have hrl := (v.jstep e.2.seq 3 (v.heat + 1)).injActive_rl e.1 at_
      obtain ⟨hh, -⟩ := (v.jstep e.2.seq 3 (v.heat + 1)).injActive_time e.1 at_
      refine ⟨⟨hh.trans hheat, by rw [hrl]; exact hact⟩, ?_⟩
      rw [hrl, State.runJob, State.runJob, ← hheat]
      rfl) s.rl.jobs (s := { s with rl := { s.rl with st := .active } }) ⟨rfl, rfl⟩
  exact ⟨hst, hjobs⟩

theorem State.rlOne_jobs (s : State) : s.rlOne.rl.jobs = s.frameJoined.rl.jobs ∧ s.rlOne.rl.st = s.frameJoined.rl.st := by
  rw [s.rlOne_rl]
  exact ⟨rfl, rfl⟩

/-- A running lane keeps running. -/
theorem State.rlRun_active {s : State} (h : s.rl.st = .active) : s.rlRun.rl.st = .active := by
  refine State.rlRun_of_rlOne (P := fun s => s.rl.st = .active) (fun s h => ?_) h
  rw [s.rlOne_jobs.2, State.frameJoined]
  split
  · exact (s.injStarts_rl ..).1
  · exact h

/-- The frames up to now leave a job that does not wait for one. -/
theorem State.rlRun_only {s : State} {i : Nat} {J : InjJob} (h : s.rl.jobs.Only i J) (hJ : J.st ≠ .joining) :
    s.rlRun.rl.jobs.Only i J := by
  refine State.rlRun_of_rlOne (P := fun v => v.rl.jobs.Only i J) (fun v hv => ?_) h
  have hall := hv.2
  rw [v.rlOne_jobs.1, State.frameJoined]
  split
  · rw [(v.injStarts_rl ..).2]
    exact hv.moved_of_other fun e he hi => by rwa [hall e he hi]
  · exact hv

/-- Frames without data: the lane's state, its jobs and what has been sent stand. -/
structure LaneCalm (s t : State) : Prop where
  st : t.rl.st = s.rl.st
  el : t.rl.el = s.rl.el
  jobs : t.rl.jobs = s.rl.jobs
  sent : ∀ o ∈ s.outbox, o ∈ t.outbox

theorem LaneCalm.refl (s : State) : LaneCalm s s := ⟨rfl, rfl, rfl, fun _ h => h⟩

theorem LaneCalm.rlOne {s t : State} (h : LaneCalm s t) (hst : s.rl.st ≠ .active) (hcalm : ∀ e ∈ s.rl.jobs, e.2.st ≠ .joining) :
    LaneCalm s t.rlOne := by
  obtain ⟨tst, tel, tjobs, tsent⟩ := h
  have hjoin : t.frameJoined = t := by
    unfold State.frameJoined
    refine if_neg ?_
    simpa [tjobs] using hcalm
  have hslots : (t.frameSlots t.nextFrame).2 = t := by
    unfold State.frameSlots
    rw [hjoin]
    refine List.foldlRecOn (motive := fun a : List (Int × Int) × State => a.2 = t) _ _ rfl fun a ha k _ => ?_
    rw [if_neg (tst ▸ hst)]
    exact ha
  have hsent : t.rlOne.outbox = .rlFrame t.nextFrame t.rlHeader (t.frameSlots t.nextFrame).1 :: t.outbox := by
    rw [State.rlOne_eq, hslots]
    rfl
  have hrl : t.rlOne.rl = { t.rl with next := t.rl.next + t.frameTime } := by rw [State.rlOne_rl, hjoin]
  refine ⟨by rw [hrl]; exact tst, by rw [hrl]; exact tel, by rw [hrl]; exact tjobs, fun o ho => ?_⟩
  rw [hsent]
  exact List.mem_cons_of_mem _ (tsent o ho)

/-- In a lead-in or a tail that no job joins, frames carry no data. -/
theorem LaneCalm.rlRun {s : State} (hst : s.rl.st ≠ .active) (hcalm : ∀ e ∈ s.rl.jobs, e.2.st ≠ .joining) : LaneCalm s s.rlRun :=
  State.rlRun_of_rlOne (P := LaneCalm s) (fun _ h => h.rlOne hst hcalm) (.refl s)

end Sys2Proof.Machine

namespace Sys2Proof.Machine

/-! ### The wait for the lock (rules R204, R207, R210, R211) -/

/-- The state in which a job enters step 3: INJ on is asked for, and the job's command shows the step. -/
def State.injAsked (s : State) (k : Nat) : State :=
  (s.uflSend s.injFec { tag := .inj true, op := 7, adr := 1 }).jstep (s.inj k).seq 2 (s.heat + 1)

theorem LinkOnly.rl {s t : State} (h : LinkOnly s t) : t.rl = s.rl := h.congr State.rl fun _ _ _ => rfl

theorem LinkOnly.el {s t : State} (h : LinkOnly s t) : t.el = s.el := h.congr State.el fun _ _ _ => rfl

theorem State.injAsked_rl (s : State) (k : Nat) : (s.injAsked k).rl = s.rl := (LinkOnly.uflSend ..).rl

theorem State.injAsked_el (s : State) (k : Nat) : (s.injAsked k).el = s.el := (LinkOnly.uflSend s _ _).el

theorem State.injAsked_fec (s : State) (k : Nat) :
    (s.injAsked k).fec s.injFec = (s.fec s.injFec).queued { tag := .inj true, op := 7, adr := 1 } :=
  State.fec_uflSend_same ..

section injEnter

variable {s : State} (k : Nat)

theorem State.injEnter_idle (h : s.rl.st = .idle) : s.injEnter k = (s.setInj k { s.inj k with st := .leadIn }).rlStart := by
  unfold State.injEnter
  rw [h]

theorem State.injEnter_leadIn (h : s.rl.st = .leadIn) : s.injEnter k = s.setInj k { s.inj k with st := .leadIn } := by
  unfold State.injEnter
  rw [h]

theorem State.injEnter_active (h : s.rl.st = .active) : s.injEnter k = s.setInj k { s.inj k with st := .joining } := by
  unfold State.injEnter
  rw [h]

theorem State.injEnter_suspended (h : s.rl.st = .suspended) : s.injEnter k = s.setInj k { s.inj k with st := .joining } := by
  unfold State.injEnter
  rw [h]

theorem State.injEnter_tail (h : s.rl.st = .tail) : s.injEnter k = if (s.inj k).afterTail then s.setInj k { s.inj k with st := .tailWait }
    else ({ s with rl := { s.rl with st := .active } } : State).setInj k { s.inj k with st := .joining } := by
  unfold State.injEnter
  rw [h]
  rfl

theorem LaneOnly.injEnter (s : State) (k : Nat) : LaneOnly s (s.injEnter k) := by
  unfold State.injEnter
  dsimp only
  split
  · exact ((LaneOnly.setInj ..).trans (.withRl ..)).trans (.emit ..)
  · exact .setInj ..
  · split
    · exact .setInj ..
    · exact (LaneOnly.withRl s { s.rl with st := .active }).trans (.setInj ..)
  · exact .setInj ..

/-- A job's entry leaves calm a lane that was so, where the job does not join at once. -/
theorem Tab.calm_ins {t : Tab InjJob} (h : ∀ e ∈ t, e.2.st ≠ .joining) {J : InjJob} (hJ : J.st ≠ .joining) :
    ∀ e ∈ Tab.ins t k J, e.2.st ≠ .joining := fun e he => by
  obtain rfl | ⟨ht, -⟩ := Tab.mem_ins he
  · exact hJ
  · exact h e ht

/-- What calm frames leave of a job. -/
theorem LaneCalm.inj {s t : State} (h : LaneCalm s t) (i : Nat) : t.inj i = s.inj i := congrArg (Tab.jobAt · i) h.jobs

/-- A job that finds the lane idle starts its clock and the lead-in. -/
theorem State.enters_idle (hst : s.rl.st = .idle) (hcalm : ∀ e ∈ s.rl.jobs, e.2.st ≠ .joining) : let t := (s.injEnter k).rlRun
    t.rl.st = .leadIn ∧ t.rl.el = s.el ∧ t.inj k = { s.inj k with st := .leadIn } ∧ .rlClock true ∈ t.outbox := by
  have hrun : LaneCalm (s.setInj k { s.inj k with st := .leadIn }).rlStart _ :=
    LaneCalm.rlRun (fun h => RlSt.noConfusion h) (Tab.calm_ins k hcalm (fun h => InjSt.noConfusion h))
  rw [State.injEnter_idle k hst]
  exact ⟨hrun.st, hrun.el, (hrun.inj k).trans (State.inj_setInj_same ..), hrun.sent _ List.mem_cons_self⟩

/-- A job that finds the lead-in waits for its end. -/
theorem State.enters_leadIn (hst : s.rl.st = .leadIn) (hcalm : ∀ e ∈ s.rl.jobs, e.2.st ≠ .joining) : let t := (s.injEnter k).rlRun
    t.rl.st = .leadIn ∧ t.rl.el = s.rl.el ∧ t.inj k = { s.inj k with st := .leadIn } := by
  have hrun : LaneCalm (s.setInj k { s.inj k with st := .leadIn }) _ :=
    LaneCalm.rlRun (by rw [show (s.setInj k _).rl.st = _ from hst]; decide) (Tab.calm_ins k hcalm (fun h => InjSt.noConfusion h))
  rw [State.injEnter_leadIn k hst]
  exact ⟨hrun.st.trans hst, hrun.el, (hrun.inj k).trans (State.inj_setInj_same ..)⟩

section early

variable (hnext : s.el < s.rl.next)

include hnext

/-- A job that finds the lane running joins at the next frame. -/
theorem State.enters_active (hst : s.rl.st = .active) : let t := (s.injEnter k).rlRun
    t.rl.st = .active ∧ t.inj k = { s.inj k with st := .joining } := by
  rw [State.injEnter_active k hst, State.rlRun_early (s := s.setInj k _) hnext]
  exact ⟨hst, State.inj_setInj_same ..⟩

/-- A job that waited when the last one ended waits for the tail's end. -/
theorem State.enters_tail_waiting (hst : s.rl.st = .tail) (hafter : (s.inj k).afterTail = true) : let t := (s.injEnter k).rlRun
    t.rl.st = .tail ∧ t.inj k = { s.inj k with st := .tailWait } := by
  rw [State.injEnter_tail k hst, if_pos hafter, State.rlRun_early (s := s.setInj k _) hnext]
  exact ⟨hst, State.inj_setInj_same ..⟩

/-- Another job ends the tail at once. -/
theorem State.enters_tail_ending (hst : s.rl.st = .tail) (hafter : (s.inj k).afterTail = false) : let t := (s.injEnter k).rlRun
    t.rl.st = .active ∧ t.inj k = { s.inj k with st := .joining } := by
  rw [State.injEnter_tail k hst, if_neg (by rw [hafter]; decide),
    State.rlRun_early (s := ({ s with rl := { s.rl with st := .active } } : State).setInj k _) hnext]
  exact ⟨rfl, State.inj_setInj_same ..⟩

end early

end injEnter

/-- A suspended job as it resumes, at the next frame (rule R210). -/
def InjJob.resumed (j : InjJob) : InjJob := { j with st := .joining, cut := false }

/-- The results that show FILLED change no more than the results. -/
theorem State.fillResults_frame (s : State) (k : Nat) : ∃ r, s.fillResults k = { s with rl := { s.rl with res := r } } := by
  unfold State.fillResults
  refine List.foldlRecOn (motive := fun t : State => ∃ r, t = { s with rl := { s.rl with res := r } }) _ _ ⟨_, rfl⟩ ?_
  intro t ht n _
  refine List.foldlRecOn (motive := fun t : State => ∃ r, t = { s with rl := { s.rl with res := r } }) _ _ ht ?_
  rintro t ⟨r, rfl⟩ b -
  split
  · exact ⟨_, rfl⟩
  · exact ⟨r, rfl⟩

/-- One job of a suspended lane resumes. -/
theorem State.resumes_one {s : State} (k : Nat) (h : s.rl.st = .suspended) : ∃ r, (s.cutWindow k).injEnter k =
    { s with rl := { s.rl with jobs := Tab.ins s.rl.jobs k (s.inj k).resumed, res := r } } := by
  unfold State.cutWindow
  dsimp only
  split
  · obtain ⟨r, hr⟩ := (s.setInj k { s.inj k with cut := false }).fillResults_frame k
    have hst : ((s.setInj k { s.inj k with cut := false }).fillResults k).rl.st = .suspended := by rw [hr]; exact h
    have hinj : ((s.setInj k { s.inj k with cut := false }).fillResults k).inj k = { s.inj k with cut := false } := by
      rw [hr]
      exact State.inj_setInj_same ..
    rw [State.injEnter_suspended k hst, hinj, hr]
    exact ⟨r, congrArg (fun jobs => ({ s with rl := { s.rl with jobs := jobs, res := r } } : State)) (Tab.ins_ins ..)⟩
  · next hcut =>
    refine ⟨s.rl.res, ?_⟩
    have hj : (s.inj k).resumed = { s.inj k with st := .joining } := by
      rw [InjJob.resumed, ← Bool.eq_false_iff.2 hcut]
    rw [State.injEnter_suspended k h, hj]
    rfl

/-- The suspended jobs of a suspended lane resume together. -/
theorem State.resumes_all {s : State} (h : s.rl.st = .suspended) :
    let t := s.rl.jobs.foldl (fun s (e : Nat × InjJob) => if e.2.st = .suspended then (s.cutWindow e.1).injEnter e.1 else s) s
    (t.rl.st = .suspended ∧ t.rl.next = s.rl.next ∧ t.el = s.el) ∧
      t.rl.jobs = Tab.moved .suspended InjJob.resumed s.rl.jobs s.rl.jobs :=
  State.foldl_moves (P := fun t => t.rl.st = .suspended ∧ t.rl.next = s.rl.next ∧ t.el = s.el)
    (f := fun s e => (s.cutWindow e.1).injEnter e.1) (fun t e ⟨hst, hnext, hel⟩ => by
      obtain ⟨r, hr⟩ := State.resumes_one e.1 hst
      rw [hr]
      exact ⟨⟨hst, hnext, hel⟩, rfl⟩) s.rl.jobs ⟨h, rfl, rfl⟩

section exec

variable {s u : State} {dt : Nat}

section pendingLock

variable {slot : Fin 8} (hu : (s.after dt).rlRun = u) (hr : u.inReset = false) (hhas : u.hasInj slot = true) (hgo : u.injGo slot = true)

include hu hr hhas hgo

/-- A job whose conditions hold in time enters step 3. -/
theorem exec_pendingLock (hst : (u.inj slot).st = .pendingLock)
    (hto : u.el ≤ (u.inj slot).startEl + usUnits (u.rf (fecPage u.injFec) 0x04C 13 0)) :
    exec (.pendingLock slot dt) s = .next ((u.injAsked slot).injEnter slot).rlRun := by
  show execPendingLock slot dt s = _
  unfold execPendingLock
  dsimp only
  rw [hu, if_neg (by simp [hr, hhas, hgo]), hst]
  exact congrArg _ (if_neg (Nat.not_lt.2 hto))

/-- With one job whose conditions hold, the suspended jobs resume. -/
theorem exec_pendingLock_suspended (hst : (u.inj slot).st = .suspended) (hlane : u.rl.st = .suspended) (hnext : u.el < u.rl.next) :
    ∃ t, exec (.pendingLock slot dt) s = .next t ∧ t.rl.st = .suspended ∧ t.inj slot = (u.inj slot).resumed := by
  let v := u.uflSend u.injFec { tag := .inj true, op := 7, adr := 1 }
  have hv : LinkOnly u v := LinkOnly.uflSend ..
  have hrl : v.rl = u.rl := hv.rl
  obtain ⟨⟨tst, tnext, tel⟩, tjobs⟩ := State.resumes_all (s := v) (hrl ▸ hlane)
  refine ⟨_, ?_, tst, ?_⟩
  · show execPendingLock slot dt s = _
    unfold execPendingLock
    dsimp only
    rw [hu, if_neg (by simp [hr, hhas, hgo]), hst]
    exact congrArg _ (State.rlRun_early (by rw [tnext, tel, hrl, hv.el]; exact hnext))
  · rw [State.inj_jobs, tjobs, hrl]
    have hmem := Tab.jobAt_mem (t := u.rl.jobs) (i := slot) (fun h => InjSt.noConfusion (hst.symm.trans h))
    have honly : Tab.Only (Tab.moved .suspended InjJob.resumed u.rl.jobs u.rl.jobs) slot (u.inj slot).resumed :=
      .moved_of_mem (fun _ => rfl) (.inl rfl) (.inr ⟨_, hmem, rfl, hst⟩)
    exact honly.1

end pendingLock

/-- A job whose conditions come too late ends without an injection, and its entry is free (rule R207). -/
theorem exec_lockTimeout {slot : Fin 8} {w : State} (hw : s.after dt = w) (hr : w.inReset = false) (hhas : w.hasInj slot = true)
    (hst : (w.inj slot).st = .pendingLock) (hgo : w.injGo slot = false)
    (hto : (w.inj slot).startEl + usUnits (w.rf (fecPage w.injFec) 0x04C 13 0) ≤ w.el) : let j := w.inj slot
    ∃ t, exec (.lockTimeout slot dt) s = .next t ∧ t.hasInj slot = false ∧ (t.ent j.entry).st = .free ∧ t.fecs = w.fecs ∧
      ∀ e, w.jfind j.seq = some e → ∃ ws, t.doneAs j.seq stLOCK_TIMEOUT ws := by
  intro j
  let v : State := ({ w with rl := { w.rl with jobs := Tab.del w.rl.jobs slot } } : State).freeNow j.entry
  have hfind : v.jfind j.seq = w.jfind j.seq := rfl
  have hexec : exec (.lockTimeout slot dt) s = .next (match w.jfind j.seq with
      | some e => v.refuse e stLOCK_TIMEOUT 2 0
      | none => v) := by
    show execLockTimeout slot dt s = _
    unfold execLockTimeout
    dsimp only
    rw [hw, if_neg (by simp [hr, hhas, hst, hgo, hto])]
    rfl
  have hgone : v.hasInj slot = false := List.any_eq_false.2 fun e he => by
    obtain ⟨-, hne⟩ := List.mem_filter.1 he
    simpa using hne
  have hfree : (v.ent j.entry).st = .free := congrArg Entry.st (State.ent_setEnt_same ..)
  cases hj : w.jfind j.seq with
  | none =>
    rw [hj] at hexec
    exact ⟨v, hexec, hgone, hfree, rfl, nofun⟩
  | some e =>
    rw [hj] at hexec
    have hbeyond : (v.refuse e stLOCK_TIMEOUT 2 0).beyondRings = v.beyondRings := State.beyondRings_finish ..
    have hents : (v.refuse e stLOCK_TIMEOUT 2 0).cmd.ents = v.cmd.ents := State.finish_ents ..
    have hseq : e.seq = j.seq := by simpa using List.find?_some hj
    refine ⟨_, hexec, ?_, ?_, (congrArg State.fecs hbeyond :), fun _ _ => ⟨_, hseq ▸ State.finish_doneAs (x := e) ?_ ..⟩⟩
    · rw [State.hasInj, show (v.refuse e stLOCK_TIMEOUT 2 0).rl = v.rl from (congrArg State.rl hbeyond :)]
      exact hgone
    · rw [State.ent, hents]
      exact hfree
    · exact (congrArg w.jfind hseq).trans hj

/-- The lead-in's end starts the jobs that waited for it (rule R204). -/
theorem exec_leadIn (hu : (s.after dt).rlRun = u) (hr : u.inReset = false) (hst : u.rl.st = .leadIn)
    (hdue : u.rl.el + u.frames256 ≤ u.el) : ∃ t, exec (.leadIn dt) s = .next t ∧ t.rl.st = .active ∧
      (∀ i, (u.inj i).st = .leadIn → t.inj i = u.runJob u.nextFrame (u.inj i)) ∧
      ∀ i, (u.inj i).st ≠ .leadIn → (u.inj i).st ≠ .joining → (u.rl.jobs.filter fun e => e.1 = i).length ≤ 1 →
        t.inj i = u.inj i := by
  obtain ⟨vst, vjobs⟩ := u.injStarts_rl .leadIn u.nextFrame
  refine ⟨(u.injStarts .leadIn u.nextFrame).rlRun, ?_, State.rlRun_active vst, fun i hi => ?_, fun i hi hj hone => ?_⟩
  · show execLeadIn dt s = _
    unfold execLeadIn
    dsimp only
    rw [hu, if_neg (by simp [hr, hst, hdue])]
    rfl
  · have hmem := Tab.jobAt_mem (t := u.rl.jobs) (i := i) (fun h => InjSt.noConfusion (hi.symm.trans h))
    have honly : Tab.Only (Tab.moved .leadIn (u.runJob u.nextFrame) u.rl.jobs u.rl.jobs) i (u.runJob u.nextFrame (u.inj i)) :=
      .moved_of_mem (fun _ => rfl) (.inl rfl) (.inr ⟨_, hmem, rfl, hi⟩)
    exact (State.rlRun_only (vjobs ▸ honly) (fun h => InjSt.noConfusion h)).1
  · have honly := Tab.Only.of_once hone
    have hkept : Tab.Only (Tab.moved .leadIn (u.runJob u.nextFrame) u.rl.jobs u.rl.jobs) i (u.inj i) :=
      honly.moved_of_other fun e he hei => by rwa [honly.2 e he hei]
    exact (State.rlRun_only (vjobs ▸ hkept) hj).1

/-! ### The tail (rules R204, R211) -/

/-- The lane at the end of a tail for which jobs have waited. -/
def State.tailEnds (s : State) : State := { s with rl := { s.rl with
  st := .leadIn, el := s.rl.next,
  jobs := s.rl.jobs.map fun (e : Nat × InjJob) => if e.2.st = .tailWait then (e.1, { e.2 with st := .leadIn }) else e } }

theorem State.inj_tailEnds {s : State} {i : Nat} (h : (s.inj i).st = .tailWait) : s.tailEnds.inj i = { s.inj i with st := .leadIn } := by
  have hmem := Tab.jobAt_mem (t := s.rl.jobs) (i := i) (fun hp => InjSt.noConfusion (h.symm.trans hp))
  refine (Tab.get_map _ _ (fun e => ?_) (List.any_eq_true.2 ⟨_, hmem, beq_self_eq_true i⟩)).trans ?_
  · dsimp only
    split <;> rfl
  · exact congrArg Prod.snd (if_pos h)

section tail

variable (hu : (s.after dt).rlRun = u) (hr : u.inReset = false) (hst : u.rl.st = .tail) (hdue : u.rl.el + u.frames256 ≤ u.el)

include hu hr hst hdue

theorem exec_tail : exec (.tail dt) s = .next (if u.rl.jobs.any fun e => e.2.st == .tailWait then u.tailEnds.rlRun
    else ({ u with rl := { u.rl with st := .idle } } : State).emit (.rlClock false)) := by
  show execTail dt s = _
  unfold execTail
  dsimp only
  rw [hu, if_neg (by simp [hr, hst, hdue])]
  rfl

/-- The end of a tail that no job waits for stops the lane's clock. -/
theorem exec_tail_idle (hnone : ∀ e ∈ u.rl.jobs, e.2.st ≠ .tailWait) :
    exec (.tail dt) s = .next (({ u with rl := { u.rl with st := .idle } } : State).emit (.rlClock false)) := by
  rw [exec_tail hu hr hst hdue, if_neg]
  simpa using hnone

/-- The lead-in of jobs that waited follows the tail at its next frame. -/
theorem exec_tail_leadIn (hsome : ∃ e ∈ u.rl.jobs, e.2.st = .tailWait) (hcalm : ∀ e ∈ u.rl.jobs, e.2.st ≠ .joining) :
    ∃ t, exec (.tail dt) s = .next t ∧ t.rl.st = .leadIn ∧ t.rl.el = u.rl.next ∧
      ∀ i, (u.inj i).st = .tailWait → t.inj i = { u.inj i with st := .leadIn } := by
  obtain ⟨e, he, hwait⟩ := hsome
  have hrun : LaneCalm u.tailEnds u.tailEnds.rlRun := by
    refine LaneCalm.rlRun (fun h => RlSt.noConfusion h) fun x hx => ?_
    obtain ⟨y, hy, rfl⟩ := List.mem_map.1 hx
    split
    · exact fun h => InjSt.noConfusion h
    · exact hcalm y hy
  refine ⟨_, (exec_tail hu hr hst hdue).trans (congrArg _ (if_pos (List.any_eq_true.2 ⟨e, he, by simp [hwait]⟩))), hrun.st, hrun.el,
    fun i hi => (hrun.inj i).trans (State.inj_tailEnds hi)⟩

end tail

end exec

end Sys2Proof.Machine

namespace Sys2Proof.Machine

/-! ### A window's result (rule R209) -/

/-- The measurement is of a lane and a band that the job covers. -/
def State.covers (s : State) (k : Nat) (m : InjMeas) : Prop :=
  (((s.inj k).words.getD 6 0).getLsbD m.lane = true ∧ ((s.inj k).words.getD 6 0).getLsbD (8 + m.band.val) = true) ∧
    ∃ b ∈ s.bandsOf m.lane, b.2 = m.band.val

/-- Where a job's result for a lane and a band is kept. -/
def injKey (m : InjMeas) (k : Nat) : Nat := 64 * k + 8 * m.lane.val + m.band.val

/-- The end of a job's window: the next one begins, and RESULT is raised. -/
def State.windowEnds (s : State) (k : Nat) (j : InjJob) : State :=
  (s.setInj k { j with winHeat := s.heat, spoilt := false, badLanes := 0 }).raise 0x018 16

/-- The end of a window changes the results, the job's window and the interrupt only. -/
theorem State.windowEnds_spec (s : State) (k : Nat) (j : InjJob) (r : Tab InjRes) :
    let t := ({ s with rl := { s.rl with res := r } } : State).windowEnds k j
    (t.inj k = { j with winHeat := s.heat, spoilt := false, badLanes := 0 } ∧
      t.reg 0x018 0x014 = s.reg 0x018 0x014 ||| BitVec.ofNat 32 (2 ^ 16) ∧ RegsKept [addr 0x018 0x014] s t) ∧ t.rl.res = r := by
  intro t
  have hrl : t.rl = (({ s with rl := { s.rl with res := r } } : State).setInj k
      { j with winHeat := s.heat, spoilt := false, badLanes := 0 }).rl := State.raise_rl ..
  have hcell : ∀ a, t.cell a = if a = addr 0x018 0x014 then s.cell a ||| BitVec.ofNat 32 (2 ^ 16) else s.cell a :=
    State.cell_raise (({ s with rl := { s.rl with res := r } } : State).setInj k
      { j with winHeat := s.heat, spoilt := false, badLanes := 0 }) 0x018 16
  refine ⟨⟨?_, (hcell _).trans (if_pos rfl), fun a ha => (hcell a).trans (if_neg (by simpa using ha))⟩, by rw [hrl]; rfl⟩
  rw [State.inj, hrl]
  exact Tab.get_ins_same ..

/-- What the end of slot k's window leaves of a result that stood: FILLED where the window was spoilt or the lane bad, else measured. -/
def State.windowRes (s : State) (k : Nat) (m : InjMeas) (r : InjRes) : InjRes :=
  if (s.inj k).spoilt || (s.inj k).badLanes.getLsbD m.lane then { r with filled := true }
  else { delay := m.delay - signed 32 (bytesNum (s.fec s.injFec).table 0x1C 4), cn0 := m.cn0.toNat, valid := true, filled := false,
         windows := min 0xFFFF (r.windows + 1), heat := s.heat - 1 }

theorem State.windowRes_filled {s : State} {k : Nat} {m : InjMeas} (r : InjRes)
    (h : (s.inj k).spoilt = true ∨ (s.inj k).badLanes.getLsbD m.lane = true) : (s.windowRes k m r).filled = true := by
  rw [State.windowRes, if_pos (by simpa using h)]

theorem State.windowRes_measured {s : State} {k : Nat} {m : InjMeas} (r : InjRes) (h1 : (s.inj k).spoilt = false)
    (h2 : (s.inj k).badLanes.getLsbD m.lane = false) : let y := s.windowRes k m r
    y.valid = true ∧ y.filled = false ∧ y.heat = s.heat - 1 ∧
      y.delay = m.delay - signed 32 (bytesNum (s.fec s.injFec).table 0x1C 4) := by
  rw [State.windowRes, if_neg (by rw [h1, h2]; decide)]
  exact ⟨rfl, rfl, rfl, rfl⟩

/-- A measurement of a lane and a band that the job covers goes to its result. -/
theorem State.injResult_covers {s : State} {k : Nat} {m : InjMeas} (h : s.covers k m) : s.injResult k m =
    { s with rl := { s.rl with
      res := Tab.ins s.rl.res (injKey m k) (s.windowRes k m (Tab.get (fun _ => {}) s.rl.res (injKey m k))) } } := by
  obtain ⟨⟨hlane, hword⟩, b, hb, hband⟩ := h
  have hcover : ((s.bandsOf m.lane).any fun b => b.2 == m.band.val) = true := List.any_eq_true.2 ⟨b, hb, by simp [hband]⟩
  unfold State.injResult
  dsimp only
  rw [if_neg (by rw [hlane, hword, hcover]; decide)]
  rfl

/-- A window of 100 heats that has passed ends with the measurements given. -/
theorem exec_result {slot : Fin 8} {s : State} (hr : s.inReset = false) (hst : (s.inj slot).st = .active)
    (hdue : (s.inj slot).winHeat + 100 ≤ s.heat) {meas : List InjMeas} {r : Tab InjRes}
    (hmeas : meas.foldl (fun s m => s.injResult slot m) s = { s with rl := { s.rl with res := r } }) :
    exec (.result slot meas) s = .next (({ s with rl := { s.rl with res := r } } : State).windowEnds slot (s.inj slot)) := by
  show execResult slot meas s = _
  unfold execResult
  dsimp only
  rw [hmeas, if_neg (by simp [hr, hst, hdue])]
  rfl

/-! ### The family's statement -/

/-- Settles O48: the wait for the lock from how a job enters each state of the lane, the lead-in, a resumption and the tail from the
slots that frames move, and a window's result from the measurement given. -/
theorem injectionJobs : Obligations.InjectionJobs := by
  unfold Obligations.InjectionJobs
  intro slot s dt k w u j lockTo calm runs hw
  obtain ⟨-, -, hreset, -, -⟩ := w.rlRun_time
  have hr : u.inReset = false := hreset.trans hw
  refine ⟨fun hhas hst hgo hto => ?_, fun hhas hst hgo hto => exec_lockTimeout rfl hw hhas hst hgo hto,
    fun hhas hst hgo hlane hnext => exec_pendingLock_suspended rfl hr hhas hgo hst hlane hnext,
    fun hst hdue => exec_leadIn rfl hr hst hdue,
    fun hst hdue => ⟨fun hnone => exec_tail_idle rfl hr hst hdue hnone, fun hsome hcalm => exec_tail_leadIn rfl hr hst hdue hsome hcalm⟩,
    fun hs hst hdue => ⟨?_, fun m hlane hband hcover => ?_⟩⟩
  · let v := u.injAsked k
    have hrl : v.rl = u.rl := u.injAsked_rl k
    have hel : v.el = u.el := u.injAsked_el k
    have hinj : v.inj k = j := by
      rw [State.inj, hrl]
      rfl
    have hjobs : calm → ∀ e ∈ v.rl.jobs, e.2.st ≠ .joining := fun h => by rwa [hrl]
    refine ⟨_, exec_pendingLock rfl hr hhas hgo hst hto, ?_, fun hlane hcalm => ?_, fun hlane hcalm => ?_, fun hlane hnext => ?_,
      fun hlane hnext => ⟨fun hafter => ?_, fun hafter => ?_⟩⟩
    · rw [State.fec_of_fecs ((LaneOnly.injEnter v k).trans (.rlRun _)).fecs, State.injAsked_fec]
      rfl
    · rw [← hel, ← hinj]
      exact State.enters_idle k (hrl ▸ hlane) (hjobs hcalm)
    · rw [← hrl, ← hinj]
      exact State.enters_leadIn k (hrl ▸ hlane) (hjobs hcalm)
    · rw [← hinj]
      exact State.enters_active k (by rwa [hel, hrl]) (hrl ▸ hlane)
    · rw [← hinj]
      exact State.enters_tail_waiting k (by rwa [hel, hrl]) (hrl ▸ hlane) (hinj.symm ▸ hafter)
    · rw [← hinj]
      exact State.enters_tail_ending k (by rwa [hel, hrl]) (hrl ▸ hlane) (hinj.symm ▸ hafter)
  · obtain ⟨hfin, hres⟩ := s.windowEnds_spec k (s.inj k) s.rl.res
    exact ⟨_, exec_result hs hst hdue (meas := []) rfl, hfin, hres⟩
  · have hexec := exec_result hs hst hdue (meas := [m]) (State.injResult_covers ⟨⟨hlane, hband⟩, hcover⟩)
    obtain ⟨hfin, hres⟩ := s.windowEnds_spec k (s.inj k)
      (Tab.ins s.rl.res (injKey m k) (s.windowRes k m (Tab.get (fun _ => {}) s.rl.res (injKey m k))))
    refine ⟨_, hexec, hfin, ?_⟩
    rw [hres, show 64 * k + 8 * m.lane.val + m.band.val = injKey m k from rfl, Tab.get_ins_same]
    exact ⟨State.windowRes_filled _, State.windowRes_measured _⟩

end Sys2Proof.Machine
